-- ==== Sys2Proof/Word.lean ====
section
/-!
DEFINITION. The word types of the LK1 model and the type of a sparse table.
-/
namespace Sys2Proof

/-- One byte of device memory, of a slate, of a descriptor (R13: multi-byte values are little-endian). -/
abbrev Byte := BitVec 8
abbrev W16 := BitVec 16
abbrev W32 := BitVec 32
abbrev W64 := BitVec 64

/-- A table that holds only the entries that differ from its default, keys strictly rising. -/
abbrev Sparse (α : Type) := List (Nat × α)

/-- Device memory, slates and commons: (address, byte) pairs (Host.Cell). An unlisted byte reads 0. -/
abbrev Memory := Sparse Byte

/-- A section, 0 to 3 (R494). -/
abbrev Sec := Fin 4
/-- A ring pair, 0 to 63 (R387). -/
abbrev Pair := Fin 64
/-- A Helzu link, 0 to 35 (R264). -/
abbrev Link := Fin 36

/-- One value for each of the four sections. -/
structure Four (α : Type) where
  s0 : α
  s1 : α
  s2 : α
  s3 : α
  deriving DecidableEq, Repr

/-- The same value in every section. -/
def Four.all {α : Type} (a : α) : Four α := ⟨a, a, a, a⟩

def Four.get {α : Type} (f : Four α) : Sec → α
  | 0 => f.s0
  | 1 => f.s1
  | 2 => f.s2
  | 3 => f.s3

def Four.set {α : Type} (f : Four α) (i : Sec) (a : α) : Four α :=
  match i with
  | 0 => { f with s0 := a }
  | 1 => { f with s1 := a }
  | 2 => { f with s2 := a }
  | 3 => { f with s3 := a }

end Sys2Proof
end

