-- ==== Sys2Proof/Syntax.lean ====
section
/-!
DEFINITION. The commands of the LK1 card: one constructor for each row of the table of operations and events, with what
the command carries in from outside the card.
-/
namespace Sys2Proof

/-- R397: a descriptor and its follow-on slots as the device read them; OPCODE is the constructor's. -/
structure Desc where
  inline : BitVec 8
  cmdId : W16
  flags : BitVec 8
  rsvd : BitVec 24
  fields : BitVec 192
  step : BitVec 256
  follow : List (BitVec 512)
  deriving DecidableEq, Repr

/-- R502: the card view of BAR0, or a section view. -/
inductive View where
  | card
  | sect (s : Sec)
  deriving DecidableEq, Repr

/-- R506: an 8-byte access, or a 4-byte access to one half of a 64-bit register. -/
inductive Part where
  | whole | low | high
  deriving DecidableEq, Repr

/-- R374: the MetaValue of a host CXL.mem request. -/
inductive Meta where
  | i | s | a
  deriving DecidableEq, Repr

/-- R266: the fields of a flit but its TYPE, which is the constructor's, and its CRC, which is correct. -/
structure Flit where
  seq : BitVec 12
  space : BitVec 3
  late : Bool
  ack : BitVec 12
  dest : W16
  src : W16
  tag : W16
  frame : Byte
  len : Byte
  payload : BitVec 1920
  deriving DecidableEq, Repr

/-- R269: a link unit that arrives; `flight` is t_rx − t_tx of R281, in 1/16 ns; `fixed` and `lost` count the RS codewords
that the port has corrected and found uncorrectable since the link unit before (R288). -/
structure Unit256 where
  intact : Bool
  cycle : W32
  echo : W32
  turn : W32
  acks : BitVec 80
  state : Byte
  flight : W32
  fixed : Nat
  lost : Nat
  deriving DecidableEq, Repr

/-- R285, R286: what the warden reads from a cable assembly: its CMIS identity, the qualification record, the wear counters
of its user EEPROM, and the module's temperature in °C. -/
structure CableRec where
  serial : W64
  vendor : BitVec 128
  part : BitVec 128
  lengthCm : Nat
  valid : Bool
  namesCard : Bool
  powerMw : Nat
  poh : Nat
  ratedPoh : Nat
  matings : Nat
  ratedMatings : Nat
  retrains : Nat
  uncorrectable : Nat
  maxTemp : Int
  temp : Int
  deriving DecidableEq, Repr

/-- R475, R478: who makes a Redfish request: a client whose certificate key is enrolled for a role, or nobody the
warden knows. The operator carries the slot of its key. -/
inductive Client where
  | none
  | operator (slot : Fin 8)
  | installer
  | maker
  deriving DecidableEq, Repr

/-- R475, R476, R481: the actions that a Redfish request may ask for: one for each row of Table 17.5, a subscription to
the events of Table 17.4, and the answer of a subscriber that has received its oldest event. -/
inductive Action where
  | readStatus
  | readRecords (s : Option Sec)
  | subscribe (on : Bool)
  | eventReceived
  | returnToService
  | assignRelease
  | timeWindowFabric
  | switchDomains (headers : Bool) (value : W32)
  | readAudit
  | readKeys
  | diagnostics
  deriving DecidableEq, Repr

/-- R479: a signed enrolment request. -/
inductive Enrol where
  | installerKey (x y : BitVec 384)
  | operatorKey (slot : Fin 8) (x y : BitVec 384) (mask : BitVec 4)
  | revoke (slot : Fin 8)
  deriving DecidableEq, Repr

/-- R477: a PLDM request: discovery, a read of a sensor or FRU record, or a set command. -/
inductive Pldm where
  | discovery | sensor (k : Nat) | cardState | fru | set
  deriving DecidableEq, Repr

/-- R495: the target of a scrub. -/
inductive Scrub where
  | cluster (c : Fin 16)
  | slice (die : Fin 2) (k : Fin 16)
  deriving DecidableEq, Repr

/-- R417: where a bad SRAM word is met, with the engine that reads it; a block of a block store has 16 lines. -/
inductive SramSite where
  | slate (core : Fin 128) (line : Nat) (engine : Fin 556)
  | commons (slice : Fin 32) (line : Nat) (engine : Fin 556)
  | accumulator (core : Fin 128) (row : Fin 2048) (col : Fin 128) (engine : Fin 556)
  | blockStore (l : Link) (coll block : Nat) (line : Fin 16)
  | programStore (core : Fin 128)
  | replayBuffer (l : Link)
  deriving DecidableEq, Repr

/-- R417: a word of an SRAM that is bad when it is read; `fixed` says that its code corrects it. -/
structure SramWord where
  site : SramSite
  fixed : Bool
  deriving DecidableEq, Repr

/-- R378: a BIRsp of a line; `crossing` says that a MemWr of the line is still on its way. -/
structure BirspIn where
  line : W64
  crossing : Bool
  deriving DecidableEq, Repr

/-- R276, R288: a link that has lost FEC or alignment lock, with the RS codewords found uncorrectable since the link unit
before. -/
structure FecLoss where
  link : Link
  lost : Nat
  deriving DecidableEq, Repr

/-- R285: a header and its measured draw. -/
structure Overcurrent where
  header : Fin 9
  drawMw : Nat
  deriving DecidableEq, Repr

/-- R487: the bytes of a firmware package and its signature. -/
structure Package where
  bytes : List Byte
  r : BitVec 384
  s : BitVec 384
  deriving DecidableEq, Repr

/-- R194: what a patrol-scrub read of a granule finds. -/
inductive ScrubFind where
  | clean | corrected (sectors : Nat) | uncorrectable
  deriving DecidableEq, Repr

/-- One constructor for each row of the table of operations and events. `recordClear` numbers the record registers in the
order of R545: 0 ERR_OVR, 1 ERR_XPND, 2 ERR_MEM, 3 GROVE_ERR, 4 HIF_ERR, 5 ERR_STEP, 6 ERR_LOSS, 7 ERR_DEPART, 8
FAB_RCRES, 9 TRACE_DIV. Host lines are host physical addresses; `off` is an offset within a byte array; a 4-byte write
carries its data in the low half of `data`. -/
inductive Instr where
  | nop (p : Pair) (d : Desc)
  | fence (p : Pair) (d : Desc)
  | fenceCompletion (p : Pair)
  | loadImage (p : Pair) (d : Desc)
  | unloadImage (p : Pair) (d : Desc)
  | run (p : Pair) (d : Desc)
  | repeatRun (p : Pair) (d : Desc)
  | runStart (s : Sec)
  | microBatchStart (s : Sec)
  | runCompletion (s : Sec)
  | grove (p : Pair) (d : Desc)
  | groveStart (s : Sec)
  | groveCompletion (s : Sec)
  | migrate (p : Pair) (d : Desc)
  | preferCanopy (p : Pair) (d : Desc)
  | preferUnder (p : Pair) (d : Desc)
  | pin (p : Pair) (d : Desc)
  | unpin (p : Pair) (d : Desc)
  | willneed (p : Pair) (d : Desc)
  | cold (p : Pair) (d : Desc)
  | checkpoint (p : Pair) (d : Desc)
  | checkpointCopyStart (s : Sec)
  | trancheDigestWrite (s : Sec)
  | inlineWrite (p : Pair) (d : Desc)
  | seed (p : Pair) (d : Desc)
  | timeMark (p : Pair) (d : Desc)
  | timeMarkAtFrame (s : Sec)
  | reshard (p : Pair) (d : Desc)
  | reshardStart (s : Sec)
  | drain (p : Pair) (d : Desc)
  | drainTakesEffect (s : Sec)
  | queryStep (p : Pair) (d : Desc)
  | queryPage (p : Pair) (d : Desc)
  | queryLoad (p : Pair) (d : Desc)
  | reservedOpcode (p : Pair) (op : BitVec 8) (d : Desc)
  | doorbellReread (p : Pair) (sqTail cqHead : W32)
  | completionRecordWrite (s : Sec)
  | snpData (line : W64)
  | snpInv (line : W64)
  | snpCur (line : W64)
  | goWritePull (line : W64)
  | goWritePullDrop (line : W64)
  | memRd (hpa : W64) (m : Meta)
  | memWr (hpa : W64) (m : Meta) (data : BitVec 512) (poison : Bool)
  | memWrPtl (hpa : W64) (m : Meta) (data : BitVec 512) (enable : W64) (poison : Bool)
  | memInv (hpa : W64)
  | inboundBufferDrain (lines : Nat)
  | backInvalidateRecall (s : Sec)
  | birsp (r : BirspIn)
  | birspOverdue (line : W64)
  | configurationWrite (rid : W16)
  | cxlIoMemoryRequest (rid : W16) (posted : Bool)
  | hostLinkTraining (speed : BitVec 4) (width : BitVec 5) (cacheEn memEn : Bool)
  | dlDown
  | secondaryBusReset
  | d3hotEntry
  | perst
  | hdmDecoderCommit (k : Fin 2) (base : W64) (ways : Nat)
  | msixUnmask (p : Pair)
  | misalignedAccess (addr : BitVec 25) (bytes : Nat) (write : Bool)
  | registerWrite (addr : BitVec 25) (wide : Bool) (data : W64)
  | timeNowRead (ns : W64) (frac : W32)
  | timeBellEpochWrite (v : View) (data : W64)
  | timeBellPeriodWrite (v : View) (data : W64)
  | timeCtrlWrite (v : View) (part : Part) (data : W64)
  | errNflagClear (v : View) (s : Sec) (n : Fin 556) (mask : BitVec 5)
  | recordClear (v : View) (r : BitVec 4) (s : Sec) (valid : Bool)
  | sectCtlClustersWrite (v : View) (s : Sec) (data : W32)
  | release (v : View) (s : Sec) (data : W32)
  | sectionScrubDone (s : Sec)
  | sectCommonsWrite (v : View) (s : Sec) (data : W32)
  | sectOwncmd (v : View) (wide : Bool) (data : W64)
  | sectSlotWrite (v : View) (off : BitVec 12) (wide : Bool) (data : W64)
  | memBlkcfgWrite (v : View) (off : W16) (wide : Bool) (data : W64)
  | blockFillComplete (b : Fin 40960)
  | groveBlkmodeWrite (v : View) (off : BitVec 13) (wide : Bool) (data : W64)
  | memMrgnWrite (v : View) (s : Sec) (i : Fin 16) (part : Part) (data : W64)
  | sectRoleWrite (v : View) (s : Sec) (data : W32)
  | fabLctlWrite (v : View) (part : Part) (data : W64)
  | fabRccfgWrite (v : View) (s : Sec) (data : W32)
  | hifWinctlWrite (v : View) (s : Sec) (data : W32)
  | hifDirWrite (v : View) (s : Sec) (part : Part) (data : W64)
  | ringEnable (v : View) (p : Pair) (data : W32)
  | ringDisable (v : View) (p : Pair) (data : W32)
  | traceRlcfgWrite (v : View) (s : Sec) (part : Part) (data : W64)
  | traceRccfgWrite (v : View) (s : Sec) (part : Part) (data : W64)
  | traceTcfgWrite (v : View) (s : Sec) (part : Part) (data : W64)
  | pwrCdozeWrite (v : View) (s : Sec) (data : W32)
  | pwrMdozeWrite (v : View) (data : W32)
  | pwrHdrWrite (v : View) (data : W32)
  | auditAckWrite (v : View) (part : Part) (data : W64)
  | challenge (v : View) (role : BitVec 2)
  | submit (v : View)
  | close (v : View)
  | mailboxDrain (v : View)
  | mailboxReturn (v : View)
  | sessionTimeout
  | clusterScrubComplete (t : Scrub)
  | tick
  | guardBand
  | syncMessage (gm : W64) (domain : BitVec 8) (offset : W32)
  | syncTimeout
  | holdoverLimit
  | bundleIssue (core : Fin 128)
  | bundleRetire (core : Fin 128) (k : Nat)
  | arrangementSwitch (core : Fin 128)
  | chunkRequest (core : Fin 128) (stream : Fin 256)
  | chunkFilled (core : Fin 128) (stream : Fin 256)
  | linkUnitSend (l : Link)
  | flitSend (l : Link) (slot : Fin 50)
  | linkUnit (l : Link) (u : Unit256)
  | dataFlit (l : Link) (f : Flit)
  | tokenFlit (l : Link) (f : Flit)
  | collFlit (l : Link) (f : Flit)
  | rollcallFlit (l : Link) (f : Flit)
  | timeFlit (l : Link) (f : Flit) (arrivalNs : W64) (arrivalFrac : W32)
  | mgmtFlit (l : Link) (f : Flit)
  | drainFlit (l : Link) (f : Flit)
  | departFlit (l : Link) (f : Flit)
  | corruptedFlit (l : Link)
  | replayTimeout (l : Link) (space : Fin 5)
  | fecLockLoss (e : FecLoss)
  | presenceChange (h : Fin 9) (present : Bool)
  | phyTraining (l : Link)
  | delayMeasurement (l : Link)
  | linkStateLimit (l : Link)
  | cableDelayUpdate (l : Link)
  | headerOvercurrent (e : Overcurrent)
  | powerOnHour (h : Fin 9)
  | rollcallContribution (s : Sec)
  | rollcallLevelSend (s : Sec)
  | rollcallCombine (s : Sec)
  | rollcallResultSend (s : Sec)
  | rollcallResult (s : Sec)
  | rollcallReturn (s : Sec)
  | pageSwitch (page : W64)
  | patrolScrub (granule : BitVec 40) (r : ScrubFind)
  | sramUncorrectable (e : SramWord)
  | logEntryWrite (s : Sec)
  | replayComparison (s : Sec)
  | traceRecordWrite (s : Sec)
  | clusterDoze (c : Fin 16)
  | clusterWake (c : Fin 16)
  | tierWakeComplete (bridge : Bool)
  | assembly
  | assemblyComplete
  | assemblyTimeout
  | cardDrain
  | departSend
  | sentryKick (word : W64)
  | sentryDeadline
  | heartbeat (data : BitVec 128)
  | powerFailure
  | holdUpEnd
  | inputOvervoltage (mv : W16)
  | railOvercurrent (k : Fin 41) (amps : W16)
  | thermalLimit (k : Fin 16) (reading : W16)
  | redfishRequest (who : Client) (a : Action)
  | redfishDrain (who : Client)
  | exportAcknowledgement (who : Client) (seq : W64)
  | keyEnrolment (byMaker : Bool) (r s : BitVec 384) (e : Enrol)
  | firmwareStage (who : Client) (version : BitVec 6) (namesCard : Bool) (package : Package)
  | eventRetryExpiry
  | pldmRequest (q : Pldm)
  | present (heldMs : Nat)
  | boot (activeOk otherOk : Bool)
  | measure (mv : W16) (inlet outlet : W16)
  | memory (ok : Bool)
  | core (answersOk : Bool)
  | links
  | cmisIdentityRead (h : Fin 9) (c : CableRec)
  deriving DecidableEq, Repr

end Sys2Proof
end

