-- ==== Sys2Proof/Config.lean ====
section
/-!
DEFINITION. The free values of the model: what the manual leaves open, as constants with no body.
Nothing in Lean can evaluate one of them or prove a value of it.
-/
namespace Sys2Proof.Config

/-- R480: the 48-byte nonce of the n-th challenge (log entry 10). -/
opaque nonce : Nat → BitVec 384

/-- R472: the self-check word that the sentry expects (log entry 10). -/
opaque selfCheck : BitVec 64

/-- R258, R408, R428, R434: whether a stopped command had made its k-th granule write when it stopped;
the first argument is the stop's number (log entry 11). -/
opaque writtenAtStop : Nat → Nat → Bool

/-- R52: the FP32 value that stepping A1 returns for a function of R39 (first argument: the function's number) on an FP32
input that is no special input of Table 1.11, where that value lies within 2 ulp of the exact one (log entry 12). -/
opaque a1Function : Nat → BitVec 32 → BitVec 32

/-- R369, R372: what host memory holds of a line when the device takes it by its n-th RdOwn (log entry 8). -/
opaque hostLine : Nat → Nat → BitVec 512

/-- R484, R485: the action code of the Crader registry for a role action of the given kind; the manual gives only
LOG_START = 0x0001 (log entry 10). -/
opaque actionCode : Nat → BitVec 16

/-- R484: RESULT of the audit entry of a refused register write or Redfish action; the manual says only that it is the
refusal reason (log entry 10). -/
opaque refusalReason : BitVec 32

/-- R479: the bytes that the signature of an enrolment request covers, for a request numbered by its fields; the manual
gives the request no layout (log entry 10). -/
opaque enrolMessage : Nat → List Nat

/-- R475, R486, R487: the HTTP code of a request that a role may make and that the warden does not carry out: 0 no such
service, 1 the audit log is full, 2 the request's own rules refuse it (log entry 10). -/
opaque httpRefusal : Nat → Nat

/-- R84, Table 15.2: the physical core that an assembly's failure names when the model sees no core that has not arrived
(log entry 10). -/
opaque lateCore : BitVec 64

/-- R477: the part of a PLDM answer that the manual leaves to the standards it names (log entry 10). -/
opaque pldmAnswer : Nat → BitVec 64

/-- R109, R112, R155: the image offset, from PROGRAM_OFF, of the bundles that fill the program store of a logical core
(argument); the manual gives the store and the region header, and not where the bundles stand (log entry 17). -/
opaque storeOffset : Nat → Nat

/-- R146: the K-tile that a pass over a window activation takes, for a bundle (its index in the store) at the given trip
indices; the manual numbers the K-tiles and does not say what names the one of a pass (log entry 49). -/
opaque windowTile : Nat → Int → Int → Int → Int → Nat

/-- R80, R122: what a byte of a buffer that a stopped RUN discards reads as: the first argument is the stop's number, the
second the byte's key (log entry 29). -/
opaque discarded : Nat → Nat → BitVec 8

/-- R111: a field of the 16-byte channel-table entry (second argument): 0 direction (1 output), 1 partner core,
2 partner logical ID, 3 tile bytes, 4 buffer depth, 5 slate offset, 6 partner channel. The manual names the fields and
gives no layout (log entry 18). -/
opaque channelField : Nat → BitVec 128 → Nat

/-- R111, R267: how a token or a tile leaves for another card: for channel (second argument) of a logical core (first),
0 the link, 1 the TAG, 2 the payload of the TOKEN flit that posts a tile, 3 that of the one that returns a buffer. The
manual gives these flits no layout (log entry 18). -/
opaque tokenFlit : Nat → Nat → Nat → Nat

/-- R111, R267: what a TOKEN flit (TAG, payload) says: the logical core, the channel (0-7 input: a tile is valid; 8-15
output: a buffer is free) (log entry 18). -/
opaque tokenOf : W16 → BitVec 1920 → Fin 128 × Fin 16

/-- R267: where the first byte of a DATA flit (TAG, payload) lands: a logical core and a slate address (log entry 18). -/
opaque dataPlace : W16 → BitVec 1920 → Fin 128 × Fin 3145728

/-- R266, R280, R430: DEST (0), SRC (1) and TAG (2) of the control flits of a TYPE, keyed 4 × TYPE + field, where the
manual gives no value (log entry 18). -/
opaque flitHead : Nat → BitVec 16

/-- R421: whether the digests that a repeat RUN forms at its admission are not complete at the tick before its start frame; the
argument is the command's read order. The manual reads their bytes in class 2, whose share of a frame it does not fix (log
entry 50). -/
opaque digestsLate : Nat → Bool

end Sys2Proof.Config
end

