-- ==== Sys2Proof/Machine/Num.lean ====
section
/-!
DEFINITION. Numbers (01_numbers.md): the format codes, exact values, decoding, rounding and the numeric flags.
A value is held exactly as (-1)^neg * m * 2^e; every arithmetic result is formed exactly and rounded once.
-/
namespace Sys2Proof.Machine

/-- The five numeric flags of Table 1.12: bit 0 NX, 1 UF, 2 OF, 3 NV, 4 FZ. -/
abbrev NumFlags := BitVec 5

def fNone : NumFlags := 0
def fNX : NumFlags := 1
def fUF : NumFlags := 2
def fOF : NumFlags := 4
def fNV : NumFlags := 8
def fFZ : NumFlags := 16

/-- The formats of Table 1.1, and the MX element formats of Table 1.2. -/
inductive Fmt where
  | fp32 | fp16 | bf16 | e4m3 | e5m2 | e2m3 | e3m2 | e2m1
  deriving DecidableEq, Repr

/-- Format codes of Table 1.1. -/
inductive Code where
  | fp (f : Fmt)          -- 0x00-0x04
  | mx (f : Fmt)          -- 0x08-0x0C
  | mxint8                -- 0x0D
  | int8 | int32          -- 0x10, 0x11
  deriving DecidableEq, Repr

/-- R12, Table 1.1: the format of a code; `none` for a reserved code. -/
def codeOf : Nat → Option Code
  | 0x00 => some (.fp .fp32)
  | 0x01 => some (.fp .fp16)
  | 0x02 => some (.fp .bf16)
  | 0x03 => some (.fp .e4m3)
  | 0x04 => some (.fp .e5m2)
  | 0x08 => some (.mx .e4m3)
  | 0x09 => some (.mx .e5m2)
  | 0x0A => some (.mx .e2m3)
  | 0x0B => some (.mx .e3m2)
  | 0x0C => some (.mx .e2m1)
  | 0x0D => some .mxint8
  | 0x10 => some .int8
  | 0x11 => some .int32
  | _ => none

/-- Width of an element in bits (Table 1.2). -/
def fmtBits : Fmt → Nat
  | .fp32 => 32 | .fp16 => 16 | .bf16 => 16 | .e4m3 => 8 | .e5m2 => 8
  | .e2m3 => 6 | .e3m2 => 6 | .e2m1 => 4

/-- Width of an element in bits (Table 1.1). -/
def codeBits : Code → Nat
  | .fp f => fmtBits f
  | .mx f => fmtBits f
  | .mxint8 => 8
  | .int8 => 8
  | .int32 => 32

def codeIsMx : Code → Bool
  | .mx _ => true
  | .mxint8 => true
  | _ => false

def fmtMant : Fmt → Nat
  | .fp32 => 23 | .fp16 => 10 | .bf16 => 7 | .e4m3 => 3 | .e5m2 => 2
  | .e2m3 => 3 | .e3m2 => 2 | .e2m1 => 1

def fmtBias : Fmt → Int
  | .fp32 => 127 | .fp16 => 15 | .bf16 => 127 | .e4m3 => 7 | .e5m2 => 15
  | .e2m3 => 1 | .e3m2 => 3 | .e2m1 => 1

/-- The encoding of the largest finite magnitude (Table 1.2). -/
def fmtMaxMag : Fmt → Nat
  | .fp32 => 0x7F7FFFFF | .fp16 => 0x7BFF | .bf16 => 0x7F7F | .e4m3 => 0x7E | .e5m2 => 0x7B
  | .e2m3 => 0x1F | .e3m2 => 0x1F | .e2m1 => 0x7

/-- The canonical NaN of Table 1.3 (the 6-bit and 4-bit formats have none: their largest finite is given). -/
def fmtNan : Fmt → Nat
  | .fp32 => 0x7FC00000 | .fp16 => 0x7E00 | .bf16 => 0x7FC0 | .e4m3 => 0x7F | .e5m2 => 0x7E
  | f => fmtMaxMag f

/-- The positive infinity, where the format has one (Table 1.2). -/
def fmtInf : Fmt → Option Nat
  | .fp32 => some 0x7F800000 | .fp16 => some 0x7C00 | .bf16 => some 0x7F80 | .e5m2 => some 0x7C
  | _ => none

/-- R43: only binary32, binary16 and bfloat16 are flushed. -/
def fmtFlushes : Fmt → Bool
  | .fp32 => true | .fp16 => true | .bf16 => true | _ => false

/-- An exact value: NaN, an infinity, or (-1)^neg * m * 2^e. -/
inductive Val where
  | nan
  | inf (neg : Bool)
  | fin (neg : Bool) (m : Nat) (e : Int)
  deriving DecidableEq, Repr

def valZero : Val := .fin false 0 0

def valIsNan : Val → Bool
  | .nan => true | _ => false
def valIsInf : Val → Bool
  | .inf _ => true | _ => false
def valIsFin : Val → Bool
  | .fin _ _ _ => true | _ => false
def valIsZero : Val → Bool
  | .fin _ 0 _ => true | _ => false
def valNeg : Val → Bool
  | .nan => false | .inf n => n | .fin n _ _ => n
def valNegate : Val → Val
  | .nan => .nan | .inf n => .inf (!n) | .fin n m e => .fin (!n) m e
def valAbs : Val → Val
  | .nan => .nan | .inf _ => .inf false | .fin _ m e => .fin false m e

/-- R14, R15, Table 1.2: the value an encoding stands for. -/
def decodeFmt (f : Fmt) (x : Nat) : Val :=
  let w := fmtBits f
  let mb := fmtMant f
  let neg := (x >>> (w - 1)) % 2 == 1
  let mag := x % 2 ^ (w - 1)
  let ex := mag >>> mb
  let m := mag % 2 ^ mb
  if fmtInf f == some mag then .inf neg
  else if fmtMaxMag f < mag then .nan
  else if ex == 0 then .fin neg m (1 - fmtBias f - mb)
  else .fin neg (2 ^ mb + m) ((ex : Int) - fmtBias f - mb)

/-- The value is subnormal in the format: nonzero and below the smallest normal. -/
def fmtSubnormal (f : Fmt) (x : Nat) : Bool :=
  let mag := x % 2 ^ (fmtBits f - 1)
  mag != 0 && mag >>> fmtMant f == 0

/-- What the numeric rules need to know of an engine: its flush mode bit (R43) and the stepping (R52). -/
structure Eng where
  flush : Bool
  a1 : Bool
  deriving DecidableEq, Repr

/-- R43, R52: an engine reads an input; a subnormal is flushed in flush mode (FZ, which A1 does not set). -/
def readIn (c : Eng) (f : Fmt) (x : Nat) : Val × NumFlags :=
  if c.flush && fmtFlushes f && fmtSubnormal f x then
    (.fin (valNeg (decodeFmt f x)) 0 0, if c.a1 then fNone else fFZ)
  else (decodeFmt f x, fNone)

/-- A rounding mode: nearest even (R28), or stochastic with a 16-bit draw (R29). -/
inductive Rm where
  | rne
  | sr (r : Nat)
  deriving DecidableEq, Repr

/-- m * 2^sh for a shift of either sign, truncated below. -/
def shiftInt (m : Nat) (sh : Int) : Nat :=
  match sh with
  | .ofNat k => m <<< k
  | .negSucc k => m >>> (k + 1)

/-- a ≤ b as magnitudes m * 2^e. -/
def magLe (m1 : Nat) (e1 : Int) (m2 : Nat) (e2 : Int) : Bool :=
  let e := min e1 e2
  m1 <<< (e1 - e).toNat ≤ m2 <<< (e2 - e).toNat

/-- The result of rounding a magnitude to a grid: the multiple of 2^u, whether inexact. -/
def roundGrid (rm : Rm) (m : Nat) (e u : Int) : Nat × Bool :=
  if u ≤ e then (m <<< (e - u).toNat, false)
  else
    let sh := (u - e).toNat
    let lo := m >>> sh
    let rem := m % 2 ^ sh
    let up : Bool := match rm with
      | .rne => 2 ^ sh < 2 * rem || (2 * rem == 2 ^ sh && lo % 2 == 1)
      | .sr r => 65536 ≤ (rem * 65536) / 2 ^ sh + r
    if rem == 0 then (lo, false) else (if up then lo + 1 else lo, true)

/-- Rounding of a nonzero finite magnitude to a format with no bound on the exponent above (R28, R29):
the magnitude's encoding (it may exceed the largest finite), whether inexact, whether tiny before rounding. -/
def roundMag (f : Fmt) (rm : Rm) (m : Nat) (e : Int) : Nat × Bool × Bool :=
  let emin : Int := 1 - fmtBias f
  let ex : Int := (m.log2 : Int) + e
  let eb := max ex emin
  let u := eb - fmtMant f
  let (sig, inx) := roundGrid rm m e u
  ((eb + fmtBias f - 1).toNat <<< fmtMant f |>.add sig, inx, ex < emin)

/-- R28, R29: whether a rounded magnitude overflows. -/
def overflows (f : Fmt) (rm : Rm) (m : Nat) (e : Int) (mag : Nat) : Bool :=
  match f, rm with
  | .e4m3, .rne => magLe 464 0 m e
  | _, .rne => fmtMaxMag f < mag
  | _, .sr _ =>
    match decodeFmt f (fmtMaxMag f) with
    | .fin _ mm me => !(magLe m e mm me)
    | _ => false

def withSign (f : Fmt) (neg : Bool) (mag : Nat) : Nat :=
  if neg then mag + 2 ^ (fmtBits f - 1) else mag

/-- Table 1.7, finite overflow. -/
def overflowed (f : Fmt) (sat neg : Bool) : Nat × NumFlags :=
  let fl := fOF ||| fNX
  match f with
  | .e4m3 => if sat then (withSign f neg 0x7E, fl) else (fmtNan f, fl)
  | .e5m2 => if sat then (withSign f neg 0x7B, fl) else (withSign f neg 0x7C, fl)
  | _ => (withSign f neg ((fmtInf f).getD (fmtMaxMag f)), fl)

/-- R25, R28, R29, R43, Table 1.7: an exact value rounded once to a format. `sat` matters for FP8 only. -/
def roundTo (c : Eng) (f : Fmt) (rm : Rm) (sat : Bool) (v : Val) : Nat × NumFlags :=
  match v with
  | .nan => (fmtNan f, fNone)
  | .inf neg =>
    match f with
    | .e4m3 => if sat then (withSign f neg 0x7E, fOF ||| fNX) else (fmtNan f, fNV)
    | _ => (withSign f neg ((fmtInf f).getD (fmtMaxMag f)), fNone)
  | .fin neg 0 _ => (withSign f neg 0, fNone)
  | .fin neg m e =>
    let (mag, inx, tiny) := roundMag f rm m e
    if c.flush && fmtFlushes f && tiny then (withSign f neg 0, fFZ ||| fUF ||| fNX)
    else if overflows f rm m e mag then overflowed f sat neg
    else (withSign f neg mag,
          (if inx then fNX else fNone) ||| (if inx && tiny then fUF else fNone))

/-- Rounding to binary32 nearest even, as every accumulation rounds (R30). -/
def round32 (c : Eng) (v : Val) : Nat × NumFlags := roundTo c .fp32 .rne false v

/-- Table 1.6: the exact widenings. -/
def widens (src dst : Fmt) : Bool :=
  match src, dst with
  | .fp16, .fp32 => true
  | .bf16, .fp32 => true
  | .e4m3, .fp16 => true | .e4m3, .bf16 => true | .e4m3, .fp32 => true
  | .e5m2, .fp16 => true | .e5m2, .bf16 => true | .e5m2, .fp32 => true
  | _, _ => false

/-- R24, R25: a conversion between floating-point formats. A widening of Table 1.6 flushes its input only. -/
def convertFp (c : Eng) (src dst : Fmt) (rm : Rm) (sat : Bool) (x : Nat) : Nat × NumFlags :=
  let (v, f1) := readIn c src x
  if widens src dst then
    let (y, _) := roundTo { c with flush := false } dst .rne sat v
    (y, f1)
  else
    let (y, f2) := roundTo c dst rm sat v
    (y, f1 ||| f2)

/-- Exact sum of two finite values, with the zero signs of Table 1.9. -/
def addFin (n1 : Bool) (m1 : Nat) (e1 : Int) (n2 : Bool) (m2 : Nat) (e2 : Int) : Val :=
  let e := min e1 e2
  let a : Int := (m1 <<< (e1 - e).toNat : Nat)
  let b : Int := (m2 <<< (e2 - e).toNat : Nat)
  let s := (if n1 then -a else a) + (if n2 then -b else b)
  if s == 0 then .fin (n1 && n2 && m1 == 0 && m2 == 0) 0 0
  else .fin (s < 0) s.natAbs e

/-- R33-R36: the exact sum, NV where the infinities cancel (Table 1.10). -/
def valAdd (a b : Val) : Val × NumFlags :=
  match a, b with
  | .nan, _ => (.nan, fNone)
  | _, .nan => (.nan, fNone)
  | .inf n1, .inf n2 => if n1 == n2 then (.inf n1, fNone) else (.nan, fNV)
  | .inf n, .fin _ _ _ => (.inf n, fNone)
  | .fin _ _ _, .inf n => (.inf n, fNone)
  | .fin n1 m1 e1, .fin n2 m2 e2 => (addFin n1 m1 e1 n2 m2 e2, fNone)

/-- R36: the exact product, NV for 0 times an infinity. -/
def valMul (a b : Val) : Val × NumFlags :=
  match a, b with
  | .nan, _ => (.nan, fNone)
  | _, .nan => (.nan, fNone)
  | .inf n1, .inf n2 => (.inf (n1 != n2), fNone)
  | .inf n1, .fin n2 m _ => if m == 0 then (.nan, fNV) else (.inf (n1 != n2), fNone)
  | .fin n1 m _, .inf n2 => if m == 0 then (.nan, fNV) else (.inf (n1 != n2), fNone)
  | .fin n1 m1 e1, .fin n2 m2 e2 => (.fin (n1 != n2) (m1 * m2) (e1 + e2), fNone)

/-- R36: a fused multiply-add a * b + d, exact; an invalid product sets NV whatever the addend. -/
def valFma (a b d : Val) : Val × NumFlags :=
  let (p, f1) := valMul a b
  let (s, f2) := valAdd p d
  (s, f1 ||| f2)

/-- A quotient cut below to many bits, its last bit sticky, so that one rounding of it is the rounding of x / y. -/
def quotFin (n1 : Bool) (m1 : Nat) (e1 : Int) (n2 : Bool) (m2 : Nat) (e2 : Int) : Val :=
  let k := 160 + m2.log2
  let num := m1 <<< k
  let q := num / m2
  .fin (n1 != n2) (2 * q + (if num % m2 == 0 then 0 else 1)) (e1 - e2 - k - 1)

/-- R36, R39, R40, Table 1.11: division x / y. -/
def valDiv (a b : Val) : Val × NumFlags :=
  match a, b with
  | .nan, _ => (.nan, fNone)
  | _, .nan => (.nan, fNone)
  | .inf _, .inf _ => (.nan, fNV)
  | .inf n1, .fin n2 _ _ => (.inf (n1 != n2), fNone)
  | .fin n1 _ _, .inf n2 => (.fin (n1 != n2) 0 0, fNone)
  | .fin n1 m1 e1, .fin n2 m2 e2 =>
    if m2 == 0 then (if m1 == 0 then (.nan, fNV) else (.inf (n1 != n2), fOF))
    else if m1 == 0 then (.fin (n1 != n2) 0 0, fNone)
    else (quotFin n1 m1 e1 n2 m2 e2, fNone)

/-- Ordered comparison a < b of numbers (R38); false with a NaN. -/
def valLt (a b : Val) : Bool :=
  match a, b with
  | .nan, _ => false
  | _, .nan => false
  | .inf n1, .inf n2 => n1 && !n2
  | .inf n, .fin _ _ _ => n
  | .fin _ _ _, .inf n => !n
  | .fin n1 m1 e1, .fin n2 m2 e2 =>
    let e := min e1 e2
    let x : Int := (m1 <<< (e1 - e).toNat : Nat)
    let y : Int := (m2 <<< (e2 - e).toNat : Nat)
    decide ((if n1 then -x else x) < (if n2 then -y else y))

/-- IEEE equality: −0 equals +0; false with a NaN (R38). -/
def valEq (a b : Val) : Bool :=
  !valIsNan a && !valIsNan b && !valLt a b && !valLt b a

/-- R37: maximumNumber; max(−0, +0) = +0. -/
def valMax (a b : Val) : Val :=
  match a, b with
  | .nan, b => b
  | a, .nan => a
  | a, b => if valLt a b then b else if valLt b a then a else if valNeg a then b else a

/-- R37: minimumNumber; min(−0, +0) = −0. -/
def valMin (a b : Val) : Val :=
  match a, b with
  | .nan, b => b
  | a, .nan => a
  | a, b => if valLt a b then a else if valLt b a then b else if valNeg a then a else b

/-- R26: conversion to a w-bit two's-complement integer: nearest even or truncation; a value beyond the range saturates
with NV, and with NX by Table 1.12. "Beyond the integer range" is judged of the rounded integer, so 127.4 to INT8 gives
127 with NX alone (log entry 43, DEDUCED). -/
def valToInt (w : Nat) (trunc : Bool) (v : Val) : Nat × NumFlags :=
  let top : Nat := 2 ^ (w - 1) - 1
  match v with
  | .nan => (0, fNV)
  | .inf neg => (if neg then 2 ^ (w - 1) else top, fNV ||| fNX)
  | .fin neg m e =>
    let (q, inx) := if trunc then
        (shiftInt m e, if e < 0 then decide (m % 2 ^ (-e).toNat ≠ 0) else false)
      else roundGrid .rne m e 0
    if neg then
      if top + 1 < q then (2 ^ (w - 1), fNV ||| fNX)
      else ((2 ^ w - q) % 2 ^ w, if inx then fNX else fNone)
    else if top < q then (top, fNV ||| fNX)
    else (q, if inx then fNX else fNone)

/-- The value of a w-bit two's-complement integer (R23). -/
def intVal (w : Nat) (x : Nat) : Val :=
  let x := x % 2 ^ w
  if 2 ^ (w - 1) ≤ x then .fin true (2 ^ w - x) 0 else .fin false x 0

/-- R31, Table 1.8: one round of Philox-4x32. -/
def philoxRound (c : Nat × Nat × Nat × Nat) (k : Nat × Nat) : Nat × Nat × Nat × Nat :=
  let p0 := 0xD2511F53 * c.1
  let p1 := 0xCD9E8D57 * c.2.2.1
  let hi (x : Nat) := (x >>> 32) % 2 ^ 32
  let lo (x : Nat) := x % 2 ^ 32
  ((hi p1 ^^^ c.2.1) ^^^ k.1, lo p1, (hi p0 ^^^ c.2.2.2) ^^^ k.2, lo p0)

def philoxRounds : Nat → Nat × Nat × Nat × Nat → Nat × Nat → Nat × Nat × Nat × Nat
  | 0, c, _ => c
  | n + 1, c, k =>
    philoxRounds n (philoxRound c k) ((k.1 + 0x9E3779B9) % 2 ^ 32, (k.2 + 0xBB67AE85) % 2 ^ 32)

/-- What a draw depends on besides the element index: job seed, step index, tensor ID (R31, R32). -/
structure Draw where
  seed : Nat
  step : Nat
  tensor : Nat
  deriving DecidableEq, Repr

/-- R31: the 16-bit draw of element `i`, purpose 0 rounding, 1 dropout. -/
def draw16 (d : Draw) (purpose i : Nat) : Nat :=
  let c0 := (i / 8) % 2 ^ 32
  let c1 := (d.tensor % 2 ^ 24) * 256 + (purpose % 8) * 32 + (i >>> 35) % 32
  let c2 := d.step % 2 ^ 32
  let c3 := (d.step >>> 32) % 2 ^ 32
  let x := philoxRounds 10 (c0, c1, c2, c3) (d.seed % 2 ^ 32, (d.seed >>> 32) % 2 ^ 32)
  let j := i % 8
  let w := match j / 2 with
    | 0 => x.1 | 1 => x.2.1 | 2 => x.2.2.1 | _ => x.2.2.2
  if j % 2 == 0 then w % 65536 else (w >>> 16) % 65536

/-- The rounding mode of a narrowing point: its RM field (0 nearest even, 1 stochastic) for element `i` (R30). -/
def rmOf (stochastic : Bool) (d : Draw) (i : Nat) : Rm :=
  if stochastic then .sr (draw16 d 0 i) else .rne

end Sys2Proof.Machine
end

