-- ==== Sys2Proof/Machine/Fun.lean ====
section
/-!
DEFINITION. The functions of R39: division, square root, exp2, log2, reciprocal, reciprocal square root and tanh.
Each ordinary result is cut below to far more bits than binary32 holds, with a sticky last bit, so that one rounding
of it is the rounding of the exact mathematical result (log entry 14).
-/
namespace Sys2Proof.Machine

/-- ln 2 times 2^320, cut below. -/
def ln2Fix : Nat := 0xb17217f7d1cf79abc9e3b39803f2f6af40f343267298b62d8a0d175b8baafa2be7b876206debac98

/-- Horner's rule for the exponential series at t / 2^256: 1 + t/1 (1 + t/2 (1 + ...)). -/
def expHorner : Nat → Nat → Nat → Nat
  | 0, _, acc => acc
  | n + 1, t, acc => expHorner n t (2 ^ 256 + (t * acc) / (2 ^ 256 * (n + 1)))

/-- exp(t / 2^256) * 2^256 for 0 ≤ t < 2^256. -/
def expFix (t : Nat) : Nat := expHorner 70 t (2 ^ 256)

/-- A magnitude cut below, its last bit set because the exact value lies strictly above the cut. -/
def stickyVal (neg : Bool) (m : Nat) (e : Int) : Val := .fin neg (2 * m + 1) (e - 1)

/-- 2^x for x = (-1)^neg * m * 2^e, not an integer; |x| < 512. -/
def exp2Fix (neg : Bool) (m : Nat) (e : Int) : Val :=
  let x : Int := shiftInt m (e + 256)
  let xs : Int := if neg then -x else x
  let n := xs.fdiv (2 ^ 256 : Nat)
  let f := (xs - n * (2 ^ 256 : Nat)).toNat
  stickyVal false (expFix ((f * ln2Fix) >>> 320)) (n - 256)

/-- R39, Table 1.11: exp2. -/
def valExp2 (v : Val) : Val × NumFlags :=
  match v with
  | .nan => (.nan, fNone)
  | .inf neg => (if neg then valZero else .inf false, fNone)
  | .fin neg m e =>
    if m == 0 then (.fin false 1 0, fNone)
    else if magLe 512 0 m e then
      -- far outside the binary32 range: any value beyond it rounds alike
      (if neg then stickyVal false 1 (-600) else stickyVal false 1 600, fNone)
    else
      let x := shiftInt m e
      if e ≥ 0 || m % 2 ^ (-e).toNat == 0 then
        (.fin false 1 (if neg then -(x : Int) else x), fNone)
      else (exp2Fix neg m e, fNone)

/-- Bits of log2 of y / 2^320 for 1 ≤ y / 2^320 < 2, most significant first. -/
def log2Bits : Nat → Nat → Nat → Nat
  | 0, _, acc => acc
  | n + 1, y, acc =>
    let z := (y * y) >>> 320
    if z < 2 ^ 321 then log2Bits n z (2 * acc) else log2Bits n (z / 2) (2 * acc + 1)

/-- R39, Table 1.11: log2. -/
def valLog2 (v : Val) : Val × NumFlags :=
  match v with
  | .nan => (.nan, fNone)
  | .inf neg => if neg then (.nan, fNV) else (.inf false, fNone)
  | .fin neg m e =>
    if m == 0 then (.inf true, fOF)
    else if neg then (.nan, fNV)
    else
      let n : Int := (m.log2 : Int) + e
      if m == 2 ^ m.log2 then (.fin (n < 0) n.natAbs 0, fNone)
      else
        let y := if m.log2 ≤ 320 then m <<< (320 - m.log2) else m >>> (m.log2 - 320)
        let r : Int := n * (2 ^ 160 : Nat) + (log2Bits 160 y 0 : Nat)
        if r < 0 then (stickyVal true (r.natAbs - 1) (-160), fNone)
        else (stickyVal false r.natAbs (-160), fNone)

/-- R39, Table 1.11: the reciprocal. -/
def valRecip (v : Val) : Val × NumFlags :=
  match v with
  | .nan => (.nan, fNone)
  | .inf neg => (.fin neg 0 0, fNone)
  | .fin neg m e =>
    if m == 0 then (.inf neg, fOF) else (quotFin false 1 0 neg m e, fNone)

/-- The integer square root by Newton's steps from above, with fuel. -/
def sqrtNewton : Nat → Nat → Nat → Nat
  | 0, _, x => x
  | k + 1, n, x =>
    let y := (x + n / x) / 2
    if y < x then sqrtNewton k n y else x

def isqrt (n : Nat) : Nat :=
  if n == 0 then 0 else sqrtNewton (n.log2 + 2) n (2 ^ (n.log2 / 2 + 1))

/-- R39, R36: the square root; sqrt(−0) = −0. -/
def valSqrt (v : Val) : Val × NumFlags :=
  match v with
  | .nan => (.nan, fNone)
  | .inf neg => if neg then (.nan, fNV) else (.inf false, fNone)
  | .fin neg m e =>
    if m == 0 then (.fin neg 0 0, fNone)
    else if neg then (.nan, fNV)
    else
      let sh : Nat := 128 + (e % 2).toNat
      let n := m <<< sh
      let q := isqrt n
      let e2 : Int := (e - sh) / 2
      (.fin false (2 * q + (if q * q == n then 0 else 1)) (e2 - 1), fNone)

/-- R39, Table 1.11: the reciprocal square root. -/
def valRsqrt (v : Val) : Val × NumFlags :=
  match v with
  | .nan => (.nan, fNone)
  | .inf neg => if neg then (.nan, fNV) else (valZero, fNone)
  | .fin neg m e =>
    if m == 0 then (.inf neg, fOF)
    else if neg then (.nan, fNV)
    else
      let m2 := m <<< (e % 2).toNat
      let e2 : Int := (e - e % 2) / 2
      let k := m2.log2 / 2 + 80
      let q := isqrt (2 ^ (2 * k) / m2)
      (.fin false (2 * q + (if q * q * m2 == 2 ^ (2 * k) then 0 else 1)) (-e2 - k - 1), fNone)

/-- tanh of x / 2^256, for a magnitude from 2^-40 to 16: (E - 1) / (E + 1) with E = exp(2 x). -/
def tanhFix (neg : Bool) (x : Nat) : Val :=
  let t := 2 * x
  let n := (t <<< 64) / ln2Fix
  let r := t - ((n * ln2Fix) >>> 64)
  let E := (expFix r) <<< n
  let num := (E - 2 ^ 256) <<< 256
  stickyVal neg (num / (E + 2 ^ 256)) (-256)

/-- R39, Table 1.11: tanh. -/
def valTanh (v : Val) : Val × NumFlags :=
  match v with
  | .nan => (.nan, fNone)
  | .inf neg => (.fin neg 1 0, fNone)
  | .fin neg m e =>
    if m == 0 then (.fin neg 0 0, fNone)
    else if magLe 16 0 m e then (stickyVal neg (2 ^ 100 - 1) (-100), fNone)
    else if magLe m e 1 (-40) then (stickyVal neg (m * 2 ^ 70 - 1) (e - 70), fNone)
    else (tanhFix neg (shiftInt m (e + 256)), fNone)

/-- The binary32 functions of a lane group, a grove unit or a fabric reduction engine. -/
inductive Fn where
  | sqrt | exp2 | log2 | recip | rsqrt | tanh
  deriving DecidableEq, Repr

/-- A special input or an exact case of Table 1.11 (NaN, infinities and zeros; negative operands of roots and log2). -/
def fnSpecial (fn : Fn) (v : Val) : Bool :=
  match fn, v with
  | .log2, .fin neg _ _ => neg || valIsZero v
  | .rsqrt, .fin neg _ _ => neg || valIsZero v
  | .tanh, _ => !valIsFin v || valIsZero v
  | .recip, _ => !valIsFin v || valIsZero v
  | _, .fin _ _ _ => false
  | _, _ => true

def fnIndex : Fn → Nat
  | .sqrt => 0 | .exp2 => 1 | .log2 => 2 | .recip => 3 | .rsqrt => 4 | .tanh => 5

def fnExact (fn : Fn) (v : Val) : Val × NumFlags :=
  match fn with
  | .sqrt => valSqrt v | .exp2 => valExp2 v | .log2 => valLog2 v
  | .recip => valRecip v | .rsqrt => valRsqrt v | .tanh => valTanh v

/-- R52: a finite value z lies within 2 ulp of the exact result y. -/
def within2Ulp (y z : Val) : Bool :=
  match y, z with
  | .fin _ m e, .fin _ _ _ =>
    match (valAdd z (valNegate y)).1 with
    | .fin _ d k => magLe d k 2 (max ((m.log2 : Int) + e) (-126) - 23)
    | _ => false
  | _, _ => false

/-- R39, R52: a binary32 function of a binary32 input, with the flushes of R43. On A1 the five functions that are not
correctly rounded return, on an ordinary input whose result neither overflows nor is flushed, a free value within 2 ulp of
the exact result (log entry 12); the square root is the same on both. -/
def fn32 (c : Eng) (fn : Fn) (x : Nat) : Nat × NumFlags :=
  let (v, f1) := readIn c .fp32 x
  let (y, f2) := fnExact fn v
  let (r, f3) := round32 c y
  let z := (Config.a1Function (fnIndex fn) (BitVec.ofNat 32 x)).toNat
  if c.a1 && fn != .sqrt && !fnSpecial fn v && f3 &&& (fOF ||| fFZ) == 0 && within2Ulp y (decodeFmt .fp32 z) then
    (z, f1 ||| f2 ||| f3)
  else (r, f1 ||| f2 ||| f3)

/-- A binary operation on binary32 inputs: exact, then one rounding. -/
def op32 (c : Eng) (op : Val → Val → Val × NumFlags) (x y : Nat) : Nat × NumFlags :=
  let (a, f1) := readIn c .fp32 x
  let (b, f2) := readIn c .fp32 y
  let (v, f3) := op a b
  let (r, f4) := round32 c v
  (r, f1 ||| f2 ||| f3 ||| f4)

def add32 (c : Eng) (x y : Nat) : Nat × NumFlags := op32 c valAdd x y
def sub32 (c : Eng) (x y : Nat) : Nat × NumFlags := op32 c (fun a b => valAdd a (valNegate b)) x y
def mul32 (c : Eng) (x y : Nat) : Nat × NumFlags := op32 c valMul x y
def div32 (c : Eng) (x y : Nat) : Nat × NumFlags := op32 c valDiv x y

/-- R37: max and min set no flag of their own; the inputs are read under flush mode. -/
def max32 (c : Eng) (x y : Nat) : Nat × NumFlags := op32 c (fun a b => (valMax a b, fNone)) x y
def min32 (c : Eng) (x y : Nat) : Nat × NumFlags := op32 c (fun a b => (valMin a b, fNone)) x y

/-- A fused multiply-add x * y + z with one rounding. -/
def fma32 (c : Eng) (x y z : Nat) : Nat × NumFlags :=
  let (a, f1) := readIn c .fp32 x
  let (b, f2) := readIn c .fp32 y
  let (d, f3) := readIn c .fp32 z
  let (v, f4) := valFma a b d
  let (r, f5) := round32 c v
  (r, f1 ||| f2 ||| f3 ||| f4 ||| f5)

end Sys2Proof.Machine
end

