-- ==== Sys2Proof/Machine/Mx.lean ====
section
/-!
DEFINITION. Microscaling blocks (R17-R22), dequantisation (R25), conversions by format code, block products (R34) and
the three-pass split (R41, R42).
-/
namespace Sys2Proof.Machine

/-- Table 1.4: emax of an element format. -/
def mxEmax : Code → Int
  | .mx .e4m3 => 8 | .mx .e5m2 => 15 | .mx .e3m2 => 4 | .mx .e2m3 => 2 | .mx .e2m1 => 2
  | _ => 0

/-- Multiplication of an exact value by 2^k. -/
def valScale (v : Val) (k : Int) : Val :=
  match v with
  | .fin n m e => .fin n m (e + k)
  | v => v

/-- R14, R15, R20: the value of an element code. -/
def elemVal (k : Code) (x : Nat) : Val :=
  match k with
  | .fp f => decodeFmt f x
  | .mx f => decodeFmt f x
  | .mxint8 => valScale (intVal 8 x) (-6)
  | .int8 => intVal 8 x
  | .int32 => intVal 32 x

/-- R17: element `x` of a block with scale byte `s`. -/
def mxVal (k : Code) (s x : Nat) : Val :=
  if s == 0xFF then .nan else valScale (elemVal k x) ((s : Int) - 127)

/-- The last line of R21: one element rounded, clamped to the largest finite of its format; its flags by R22. -/
def mxElem (k : Code) (rm : Rm) (v : Val) : Nat × NumFlags :=
  match v with
  | .fin neg 0 _ =>
    match k with
    | .mx f => (withSign f neg 0, fNone)
    | _ => (0, fNone)
  | .fin neg m e =>
    match k with
    | .mx f =>
      let (mag, inx, _) := roundMag f rm m e
      let top := fmtMaxMag f
      let mag2 := if overflows f rm m e mag then top else min mag top
      (withSign f neg mag2,
        (if inx || mag2 != mag then fNX else fNone) ||| (if mag2 == 0 then fUF else fNone))
    | _ =>
      let (q, inx) := roundGrid rm m e (-6)
      let q2 := if magLe m e 127 (-6) then min q 127 else 127
      (if neg then (256 - q2) % 256 else q2,
        (if inx || q2 != q then fNX else fNone) ||| (if q2 == 0 then fUF else fNone))
  | _ => (0, fNone)

/-- The larger of two finite magnitudes. -/
def magMax (a : Nat × Int) (v : Val) : Nat × Int :=
  match v with
  | .fin _ m e => if magLe m e a.1 a.2 then a else (m, e)
  | _ => a

/-- R21, R22: 32 source values to one MX block: the scale byte, the elements and the flags. -/
def quantBlock (k : Code) (rm : Nat → Rm) (vs : List Val) : Nat × List Nat × NumFlags :=
  if vs.any (fun v => !valIsFin v) then (0xFF, vs.map (fun _ => 0), fNV)
  else
    let amax := vs.foldl magMax (0, 0)
    if amax.1 == 0 then (0x7F, vs.map (fun _ => 0), fNone)
    else
      let x : Int := max ((amax.1.log2 : Int) + amax.2 - mxEmax k) (-127)
      let es := vs.mapIdx (fun i v => mxElem k (rm i) (valScale v (-x)))
      ((x + 127).toNat, es.map (·.1), es.foldl (fun f e => f ||| e.2) fNone)

/-- R25: an MX element dequantised to a floating-point format by one rounding of the exact product. -/
def dequant (c : Eng) (k : Code) (s x : Nat) (dst : Fmt) (rm : Rm) (sat : Bool) : Nat × NumFlags :=
  roundTo c dst rm sat (mxVal k s x)

/-- An element of a plain (not MX) format read under the engine's flush mode (R43). -/
def readCode (c : Eng) (k : Code) (x : Nat) : Val × NumFlags :=
  match k with
  | .fp f => readIn c f x
  | k => (elemVal k x, fNone)

/-- R25, R27: INT32 to a floating-point format: nearest even but for FP8; a magnitude above 65,504 overflows binary16,
also where it would round to 65,504. -/
def int32To (c : Eng) (g : Fmt) (rm : Rm) (sat : Bool) (x : Nat) : Nat × NumFlags :=
  let v := intVal 32 x
  match g, v with
  | .fp16, .fin neg m _ => if 65504 < m then overflowed .fp16 sat neg else roundTo c .fp16 .rne sat v
  | g, v => roundTo c g (if fmtBits g == 8 then rm else .rne) sat v

/-- R24-R27: a conversion between two formats of Table 1.1 that are not MX. `trunc` serves conversions to integers. -/
def convertCode (c : Eng) (src dst : Code) (rm : Rm) (sat trunc : Bool) (x : Nat) : Nat × NumFlags :=
  match src, dst with
  | .fp f, .fp g => convertFp c f g rm sat x
  | .fp f, .int8 => let (v, f1) := readIn c f x; let (y, f2) := valToInt 8 trunc v; (y, f1 ||| f2)
  | .fp f, .int32 => let (v, f1) := readIn c f x; let (y, f2) := valToInt 32 trunc v; (y, f1 ||| f2)
  | .int8, .int32 => ((match intVal 8 x with | .fin true m _ => (2 ^ 32 - m) % 2 ^ 32 | .fin _ m _ => m | _ => 0), fNone)
  | .int32, .int8 => (x % 256, fNone)
  | .int8, .fp g =>
    if fmtBits g == 8 then roundTo c g rm sat (intVal 8 x)
    else ((roundTo { c with flush := false } g .rne sat (intVal 8 x)).1, fNone)
  | .int32, .fp g => int32To c g rm sat x
  | _, _ => (x, fNone)

/-- R33: one step of a matrix-array sum: an exact product added to the binary32 accumulator. -/
def macStep (c : Eng) (acc : Nat × NumFlags) (a b : Val) : Nat × NumFlags :=
  let (p, f1) := valMul a b
  let (z, f2) := readIn c .fp32 acc.1
  let (s, f3) := valAdd z p
  let (r, f4) := round32 c s
  (r, acc.2 ||| f1 ||| f2 ||| f3 ||| f4)

/-- R34: the exact sum of the products of a pair of blocks; every term is finite. The sum starts at +0, so that a block
whose 32 products are all −0 contributes +0 (log entry 48, DESIGN CHOICE). -/
def dotExact (as bs : List Val) : Val × NumFlags :=
  (as.zip bs).foldl (fun acc ab =>
    let (p, f1) := valMul ab.1 ab.2
    let (s, f2) := valAdd acc.1 p
    (s, acc.2 ||| f1 ||| f2)) (valZero, fNone)

/-- R34: a pair of MX blocks, given as scaled elements: the exact sum rounded to binary32 and added to the accumulator.
A block with scale 0xFF reads as NaN (R17). -/
def mxStep (c : Eng) (acc : Nat × NumFlags) (as bs : List Val) : Nat × NumFlags :=
  let (d, f1) := dotExact as bs
  let (p, f2) := round32 c d
  let (z, f3) := readIn c .fp32 acc.1
  let (s, f4) := valAdd z (decodeFmt .fp32 p)
  let (r, f5) := round32 c s
  (r, acc.2 ||| f1 ||| f2 ||| f3 ||| f4 ||| f5)

/-- binary32 to bfloat16 toward zero, as the split of R41 does; no flag. -/
def truncBf16 (v : Val) : Val :=
  match v with
  | .fin neg m e =>
    if m == 0 then v
    else
      let u := max ((m.log2 : Int) + e - 7) (-133)
      if u ≤ e then v else .fin neg (m >>> (u - e).toNat) u
  | v => v

/-- R41: the three bfloat16 parts hi, mid, lo of a binary32 value; the split sets no flag. -/
def split3 (v : Val) : Val × Val × Val :=
  if valIsFin v then
    let hi := truncBf16 v
    let r1 := (valAdd v (valNegate hi)).1
    let mid := truncBf16 r1
    let r2 := (valAdd r1 (valNegate mid)).1
    let lo := decodeFmt .bf16 (roundTo ⟨false, false⟩ .bf16 .rne false r2).1
    (hi, mid, lo)
  else (v, valZero, valZero)

/-- R42, R43: a bfloat16 part read as an input of a product; a subnormal part is flushed in flush mode. -/
def partIn (c : Eng) (v : Val) : Val × NumFlags :=
  match v with
  | .fin n m e =>
    if c.flush && m != 0 && decide ((m.log2 : Int) + e < -126) then (.fin n 0 0, if c.a1 then fNone else fFZ)
    else (v, fNone)
  | v => (v, fNone)

def macPart (c : Eng) (acc : Nat × NumFlags) (a b : Val) : Nat × NumFlags :=
  let (x, f1) := partIn c a
  let (y, f2) := partIn c b
  let (r, f3) := macStep c acc x y
  (r, f1 ||| f2 ||| f3)

/-- R42: the six products of one pair, smallest weight first; hi by hi alone when an operand is not finite. -/
def mac3 (c : Eng) (acc : Nat × NumFlags) (a b : Val) : Nat × NumFlags :=
  if valIsFin a && valIsFin b then
    let (ah, am, al) := split3 a
    let (bh, bm, bl) := split3 b
    let acc := macPart c acc al bh
    let acc := macPart c acc ah bl
    let acc := macPart c acc am bm
    let acc := macPart c acc am bh
    let acc := macPart c acc ah bm
    macPart c acc ah bh
  else macStep c acc (split3 a).1 (split3 b).1

end Sys2Proof.Machine
end

