-- ==== Sys2Proof/Machine/Cbd.lean ====
section
/-!
DEFINITION. Crader Block Delta blocks (R310-R314, R149, R151): 256 bfloat16 values in 8 to 520 bytes.
Values are natural numbers below 65,536; bytes are natural numbers below 256.
-/
namespace Sys2Proof.Machine

/-- Little-endian value of a byte string (R13). -/
def leNat : List Nat → Nat
  | [] => 0
  | b :: bs => b % 256 + 256 * leNat bs

/-- The n low bytes of a value, little-endian (R13). -/
def leBytes : Nat → Nat → List Nat
  | 0, _ => []
  | n + 1, x => x % 256 :: leBytes n (x / 256)

/-- The exponent field of a bfloat16 value. -/
def bfExp (x : Nat) : Nat := (x >>> 7) % 256

/-- A bit string under construction: its value and its length, fields appended least significant bit first (R311). -/
abbrev BitStr := Nat × Nat

def bitsPut (s : BitStr) (w x : Nat) : BitStr := (s.1 + (x % 2 ^ w) <<< s.2, s.2 + w)

/-- R311, R312: a run of z zeros as tokens of at most 16. -/
def cbdRun : Nat → Nat → BitStr → BitStr
  | 0, _, s => s
  | fuel + 1, z, s =>
    if z == 0 then s
    else if 16 ≤ z then cbdRun fuel (z - 16) (bitsPut s 5 (1 + 2 * 15))
    else bitsPut s 5 (1 + 2 * (z - 1))

/-- R311: one value token with delta width w. -/
def cbdValue (base w x : Nat) (s : BitStr) : BitStr :=
  let s := bitsPut s 1 0
  let s := bitsPut s 1 (x >>> 15)
  let s := bitsPut s 7 x
  let c := base - bfExp x
  if w == 0 then s
  else if w == 8 then bitsPut s 8 c
  else if c < 2 ^ w - 1 then bitsPut s w c
  else bitsPut (bitsPut s w (2 ^ w - 1)) 8 (bfExp x)

/-- R312: the whole token string for delta width w; `z` counts the zeros waiting. -/
def cbdString (base w : Nat) : List Nat → Nat → BitStr → BitStr
  | [], z, s => cbdRun 17 z s
  | x :: xs, z, s =>
    if x == 0 then cbdString base w xs (z + 1) s
    else cbdString base w xs 0 (cbdValue base w x (cbdRun 17 z s))

/-- R312: the legal width with the shortest string, the lowest on a tie. -/
def cbdBest (base : Nat) (vs : List Nat) (flat : Bool) : Nat × BitStr :=
  let cand : List (Nat × BitStr) := (List.range 9).filterMap (fun w =>
    if w == 0 && !flat then none else some (w, cbdString base w vs 0 (0, 0)))
  match cand with
  | [] => (8, (0, 0))
  | c :: cs => cs.foldl (fun (b x : Nat × BitStr) => if x.2.2 < b.2.2 then x else b) c

/-- Table 10.6: the header word. -/
def cbdHeader (enc len8 a b : Nat) : Nat := enc <<< 28 + len8 <<< 21 + a <<< 13 + b <<< 9

/-- R312: lossless compression of 256 values. -/
def cbdLossless (vs : List Nat) : List Nat :=
  if vs.all (· == 0) then leBytes 4 (cbdHeader 0 1 0 0) ++ [0, 0, 0, 0]
  else
    let nz := vs.filter (· != 0)
    let base := nz.foldl (fun m x => max m (bfExp x)) 0
    let flat := nz.all (fun x => bfExp x == base)
    let (w, s) := cbdBest base vs flat
    let len8 := (4 + (s.2 + 7) / 8 + 7) / 8
    if 64 < len8 then
      leBytes 4 (cbdHeader 2 65 0 0) ++ vs.flatMap (leBytes 2) ++ [0, 0, 0, 0]
    else leBytes 4 (cbdHeader 1 len8 base w) ++ leBytes (len8 * 8 - 4) s.1

/-- The code of an MX format, as in Table 1.1. -/
def mxOfCode (n : Nat) : Option Code :=
  match codeOf n with
  | some (.mx f) => some (.mx f)
  | _ => none

/-- LEN8 of an MX block (Table 10.6). -/
def mxLen8 (k : Code) : Nat :=
  match codeBits k with
  | 8 => 34 | 6 => 26 | _ => 18

/-- Packed elements of w bits (R18). -/
def packElems (w : Nat) : List Nat → Nat
  | [] => 0
  | e :: es => e % 2 ^ w + (packElems w es) <<< w

def unpackElems (w : Nat) : Nat → Nat → List Nat
  | 0, _ => []
  | n + 1, x => x % 2 ^ w :: unpackElems w n (x >>> w)

/-- The list cut into pieces of n elements, at most `fuel` of them. -/
def chunks {α : Type} : Nat → Nat → List α → List (List α)
  | 0, _, _ => []
  | fuel + 1, n, xs => if xs.isEmpty then [] else xs.take n :: chunks fuel n (xs.drop n)

/-- R313, R21: lossy MX compression of 256 values read in to format code `code`; rm is the rounding mode by element. -/
def cbdMxOf (code : Nat) (k : Code) (rm : Nat → Rm) (ins : List (Val × NumFlags)) : List Nat × NumFlags :=
  let qs : List (Nat × List Nat × NumFlags) := (chunks 8 32 ins).mapIdx (fun j run =>
    let (s, es, f) := quantBlock k (fun i => rm (32 * j + i)) (run.map (·.1))
    (s, es, run.foldl (fun (a : NumFlags) (b : Val × NumFlags) => a ||| b.2) f))
  let w := codeBits k
  (leBytes 4 (cbdHeader 3 (mxLen8 k) code 0) ++ qs.map (·.1) ++ qs.flatMap (fun q => leBytes (4 * w) (packElems w q.2.1))
     ++ [0, 0, 0, 0],
   qs.foldl (fun a q => a ||| q.2.2) fNone)

/-- R313: lossy MX compression of 256 bfloat16 values. -/
def cbdMx (c : Eng) (code : Nat) (k : Code) (vs : List Nat) : List Nat × NumFlags :=
  cbdMxOf code k (fun _ => .rne) (vs.map (readIn c .bf16))

/-- R312: the compressor. `lossy` names the MX format code of lossy mode. -/
def cbdCompress (c : Eng) (lossy : Option Nat) (vs : List Nat) : List Nat × NumFlags :=
  match lossy with
  | none => (cbdLossless vs, fNone)
  | some code =>
    match mxOfCode code with
    | some k => cbdMx c code k vs
    | none => (cbdLossless vs, fNone)

/-- R311, R314: decode tokens until n values are out; `none` where the string is malformed. -/
def cbdTokens (base w : Nat) (body : Nat) (total : Nat) : Nat → Nat → Nat → List Nat → Option (List Nat × Nat)
  | 0, _, _, _ => none
  | fuel + 1, left, pos, acc =>
    if left == 0 then some (acc.reverse, pos)
    else
      let get (p k : Nat) : Nat := (body >>> p) % 2 ^ k
      if get pos 1 == 1 then
        let n := get (pos + 1) 4 + 1
        if total < pos + 5 || left < n then none
        else cbdTokens base w body total fuel (left - n) (pos + 5) (List.replicate n 0 ++ acc)
      else
        let sign := get (pos + 1) 1
        let m := get (pos + 2) 7
        let c := get (pos + 9) w
        let esc := decide (1 ≤ w ∧ w ≤ 7) && c == 2 ^ w - 1
        let len := 9 + w + (if esc then 8 else 0)
        let e := if esc then get (pos + 9 + w) 8 else base - c
        let x := sign * 32768 + e * 128 + m
        if total < pos + len || x == 0 || (!esc && base < c) ||
            (esc && decide (e ≤ base ∧ base - e < 2 ^ w - 1)) then none
        else cbdTokens base w body total fuel (left - 1) (pos + len) (x :: acc)

/-- R314: the 256 values of a lossless DELTA block, or `none` where it is malformed. -/
def cbdDelta (h len8 : Nat) (body : Nat) : Option (List Nat) :=
  let base := (h >>> 13) % 256
  let w := (h >>> 9) % 16
  let total := (len8 * 8 - 4) * 8
  if 8 < w || 64 < len8 || len8 == 0 || h % 512 != 0 then none
  else
    match cbdTokens base w body total 257 256 0 [] with
    | none => none
    | some (vs, pos) =>
      if body >>> pos != 0 || len8 != (4 + (pos + 7) / 8 + 7) / 8 ||
          !(vs.any (fun x => x != 0 && bfExp x == base)) then none
      else some vs

/-- R149, R302, R313: the values of a lossy block, each rounded once to the format asked for; `none` where it is
malformed. -/
def cbdMxExpand (c : Eng) (dst : Fmt) (h len8 : Nat) (body : List Nat) : Option (List Nat × NumFlags) :=
  match mxOfCode ((h >>> 13) % 256) with
  | none => none
  | some k =>
    let w := codeBits k
    if len8 != mxLen8 k || h % 8192 != 0 || (body.drop (8 + 32 * w)).any (· != 0) then none
    else
      let planes := chunks 8 (4 * w) (body.drop 8)
      let out := ((body.take 8).zip planes).flatMap (fun sp =>
        (unpackElems w 32 (leNat sp.2)).map (fun x => dequant c k sp.1 x dst .rne false))
      some (out.map (·.1), out.foldl (fun a p => a ||| p.2) fNone)

/-- A header's block length in bytes. -/
def cbdLen (h : Nat) : Nat := ((h >>> 21) % 128) * 8

/-- R149, R151, R314: expansion of the block that fills the given bytes to 256 values of a format (bfloat16 or
binary32), with flags, and whether it was malformed (then 256 canonical NaN values and NV). -/
def cbdExpandTo (c : Eng) (dst : Fmt) (bs : List Nat) : List Nat × NumFlags × Bool :=
  let bad : List Nat × NumFlags × Bool := (List.replicate 256 (fmtNan dst), fNV, true)
  let plain (vs : List Nat) : List Nat × NumFlags × Bool :=
    if dst == .bf16 then (vs, fNone, false)
    else
      let ys := vs.map (convertFp c .bf16 dst .rne false)
      (ys.map (·.1), ys.foldl (fun a y => a ||| y.2) fNone, false)
  let h := leNat (bs.take 4)
  let len8 := (h >>> 21) % 128
  let body := bs.drop 4
  if bs.length != len8 * 8 || len8 == 0 then bad
  else
    match h >>> 28 with
    | 0 => if len8 == 1 && h % 2 ^ 21 == 0 && body.all (· == 0) then plain (List.replicate 256 0) else bad
    | 1 => match cbdDelta h len8 (leNat body) with
      | some vs => plain vs
      | none => bad
    | 2 => if len8 == 65 && h % 2 ^ 21 == 0 && (body.drop 512).all (· == 0) then
        plain ((chunks 256 2 (body.take 512)).map leNat) else bad
    | 3 => match cbdMxExpand c dst h len8 body with
      | some (vs, f) => (vs, f, false)
      | none => bad
    | _ => bad

/-- Expansion to bfloat16, as the operand port does it. -/
def cbdExpand (c : Eng) (bs : List Nat) : List Nat × NumFlags × Bool := cbdExpandTo c .bf16 bs

end Sys2Proof.Machine
end

