-- ==== Sys2Proof/Machine/Sha.lean ====
section
/-!
DEFINITION. SHA-384 (R68, R71, R398, R484: digests of images, slots and audit entries) over a list of bytes, and CRC-32C
(R421, R436). The constants are those of the standard the manual names (FIPS 180-4).
-/
namespace Sys2Proof.Machine

def shaMod : Nat := 2 ^ 64

def shaK1 : List Nat :=
  [0x428A2F98D728AE22, 0x7137449123EF65CD, 0xB5C0FBCFEC4D3B2F, 0xE9B5DBA58189DBBC,
   0x3956C25BF348B538, 0x59F111F1B605D019, 0x923F82A4AF194F9B, 0xAB1C5ED5DA6D8118,
   0xD807AA98A3030242, 0x12835B0145706FBE, 0x243185BE4EE4B28C, 0x550C7DC3D5FFB4E2,
   0x72BE5D74F27B896F, 0x80DEB1FE3B1696B1, 0x9BDC06A725C71235, 0xC19BF174CF692694,
   0xE49B69C19EF14AD2, 0xEFBE4786384F25E3, 0x0FC19DC68B8CD5B5, 0x240CA1CC77AC9C65,
   0x2DE92C6F592B0275, 0x4A7484AA6EA6E483, 0x5CB0A9DCBD41FBD4, 0x76F988DA831153B5,
   0x983E5152EE66DFAB, 0xA831C66D2DB43210, 0xB00327C898FB213F, 0xBF597FC7BEEF0EE4,
   0xC6E00BF33DA88FC2, 0xD5A79147930AA725, 0x06CA6351E003826F, 0x142929670A0E6E70,
   0x27B70A8546D22FFC, 0x2E1B21385C26C926, 0x4D2C6DFC5AC42AED, 0x53380D139D95B3DF,
   0x650A73548BAF63DE, 0x766A0ABB3C77B2A8, 0x81C2C92E47EDAEE6, 0x92722C851482353B]

def shaK2 : List Nat :=
  [0xA2BFE8A14CF10364, 0xA81A664BBC423001, 0xC24B8B70D0F89791, 0xC76C51A30654BE30,
   0xD192E819D6EF5218, 0xD69906245565A910, 0xF40E35855771202A, 0x106AA07032BBD1B8,
   0x19A4C116B8D2D0C8, 0x1E376C085141AB53, 0x2748774CDF8EEB99, 0x34B0BCB5E19B48A8,
   0x391C0CB3C5C95A63, 0x4ED8AA4AE3418ACB, 0x5B9CCA4F7763E373, 0x682E6FF3D6B2B8A3,
   0x748F82EE5DEFB2FC, 0x78A5636F43172F60, 0x84C87814A1F0AB72, 0x8CC702081A6439EC,
   0x90BEFFFA23631E28, 0xA4506CEBDE82BDE9, 0xBEF9A3F7B2C67915, 0xC67178F2E372532B,
   0xCA273ECEEA26619C, 0xD186B8C721C0C207, 0xEADA7DD6CDE0EB1E, 0xF57D4F7FEE6ED178,
   0x06F067AA72176FBA, 0x0A637DC5A2C898A6, 0x113F9804BEF90DAE, 0x1B710B35131C471B,
   0x28DB77F523047D84, 0x32CAAB7B40C72493, 0x3C9EBE0A15C9BEBC, 0x431D67C49C100D4C,
   0x4CC5D4BECB3E42B6, 0x597F299CFC657E2A, 0x5FCB6FAB3AD6FAEC, 0x6C44198C4A475817]

def shaInit : List Nat :=
  [0xCBBB9D5DC1059ED8, 0x629A292A367CD507, 0x9159015A3070DD17, 0x152FECD8F70E5939,
   0x67332667FFC00B31, 0x8EB44A8768581511, 0xDB0C2E0D64F98FA7, 0x47B5481DBEFA4FA4]

def rotr64 (n x : Nat) : Nat := (x >>> n) ||| ((x <<< (64 - n)) % shaMod)

/-- The next word of the message schedule from the last sixteen, oldest first. -/
def shaNext (w : List Nat) : Nat :=
  let g (i : Nat) : Nat := w.getD i 0
  let s0 := rotr64 1 (g 1) ^^^ rotr64 8 (g 1) ^^^ (g 1 >>> 7)
  let s1 := rotr64 19 (g 14) ^^^ rotr64 61 (g 14) ^^^ (g 14 >>> 6)
  (g 0 + s0 + g 9 + s1) % shaMod

/-- The eight working words of a block. -/
structure ShaW where
  a : Nat
  b : Nat
  c : Nat
  d : Nat
  e : Nat
  f : Nat
  g : Nat
  h : Nat
  deriving DecidableEq, Repr

def shaRound (x : ShaW) (k w : Nat) : ShaW :=
  let s1 := rotr64 14 x.e ^^^ rotr64 18 x.e ^^^ rotr64 41 x.e
  let ch := (x.e &&& x.f) ^^^ ((shaMod - 1 - x.e) &&& x.g)
  let t1 := x.h + s1 + ch + k + w
  let s0 := rotr64 28 x.a ^^^ rotr64 34 x.a ^^^ rotr64 39 x.a
  let mj := (x.a &&& x.b) ^^^ (x.a &&& x.c) ^^^ (x.b &&& x.c)
  ⟨(t1 + s0 + mj) % shaMod, x.a, x.b, x.c, (x.d + t1) % shaMod, x.e, x.f, x.g⟩

def shaRounds : List Nat → List Nat → ShaW → ShaW
  | [], _, x => x
  | k :: ks, w, x => shaRounds ks (w.tail ++ [shaNext w]) (shaRound x k (w.headD 0))

def shaBlock (h : List Nat) (w : List Nat) : List Nat :=
  let g (i : Nat) : Nat := h.getD i 0
  let x := shaRounds (shaK1 ++ shaK2) w ⟨g 0, g 1, g 2, g 3, g 4, g 5, g 6, g 7⟩
  [(g 0 + x.a) % shaMod, (g 1 + x.b) % shaMod, (g 2 + x.c) % shaMod, (g 3 + x.d) % shaMod,
   (g 4 + x.e) % shaMod, (g 5 + x.f) % shaMod, (g 6 + x.g) % shaMod, (g 7 + x.h) % shaMod]

/-- Big-endian value of a byte string. -/
def beNat (bs : List Nat) : Nat := bs.foldl (fun a b => 256 * a + b % 256) 0

/-- The message with its padding and its length in bits. -/
def shaPad (bs : List Nat) : List Nat :=
  let n := bs.length
  let z := (239 - n % 128) % 128
  bs ++ [0x80] ++ List.replicate z 0 ++ (leBytes 16 (8 * n)).reverse

/-- SHA-384 of a byte string: 48 bytes. -/
def sha384 (bs : List Nat) : List Nat :=
  let p := shaPad bs
  let h := (chunks (p.length / 128) 128 p).foldl (fun h b => shaBlock h ((chunks 16 8 b).map beNat)) shaInit
  (h.take 6).flatMap (fun w => (leBytes 8 w).reverse)

/-- One bit of CRC-32C, the polynomial 0x1EDC6F41 reflected. -/
def crcBit : Nat → Nat → Nat
  | 0, c => c
  | n + 1, c => crcBit n (if c % 2 == 1 then (c / 2) ^^^ 0x82F63B78 else c / 2)

/-- CRC-32C of a byte string. -/
def crc32c (bs : List Nat) : Nat :=
  (bs.foldl (fun c b => crcBit 8 (c ^^^ (b % 256))) 0xFFFFFFFF) ^^^ 0xFFFFFFFF

end Sys2Proof.Machine
end

