-- ==== Sys2Proof/Machine/Ecdsa.lean ====
section
/-!
DEFINITION. ECDSA P-384 verification over SHA-384 (R478, R480, R487, R525). The curve is that of the standard the manual
names (FIPS 186; log entry 15, PRESUMED).
-/
namespace Sys2Proof.Machine

def p384 : Nat := 0xfffffffffffffffffffffffffffffffffffffffffffffffffffffffffffffffeffffffff0000000000000000ffffffff
def n384 : Nat := 0xffffffffffffffffffffffffffffffffffffffffffffffffc7634d81f4372ddf581a0db248b0a77aecec196accc52973
def b384 : Nat := 0xb3312fa7e23ee7e4988e056be3f82d19181d9c6efe8141120314088f5013875ac656398d8a2ed19d2a85c8edd3ec2aef
def gx384 : Nat := 0xaa87ca22be8b05378eb1c71ef320ad746e1d3b628ba79b9859f741e082542a385502f25dbf55296c3a545e3872760ab7
def gy384 : Nat := 0x3617de4a96262c6f5d9e98bf9292dc29f8f41dbd289a147ce9da3113b5f0b8c00a60b1ce1d7e819d7a431d7c90ea0e5f

/-- A point in Jacobian coordinates; z = 0 is the point at infinity. -/
structure JPoint where
  x : Nat
  y : Nat
  z : Nat
  deriving DecidableEq, Repr

def jInf : JPoint := ⟨1, 1, 0⟩

def subMod (m a b : Nat) : Nat := (a + m - b % m) % m

def jDouble (q : JPoint) : JPoint :=
  let d := q.z * q.z % p384
  let g := q.y * q.y % p384
  let b := q.x * g % p384
  let al := 3 * (subMod p384 q.x d) * (q.x + d) % p384
  let x := subMod p384 (al * al) (8 * b)
  let z := subMod p384 (subMod p384 ((q.y + q.z) * (q.y + q.z)) g) d
  let y := subMod p384 (al * subMod p384 (4 * b) x) (8 * g * g)
  ⟨x, y, z⟩

def jAdd (q r : JPoint) : JPoint :=
  if q.z == 0 then r
  else if r.z == 0 then q
  else
    let z1 := q.z * q.z % p384
    let z2 := r.z * r.z % p384
    let u1 := q.x * z2 % p384
    let u2 := r.x * z1 % p384
    let s1 := q.y * r.z * z2 % p384
    let s2 := r.y * q.z * z1 % p384
    let h := subMod p384 u2 u1
    let rr := subMod p384 s2 s1
    if h == 0 then (if rr == 0 then jDouble q else jInf)
    else
      let hh := h * h % p384
      let hhh := h * hh % p384
      let v := u1 * hh % p384
      let x := subMod p384 (subMod p384 (rr * rr) hhh) (2 * v)
      let y := subMod p384 (rr * subMod p384 v x) (s1 * hhh)
      ⟨x, y, h * q.z * r.z % p384⟩

/-- k times a point, most significant bit first. -/
def jMul : Nat → Nat → JPoint → JPoint
  | 0, _, _ => jInf
  | bits + 1, k, q =>
    let r := jDouble (jMul bits (k / 2) q)
    if k % 2 == 1 then jAdd r q else r

/-- a^k mod m by squaring. -/
def powMod : Nat → Nat → Nat → Nat → Nat
  | 0, _, _, m => 1 % m
  | bits + 1, a, k, m =>
    let r := powMod bits a (k / 2) m
    let r2 := r * r % m
    if k % 2 == 1 then r2 * a % m else r2

/-- A public key: the two coordinates, each of 384 bits (R478). -/
def onCurve (x y : Nat) : Bool :=
  decide (x < p384 ∧ y < p384) && (y * y) % p384 == (x * x * x + (p384 - 3) * x + b384) % p384

/-- R480, R525: does (r, s) sign the message under the key (x, y)? -/
def ecdsaVerify (x y r s : Nat) (msg : List Nat) : Bool :=
  if r == 0 || s == 0 || n384 ≤ r || n384 ≤ s || !onCurve x y then false
  else
    let e := beNat (sha384 msg)
    let w := powMod 384 s (n384 - 2) n384
    let u1 := e * w % n384
    let u2 := r * w % n384
    let q := jAdd (jMul 384 u1 ⟨gx384, gy384, 1⟩) (jMul 384 u2 ⟨x, y, 1⟩)
    if q.z == 0 then false
    else
      let zi := powMod 384 q.z (p384 - 2) p384
      (q.x * zi * zi % p384) % n384 == r

end Sys2Proof.Machine
end

