-- ==== Sys2Proof/Machine/Sparse.lean ====
section
/-!
DEFINITION. The named operations over sparse tables and byte memories: one canonical form, keys strictly rising and no
entry equal to the default. Multi-byte values are little-endian (R13).
-/
namespace Sys2Proof.Machine

/-- The value at key k; the default where the table lists none. -/
def sget {α : Type} (d : α) : Sparse α → Nat → α
  | [], _ => d
  | (k, v) :: m, a => if a == k then v else sget d m a

/-- The table without key k. -/
def sdel {α : Type} : Sparse α → Nat → Sparse α
  | [], _ => []
  | (k, v) :: m, a => if a == k then sdel m a else (k, v) :: sdel m a

/-- Insertion in key order. -/
def sins {α : Type} : Sparse α → Nat → α → Sparse α
  | [], a, x => [(a, x)]
  | (k, v) :: m, a, x => if a < k then (a, x) :: (k, v) :: m else (k, v) :: sins m a x

/-- The table with value x at key k; a value equal to the default is not listed. -/
def sset {α : Type} [DecidableEq α] (d : α) (m : Sparse α) (k : Nat) (x : α) : Sparse α :=
  if x = d then sdel m k else sins (sdel m k) k x

/-- The canonical form. -/
def swf {α : Type} [DecidableEq α] (d : α) : Sparse α → Bool
  | [] => true
  | (k, v) :: m => !(v == d) && m.all (fun e => decide (k < e.1)) && swf d m

/-- A byte of a memory; an unlisted byte reads 0. -/
def rd8 (m : Memory) (a : Nat) : Nat := (sget 0 m a).toNat

def wr8 (m : Memory) (a : Nat) (x : Nat) : Memory := sset 0 m a (BitVec.ofNat 8 x)

/-- n bytes from address a. -/
def rdBytes (m : Memory) : Nat → Nat → List Nat
  | _, 0 => []
  | a, n + 1 => rd8 m a :: rdBytes m (a + 1) n

/-- Bytes written from address a on. -/
def wrBytes (m : Memory) (a : Nat) : List Nat → Memory
  | [] => m
  | b :: bs => wrBytes (wr8 m a b) (a + 1) bs

/-- An n-byte little-endian value. -/
def rdLe (m : Memory) (a : Nat) : Nat → Nat
  | 0 => 0
  | n + 1 => rd8 m a + 256 * rdLe m (a + 1) n

/-- An n-byte little-endian value written. -/
def wrLe (m : Memory) (a : Nat) : Nat → Nat → Memory
  | 0, _ => m
  | n + 1, x => wrLe (wr8 m a (x % 256)) (a + 1) n (x / 256)

/-- Every byte from a to a + n − 1 set to 0. -/
def zeroRange (m : Memory) (a n : Nat) : Memory := m.filter (fun e => !(decide (a ≤ e.1 ∧ e.1 < a + n)))

/-- The entries of a memory with keys from a to a + n − 1, keys counted from a. -/
def sliceMem (m : Memory) (a n : Nat) : Memory :=
  (m.filter (fun e => decide (a ≤ e.1 ∧ e.1 < a + n))).map (fun e => (e.1 - a, e.2))

end Sys2Proof.Machine
end

