-- ==== Sys2Proof/Machine/Image.lean ====
section
/-!
DEFINITION. Schedule images (R68-R70, R109-R113, R134-R135, R145, R155-R158, R212, R294-R297, R305): the tables an image
holds, decoded from its bytes.
-/
namespace Sys2Proof.Machine

/-- A schedule image held by the device: its bytes by offset, its length, and the header fields of Table 2.5. -/
structure Image where
  bytes : Memory
  size : Nat
  grade : Nat
  minStepping : Nat
  period : Nat
  clusterMask : BitVec 16
  flush : BitVec 3
  section_ : Nat
  jobId : Nat
  deviceCount : Nat
  logicalId : Nat
  variantCount : Nat
  variantOff : Nat
  slotreqOff : Nat
  tensorOff : Nat
  streamOff : Nat
  programOff : Nat
  digest : Nat
  deriving DecidableEq, Repr

/-- The header of the image that the given bytes hold (Table 2.5). -/
def imageOf (m : Memory) (n : Nat) : Image where
  bytes := m
  size := n
  grade := rdLe m 0x006 1
  minStepping := rdLe m 0x007 1
  period := rdLe m 0x008 4
  clusterMask := BitVec.ofNat 16 (rdLe m 0x00C 2)
  flush := BitVec.ofNat 3 (rdLe m 0x00E 1)
  section_ := rdLe m 0x00F 1
  jobId := rdLe m 0x010 8
  deviceCount := rdLe m 0x018 4
  logicalId := rdLe m 0x01C 2
  variantCount := rdLe m 0x01E 2
  variantOff := rdLe m 0x028 8
  slotreqOff := rdLe m 0x030 8
  tensorOff := rdLe m 0x038 8
  streamOff := rdLe m 0x040 8
  programOff := rdLe m 0x048 8
  digest := rdLe m 0x080 48

/-- The signed value of an n-byte field. -/
def signedLe (n x : Nat) : Int := if 2 ^ (8 * n - 1) ≤ x then (x : Int) - (2 ^ (8 * n) : Nat) else x

def imgI (m : Memory) (a n : Nat) : Int := signedLe n (rdLe m a n)

/-- A variant (Table 2.6). -/
structure Variant where
  maxLen : Nat
  frames : Nat
  planOff : Nat
  deriving DecidableEq, Repr

def variantAt (g : Image) (v : Nat) : Variant :=
  let a := g.variantOff + 32 * v
  ⟨rdLe g.bytes a 4, rdLe g.bytes (a + 4) 4, rdLe g.bytes (a + 8) 8⟩

def variants (g : Image) : List Variant := (List.range g.variantCount).map (variantAt g)

/-- R72: the variant for a declared length: the smallest MAX_LEN at or above it. MAX_LEN rises, so it is the first. -/
def variantFor (g : Image) (len : Nat) : Option Nat :=
  (List.range g.variantCount).find? (fun v => decide (len ≤ (variantAt g v).maxLen))

/-- R70: the use word of a path, and the grove word of a canopy path 36 to 43. -/
def slotUse (g : Image) (path : Nat) : Nat := rdLe g.bytes (g.slotreqOff + 8 * path) 8
def slotGrove (g : Image) (path : Nat) : Nat :=
  if 36 ≤ path ∧ path < 44 then rdLe g.bytes (g.slotreqOff + 8 * (49 + (path - 36))) 8 else 0

/-- A tensor descriptor (Table 4.2). -/
structure Tensor where
  format : Nat
  space : Nat
  pi4 : Bool
  kinner : Bool
  cbd : Bool
  window : Bool
  rank : Nat
  tid : Nat
  base : Int
  scaleBase : Int
  dims : Nat × Nat × Nat × Nat
  strides : Int × Int × Int
  lstrides : Int × Int × Int × Int
  indexBase : Int
  winIx : Nat
  deriving DecidableEq, Repr

def tensorCount (g : Image) : Nat := rdLe g.bytes g.tensorOff 2
def windowCount (g : Image) : Nat := rdLe g.bytes (g.tensorOff + 2) 2
def windowOff (g : Image) : Nat := rdLe g.bytes (g.tensorOff + 4) 8

/-- A descriptor of 128 bytes at a place of a memory. -/
def tensorIn (m : Memory) (a : Nat) : Tensor :=
  let lay := rdLe m (a + 2) 1
  { format := rdLe m a 1, space := rdLe m (a + 1) 1
    pi4 := lay % 4 == 1, kinner := (lay / 4) % 2 == 1, cbd := (lay / 8) % 2 == 1, window := (lay / 16) % 2 == 1
    rank := rdLe m (a + 3) 1, tid := rdLe m (a + 4) 4
    base := rdLe m (a + 8) 8, scaleBase := rdLe m (a + 0x10) 8
    dims := (rdLe m (a + 0x18) 4, rdLe m (a + 0x1C) 4, rdLe m (a + 0x20) 4, rdLe m (a + 0x24) 4)
    strides := (imgI m (a + 0x28) 8, imgI m (a + 0x30) 8, imgI m (a + 0x38) 8)
    lstrides := (imgI m (a + 0x40) 8, imgI m (a + 0x48) 8, imgI m (a + 0x50) 8, imgI m (a + 0x58) 8)
    indexBase := rdLe m (a + 0x60) 8, winIx := rdLe m (a + 0x68) 2 }

/-- R134: descriptor `i` of the image's tensor table. -/
def tensorAddr (g : Image) (i : Nat) : Nat := g.tensorOff + 64 + 128 * i
def tensorAt (g : Image) (i : Nat) : Tensor := tensorIn g.bytes (tensorAddr g i)

/-- The format of a tensor; binary32 stands in for a reserved code, which LOAD_IMAGE refuses. -/
def tensorCode (t : Tensor) : Code := (codeOf t.format).getD (.fp .fp32)

def tensorElems (t : Tensor) : Nat := t.dims.1 * t.dims.2.1 * t.dims.2.2.1 * t.dims.2.2.2

/-- R215: an offset added to BASE, SCALE_BASE and INDEX_BASE. -/
def shiftTensor (t : Tensor) (o : Int) : Tensor :=
  { t with base := t.base + o, scaleBase := t.scaleBase + o, indexBase := t.indexBase + o }

/-- Bytes of an innermost row. -/
def rowBytes (t : Tensor) : Nat := (t.dims.1 * codeBits (tensorCode t) + 7) / 8

/-- R140: bytes of an MX block's elements. -/
def mxBlockBytes (k : Code) : Nat := 4 * codeBits k

/-- Trip indices of the four loop levels (R136). -/
abbrev Trips := Int × Int × Int × Int

def noTrips : Trips := (0, 0, 0, 0)

def loopAdvance (t : Tensor) (r : Trips) : Int :=
  r.1 * t.lstrides.1 + r.2.1 * t.lstrides.2.1 + r.2.2.1 * t.lstrides.2.2.1 + r.2.2.2 * t.lstrides.2.2.2

/-- R136, R142: the byte offset from BASE of element (i0, i1, i2, i3), without the bits within a byte. -/
def elemOffset (t : Tensor) (r : Trips) (i0 i1 i2 i3 : Nat) : Int :=
  let outer : Int := (i2 : Int) * t.strides.2.1 + (i3 : Int) * t.strides.2.2 + loopAdvance t r
  if t.pi4 then
    let p := i0 / 256
    let j := (i0 % 256) / 64
    (p : Int) * t.strides.1 + (((i1 + 8 * j) * 512 + j * 128 + (i0 % 64) * 2 : Nat) : Int) + outer
  else (i1 : Int) * t.strides.1 + (((i0 * codeBits (tensorCode t)) / 8 : Nat) : Int) + outer

/-- R136: the element index of R32, the row-major position. -/
def elemIndex (t : Tensor) (i0 i1 i2 i3 : Nat) : Nat :=
  ((i3 * t.dims.2.2.1 + i2) * t.dims.2.1 + i1) * t.dims.1 + i0

/-- A window-table entry (Table 4.5). -/
structure Window where
  kh : Nat
  kw : Nat
  sy : Nat
  sx : Nat
  dy : Nat
  dx : Nat
  py : Nat
  px : Nat
  oh : Nat
  ow : Nat
  deriving DecidableEq, Repr

def windowAt (g : Image) (i : Nat) : Window :=
  let a := windowOff g + 32 * i
  let b (k : Nat) : Nat := rdLe g.bytes (a + k) 1
  ⟨b 0, b 1, b 2, b 3, b 4, b 5, b 6, b 7, rdLe g.bytes (a + 8) 4, rdLe g.bytes (a + 12) 4⟩

/-- A chain entry (R157) and a chain record (Table 5.1). -/
structure ChainEntry where
  code : Nat
  flags : Nat
  tensor : Nat
  p0 : Nat
  p1 : Nat
  p2 : Nat
  deriving DecidableEq, Repr

structure Chain where
  pro : List ChainEntry
  epi : List ChainEntry
  rm : Bool
  sat : Bool
  deriving DecidableEq, Repr

def chainCount (g : Image) : Nat := rdLe g.bytes g.programOff 2
def chainOff (g : Image) : Nat := rdLe g.bytes (g.programOff + 8) 8
def chainAddr (g : Image) (i : Nat) : Nat := chainOff g + 256 * i

def chainEntryAt (m : Memory) (a : Nat) : ChainEntry :=
  ⟨rdLe m a 1, rdLe m (a + 1) 1, rdLe m (a + 2) 2, rdLe m (a + 4) 4, rdLe m (a + 8) 4, rdLe m (a + 12) 4⟩

/-- R164: an empty chain, for CHAIN_REF 0xFFFF. -/
def emptyChain : Chain := ⟨[], [], false, false⟩

def chainAt (g : Image) (i : Nat) : Chain :=
  if i == 0xFFFF then emptyChain
  else
    let a := chainAddr g i
    let store := rdLe g.bytes (a + 2) 1
    { pro := (List.range (min 4 (rdLe g.bytes a 1))).map (fun k => chainEntryAt g.bytes (a + 0x10 + 16 * k))
      epi := (List.range (min 8 (rdLe g.bytes (a + 1) 1))).map (fun k => chainEntryAt g.bytes (a + 0x50 + 16 * k))
      rm := store % 2 == 1, sat := (store / 2) % 2 == 1 }

/-- A stage header (Table 3.10). -/
structure Stage where
  entry : Nat
  length : Nat
  tailDiv : Nat
  boundCount : Nat
  boundOff : Nat
  chanOff : Nat
  deriving DecidableEq, Repr

def stageAddr (g : Image) (v q : Nat) : Nat := (variantAt g v).planOff + 64 * q

def stageAt (g : Image) (v q : Nat) : Stage :=
  let a := stageAddr g v q
  let m := g.bytes
  ⟨rdLe m a 2, rdLe m (a + 2) 2, rdLe m (a + 4) 2, rdLe m (a + 6) 2, rdLe m (a + 8) 4, rdLe m (a + 12) 4⟩

/-- R110: the bound of entry `i` for declared length L. -/
def boundOf (g : Image) (st : Stage) (i len : Nat) : Nat :=
  let a := st.boundOff + 8 * i
  let d := rdLe g.bytes a 2
  let mul := rdLe g.bytes (a + 2) 2
  let add := imgI g.bytes (a + 4) 2
  let b : Int := (mul : Int) * (((len + d - 1) / d : Nat) : Int) + add
  min 16777215 b.toNat

/-- R110: the tail count. -/
def tailOf (st : Stage) (len : Nat) : Nat := (len - 1) % st.tailDiv + 1

/-- R112: a 64-byte bundle, byte k at bits 8 k up. -/
abbrev BundleWord := BitVec 512

/-- An n-byte field of a wide word. -/
def fld {w : Nat} (x : BitVec w) (off n : Nat) : Nat := (x.toNat >>> (8 * off)) % 2 ^ (8 * n)

/-- The array slot of a bundle (Table 3.12). -/
structure ArraySlot where
  shape : Nat
  retain : Bool
  mode : Nat
  final : Bool
  chain : Nat
  act : Nat
  wgt : Nat
  out : Nat
  accRow : Nat
  rows : Nat
  tail : Bool
  deriving DecidableEq, Repr

/-- The lane slot of a bundle (Table 3.11). -/
structure LaneSlot where
  op : Nat
  rm : Bool
  sat : Bool
  exempt : Bool
  trunc : Bool
  pred : Nat
  srcA : Nat
  srcB : Nat
  dst : Nat
  count : Nat
  deriving DecidableEq, Repr

def hasArray (b : BundleWord) : Bool := fld b 0 1 % 2 == 1
def hasLane (b : BundleWord) : Bool := (fld b 0 1 / 2) % 2 == 1
def hasStream (b : BundleWord) : Bool := (fld b 0 1 / 4) % 2 == 1
def hasToken (b : BundleWord) : Bool := (fld b 0 1 / 8) % 2 == 1
def hasLoop (b : BundleWord) : Bool := (fld b 0 1 / 16) % 2 == 1
def bMarker (b : BundleWord) : Nat := fld b 1 1
def bTicks (b : BundleWord) : Nat := fld b 2 2

def arraySlot (b : BundleWord) : ArraySlot :=
  let f := fld b 5 1
  let r := fld b 0x10 2
  { shape := fld b 4 1, retain := f % 2 == 1, mode := (f / 2) % 4, final := (f / 8) % 2 == 1, chain := fld b 6 2
    act := fld b 8 2, wgt := fld b 0xA 2, out := fld b 0xC 2, accRow := fld b 0xE 2
    rows := r % 4096, tail := r / 32768 == 1 }

def laneSlot (b : BundleWord) : LaneSlot :=
  let f := fld b 0x19 1
  { op := fld b 0x18 1, rm := f % 2 == 1, sat := (f / 2) % 2 == 1, exempt := (f / 4) % 2 == 1
    trunc := (f / 8) % 2 == 1, pred := (f / 16) % 8, srcA := fld b 0x1A 2, srcB := fld b 0x1C 2
    dst := fld b 0x1E 2, count := fld b 0x20 4 }

/-- The two stream actions: (stream number, action). -/
def streamActions (b : BundleWord) : List (Nat × Nat) :=
  if hasStream b then [(fld b 0x24 1, fld b 0x25 1), (fld b 0x26 1, fld b 0x27 1)] else []

def waitValid (b : BundleWord) : Nat := if hasToken b then fld b 0x2C 1 else 0
def waitReady (b : BundleWord) : Nat := if hasToken b then fld b 0x2D 1 else 0
def consumeBits (b : BundleWord) : Nat := if hasToken b then fld b 0x2E 1 else 0
def produceBits (b : BundleWord) : Nat := if hasToken b then fld b 0x2F 1 else 0

def loopLevel (b : BundleWord) : Nat := fld b 0x38 1
def loopOp (b : BundleWord) : Nat := if hasLoop b then fld b 0x39 1 else 0
def loopTarget (b : BundleWord) : Nat := fld b 0x3A 2
def loopBound (b : BundleWord) : Nat := fld b 0x3C 2

/-- The bundle at index k of core q's program store, as the image gives it. -/
def bundleIn (g : Image) (q k : Nat) : BundleWord :=
  BitVec.ofNat 512 (rdLe g.bytes (g.programOff + Config.storeOffset q + 64 * k) 64)

/-- A stream descriptor (Table 7.1). -/
structure Stream where
  variant : Nat
  number : Nat
  core : Nat
  out : Bool
  lc : Bool
  mcast : Bool
  buffers : Nat
  src : Nat
  dst : Nat
  chunksIx : Nat
  gate : Nat
  perGate : Nat
  inner : Nat
  bufStride : Nat
  adv0 : Int
  adv1 : Int
  firstNeed : Nat
  period : Nat
  members : Nat
  deriving DecidableEq, Repr

def streamCount (g : Image) : Nat := rdLe g.bytes g.streamOff 4
def streamAddr (g : Image) (i : Nat) : Nat := g.streamOff + 64 + 64 * i

def streamAt (g : Image) (i : Nat) : Stream :=
  let a := streamAddr g i
  let m := g.bytes
  let f := rdLe m (a + 4) 1
  { variant := rdLe m a 1, number := rdLe m (a + 1) 1, core := rdLe m (a + 2) 2
    out := f % 2 == 1, lc := (f / 2) % 2 == 1, mcast := (f / 4) % 2 == 1
    buffers := rdLe m (a + 5) 1, src := rdLe m (a + 6) 2, dst := rdLe m (a + 8) 2, chunksIx := rdLe m (a + 0xA) 2
    gate := rdLe m (a + 0xC) 1, perGate := rdLe m (a + 0xE) 2, inner := rdLe m (a + 0x10) 4
    bufStride := rdLe m (a + 0x14) 4, adv0 := imgI m (a + 0x18) 8, adv1 := imgI m (a + 0x20) 8
    firstNeed := rdLe m (a + 0x28) 4, period := rdLe m (a + 0x2C) 4, members := rdLe m (a + 0x30) 16 }

/-- R213: the streams of a variant that core q may name, with their table index. -/
def streamMember (x : Stream) (q : Nat) : Bool :=
  if x.mcast then (x.members >>> q) % 2 == 1 else x.core == q

def streamIx (g : Image) (v q n : Nat) : Option Nat :=
  (List.range (streamCount g)).find? (fun i =>
    let x := streamAt g i
    x.variant == v && x.number == n && streamMember x q)

/-- A collective entry (Table 10.2). -/
structure Coll where
  kind : Nat
  wire : Nat
  rm : Bool
  sat : Bool
  useSrc : Bool
  src : Nat
  dst : Nat
  scratch : Nat
  group : Nat
  tid : Nat
  linkMask : Nat
  members : Nat
  root : Nat
  memberOff : Nat
  listOff : Nat
  listCount : Nat
  start : Nat
  lframes : List Nat
  elements : Nat
  deriving DecidableEq, Repr

def collIn (m : Memory) (a : Nat) : Coll :=
  let f := rdLe m (a + 2) 1
  { kind := rdLe m a 1, wire := rdLe m (a + 1) 1
    rm := f % 2 == 1, sat := (f / 2) % 2 == 1, useSrc := (f / 4) % 2 == 1
    src := rdLe m (a + 4) 2, dst := rdLe m (a + 6) 2, scratch := rdLe m (a + 8) 2, group := rdLe m (a + 0xA) 2
    tid := rdLe m (a + 0xC) 3, linkMask := rdLe m (a + 0x10) 5, members := rdLe m (a + 0x18) 4
    root := rdLe m (a + 0x1C) 4, memberOff := rdLe m (a + 0x20) 8, listOff := rdLe m (a + 0x28) 8
    listCount := rdLe m (a + 0x30) 4, start := rdLe m (a + 0x34) 4
    lframes := (List.range 17).map (fun k => rdLe m (a + 0x38 + 2 * k) 2)
    elements := rdLe m (a + 0x60) 8 }

/-- Logical cores of a grade (Table 3.2). -/
def gradeCores (grade : Nat) : Nat := if grade == 0x53 then 112 else 128

/-- R294: the collective-plan header of a variant. -/
def collHeader (g : Image) (v : Nat) : Nat := (variantAt g v).planOff + 64 * gradeCores g.grade
def collCount (g : Image) (v : Nat) : Nat := rdLe g.bytes (collHeader g v) 2
def collTable (g : Image) (v : Nat) : Nat := rdLe g.bytes (collHeader g v + 8) 8
def collAt (g : Image) (v i : Nat) : Coll := collIn g.bytes (collTable g v + 128 * i)

/-- ⌈log2 n⌉ for n ≥ 1. -/
def log2up (n : Nat) : Nat := if n ≤ 1 then 0 else (n - 1).log2 + 1

/-- Levels of a collective (R299, R302-R305). -/
def collLevels (c : Coll) : Nat :=
  match c.kind with
  | 1 => log2up c.members
  | 3 => log2up c.members + 1
  | _ => 1

/-- R296: the member list at a place of a memory. -/
def memberList (m : Memory) (c : Coll) : List Nat := (List.range c.members).map (fun i => rdLe m (c.memberOff + 2 * i) 2)

/-- The rank of a logical ID in a member list. -/
def rankOf (ms : List Nat) (id : Nat) : Nat := ms.idxOf id

/-- R296: blocks, and the first block of chunk c. -/
def collBlocks (c : Coll) : Nat := c.elements / 256
def chunkFirst (c : Coll) (k : Nat) : Nat := k * collBlocks c / c.members
def chunkOf (c : Coll) (b : Nat) : Nat :=
  ((List.range c.members).find? (fun k => decide (chunkFirst c k ≤ b ∧ b < chunkFirst c (k + 1)))).getD 0

/-- R307: the first frame of a level, from the micro-batch's first frame. -/
def levelStart (c : Coll) (j : Nat) : Nat := c.start + (c.lframes.take j).foldl (· + ·) 0

/-- R307: the link of block b: the (b mod k)-th set bit of LINK_MASK. -/
def collLinks (c : Coll) : List Nat := (List.range 36).filter (fun l => (c.linkMask >>> l) % 2 == 1)
def blockLink (c : Coll) (b : Nat) : Nat :=
  let ls := collLinks c
  if ls.isEmpty then 0 else ls.getD (b % ls.length) 0

/-- R297: a send-map entry. -/
structure SendMap where
  core : Nat
  count : Nat
  first : Nat
  deriving DecidableEq, Repr

def sendMap (m : Memory) (c : Coll) : List SendMap :=
  if c.listOff == 0 then []
  else (List.range c.listCount).map (fun i =>
    let a := c.listOff + 16 * i
    ⟨rdLe m a 2, rdLe m (a + 4) 4, rdLe m (a + 8) 8⟩)

/-- R297: the block that the n-th SEND block of a core in a micro-batch maps to. -/
def sendBlock (ms : List SendMap) (q : Nat) : Nat → Option Nat :=
  let rec go : List SendMap → Nat → Option Nat
    | [], _ => none
    | e :: es, n => if n < e.count then some (e.first + n) else go es (n - e.count)
  go (ms.filter (fun e => e.core == q))

/-- R305: a PERMUTE move. -/
structure Move where
  dest : Nat
  srcOff : Nat
  dstOff : Nat
  bytes : Nat
  deriving DecidableEq, Repr

def moveList (m : Memory) (c : Coll) : List Move :=
  (List.range c.listCount).map (fun i =>
    let a := c.listOff + 32 * i
    ⟨rdLe m a 4, rdLe m (a + 8) 8, rdLe m (a + 16) 8, rdLe m (a + 24) 8⟩)

end Sys2Proof.Machine
end

