-- ==== Sys2Proof/Machine/ImageCheck.lean ====
section
/-!
DEFINITION. The checks of LOAD_IMAGE that depend on the image alone (Table 2.7 with R126, R153, R154, R177, R230, R322),
and the device-memory rows that the image's tensors can reach (R154, R188).
-/
namespace Sys2Proof.Machine

/-- The bytes from a to a + n − 1 are all 0. -/
def allZero (m : Memory) (a n : Nat) : Bool := (rdBytes m a n).all (· == 0)

/-- Check 1 of Table 2.7 (R68). -/
def check1 (g : Image) (bytes : Nat) : Bool :=
  let m := g.bytes
  let n := rdLe m 0x020 8
  rdLe m 0 4 == 0x3149534A && rdLe m 4 2 == 3 && n == bytes
    && allZero m 0x050 48 && allZero m 0x0B0 80 && decide (rdLe m 0x00E 1 < 8)
    && decide (g.variantOff < n ∧ g.slotreqOff < n ∧ g.tensorOff < n ∧ g.streamOff < n ∧ g.programOff < n)
    && decide (g.variantOff + 32 * g.variantCount ≤ n ∧ g.slotreqOff + 456 ≤ n)

/-- R68: the digest over the image with the 48 digest bytes read as 0. -/
def imageDigest (m : Memory) (n : Nat) : Nat :=
  leNat (sha384 ((rdBytes m 0 0x80) ++ List.replicate 48 0 ++ rdBytes m 0xB0 (n - 0xB0)))

/-- Check 9 of Table 2.7 (R69). -/
def check9 (g : Image) : Bool :=
  let vs := variants g
  decide (1 ≤ g.variantCount ∧ g.variantCount ≤ 64)
    && vs.all (fun v => decide (1 ≤ v.frames ∧ v.frames ≤ 16777215))
    && (List.range g.variantCount).all (fun i => allZero g.bytes (g.variantOff + 32 * i + 0x14) 12
        && decide (i = 0 ∨ (variantAt g (i - 1)).maxLen < (variantAt g i).maxLen))

/-- R102, R178, R323: what each stepping lacks is carried by MIN_STEPPING (check 4). -/
def check4 (g : Image) (stepping : Nat) : Bool :=
  (g.minStepping == 0x11 || g.minStepping == 0x20) && decide (g.minStepping ≤ stepping)

def is16 (f : Nat) : Bool := f == 1 || f == 2
def isFp8 (f : Nat) : Bool := f == 3 || f == 4
def isMxCode (f : Nat) : Bool := decide (8 ≤ f ∧ f ≤ 0xD)
def isMx6 (f : Nat) : Bool := f == 0xA || f == 0xB

/-- R137: the alignment of bases and strides. -/
def tensorAligned (t : Tensor) : Bool :=
  let a : Int := if isMx6 t.format then 192 else 64
  (t.base % a == 0) && (t.strides.1 % a == 0) && (t.strides.2.1 % a == 0) && (t.strides.2.2 % a == 0)
    && (t.lstrides.1 % a == 0) && (t.lstrides.2.1 % a == 0) && (t.lstrides.2.2.1 % a == 0)
    && (t.lstrides.2.2.2 % a == 0) && t.indexBase % 8 == 0

/-- R142, R143. -/
def pi4Ok (t : Tensor) : Bool :=
  !t.pi4 || (is16 t.format && decide (t.space ≤ 2) && decide (((t.dims.2.1 + 24) * 512 : Nat) ≤ t.strides.1))

/-- R148. -/
def cbdOk (t : Tensor) : Bool :=
  !t.cbd || (t.format == 2 && !t.pi4 && !t.kinner && t.dims.1 % 256 == 0
    && t.strides.1 == (t.dims.1 * 2 : Nat) && t.strides.2.1 == (t.dims.1 * 2 * t.dims.2.1 : Nat)
    && t.strides.2.2 == (t.dims.1 * 2 * t.dims.2.1 * t.dims.2.2.1 : Nat)
    && t.lstrides.1 % 512 == 0 && t.lstrides.2.1 % 512 == 0 && t.lstrides.2.2.1 % 512 == 0
    && t.lstrides.2.2.2 % 512 == 0)

def between (lo x hi : Nat) : Bool := decide (lo ≤ x ∧ x ≤ hi)

/-- Table 4.5: the ranges of a window entry. -/
def windowEntryOk (w : Window) : Bool :=
  between 1 w.kh 16 && between 1 w.kw 16 && between 1 w.sy 8 && between 1 w.sx 8 && between 1 w.dy 8
    && between 1 w.dx 8 && decide (w.py ≤ 15 ∧ w.px ≤ 15) && between 1 w.oh 65535 && between 1 w.ow 65535

/-- R145, R147: what a descriptor says of its window. -/
def windowOk (g : Image) (t : Tensor) : Bool :=
  if !t.window then t.winIx == 0xFFFF
  else
    decide (t.winIx < windowCount g) && (is16 t.format || isFp8 t.format) && !t.pi4 && !t.kinner
      && (t.dims.1 * codeBits (tensorCode t) / 8) % 64 == 0

/-- R12, R19, R32, R135, R137, R142, R148, R153: one descriptor of the tensor table. That a field not in use must stand at
its neutral value (a plane base 0, a window index 0xFFFF, a dimension beyond RANK 1) is the model's choice (log entry 25). -/
def tensorOk (g : Image) (i : Nat) : Bool :=
  let a := tensorAddr g i
  let t := tensorAt g i
  let lay := rdLe g.bytes (a + 2) 1
  let one (r d : Nat) : Bool := decide (r ≤ t.rank) || d == 1
  (codeOf t.format).isSome && decide (t.space ≤ 3) && decide (lay % 4 < 2 ∧ lay < 32) && between 1 t.rank 4
    && decide (t.tid < 2 ^ 24) && decide (t.base < (2 ^ 48 : Nat)) && allZero g.bytes (a + 0x6A) 22
    && one 2 t.dims.2.1 && one 3 t.dims.2.2.1 && one 4 t.dims.2.2.2
    && decide (tensorElems t ≤ 2 ^ 40)
    && (isMxCode t.format || t.scaleBase == 0) && (t.cbd || t.indexBase == 0)
    && (!isMxCode t.format || t.dims.1 % 32 == 0)
    && tensorAligned t && pi4Ok t && cbdOk t && windowOk g t

/-- R134, R153: the tensor table header, every descriptor and every window entry. -/
def tensorTableOk (g : Image) : Bool :=
  let m := g.bytes
  between 1 (tensorCount g) 65535 && decide (windowCount g ≤ 4096) && allZero m (g.tensorOff + 12) 52
    && decide (g.tensorOff + 64 + 128 * tensorCount g ≤ g.size)
    && decide (windowOff g + 32 * windowCount g ≤ g.size)
    && (List.range (windowCount g)).all (fun i =>
        windowEntryOk (windowAt g i) && allZero m (windowOff g + 32 * i + 0x10) 16)
    && (List.range (tensorCount g)).all (tensorOk g)

/-- Entries of a chain by code. -/
def proOf (c : Chain) (side code : Nat) : Option ChainEntry :=
  c.pro.find? (fun e => e.code == code && e.flags % 2 == side)
def epiOf (c : Chain) (code : Nat) : Option ChainEntry := c.epi.find? (fun e => e.code == code)

/-- R159, R160: the delivery format of a side. -/
def delivered (c : Chain) (side : Nat) (t : Tensor) : Nat :=
  if (proOf c side 3).isSome || (proOf c side 4).isSome then 2 else t.format

def isDeep (shape : Nat) : Bool := between 1 shape 5
def isWide (shape : Nat) : Bool := shape == 9 || shape == 0xA

/-- Table 3.5: columns, and the K step of one pass. -/
def shapeN (shape : Nat) : Nat :=
  match shape with
  | 4 => 32 | 9 => 512 | 0xA => 1024 | _ => 128
def shapeK (shape : Nat) : Nat :=
  match shape with
  | 1 => 64 | 2 => 128 | 3 => 256 | 4 => 256 | 5 => 64 | _ => 1
def shapeMaxRows (shape : Nat) : Nat :=
  match shape with
  | 9 => 16 | 0xA => 8 | _ => 2048

/-- R102, Table 3.5: the classes of delivered formats. -/
def shapeClass (shape fa fw : Nat) : Bool :=
  match shape with
  | 1 => is16 fa && is16 fw
  | 2 => (isFp8 fa && isFp8 fw) || ((fa == 8 || fa == 9 || fa == 0xD) && (fw == 8 || fw == 9 || fw == 0xD))
  | 3 => between 0xA fa 0xC && between 0xA fw 0xC
  | 4 => is16 fa && is16 fw
  | 5 => fa == 0 && fw == 0
  | 9 => is16 fa && is16 fw
  | 0xA => is16 fa && is16 fw
  | _ => false

/-- A tensor index in use is below COUNT. -/
def named (g : Image) (i : Nat) : Bool := decide (i < tensorCount g)

def ascending : List Nat → Bool
  | a :: b :: r => decide (a < b) && ascending (b :: r)
  | _ => true

/-- R157, R174, R177: the prologue entries of one side. -/
def proSideOk (g : Image) (sl : ArraySlot) (c : Chain) (side : Nat) (t : Tensor) : Bool :=
  let es := c.pro.filter (fun e => e.flags % 2 == side)
  let codes := es.map (·.code)
  let mxNative := isMxCode t.format && !codes.contains 4 && (sl.shape == 2 || sl.shape == 3)
  ascending codes
    && !(codes.contains 3 && codes.contains 4)
    && (!codes.contains 3 || isFp8 t.format) && (!codes.contains 4 || isMxCode t.format)
    && (!(codes.contains 5 || codes.contains 6 || codes.contains 7) || is16 (delivered c side t))
    && (!(codes.contains 6 || codes.contains 7) || (side == 0 && sl.shape == 1))
    && (!(sl.shape == 4 || sl.shape == 5) || codes.all (· == 2))
    && (!isWide sl.shape || codes.all (fun k => k == 2 || (side == 1 && between 3 k 5)))
    && (!mxNative || codes.all (fun k => k == 2))
    && es.all (fun e =>
      let tt := tensorAt g e.tensor
      let slate := named g e.tensor && tt.space == 0 && !tt.kinner
      match e.code with
      | 1 => side == 0 && e.flags == 0 && e.tensor == 0xFFFF && e.p0 == 0
      | 2 => side == 0 && e.flags == 0 && slate && (tt.format == 0 || tt.format == 2) && e.p0 == 0
          && decide (shapeN sl.shape ≤ tt.dims.1 ∧ sl.rows ≤ tt.dims.2.1)
      | 3 => decide (e.flags < 2) && e.tensor == 0xFFFF && e.p0 == 0
      | 4 => decide (e.flags < 2) && e.tensor == 0xFFFF && e.p0 == 0
      | 5 => decide (e.flags < 2) && e.tensor == 0xFFFF
      | 6 => e.flags == 0 && slate && tt.format == 0 && e.p0 == 0
      | 7 => e.flags == 0 && slate && (tt.format == 0 || tt.format == 2) && e.p0 == 0
      | _ => false) && es.all (fun e => e.p1 == 0 && e.p2 == 0)

/-- A channel of a core: `out` names the eight output channels. -/
structure ChanDef where
  out : Bool
  used : Bool
  partner : Nat
  logicalId : Nat
  bytes : Nat
  depth : Nat
  base : Nat
  far : Nat
  deriving DecidableEq, Repr

/-- R111: the 16 bytes of a channel-table entry. -/
def chanEntry (g : Image) (v q : Nat) (out : Bool) (c : Nat) : Nat :=
  rdLe g.bytes ((stageAt g v q).chanOff + 16 * (if out then 8 + c else c)) 16

/-- R111: entries 0-7 of the table are the input channels, 8-15 the output channels; one in use has a depth of 1 to 4. -/
def chanDef (g : Image) (v q : Nat) (out : Bool) (c : Nat) : ChanDef :=
  let e := BitVec.ofNat 128 (chanEntry g v q out c)
  let f := fun k => Config.channelField k e
  ⟨out, between 1 (f 4) 4, f 1, f 2, f 3, f 4, f 5, f 6 % 8⟩

/-- Table 5.2, Table 5.4: the epilogue entries of a pass of core q in variant v. -/
def epiOk (g : Image) (v q : Nat) (c : Chain) : Bool :=
  let codes := c.epi.map (·.code)
  ascending codes && decide ((codes.filter (fun k => between 0x11 k 0x13)).length ≤ 1)
    && c.epi.all (fun e =>
      let tt := tensorAt g e.tensor
      let slate := named g e.tensor && tt.space == 0 && !tt.kinner
      let noT := e.tensor == 0xFFFF
      match e.code with
      | 0x10 => e.flags == 0 && slate && decide (tt.format ≤ 2) && e.p0 == 0 && e.p1 == 0 && e.p2 == 0
      | 0x11 => e.flags == 0 && noT && e.p0 == 0 && e.p1 == 0 && e.p2 == 0
      | 0x12 => e.flags == 0 && noT && e.p0 == 0 && e.p1 == 0 && e.p2 == 0
      | 0x13 => e.flags == 0 && noT && e.p0 == 0 && e.p1 == 0 && e.p2 == 0
      | 0x14 => e.flags == 0 && noT && decide (e.p1 < 2 ^ 24 ∧ e.p2 < 2 ^ 16)
      | 0x15 => e.flags == 0 && slate && decide (tt.format ≤ 2) && e.p0 == 0 && e.p1 == 0 && e.p2 == 0
      | 0x16 => (e.flags == 0 || e.flags == 2) && slate && tt.format == 0 && e.p1 == 0 && e.p2 == 0
      | 0x17 =>
        let am := tensorAt g (e.p0 % 65536)
        (e.flags == 0 || e.flags == 2) && slate && tt.format == 0 && decide (e.p0 < 65536) && named g e.p0
          && am.space == 0 && !am.kinner && am.format == 0 && e.p1 == 0 && e.p2 == 0
      | 0x18 => (e.flags == 0 || e.flags == 2) && noT
          && (if e.flags == 2 then between 8 e.p2 0xC else e.p2 == 0)
          && (if e.p0 % 256 == 0 then decide (e.p0 / 256 < 8) && (chanDef g v q true (e.p0 / 256)).used
              else e.p0 % 256 == 1 && decide (e.p0 < 256 ∧ e.p1 < collCount g v))
      | _ => false)

/-- R174: OUT and STORE. -/
def outOk (g : Image) (sl : ArraySlot) (c : Chain) : Bool :=
  let t := tensorAt g sl.out
  let cast := (epiOf c 0x17).isSome
  let send := (epiOf c 0x18).isSome
  if !sl.final then c.epi.isEmpty && !c.rm && !c.sat
  else named g sl.out && t.space == 0 && !t.kinner && !t.cbd && !t.window
    && (!t.pi4 || is16 t.format)
    && (isFp8 t.format == cast)
    && (!c.rm || cast || isMxCode t.format) && (!c.sat || isFp8 t.format)
    && (!send || (t.format == 2 && !t.pi4 && t.dims.1 % 256 == 0 && !cast))

/-- R156, R177: the bytes of a chain record that must be 0. -/
def chainBytesOk (g : Image) (i : Nat) : Bool :=
  let a := chainAddr g i
  let m := g.bytes
  let np := rdLe m a 1
  let ne := rdLe m (a + 1) 1
  decide (np ≤ 4 ∧ ne ≤ 8) && decide (rdLe m (a + 2) 1 < 4) && allZero m (a + 3) 13
    && allZero m (a + 0x10 + 16 * np) (64 - 16 * np) && allZero m (a + 0x50 + 16 * ne) (128 - 16 * ne)
    && allZero m (a + 0xD0) 48

/-- Table 4.4: the activation, and the weight, of a pass. -/
def actOk (sl : ArraySlot) (t : Tensor) : Bool :=
  t.space == 0 && !t.kinner &&
    (if sl.shape == 4 then t.pi4 && !t.cbd && !t.window
     else if sl.shape == 5 || isWide sl.shape then !t.pi4 && !t.cbd && !t.window
     else !t.pi4 && (!t.cbd || t.format == 2))
def wgtOk (sl : ArraySlot) (t : Tensor) : Bool :=
  t.space == 0 && !t.pi4 && !t.window && (!t.cbd || t.format == 2)
    && (!t.kinner || (isDeep sl.shape && sl.shape != 5 && !t.cbd))

/-- R102, R113, R126, R141, R144, R174, R177: an array slot. -/
def arrayOk (g : Image) (v q : Nat) (sl : ArraySlot) (flags rowsRsvd : Nat) : Bool :=
  let c := chainAt g sl.chain
  let ta := tensorAt g sl.act
  let tw := tensorAt g sl.wgt
  let codes := c.pro.map (·.code)
  decide (flags < 16) && rowsRsvd == 0 && sl.mode != 3 && (isDeep sl.shape || isWide sl.shape)
    && (sl.chain == 0xFFFF || (decide (sl.chain < chainCount g) && chainBytesOk g sl.chain))
    && named g sl.act && named g sl.wgt && actOk sl ta && wgtOk sl tw
    && shapeClass sl.shape (delivered c 0 ta) (delivered c 1 tw)
    && between 1 sl.rows (shapeMaxRows sl.shape)
    && (if isDeep sl.shape then decide (sl.accRow + sl.rows ≤ 2048) else decide (sl.accRow ≤ 1984))
    && proSideOk g sl c 0 ta && proSideOk g sl c 1 tw
    && (codes.contains 1 == ta.window) && (codes.contains 2 == (sl.mode == 2))
    && epiOk g v q c && outOk g sl c

/-- Table 3.9: the operands a micro-op needs: SRC_B in use. -/
def laneTwo (op : Nat) : Bool :=
  between 1 op 8 || op == 0xF || between 0x14 op 0x17

/-- R106, R121, R126, R144: a lane slot. -/
def laneOk (g : Image) (l : LaneSlot) (flagByte : Nat) : Bool :=
  let ok (i : Nat) : Bool := named g i &&
    (let t := tensorAt g i; t.space == 0 && !t.kinner && !t.cbd && !t.window)
  between 1 l.op 0x17 && !l.exempt && decide (flagByte < 128) && (l.op != 7 || decide (l.pred ≤ 5))
    && ok l.srcA && ok l.dst && (if laneTwo l.op then ok l.srcB else l.srcB == 0xFFFF || ok l.srcB)

/-- Reserved bits and bytes of a bundle (R112, R126); those of an absent slot must be 0 too (log entry 23). -/
def bundleBytesOk (b : BundleWord) : Bool :=
  decide (fld b 0 1 < 32) && decide (bMarker b ≤ 2)
    && (hasArray b || fld b 4 20 == 0) && (hasLane b || fld b 0x18 12 == 0)
    && (hasStream b || fld b 0x24 8 == 0) && (hasToken b || fld b 0x2C 12 == 0) && (hasLoop b || fld b 0x38 8 == 0)
    && (fld b 0x12 6 == 0) && fld b 0x28 4 == 0 && fld b 0x30 8 == 0 && fld b 0x3E 2 == 0

/-- A staging stream fills the commons (Table 7.2). -/
def isStaging (g : Image) (x : Stream) : Bool := !x.out && (tensorAt g x.dst).space != 0

/-- R126, R230: one bundle of core q in variant v. -/
def bundleOk (g : Image) (v q : Nat) (st : Stage) (b : BundleWord) : Bool :=
  bundleBytesOk b
    && (!hasArray b || arrayOk g v q (arraySlot b) (fld b 5 1) ((fld b 0x10 2 / 4096) % 8))
    && (!hasLane b || laneOk g (laneSlot b) (fld b 0x19 1))
    && (streamActions b).all (fun sa =>
      decide (sa.2 ≤ 3) && (sa.2 == 0 ||
        (match streamIx g v q sa.1 with
         | none => false
         | some i => !isStaging g (streamAt g i))))
    && (!hasLoop b || ((loopOp b == 1 || loopOp b == 2) && decide (loopLevel b ≤ 3)
        && decide (st.entry ≤ loopTarget b ∧ loopTarget b < st.entry + st.length ∧ loopBound b < st.boundCount)))

/-- The bundles of a stage with the loops open at each: (level, bound index). -/
def walkLoops : List BundleWord → List (Nat × Nat) → List (BundleWord × List (Nat × Nat))
  | [], _ => []
  | b :: bs, opn =>
    let next := match loopOp b with
      | 1 => (loopLevel b, loopBound b) :: opn
      | 2 => opn.filter (fun x => x.1 != loopLevel b)
      | _ => opn
    (b, opn) :: walkLoops bs next

def stageBundles (g : Image) (v q : Nat) : List BundleWord :=
  let st := stageAt g v q
  (List.range st.length).map (fun k => bundleIn g q (st.entry + k))

/-- The cores that an image uses: logical cores of the clusters of CLUSTER_MASK (R89). -/
def imageCores (g : Image) : List Nat :=
  (List.range (gradeCores g.grade)).filter (fun q => g.clusterMask.getLsbD (q / 8))

/-- R126, R110: the stage of one core in one variant. A header with LENGTH 0 belongs to a core the variant does not
use. That reserved header bytes, TAIL_DIV, BOUND_COUNT and DIV out of range are refused is the model's choice (log entry
23). -/
def stageOk (g : Image) (v q : Nat) : Bool :=
  let st := stageAt g v q
  let bs := stageBundles g v q
  st.length == 0 ||
    (decide (st.length ≤ 4096) && decide (st.entry + st.length ≤ 4096) && between 1 st.tailDiv 2048
      && decide (st.boundCount ≤ 8) && allZero g.bytes (stageAddr g v q + 0x10) 48
      && decide (st.boundOff + 8 * st.boundCount ≤ g.size) && decide (st.chanOff + 256 ≤ g.size)
      && (List.range st.boundCount).all (fun i =>
          decide (1 ≤ rdLe g.bytes (st.boundOff + 8 * i) 2) && rdLe g.bytes (st.boundOff + 8 * i + 6) 2 == 0)
      && decide (g.programOff + Config.storeOffset q + 64 * (st.entry + st.length) ≤ g.size)
      && bs.all (bundleOk g v q st) && bs.any (fun b => bMarker b == 2)
      && (walkLoops bs []).all (fun x => decide (x.2.length ≤ 4)))

/-- R89: the logical cores of the image's grade, each of which has a stage header in every variant (R109). -/
def allCores (g : Image) : List Nat := List.range (gradeCores g.grade)

/-- R124, R126: the programs of a core over all variants fit its store together; a program that variants share counts once,
and programs that partly overlap count in full each (log entry 23). -/
def storeFits (g : Image) (q : Nat) : Bool :=
  decide ((((List.range g.variantCount).map (fun v =>
    ((stageAt g v q).entry, (stageAt g v q).length))).eraseDups.map (·.2)).sum ≤ 4096)

/-- R155: the region header and the chain table. -/
def regionOk (g : Image) : Bool :=
  let m := g.bytes
  decide (chainCount g ≤ 4096) && allZero m (g.programOff + 2) 6 && allZero m (g.programOff + 16) 48
    && decide (g.programOff + 64 ≤ g.size) && decide (chainOff g + 256 * chainCount g ≤ g.size)

/-- Trips of the open loops at MAX_LEN; `none` where a bound is 0 and the bundle never runs. -/
def tripCounts (g : Image) (st : Stage) (len : Nat) (opn : List (Nat × Nat)) : Option (Nat × Nat × Nat × Nat) :=
  let n (l : Nat) : Nat := match opn.find? (fun o => o.1 == l) with
    | none => 1
    | some o => boundOf g st o.2 len
  if n 0 == 0 || n 1 == 0 || n 2 == 0 || n 3 == 0 then none else some (n 0, n 1, n 2, n 3)

/-- The smallest and largest of 0, s, ..., (n − 1) s. -/
def spanOf (n : Nat) (s : Int) : Int × Int :=
  let e : Int := ((n : Int) - 1) * s
  if n ≤ 1 then (0, 0) else (min 0 e, max 0 e)

def addSpan (a b : Int × Int) : Int × Int := (a.1 + b.1, a.2 + b.2)

def onceTrips : Nat × Nat × Nat × Nat := (1, 1, 1, 1)

/-- R154: the hull of a tensor's row starts over its outer dimensions and trips. -/
def rowSpan (t : Tensor) (n : Nat × Nat × Nat × Nat) : Int × Int :=
  let tr := addSpan (addSpan (spanOf n.1 t.lstrides.1) (spanOf n.2.1 t.lstrides.2.1))
    (addSpan (spanOf n.2.2.1 t.lstrides.2.2.1) (spanOf n.2.2.2 t.lstrides.2.2.2))
  let outer := addSpan (spanOf t.dims.2.2.1 t.strides.2.1) (spanOf t.dims.2.2.2 t.strides.2.2)
  let d1 := if t.pi4 then spanOf ((t.dims.1 + 255) / 256) t.strides.1 else spanOf t.dims.2.1 t.strides.1
  addSpan d1 (addSpan outer tr)

/-- Bytes a row (or PI-4 panel) covers. -/
def rowLen (t : Tensor) : Nat := if t.pi4 then (t.dims.2.1 + 24) * 512 else rowBytes t

/-- R132: the bytes of a space: the slate, the section's share of a commons; device memory is judged apart. -/
def spaceSize (commons : Nat × Nat) (space : Nat) : Int :=
  match space with
  | 0 => 0x300000
  | 1 => (commons.1 * 0x300000 : Nat)
  | _ => (commons.2 * 0x300000 : Nat)

/-- R153, R154: a slate or commons tensor stays within its space, planes and table included; a packed one needs 520 bytes
a block (R316, log entry 25). -/
def localFits (commons : Nat × Nat) (t : Tensor) (n : Nat × Nat × Nat × Nat) : Bool :=
  let sp := rowSpan t n
  let size := spaceSize commons t.space
  let inside (lo hi : Int) : Bool := decide (0 ≤ lo ∧ hi < size)
  if t.space == 3 || tensorElems t == 0 then true
  else if t.cbd then
    let b0 := sp.1 / 512
    let b1 := (sp.2 + rowLen t - 1) / 512
    inside (t.indexBase + 8 * b0) (t.indexBase + 8 * b1 + 7) && inside t.base (t.base + 520 * (b1 - b0 + 1) - 1)
  else
    let bb : Int := mxBlockBytes (tensorCode t)
    inside (t.base + sp.1) (t.base + sp.2 + rowLen t - 1)
      && (!isMxCode t.format || inside (t.scaleBase + sp.1 / bb) (t.scaleBase + sp.2 / bb + (t.dims.1 / 32 : Nat) - 1))

/-- Every trip index of four loops. -/
def allTrips (n : Nat × Nat × Nat × Nat) (p : Trips → Bool) : Bool :=
  (List.range n.1).all (fun a => (List.range n.2.1).all (fun b => (List.range n.2.2.1).all (fun c =>
    (List.range n.2.2.2).all (fun d => p (a, b, c, d)))))

/-- R188: every row of a device-memory tensor, its scale bytes and index entries, as ranges (write, first byte, last byte);
a packed block takes at least 8 bytes (log entry 25). -/
def deviceRowsOk (p : Bool → Int → Int → Bool) (t : Tensor) (n : Nat × Nat × Nat × Nat) (wr : Bool) : Bool :=
  if t.space != 3 || tensorElems t == 0 then true
  else
    (List.range t.dims.2.1).all (fun i1 => (List.range t.dims.2.2.1).all (fun i2 => (List.range t.dims.2.2.2).all (fun i3 =>
      allTrips n (fun r =>
        let o := elemOffset t r 0 i1 i2 i3
        let bb : Int := mxBlockBytes (tensorCode t)
        if t.cbd then
          let b0 := o / 512
          p wr (t.indexBase + 8 * b0) (t.indexBase + 8 * b0 + 8 * (t.dims.1 / 256 : Nat) - 1) && p wr t.base (t.base + 8 * (tensorElems t / 256 : Nat) - 1)
        else
          p wr (t.base + o) (t.base + o + rowBytes t - 1)
            && (!isMxCode t.format || p wr (t.scaleBase + o / bb) (t.scaleBase + o / bb + (t.dims.1 / 32 : Nat) - 1))))))

/-- The tensors a bundle names, with the write flag. -/
def bundleTensors (g : Image) (b : BundleWord) : List (Nat × Bool) :=
  let arr := if hasArray b then
      let sl := arraySlot b
      let c := chainAt g sl.chain
      [(sl.act, false), (sl.wgt, false)] ++ (if sl.final then [(sl.out, true)] else [])
        ++ c.pro.map (fun e => (e.tensor, false)) ++ c.epi.map (fun e => (e.tensor, e.code == 0x16))
        ++ (match epiOf c 0x17 with | some e => [(e.p0 % 65536, true)] | none => [])
    else []
  let lane := if hasLane b then
      let l := laneSlot b
      [(l.srcA, false), (l.srcB, l.op == 0x13), (l.dst, true)]
    else []
  (arr ++ lane).filter (fun x => x.1 != 0xFFFF)

/-- Chunk count of a stream for a declared length (R110, R212). -/
def chunkCount (g : Image) (x : Stream) (len : Nat) : Nat := boundOf g (stageAt g x.variant x.core) x.chunksIx len

/-- R215: the memory-side offset of chunk k. -/
def memOffset (x : Stream) (k : Nat) : Int :=
  ((k % x.inner : Nat) : Int) * x.adv0 + ((k / x.inner : Nat) : Int) * x.adv1
def bufOffset (x : Stream) (k : Nat) : Int := ((k % x.buffers) * x.bufStride : Nat)

/-- The commons space of a core's die (Table 4.2). -/
def dieSpace (grade q : Nat) : Nat := if q < gradeCores grade / 2 then 1 else 2

/-- Table 7.2. -/
def streamForm (g : Image) (x : Stream) : Bool :=
  let s := (tensorAt g x.src).space
  let d := (tensorAt g x.dst).space
  if !x.out then
    if d == 0 then s != 0 && (!x.lc || s == 3)
    else d == dieSpace g.grade x.core && s == 3 && !x.lc && !x.mcast
  else !x.lc && !x.mcast && (if s == 0 then d != 0 else s == dieSpace g.grade x.core && d == 3)

/-- R216: the tensors of a stream match. -/
def streamMatch (a b : Tensor) : Bool :=
  a.format == b.format && a.rank == b.rank && a.dims == b.dims && a.pi4 == b.pi4 && a.cbd == b.cbd
    && !a.window && !b.window

/-- The tensor of a stream that holds its ring. -/
def ringTensor (x : Stream) : Nat := if x.out then x.src else x.dst
def farTensor (x : Stream) : Nat := if x.out then x.dst else x.src

/-- R154: the bytes of a local tensor's element plane, or of a packed tensor's index table, first and last. -/
def hullOf (t : Tensor) : Int × Int :=
  let sp := rowSpan t onceTrips
  if t.cbd then (t.indexBase + 8 * (sp.1 / 512), t.indexBase + 8 * ((sp.2 + rowLen t - 1) / 512) + 7)
  else (t.base + sp.1, t.base + sp.2 + rowLen t - 1)

/-- R219: every chunk of a gated stream lies in the buffer of the staging stream y that holds its gate chunk. -/
def readsRing (g : Image) (x y : Stream) : Bool :=
  let a := tensorAt g x.src
  let b := hullOf (tensorAt g y.dst)
  a.space == (tensorAt g y.dst).space && (List.range x.perGate).all (fun j =>
    let h := hullOf (shiftTensor a ((j : Int) * x.adv0))
    decide (b.1 ≤ h.1 ∧ h.2 ≤ b.2))

/-- R230: one stream descriptor, at index i. -/
def streamOk (g : Image) (i : Nat) : Bool :=
  let x := streamAt g i
  let a := streamAddr g i
  let v := variantAt g x.variant
  let st := stageAt g x.variant x.core
  let al : Int := if isMx6 (tensorAt g x.src).format then 192 else 64
  let key (y : Stream) : Nat := (y.variant * 65536 + y.core) * 256 + y.number
  let others := (List.range (streamCount g)).filter (· != i)
  decide (rdLe g.bytes (a + 4) 1 < 8) && rdLe g.bytes (a + 0xD) 1 == 0
    && decide (x.variant < g.variantCount ∧ x.number < 32 ∧ x.core < gradeCores g.grade) && between 1 x.buffers 4
    && decide (x.chunksIx < st.boundCount) && between 1 x.inner 16777215 && between 1 x.period (2 ^ 31)
    && (if x.gate == 0xFF then x.perGate == 0 else decide (1 ≤ x.perGate))
    && named g x.src && named g x.dst && streamForm g x && streamMatch (tensorAt g x.src) (tensorAt g x.dst)
    && (x.bufStride : Int) % al == 0 && x.adv0 % al == 0 && x.adv1 % al == 0
    && (i == 0 || decide (key (streamAt g (i - 1)) < key x))
    && (if x.mcast then (x.members >>> x.core) % 2 == 1 && x.members % 2 ^ x.core == 0 else x.members == 0)
    && others.all (fun j =>
        let y := streamAt g j
        (y.variant != x.variant || y.number != x.number ||
          !((List.range (gradeCores g.grade)).any (fun q => streamMember x q && streamMember y q)))
          && ringTensor y != ringTensor x)
    && (x.gate == 0xFF ||
        (match (List.range (streamCount g)).find? (fun j =>
            let y := streamAt g j; y.variant == x.variant && y.core == x.core && y.number == x.gate) with
         | none => false
         | some j => isStaging g (streamAt g j) && x.inner == 1 && x.adv1 == 0 && !x.out && !isStaging g x
             && readsRing g x (streamAt g j)))
    && decide (chunkCount g x v.maxLen = 0 ∨
        x.firstNeed + (chunkCount g x v.maxLen - 1) * x.period ≤ v.frames * (g.period * 1500) - 300)

/-- R212, R230: the stream table. -/
def streamTableOk (g : Image) : Bool :=
  decide (streamCount g ≤ 262144) && allZero g.bytes (g.streamOff + 4) 60
    && decide (g.streamOff + 64 + 64 * streamCount g ≤ g.size) && (List.range (streamCount g)).all (streamOk g)

/-- R230: a multicast member outside CLUSTER_MASK, or a stream of a core outside it. -/
def streamMembersOk (g : Image) : Bool :=
  (List.range (streamCount g)).all (fun i =>
    let x := streamAt g i
    (List.range 128).all (fun q => !(x.mcast && (x.members >>> q) % 2 == 1) || g.clusterMask.getLsbD (q / 8)))

/-- Table 10.3: the wire encodings of a kind. -/
def wireOk (kind wire : Nat) : Bool :=
  match kind with
  | 5 => wire == 2 || ((codeOf wire).isSome && wire != 0 && !isFp8 wire && !between 8 wire 0xC)
  | 2 => wire == 0 || wire == 2 || isFp8 wire || between 8 wire 0xC
  | 4 => wire == 0 || wire == 2 || isFp8 wire || between 8 wire 0xC
  | _ => wire == 0 || wire == 2 || between 8 wire 0xC

/-- The element type of a wire (R306). -/
def wireElem (wire : Nat) : Nat := if between 8 wire 0xC then 2 else wire

/-- R306: SRC, DST formats of a kind. -/
def collFormats (c : Coll) (s d : Tensor) : Bool :=
  let gathered := d.format == 0 || d.format == wireElem c.wire
  match c.kind with
  | 1 => (s.format == 0 || s.format == 2) && decide (d.format ≤ 2)
  | 2 => (s.format == 0 || s.format == 2) && gathered
  | 3 => (s.format == 0 || s.format == 2) && decide (d.format ≤ 2) && gathered
  | 4 => decide (s.format ≤ 4) && gathered
  | _ => s.format == d.format && (s.format == 2) == (c.wire == 2)

/-- R306: a collective narrows: FP32 totals to DST's format, or SRC to another wire format that cannot hold all its values. -/
def collNarrows (c : Coll) (s d : Tensor) : Bool :=
  if c.kind == 1 || c.kind == 3 then d.format != 0
  else c.kind != 5 && c.wire != 0 && c.wire != s.format && !(c.wire == 2 && isFp8 s.format)

/-- R306: RM and SAT. -/
def collRounding (c : Coll) (s d : Tensor) : Bool :=
  (!c.rm || collNarrows c s d) && (!c.sat || ((c.kind == 2 || c.kind == 4) && isFp8 c.wire && collNarrows c s d))

/-- R306: a collective tensor lies in device memory, natural, not CBD, RANK 1. -/
def collTensorOk (t : Tensor) : Bool := t.space == 3 && !t.pi4 && !t.cbd && !t.window && t.rank == 1

/-- The reserved bits and ranges of an entry (R295, R322); `rsv` says the reserved bytes are 0. -/
def collFieldsOk (c : Coll) (rsv : Bool) : Bool :=
  rsv && between 1 c.kind 5 && wireOk c.kind c.wire && between 2 c.members 65536
    && (if c.kind == 4 then decide (c.root < c.members) else c.root == 0)
    && (List.range 17).all (fun j => if j < collLevels c then decide (1 ≤ c.lframes.getD j 0) else c.lframes.getD j 0 == 0)
    && (if c.kind == 5 then c.elements % 512 == 0 else c.scratch == 0xFFFF && c.elements % 256 == 0 && decide (0 < c.elements))
    && c.linkMask != 0

def collRsvOk (m : Memory) (a : Nat) : Bool :=
  decide (rdLe m (a + 2) 1 < 8) && rdLe m (a + 3) 1 == 0 && rdLe m (a + 0xF) 1 == 0 && decide (rdLe m (a + 0x10) 8 < 2 ^ 36)
    && allZero m (a + 0x5A) 6 && allZero m (a + 0x68) 24

/-- R297: a send map in order, one contribution of a core to a block. -/
def sendMapOk (m : Memory) (c : Coll) : Bool :=
  let es := sendMap m c
  (List.range es.length).all (fun i => allZero m (c.listOff + 16 * i + 2) 2
      && (i == 0 || decide ((es.getD (i - 1) ⟨0, 0, 0⟩).core ≤ (es.getD i ⟨0, 0, 0⟩).core)))
    && es.all (fun e => decide (e.first + e.count ≤ collBlocks c))
    && (List.range es.length).all (fun i => (List.range i).all (fun j =>
        let x := es.getD i ⟨0, 0, 0⟩
        let y := es.getD j ⟨0, 0, 0⟩
        x.core != y.core || decide (x.first + x.count ≤ y.first ∨ y.first + y.count ≤ x.first)))

/-- R305: a move list. -/
def moveListOk (m : Memory) (c : Coll) : Bool :=
  (List.range c.listCount).all (fun i =>
    let a := c.listOff + 32 * i
    allZero m (a + 4) 4 && decide (rdLe m a 4 < c.members) && rdLe m (a + 8) 8 % 512 == 0
      && rdLe m (a + 16) 8 % 512 == 0 && rdLe m (a + 24) 8 % 512 == 0)

/-- R306, R154: the tensors hold what the collective reads and writes; a move stays within SRC. -/
def collSizesOk (c : Coll) (rank : Nat) (s d : Tensor) (mv : List Move) : Bool :=
  let own := 256 * (chunkFirst c (rank + 1) - chunkFirst c rank)
  match c.kind with
  | 1 => tensorElems s == c.elements && tensorElems d == own
  | 2 => tensorElems s == own && tensorElems d == c.elements
  | 3 => tensorElems s == c.elements && tensorElems d == c.elements
  | 4 => tensorElems s == c.elements && tensorElems d == c.elements
  | _ => mv.all (fun m => decide (m.srcOff + m.bytes ≤ rowBytes s))

/-- R322: one collective entry of a variant. -/
def collOk (g : Image) (v i : Nat) : Bool :=
  let a := collTable g v + 128 * i
  let c := collAt g v i
  let ms := memberList g.bytes c
  let entry := if c.kind == 5 then 32 else 16
  collFieldsOk c (collRsvOk g.bytes a)
    && decide (levelStart c (collLevels c) ≤ (variantAt g v).frames)
    && decide (c.memberOff + 2 * c.members ≤ g.size)
    && (c.listOff == 0 || decide (c.listOff + entry * c.listCount ≤ g.size)) && (c.listOff != 0 || c.listCount == 0)
    && ascending ms && ms.contains g.logicalId
    && named g c.src && named g c.dst && (c.kind != 5 || named g c.scratch)
    && collTensorOk (tensorAt g c.src) && collTensorOk (tensorAt g c.dst)
    && (c.kind != 5 || collTensorOk (tensorAt g c.scratch))
    && collFormats c (tensorAt g c.src) (tensorAt g c.dst) && collRounding c (tensorAt g c.src) (tensorAt g c.dst)
    && collSizesOk c (rankOf ms g.logicalId) (tensorAt g c.src) (tensorAt g c.dst)
        (if c.kind == 5 then moveList g.bytes c else [])
    && (if c.kind == 5 then moveListOk g.bytes c else sendMapOk g.bytes c)

/-- R294, R322: the collective plan of a variant. -/
def collPlanOk (g : Image) (v : Nat) : Bool :=
  let h := collHeader g v
  decide (h + 64 ≤ g.size) && decide (collCount g v ≤ 4096) && allZero g.bytes (h + 2) 6 && allZero g.bytes (h + 16) 48
    && decide (collTable g v + 128 * collCount g v ≤ g.size) && (List.range (collCount g v)).all (collOk g v)

/-- R219: the staging stream that gates a stream. -/
def gateOf (g : Image) (x : Stream) : Option Stream :=
  if x.gate == 0xFF then none
  else (streamIx g x.variant x.core x.gate).map (streamAt g)

/-- R215: the offsets of the buffers of a stream's ring. -/
def ringOffsets (x : Stream) : List Int := (List.range x.buffers).map (bufOffset x)

/-- R218: the offsets at which a bundle of core q may address tensor i: those of the ring whose tensor it is, and buffer 0. -/
def bundleOffsets (g : Image) (v q i : Nat) : List Int :=
  match ((List.range (streamCount g)).map (streamAt g)).find? (fun y =>
      y.variant == v && streamMember y q && ringTensor y == i && !isStaging g y) with
  | some y => ringOffsets y
  | none => [0]

/-- R215, R219: the offsets at which a stream addresses its memory-side tensor, over all chunks at MAX_LEN. -/
def farOffsets (g : Image) (x : Stream) (n : Nat) : List Int :=
  match gateOf g x with
  | some y => (ringOffsets y).flatMap (fun o => (List.range x.perGate).map (fun j => o + (j : Int) * x.adv0))
  | none => (List.range n).map (memOffset x)

/-- R154: the local extents of the tensors the bundles and streams name, at MAX_LEN of each variant. -/
def extentsOk (g : Image) (commons : Nat × Nat) : Bool :=
  (List.range g.variantCount).all (fun v =>
    let len := (variantAt g v).maxLen
    (allCores g).all (fun q =>
      let st := stageAt g v q
      (walkLoops (stageBundles g v q) []).all (fun x =>
        match tripCounts g st len x.2 with
        | none => true
        | some n => (bundleTensors g x.1).all (fun i => (bundleOffsets g v q i.1).all (fun o =>
            localFits commons (shiftTensor (tensorAt g i.1) o) n)))))
  && (List.range (streamCount g)).all (fun i =>
    let x := streamAt g i
    let n := chunkCount g x (variantAt g x.variant).maxLen
    n == 0 || ((ringOffsets x).all (fun o => localFits commons (shiftTensor (tensorAt g (ringTensor x)) o) onceTrips)
      && (farOffsets g x n).all (fun o => localFits commons (shiftTensor (tensorAt g (farTensor x)) o) onceTrips)))

/-- R154, R188: every device-memory row that the variants of `vs` can reach satisfies p (write, first byte, last byte). -/
def deviceOkIn (g : Image) (vs : Nat → Bool) (p : Bool → Int → Int → Bool) : Bool :=
  (List.range (streamCount g)).all (fun i =>
    let x := streamAt g i
    !vs x.variant || (farOffsets g x (chunkCount g x (variantAt g x.variant).maxLen)).all (fun o =>
      deviceRowsOk p (shiftTensor (tensorAt g (farTensor x)) o) onceTrips x.out))
  && (List.range g.variantCount).all (fun v => !vs v || (List.range (collCount g v)).all (fun i =>
    let c := collAt g v i
    deviceRowsOk p (tensorAt g c.src) onceTrips (c.kind == 1 || c.kind == 3)
      && deviceRowsOk p (tensorAt g c.dst) onceTrips true
      && (c.kind != 5 || deviceRowsOk p (tensorAt g c.scratch) onceTrips true)))

/-- R188: every device-memory row the image can reach satisfies p. -/
def deviceOk (g : Image) (p : Bool → Int → Int → Bool) : Bool := deviceOkIn g (fun _ => true) p

/-- R127, R178, R323: the image uses nothing that stepping A1 lacks. -/
def a1Ok (g : Image) : Bool :=
  (List.range g.variantCount).all (fun v =>
    (allCores g).all (fun q => (stageBundles g v q).all (fun b =>
      !hasArray b ||
        (let sl := arraySlot b
        let c := chainAt g sl.chain
        sl.shape != 4 && c.pro.all (fun e => e.code != 7)
          && c.epi.all (fun e => !((e.code == 0x16 || e.code == 0x18) && e.flags == 2)))))
      && (List.range (collCount g v)).all (fun i =>
        let c := collAt g v i
        !between 8 c.wire 0xC || c.kind == 2 || c.kind == 4 || c.kind == 5))

/-- Check 10 of Table 2.7, but for reach and the ACCESS_DENIED cases. `commons` is the section's slices on each die. -/
def check10 (g : Image) (commons : Nat × Nat) : Bool :=
  between 1 g.deviceCount 65536 && decide (g.logicalId < g.deviceCount)
    && tensorTableOk g && regionOk g && streamTableOk g
    && (List.range g.variantCount).all (fun v =>
        decide ((variantAt g v).planOff + 64 * gradeCores g.grade + 64 ≤ g.size)
          && (allCores g).all (stageOk g v) && collPlanOk g v)
    && (allCores g).all (storeFits g)
    && extentsOk g commons

end Sys2Proof.Machine
end

