-- ==== Sys2Proof/Machine/GroveOps.lean ====
section
/-!
DEFINITION. What the grove units compute (R231-R252), apart from admission: the operation record, placement, the
per-frame budget, and the arithmetic of each operation, granule by granule.
-/
namespace Sys2Proof.Machine

/-- The operation record of Table 8.3, from its 128 bytes as one number, byte k at bits 8 k up. -/
structure GroveRec where
  op : Nat
  flush : Bool
  rm : Bool
  gated : Bool
  contrib : Bool
  init : Bool
  biascorr : Bool
  fmtA : Nat
  fmtB : Nat
  qcount : Nat
  d : Nat
  count : Nat
  elemBase : Nat
  tid : Nat × Nat × Nat
  limit : Nat
  opnd : List Nat
  result : Nat
  startFrame : Nat
  p : List Nat
  rsv : Bool
  deriving DecidableEq, Repr

/-- An n-byte field at byte offset `off` of a number. -/
def nfld (x off n : Nat) : Nat := (x >>> (8 * off)) % 2 ^ (8 * n)

def groveRecOf (x : Nat) : GroveRec :=
  let f := nfld x 1 1
  { op := nfld x 0 1
    flush := f % 2 == 1, rm := (f / 2) % 2 == 1, gated := (f / 4) % 2 == 1, contrib := (f / 8) % 2 == 1
    init := (f / 16) % 2 == 1, biascorr := (f / 32) % 2 == 1
    fmtA := nfld x 2 1, fmtB := nfld x 3 1, qcount := nfld x 4 1, d := nfld x 6 2
    count := nfld x 8 8, elemBase := nfld x 0x10 8
    tid := (nfld x 0x18 4, nfld x 0x1C 4, nfld x 0x20 4), limit := nfld x 0x24 4
    opnd := (List.range 5).map (fun k => nfld x (0x28 + 8 * k) 8)
    result := nfld x 0x50 8, startFrame := nfld x 0x58 8
    p := (List.range 6).map (fun k => nfld x (0x60 + 4 * k) 4)
    rsv := f / 64 == 0 && nfld x 5 1 == 0 && nfld x 0x78 8 == 0 }

def opndOf (r : GroveRec) (k : Nat) : Nat := r.opnd.getD k 0
def paramOf (r : GroveRec) (k : Nat) : Nat := r.p.getD k 0

/-- Table 8.4: the operations. -/
inductive GroveOp where
  | fill | copy | add | mul | axpby | accum | sumsq | scan | digest | qkscan | adamw | lion | sgdm
  deriving DecidableEq, Repr

def groveOpOf : Nat → Option GroveOp
  | 0x01 => some .fill | 0x02 => some .copy | 0x03 => some .add | 0x04 => some .mul | 0x05 => some .axpby
  | 0x10 => some .accum | 0x11 => some .sumsq | 0x12 => some .scan | 0x13 => some .digest | 0x14 => some .qkscan
  | 0x20 => some .adamw | 0x21 => some .lion | 0x22 => some .sgdm
  | _ => none

def isOpt : GroveOp → Bool
  | .adamw => true | .lion => true | .sgdm => true | _ => false

/-- Operands in use other than the count word, with their granule transfers (Table 8.4, R252). `qk` is the charge of
a key granule. -/
def groveOperands (o : GroveOp) (init : Bool) (qk : Nat) : List (Nat × Nat) :=
  match o with
  | .fill => [(0, 1)]
  | .copy => [(0, 1), (1, 1)]
  | .add => [(0, 1), (1, 1), (2, 1)]
  | .mul => [(0, 1), (1, 1), (2, 1)]
  | .axpby => [(0, 1), (1, 1), (2, 1)]
  | .accum => [(0, if init then 1 else 2), (1, 1)]
  | .sumsq => [(0, 1)]
  | .scan => [(0, 1)]
  | .digest => [(0, 1)]
  | .qkscan => [(0, qk)]
  | .adamw => [(0, 2), (1, 2), (2, 2), (3, 1)]
  | .lion => [(0, 2), (1, 2), (3, 1)]
  | .sgdm => [(0, 2), (1, 2), (3, 1)]

/-- Operands that the operation writes. -/
def groveWrites : GroveOp → List Nat
  | .sumsq => [] | .scan => [] | .digest => [] | .qkscan => []
  | .adamw => [0, 1, 2] | .lion => [0, 1] | .sgdm => [0, 1]
  | _ => [0]

/-- The input that Table 8.5 places under FMT_B. -/
def fmtBInput : GroveOp → Option Nat
  | .add => some 2 | .mul => some 2 | .axpby => some 2 | .accum => some 1 | .qkscan => some 1
  | .adamw => some 3 | .lion => some 3 | .sgdm => some 3
  | _ => none

/-- Element width of a format code in bytes; 4 stands in for a reserved code. -/
def codeBytes (f : Nat) : Nat := codeBits ((codeOf f).getD .int32) / 8

/-- R243: bytes of an operand. -/
def groveBytes (r : GroveRec) (o : GroveOp) : Nat :=
  if o == .qkscan then r.count * r.d * 2 else r.count * codeBytes r.fmtA

/-- Bytes of the result area (Table 8.6). -/
def resultBytes (r : GroveRec) (o : GroveOp) : Nat :=
  match o with
  | .sumsq => 0x408 | .scan => 0x410 | .digest => 0x408 | .qkscan => 2048 * r.qcount
  | _ => 0

def disjointOrEqual (a b n : Nat) : Bool := a == b || decide (a + n ≤ b ∨ b + n ≤ a)

/-- R242: formats and flags of an operation. -/
def groveFormatsOk (r : GroveRec) (o : GroveOp) : Bool :=
  let fp (f : Nat) : Bool := decide (f ≤ 2)
  (match o with
   | .scan => decide (r.fmtA ≤ 4)
   | .digest => (codeOf r.fmtA).isSome && !(decide (8 ≤ r.fmtA ∧ r.fmtA ≤ 0xD))
   | .qkscan => r.fmtA == 2
   | .adamw => r.fmtA == 1 || r.fmtA == 2
   | .lion => r.fmtA == 1 || r.fmtA == 2
   | .sgdm => r.fmtA == 1 || r.fmtA == 2
   | _ => fp r.fmtA)
    && (match fmtBInput o with
        | none => r.fmtB == 0
        | some _ => r.fmtB != 0 && fp r.fmtB && codeBytes r.fmtA == codeBytes r.fmtB && (o != .qkscan || r.fmtB == 2))
    && (!r.rm || ((o == .accum || isOpt o) && codeBytes r.fmtA == 2))
    && (!r.init || o == .accum) && (!r.biascorr || o == .adamw) && (!r.gated || isOpt o) && (!r.contrib || o == .scan)

/-- Check 1 of Table 8.7 (R32, R240, R242, R243, R251, R262). By R242's own words an FMT_B of 0 (the code of binary32)
is refused where an input stands under FMT_B (log entry 19). -/
def groveCheck1 (r : GroveRec) (a1 : Bool) : Bool :=
  match groveOpOf r.op with
  | none => false
  | some o =>
    let used := (groveOperands o r.init 1).map (·.1)
    let n := groveBytes r o
    r.rsv && !(a1 && o == .lion) && groveFormatsOk r o
      && decide (1 ≤ r.count ∧ r.elemBase + r.count ≤ 2 ^ 40) && decide (r.limit ≤ 16777215)
      && (if o == .qkscan then decide (1 ≤ r.qcount ∧ r.qcount ≤ (if a1 then 4 else 8)) && (r.d == 64 || r.d == 128)
            && decide (r.count * r.d ≤ 2 ^ 40) && opndOf r 1 % 256 == 0
          else r.qcount == 0 && r.d == 0)
      && decide (r.tid.1 < 2 ^ 24 ∧ r.tid.2.1 < 2 ^ 24 ∧ r.tid.2.2 < 2 ^ 24)
      && used.all (fun k => opndOf r k % 256 == 0)
      && (List.range 4).all (fun k => used.contains k || (o == .qkscan && k == 1) || opndOf r k == 0)
      && (if isOpt o then opndOf r 4 % 4 == 0 else opndOf r 4 == 0)
      && (if resultBytes r o == 0 then r.result == 0 else r.result % 64 == 0)
      && (groveWrites o).all (fun k => used.all (fun j => j == k || disjointOrEqual (opndOf r k) (opndOf r j) n))
      && (!isOpt o || used.all (fun k => decide (opndOf r 4 + 4 ≤ opndOf r k ∨ opndOf r k + n ≤ opndOf r 4)))

/-- R181, R182: where a byte of device memory lies: the stack or bridge, the channel of the stack (or of the package), the
pseudo-channel (or the package), and the byte offset within it. -/
structure Spot where
  unit : Nat
  channel : Nat
  part : Nat
  offset : Nat
  deriving DecidableEq, Repr

/-- R181: the stack, channel, pseudo-channel and offset of a canopy address. -/
def canopyPlace (a : Nat) : Spot :=
  let h := ((a >>> 8) % 512) ^^^ ((a >>> 17) % 512)
  ⟨h % 8, h / 8 % 32, h / 256, (a >>> 26) % 2 ^ 13 * 2 ^ 17 + (a >>> 17) % 512 * 2 ^ 8 + a % 256⟩

/-- R236: the same for an address in a bank-pinned block. -/
def pinnedPlace (a : Nat) : Spot :=
  let o := a % 2 ^ 26
  let i := o >>> 18
  ⟨i / 32, i % 32, (o >>> 8) % 2, (a >>> 26) % 2 ^ 13 * 2 ^ 17 + (o >>> 9) % 512 * 2 ^ 8 + o % 256⟩

/-- R182: the bridge, LPDDR5X channel, package and offset of an understorey address, from its offset o in the tier. -/
def underPlace (o : Nat) : Spot :=
  let h := ((o >>> 8) % 256) ^^^ ((o >>> 16) % 256) ^^^ ((o >>> 24) % 4)
  ⟨h % 4, h / 64, h / 4 % 16, (o >>> 26) % 2 ^ 15 * 2 ^ 18 + (o >>> 16) % 2 ^ 10 * 2 ^ 8 + o % 256⟩

/-- R181, R236: the grove engine, 0 to 255, whose channel holds a canopy location; `pinned` is its block's mode. -/
def groveEngine (pinned : Bool) (a : Nat) : Nat :=
  let p := if pinned then pinnedPlace a else canopyPlace a
  32 * p.unit + p.channel

/-- R234: granule transfers of a grove slot k at period p. -/
def slotTransfers (p k : Nat) : Nat :=
  let lo := k * p * 20
  let hi := min ((k + 1) * p * 20) (p * 1000 - 200)
  3 * (hi - lo) / 8

/-- R243: the 256-byte granules an operand touches, by their index from its address. -/
def granules (n : Nat) : List Nat := List.range ((n + 255) / 256)

/-- R252: the transfers a command needs in engine e, the set-up charge included; 0 where no granule lies there. -/
def groveNeed (ops : List (Nat × Nat)) (eng : Nat → Nat) (n : Nat) (r : GroveRec) (e : Nat) : Nat :=
  let t := (ops.map (fun k => k.2 * ((granules n).filter (fun i => eng (opndOf r k.1 + 256 * i) == e)).length)).sum
  if t == 0 then 0 else t + 32

/-- Reading of device bytes by logical address, after redirection (R201). -/
abbrev DevRead := Nat → Nat

def devLe (rd : DevRead) (a : Nat) : Nat → Nat
  | 0 => 0
  | n + 1 => rd a % 256 + 256 * devLe rd (a + 1) n

/-- The work of one granule position: the engine, the flags and the bytes written. -/
structure GroveItem where
  engine : Nat
  flags : NumFlags
  writes : List (Nat × Nat)
  deriving DecidableEq, Repr

/-- Constants of an optimiser command (R245). -/
structure OptConst where
  om1 : Nat
  om2 : Nat
  c1 : Nat
  c2 : Nat
  t : Nat
  flags : NumFlags
  deriving DecidableEq, Repr

def one32 : Nat := 0x3F800000

/-- fp32(t) for the INT32 t (R27). -/
def int32ToFp (c : Eng) (t : Nat) : Nat × NumFlags := roundTo c .fp32 .rne false (intVal 32 t)

/-- R245: 1 - exp2(fp32(t) * log2(b)). -/
def biasTerm (c : Eng) (t b : Nat) : Nat × NumFlags :=
  let (l, f1) := fn32 c .log2 b
  let (ft, f2) := int32ToFp c t
  let (m, f3) := mul32 c ft l
  let (x, f4) := fn32 c .exp2 m
  let (y, f5) := sub32 c one32 x
  (y, f1 ||| f2 ||| f3 ||| f4 ||| f5)

def optConst (c : Eng) (o : GroveOp) (r : GroveRec) (count : Nat) : OptConst :=
  let t := if count == 0x7FFFFFFF then count else (count + 1) % 2 ^ 32
  let b1 := paramOf r 1
  let b2 := paramOf r 2
  let (om1, f1) := if o == .sgdm then (0, fNone) else sub32 c one32 b1
  let (om2, f2) := if o == .sgdm then (0, fNone) else sub32 c one32 b2
  let (c1, f3) := if o == .adamw && r.biascorr then biasTerm c t b1 else (one32, fNone)
  let (c2, f4) := if o == .adamw && r.biascorr then biasTerm c t b2 else (one32, fNone)
  ⟨om1, om2, c1, c2, t, f1 ||| f2 ||| f3 ||| f4⟩

/-- An operand element widened to binary32 (R244). -/
def widen32 (c : Eng) (f : Fmt) (x : Nat) : Nat × NumFlags :=
  if f == .fp32 then (x, fNone) else convertFp c f .fp32 .rne false x

/-- The binary format of a code 0x00 to 0x04. -/
def fmtOfCode (k : Nat) : Fmt :=
  match codeOf k with
  | some (.fp f) => f
  | _ => .fp32

/-- R244: the store to FMT_A by one narrowing; a binary32 store is the value itself. -/
def groveStore (c : Eng) (f : Fmt) (rm : Rm) (x : Nat) : Nat × NumFlags :=
  if f == .fp32 then (x, fNone) else roundTo c f rm false (decodeFmt .fp32 x)

/-- R244: a value that is read under flush mode and stored by one narrowing, with no arithmetic between (FILL and COPY): a
NaN becomes the canonical NaN. -/
def restore (c : Eng) (src dst : Fmt) (x : Nat) : Nat × NumFlags :=
  let (v, f1) := readIn c src x
  let (y, f2) := roundTo c dst .rne false v
  (y, f1 ||| f2)

def neg32 (x : Nat) : Nat := x ^^^ 0x80000000

/-- R245: sign of a value: +1 or −1; +0 for either zero; NaN stays NaN. -/
def sign32 (x : Nat) : Nat :=
  match decodeFmt .fp32 x with
  | .nan => 0x7FC00000
  | v => if valIsZero v then 0 else if valNeg v then 0xBF800000 else one32

/-- A sequence of binary32 steps that gathers flags. -/
abbrev Acc (α : Type) := α × NumFlags

/-- R245: one element of an optimiser template: new w, m, v in binary32, and the flags. -/
def optElem (c : Eng) (o : GroveOp) (r : GroveRec) (k : OptConst) (w m v g : Nat) : (Nat × Nat × Nat) × NumFlags :=
  let lr := neg32 (paramOf r 0)
  let b1 := paramOf r 1
  let b2 := paramOf r 2
  let (g, f0) := mul32 c g (paramOf r 5)
  match o with
  | .adamw =>
    let (a1, f1) := mul32 c k.om1 g
    let (m1, f2) := fma32 c b1 m a1
    let (gg, f3) := mul32 c g g
    let (a2, f4) := mul32 c k.om2 gg
    let (v1, f5) := fma32 c b2 v a2
    let (u1, f6) := div32 c m1 k.c1
    let (q, f7) := div32 c v1 k.c2
    let (s, f8) := fn32 c .sqrt q
    let (d, f9) := add32 c s (paramOf r 3)
    let (u, f10) := div32 c u1 d
    let (u, f11) := fma32 c (paramOf r 4) w u
    let (w1, f12) := fma32 c lr u w
    ((w1, m1, v1), f0 ||| f1 ||| f2 ||| f3 ||| f4 ||| f5 ||| f6 ||| f7 ||| f8 ||| f9 ||| f10 ||| f11 ||| f12)
  | .lion =>
    let (a1, f1) := mul32 c k.om1 g
    let (x, f2) := fma32 c b1 m a1
    let (u, f3) := fma32 c (paramOf r 4) w (sign32 x)
    let (w1, f4) := fma32 c lr u w
    let (a2, f5) := mul32 c k.om2 g
    let (m1, f6) := fma32 c b2 m a2
    ((w1, m1, v), f0 ||| f1 ||| f2 ||| f3 ||| f4 ||| f5 ||| f6)
  | _ =>
    let (m1, f1) := fma32 c b1 m g
    let (u, f2) := fma32 c (paramOf r 4) w m1
    let (w1, f3) := fma32 c lr u w
    ((w1, m1, v), f0 ||| f1 ||| f2 ||| f3)

/-- The element widths and formats of a record. -/
def fmtA (r : GroveRec) : Fmt := fmtOfCode r.fmtA
def fmtB (r : GroveRec) : Fmt := fmtOfCode r.fmtB

/-- An element of operand k widened to binary32. -/
def opndElem (c : Eng) (rd : DevRead) (r : GroveRec) (f : Fmt) (k i : Nat) : Nat × NumFlags :=
  let w := fmtBits f / 8
  widen32 c f (devLe rd (opndOf r k + i * w) w)

/-- R244-R246: element i of a writing operation: (operand, stored value) pairs and the flags. -/
def groveElem (c : Eng) (rd : DevRead) (o : GroveOp) (r : GroveRec) (k : OptConst) (seed step : Nat) (i : Nat) :
    List (Nat × Nat) × NumFlags :=
  let fa := fmtA r
  let fb := fmtB r
  let rm (tid : Nat) : Rm := rmOf r.rm ⟨seed, step, tid⟩ (r.elemBase + i)
  let put (x : Nat × NumFlags) (f : NumFlags) : List (Nat × Nat) × NumFlags :=
    let (y, f2) := groveStore c fa (rm r.tid.1) x.1
    ([(0, y)], f ||| x.2 ||| f2)
  match o with
  | .fill =>
    let (y, f) := restore c .fp32 fa (paramOf r 0)
    ([(0, y)], f)
  | .copy =>
    let (y, f) := restore c fa fa (devLe rd (opndOf r 1 + i * codeBytes r.fmtA) (codeBytes r.fmtA))
    ([(0, y)], f)
  | .add =>
    let (a, f1) := opndElem c rd r fa 1 i
    let (b, f2) := opndElem c rd r fb 2 i
    put (add32 c a b) (f1 ||| f2)
  | .mul =>
    let (a, f1) := opndElem c rd r fa 1 i
    let (b, f2) := opndElem c rd r fb 2 i
    put (mul32 c a b) (f1 ||| f2)
  | .axpby =>
    let (a, f1) := opndElem c rd r fa 1 i
    let (b, f2) := opndElem c rd r fb 2 i
    let (x, f3) := mul32 c (paramOf r 1) b
    put (fma32 c (paramOf r 0) a x) (f1 ||| f2 ||| f3)
  | .accum =>
    let (g, f1) := opndElem c rd r fb 1 i
    if r.init then put (mul32 c (paramOf r 0) g) f1
    else
      let (a, f2) := opndElem c rd r fa 0 i
      put (fma32 c (paramOf r 0) g a) (f1 ||| f2)
  | .sumsq => ([], fNone)
  | .scan => ([], fNone)
  | .digest => ([], fNone)
  | .qkscan => ([], fNone)
  | o =>
    let (w, f1) := opndElem c rd r fa 0 i
    let (m, f2) := opndElem c rd r fa 1 i
    let (v, f3) := if o == .adamw then opndElem c rd r fa 2 i else (0, fNone)
    let (g, f4) := opndElem c rd r fb 3 i
    let ((w1, m1, v1), f5) := optElem c o r k w m v g
    let (sw, f6) := groveStore c fa (rm r.tid.1) w1
    let (sm, f7) := groveStore c fa (rm r.tid.2.1) m1
    let (sv, f8) := if o == .adamw then groveStore c fa (rm r.tid.2.2) v1 else (0, fNone)
    ([(0, sw), (1, sm)] ++ (if o == .adamw then [(2, sv)] else []),
      f1 ||| f2 ||| f3 ||| f4 ||| f5 ||| f6 ||| f7 ||| f8)

/-- Elements in granule position i of OPND0. -/
def granuleElems (r : GroveRec) (i : Nat) : List Nat :=
  let per := 256 / codeBytes r.fmtA
  (List.range per).filterMap (fun j => if i * per + j < r.count then some (i * per + j) else none)

/-- Table 8.4: the flags that an operation can set; another flag of its steps is not raised (log entry 19). -/
def groveFlags : GroveOp → NumFlags
  | .fill => fNX ||| fOF
  | .copy => fNone
  | .sumsq => fNX ||| fUF ||| fOF ||| fFZ
  | .scan => fNone
  | .digest => fNone
  | .qkscan => fNX ||| fUF ||| fOF ||| fNV
  | _ => fNX ||| fUF ||| fOF ||| fNV ||| fFZ

/-- R244: the work of granule position i of a writing operation. -/
def groveItem (c : Eng) (rd : DevRead) (eng : Nat → Nat) (o : GroveOp) (r : GroveRec) (k : OptConst)
    (seed step i : Nat) : GroveItem :=
  let w := codeBytes r.fmtA
  let es := (granuleElems r i).map (fun j => (j, groveElem c rd o r k seed step j))
  { engine := eng (opndOf r 0 + 256 * i)
    flags := es.foldl (fun (f : NumFlags) e => f ||| e.2.2) (if isOpt o then k.flags else fNone) &&& groveFlags o
    writes := es.flatMap (fun e => e.2.1.flatMap (fun x =>
      (leBytes w x.2).mapIdx (fun b y => (opndOf r x.1 + e.1 * w + b, y)))) }

/-- The elements of OPND0 in engine e, ascending. -/
def engineElems (eng : Nat → Nat) (r : GroveRec) (bytesPer e : Nat) : List Nat :=
  (List.range r.count).filter (fun i => eng (opndOf r 0 + i * bytesPer) == e)

/-- R247: the channel sum of engine e. -/
def sumsqChannel (c : Eng) (rd : DevRead) (eng : Nat → Nat) (r : GroveRec) (e : Nat) : Nat × NumFlags :=
  (engineElems eng r (codeBytes r.fmtA) e).foldl (fun (s : Nat × NumFlags) i =>
    let (x, f1) := opndElem c rd r (fmtA r) 0 i
    let (y, f2) := fma32 c x x s.1
    (y, s.2 ||| f1 ||| f2)) (0, fNone)

/-- R247: the card total: the channel sums added in ascending engine index. -/
def sumsqTotal (c : Eng) : List Nat → Nat × NumFlags
  | [] => (0, fNone)
  | x :: xs => xs.foldl (fun (s : Nat × NumFlags) y =>
      let (z, f) := add32 c s.1 y
      (z, s.2 ||| f)) (x, fNone)

/-- R248: a non-finite encoding of the format. -/
def nonFinite (f : Fmt) (x : Nat) : Bool := !valIsFin (decodeFmt f x)

/-- R250: the CRC of the operand's bytes in engine e; 0 for an empty channel. -/
def digestChannel (rd : DevRead) (eng : Nat → Nat) (r : GroveRec) (n e : Nat) : Nat :=
  let bs := (List.range n).filter (fun b => eng (opndOf r 0 + b) == e)
  if bs.isEmpty then 0 else crc32c (bs.map (fun b => rd (opndOf r 0 + b)))

/-- R249: one key added to a partial (m, l). -/
def qkStep (c : Eng) (cf : Nat) (ml : (Nat × Nat) × NumFlags) (x : Nat) (fx : NumFlags) : (Nat × Nat) × NumFlags :=
  let m := ml.1.1
  let l := ml.1.2
  let (l, m, f1) :=
    if valLt (decodeFmt .fp32 m) (decodeFmt .fp32 x) then
      let (d, g1) := sub32 c m x
      let (y, g2) := mul32 c cf d
      let (z, g3) := fn32 c .exp2 y
      let (l2, g4) := mul32 c l z
      (l2, x, g1 ||| g2 ||| g3 ||| g4)
    else (l, m, fNone)
  let (d, g1) := sub32 c x m
  let (y, g2) := mul32 c cf d
  let (z, g3) := fn32 c .exp2 y
  let (l2, g4) := add32 c l z
  ((m, l2), ml.2 ||| fx ||| f1 ||| g1 ||| g2 ||| g3 ||| g4)

/-- R249: the score of key j for query q: product exact, one rounding per addition. -/
def qkScore (c : Eng) (rd : DevRead) (r : GroveRec) (q j : Nat) : Nat × NumFlags :=
  (List.range r.d).foldl (fun (s : Nat × NumFlags) e =>
    let (a, f1) := readIn c .bf16 (devLe rd (opndOf r 1 + 2 * (r.d * q + e)) 2)
    let (b, f2) := readIn c .bf16 (devLe rd (opndOf r 0 + 2 * (r.d * j + e)) 2)
    let (y, f3) := macStep c (s.1, fNone) a b
    (y, s.2 ||| f1 ||| f2 ||| f3)) (0, fNone)

/-- R249: the partial of engine e for query q. -/
def qkChannel (c : Eng) (rd : DevRead) (eng : Nat → Nat) (r : GroveRec) (q e : Nat) : (Nat × Nat) × NumFlags :=
  (engineElems eng r (2 * r.d) e).foldl (fun ml j =>
    let (x, f) := qkScore c rd r q j
    qkStep c (paramOf r 0) ml x f) ((0xFF800000, 0), fNone)

/-- All the engines of R231. -/
def engines256 : List Nat := List.range 256

/-- The outcome of a command's arithmetic: granule work, the result area, the operation result (R401), the new count
word, and whether a SCAN found anything. -/
structure GroveWork where
  items : List GroveItem
  area : List Nat
  result : Nat
  count : Option Nat
  deriving DecidableEq, Repr

/-- R244-R251: all that the grove units compute for a command. -/
def groveWork (c : Eng) (rd : DevRead) (eng : Nat → Nat) (o : GroveOp) (r : GroveRec) (seed step : Nat) : GroveWork :=
  let n := groveBytes r o
  let w := codeBytes r.fmtA
  let flagItems (fs : List NumFlags) : List GroveItem := fs.mapIdx (fun e f => ⟨e, f &&& groveFlags o, []⟩)
  match o with
  | .sumsq =>
    let ss := engines256.map (sumsqChannel c rd eng r)
    let tot := sumsqTotal c (ss.map (·.1))
    let fs := ss.mapIdx (fun e s => s.2 ||| (if (engineElems eng r w e).isEmpty then fNone else tot.2))
    ⟨flagItems fs, ss.flatMap (fun s => leBytes 4 s.1) ++ leBytes 4 tot.1 ++ [0, 0, 0, 0], tot.1, none⟩
  | .scan =>
    let bad := (List.range r.count).filter (fun i => nonFinite (fmtA r) (devLe rd (opndOf r 0 + i * w) w))
    let cnt (e : Nat) : Nat := (bad.filter (fun i => eng (opndOf r 0 + i * w) == e)).length
    let first := match bad with
      | [] => 2 ^ 64 - 1
      | i :: _ => opndOf r 0 + i * w
    ⟨[], engines256.flatMap (fun e => leBytes 4 (cnt e)) ++ leBytes 8 bad.length ++ leBytes 8 first, bad.length, none⟩
  | .digest =>
    let ds := engines256.map (digestChannel rd eng r n)
    let x := ds.foldl (fun a b => a ^^^ b) 0
    ⟨[], ds.flatMap (leBytes 4) ++ leBytes 4 x ++ [0, 0, 0, 0], x, none⟩
  | .qkscan =>
    let qs := (List.range r.qcount).map (fun q => engines256.map (qkChannel c rd eng r q))
    let fs := engines256.map (fun e => qs.foldl (fun (f : NumFlags) ch => f ||| (ch.getD e ((0, 0), fNone)).2) fNone)
    ⟨flagItems fs, qs.flatMap (fun ch => ch.flatMap (fun p => leBytes 4 p.1.1 ++ leBytes 4 p.1.2)), 0, none⟩
  | o =>
    let k := if isOpt o then optConst c o r (devLe rd (opndOf r 4) 4) else ⟨0, 0, 0, 0, 0, fNone⟩
    ⟨(granules n).map (groveItem c rd eng o r k seed step), [], 0, if isOpt o then some k.t else none⟩

end Sys2Proof.Machine
end

