-- ==== Sys2Proof/Machine/State.lean ====
section
/-!
DEFINITION. The state of the card, as plain data, and the state right after reset.
-/
namespace Sys2Proof.Machine

/-- Reasons to stop with a fault. No meaning raises one: the manual gives every command an effect, a status, a record or
a refusal bit. -/
inductive Fault where
  /-- Raised by nothing; safe. -/
  | unused
  deriving DecidableEq, Repr

/-- Reasons to refuse. -/
inductive Refusal where
  /-- Raised by an arm of exec whose command has no meaning yet; safe: it stops where the card goes on. -/
  | notModelled (mnemonic : String)
  deriving DecidableEq, Repr

/-! ### Identity -/

/-- R487, R510: the fused and flash identity; `otherSvn` is the version in the bank that does not run. `cmap` lists the physical core of every enabled logical core (R88). -/
structure Ident where
  grade : BitVec 8
  stepping : BitVec 8
  site0 : BitVec 4
  site1 : BitVec 4
  serial : W64
  cmap : List (BitVec 8)
  activeSvn : BitVec 8
  minSvn : BitVec 8
  stagedSvn : BitVec 8
  otherSvn : BitVec 8
  bank : Bool
  deriving DecidableEq, Repr

/-! ### Time -/

/-- Table 2.1. -/
inductive Lock where
  | free | acquiring | locked | holdover
  deriving DecidableEq, Repr

/-- R53-R63, R516: system time, its lock and the bell. `frame` is none before tick 0; `link` is the in-band link in use;
`inBound` counts in-bound messages (R55); `holdOffset` is the last offset measured before HOLDOVER began (R56); `since` is when the last valid message came or the state was entered. -/
structure Time where
  ns : W64
  frac : W32
  fracLatch : W32
  lock : Lock
  chg : Bool
  offset : W32
  holdOffset : W32
  inBound : Nat
  link : Option Link
  since : Nat
  holdSince : Nat
  gm : W64
  src : BitVec 2
  domain : BitVec 8
  hbPort : W16
  period : BitVec 7
  epoch : W64
  latch : W64
  bellRefused : Bool
  frame : Option Nat
  guard : Bool
  deriving DecidableEq, Repr

/-! ### Sections -/

/-- Table 17.8. -/
inductive SecSt where
  | free | assigned | scrubbing
  deriving DecidableEq, Repr

/-- The per-section registers of the SECT, HIF, FAB, MEM, GROVE, ERR and PWR blocks. Record registers are kept whole;
`rcCfg` is FAB_RCCFG, `rcRes` FAB_RCRES, `mrgn` MEM_MRGN[0..15]; `fills` the block fills a release waits for (R498). -/
structure Sect where
  st : SecSt
  clusters : W16
  ctlRefused : Bool
  commons : W32
  role : BitVec 2
  roleRefused : Bool
  cdoze : W16
  cdozeRefused : Bool
  winRd : Bool
  winWr : Bool
  winRefused : Bool
  quota : BitVec 7
  quotaRefused : Bool
  rcCfg : W32
  rcRes : W64
  rcAnd : W64
  rcOr : W64
  cfgRefused : Bool
  mrgnRefused : Bool
  pinRefused : Bool
  errOvr : W64
  ovrCount : W32
  errXpnd : W32
  errMem : W64
  groveErr : W64
  hifErr : W64
  errStep : W64
  errLoss : W64
  mrgn : Sparse W64
  fills : List Nat
  deriving DecidableEq, Repr

/-! ### Rings and commands in flight -/

/-- Table 14.5. -/
inductive RingSt where
  | idle | active | stopping | error | lost
  deriving DecidableEq, Repr

/-- R387-R393: a ring pair. `held` is the read order of the command that holds the ring (R396). -/
structure Ring where
  sqBase : W64
  cqBase : W64
  dbAddr : W64
  enable : Bool
  irqEn : Bool
  cqSize : BitVec 4
  sqSize : BitVec 4
  refused : Bool
  lastCmd : W16
  sqHead : Nat
  cqTail : Nat
  outstanding : Nat
  cause : BitVec 4
  st : RingSt
  chg : Bool
  sqTail : Nat
  cqHead : Nat
  phase : Bool
  rung : Bool
  held : Option Nat
  irqDue : Bool
  msixMasked : Bool
  msixPend : Bool
  deriving DecidableEq, Repr

/-- R72-R77: an admitted RUN. `mb` counts micro-batches begun, `done` those completed, `mbFirst` the first frame of the
one that runs; `start` is the start frame; `refRec` a repeat's reference record address with its ORIG_CRC list (R421);
`loose` marks a follow-on read with no RUN running or admitted (R209). -/
structure RunJob where
  lens : List Nat
  variants : List Nat
  start : Nat
  follow : Bool
  started : Bool
  mb : Nat
  mbFirst : Nat
  done : Nat
  refRec : Option Nat
  crcs : List Nat
  loose : Bool
  deriving DecidableEq, Repr

/-- R252-R258: an admitted GROVE command. `start` is none while the command `after`, which has no planned end, runs (R254);
`readAt` is the next tick as the device read it; `need` is F; `gate` the step whose roll call it still waits for. -/
structure GroveJob where
  bits : BitVec 1024
  start : Option Nat
  follow : Bool
  after : Option Nat
  readAt : Nat
  need : Nat
  gate : Option Nat
  work : Option GroveWork
  started : Bool
  deriving DecidableEq, Repr

/-- R404, R437: a CHECKPOINT; ranges are (SRC, DST, BYTES). -/
structure CkptJob where
  tranche : Nat
  ranges : List (Nat × Nat × Nat)
  digest : Nat
  started : Bool
  startFrame : Nat
  nextStep : Nat
  deriving DecidableEq, Repr

/-- R407: a RESHARD with the PERMUTE it carries. -/
structure ReshardJob where
  coll : Coll
  members : List Nat
  moves : List Move
  start : Nat
  started : Bool
  deriving DecidableEq, Repr

/-- What a command in flight still has to do. A drain waits for the records of the commands in `wait` and
counts those that are DRAINED; `netDrain` is the
drain that a DRAIN request of the fabric asks for (R429), which has no descriptor and no record; `frame` is the frame in
which it took effect. -/
inductive Job where
  | fence (upTo : Nat) (sum : W64) (count : Nat)
  | load (d : Desc)
  | run (r : RunJob)
  | grove (g : GroveJob)
  | migrate (pages : List Nat) (toCanopy : Bool) (copied : Nat)
  | pin (pages : List Nat)
  | checkpoint (k : CkptJob)
  | timeMark (frame : Nat)
  | reshard (r : ReshardJob)
  | inlineWrite (ws : List (Nat × Nat))
  | drain (effected : Bool) (count : Nat) (wait : List Nat)
  | netDrain (effected : Bool) (wait : List Nat) (frame : Nat)
  deriving DecidableEq, Repr

/-- Why a command stops at the next tick (R58, R80, R408, R428); `lost` with the host link, and then without a record (R384). -/
inductive Stop where
  | overrun (cause : Nat)
  | aborted
  | drained
  | lost
  deriving DecidableEq, Repr

/-- A command that the device has read and that has not completed. `carry` is the step whose counting command it is
(R327), `draw` the index that keys its draws (Table 16.3), `pages` the managed pages it names, `writes` and `reads` the
blocks it can write or only read (R377), `ringOrd` the ordinal of its descriptor within its ring (R457), `copies` the command copies of its engines (R47). -/
structure Cmd where
  ord : Nat
  ringOrd : Nat
  pair : Pair
  op : BitVec 8
  id : W16
  irq : Bool
  carry : Option Nat
  draw : Nat
  pages : List Nat
  writes : List Nat
  reads : List Nat
  copies : Sparse NumFlags
  stop : Option Stop
  job : Job
  deriving DecidableEq, Repr

/-- R410, R411: a completed command whose record is not yet written; `tick` marks a completion that falls on a tick. -/
structure Rec where
  ord : Nat
  ringOrd : Nat
  pair : Pair
  id : W16
  op : BitVec 8
  irq : Bool
  status : BitVec 8
  flagsum : W16
  detail : BitVec 8
  frame : W64
  result : BitVec 128
  tick : Bool
  deriving DecidableEq, Repr

/-! ### Steps -/

/-- R317, R318: a combined roll-call value. -/
structure Vote where
  bit : Bool
  missing : Bool
  voters : Nat
  andW : W64
  orW : W64
  cards : Nat
  deriving DecidableEq, Repr

/-- R329-R334: a pending step. `causes` are the ERR_STEP bits [11:7] of the card's contribution; `kept` the children's
flits (level, SRC, value); `value` is the card's combined value so far, and `level` the level it stands at. `no` is the read
order of the command that opened the step, since a SEED may open an index again (R329); `silent` marks a step closed as it
opened, for which the card sends nothing; `late` one whose GATED command did not find it returned in time (R334). -/
structure Pend where
  no : Nat
  step : Nat
  roll : Nat
  logicalId : Nat
  devices : Nat
  fifth : Bool
  silent : Bool
  late : Bool
  word : Option Nat
  forced : Bool
  incomplete : Bool
  flags : Bool
  scan : Bool
  closed : Bool
  causes : BitVec 5
  ownWord : W64
  value : Option Vote
  level : Nat
  kept : List (Nat × Nat × Vote)
  result : Option Vote
  taken : Bool
  lost : Bool
  deriving DecidableEq, Repr

/-- R327-R329: a section's step index. `last` is the last step opened since the most recent SEED with its ROLL_FRAME;
`latest` the latest opened step of all (R434);
`outcomes` the roll calls that have returned since the last SEED (R334), none for a lost one. -/
structure Steps where
  seed : W64
  seeded : Bool
  next : Option Nat
  last : Option (Nat × Nat)
  latest : Option Nat
  pend : List Pend
  outcomes : List (Nat × Option Vote)
  deriving DecidableEq, Repr

/-! ### Cores, streams and collectives -/

/-- R101, R110-R118: one of the eight input or eight output channels of a core: valid tiles or free buffers. -/
structure Chan where
  count : Nat
  head : Nat
  deriving DecidableEq, Repr

/-- R217-R221: a stream: chunks requested, filled, acquired and released in the micro-batch. -/
structure StreamSt where
  requested : Nat
  filled : Nat
  acquired : Nat
  released : Nat
  deriving DecidableEq, Repr

/-- R117: a loop level: trips left, and the trip index. -/
structure LoopSt where
  opened : Bool
  left : Nat
  trip : Nat
  back : Nat
  deriving DecidableEq, Repr

/-- R115: a bundle in flight; `no` counts the bundles that the stage has issued. -/
structure Flight where
  no : Nat
  pc : Nat
  consume : List Nat
  produce : List Nat
  release : List Nat
  deriving DecidableEq, Repr

/-- A core's stage state. `tile` is the weight tile in the arrays' active registers, k by k and column by column, as
delivered (R94, R95; none before a load and after a switch, and none for a column beyond the weight); `marks` counts the
layer-drain markers passed; `issued` counts the bundles issued in the micro-batch; `packed` holds the blocks that SEND has
handed to an output channel and that no tile has taken: bundle, channel, bytes (R170). -/
structure Core where
  wide : Bool
  tile : Option (List (List (Option Val)))
  active : Bool
  ended : Bool
  stopped : Bool
  pc : Nat
  limit : Nat
  first : Nat
  len : Nat
  tail : Nat
  cursor : Nat
  loops : List LoopSt
  flight : List Flight
  inCh : List Chan
  outCh : List Chan
  streams : Sparse StreamSt
  sent : Sparse Nat
  marks : Nat
  issued : Nat
  packed : List (Nat × Nat × List Nat)
  deriving DecidableEq, Repr

/-- R309: a block being assembled: ELEN, pieces received, its bytes. -/
structure Asm where
  elen : Nat
  got : List Nat
  data : Memory
  bad : Bool
  deriving DecidableEq, Repr

/-- R298, R308: the block stores of the fabric engines for one command's collectives. Keys: contributions
(collective, block, core), received values (collective, level, block), blocks being assembled, running values with the
levels folded in, and what has been sent or written. A value is 256 FP32 words, or a 512-byte unit. -/
structure CollSt where
  ord : Nat
  contribs : Sparse (BitVec 8192)
  recv : Sparse (BitVec 8192)
  asm : Sparse Asm
  acc : Sparse (Nat × BitVec 8192)
  sent : Sparse Bool
  wrote : Sparse Bool
  deriving DecidableEq, Repr

/-! ### Memory tiers -/

/-- R199-R210: a managed page. -/
structure Page where
  bound : Bool
  pinned : Bool
  frame : Option Nat
  age : Nat
  deriving DecidableEq, Repr

/-- R205: a move in progress: to a canopy frame, or back to the understorey home; `ord` is the read order of the command
that asked for it. -/
structure PageMove where
  page : Nat
  sec : Sec
  target : Option Nat
  ord : Option Nat
  deriving DecidableEq, Repr

/-- R205: a host-window write that waits for a page's move. -/
structure Held where
  page : Nat
  num : Nat
  data : List (Nat × Nat)
  poison : Bool
  deriving DecidableEq, Repr

/-- Device memory and what governs it. `blk` is MEM_BLKCFG, `gblk` GROVE_BLKMODE, keyed by block; `pages` is keyed by home
address / 2 MiB; `ce` are the corrected-error counters, stacks 0-7 then bridges 8-11; `upset` gives, for a granule of a
protected block or of the understorey, how many of its sectors (canopy: 1) hold errors that the code corrects (R190, R194). -/
structure Tiers where
  mem : Memory
  poison : Sparse Bool
  blk : Sparse Byte
  gblk : Sparse Byte
  pages : Sparse Page
  moves : List PageMove
  held : List Held
  ce : Sparse W32
  upset : Sparse Nat
  scrubPos : Nat
  deriving DecidableEq, Repr

/-! ### Links -/

/-- R266: what a flit carries end to end, with the whole number of the frame it belongs to. -/
structure Body where
  type : BitVec 4
  dest : W16
  src : W16
  tag : W16
  frame : Nat
  len : Nat
  payload : BitVec 1920
  deriving DecidableEq, Repr

/-- R271-R274: one sequence space of one link. `out` are the outstanding flits in order; `replay` the position in `out` of
the next flit to resend. -/
structure Space where
  next : Nat
  out : List (Nat × Body)
  replay : Option Nat
  expect : Nat
  ack : Nat
  reqDue : Bool
  reqSet : Bool
  timeouts : Nat
  queue : List Body
  deriving DecidableEq, Repr

/-- A Helzu link: FAB_LSTAT, FAB_LDELAY, FAB_LCNT, FAB_CDISC and its link layer. `cycle` counts the link cycles since DELAY began, `echo` is the CYCLE of the latest intact link unit and `echoAt`
the system time it came at, in 1/16 ns. `caps` is the partner's capability block, as it last came (R280). `cut` marks the sections whose scheduled
flits the link discarded in the present frame (R276). -/
structure LinkSt where
  st : BitVec 4
  cause : BitVec 4
  retrains : Nat
  bellDiff : Bool
  timeDiff : Bool
  timeSrc : Bool
  chg : Bool
  delay : W16
  lcnt : Sparse W32
  cdisc : W32
  spaces : List Space
  samples : List Int
  cycle : Nat
  echo : W32
  echoAt : Nat
  phyFails : Nat
  capsOk : Bool
  caps : BitVec 1920
  departTx : Bool
  departRx : Bool
  departWait : Bool
  timeOk : Bool
  timeOffset : Int
  cut : BitVec 4
  deriving DecidableEq, Repr

/-- R279, R284-R286: a cable header. `cable` is the assembly as the warden read it, with the wear counters of its EEPROM as
they were last written back, and `drawMw` its draw as last measured (Table 17.1). -/
structure Header where
  present : Bool
  qualified : Bool
  highPower : Bool
  cable : Option CableRec
  drawMw : Nat
  deriving DecidableEq, Repr

/-- Table 9.11: the warden's own wear record of an assembly. -/
structure Wear where
  firstSeen : W64
  poh : Nat
  ratedPoh : Nat
  matings : Nat
  ratedMatings : Nat
  retrains : Nat
  uncorrectable : Nat
  maxTemp : Int
  warned : Bool
  replaced : Bool
  deriving DecidableEq, Repr

/-! ### Host interface -/

/-- R369-R372: a line of the host-memory cache. -/
inductive LineSt where
  | s | e | m
  | evicting (forwarded : Bool)
  | cleanPending
  deriving DecidableEq, Repr

structure CacheLine where
  st : LineSt
  data : BitVec 512
  used : Nat
  deriving DecidableEq, Repr

/-- R367: a window write in the inbound buffer. -/
structure Inbound where
  num : Nat
  addr : Nat
  data : BitVec 512
  enable : W64
  poison : Bool
  deriving DecidableEq, Repr

/-- R374, R378: a directory entry, oldest first in the list; `snp` is a BISnp sent whose entry is not freed, `overdue` one
that HIF_ERR has recorded; `rsp` says that its BIRsp has come and a crossing MemWr has not, `wrote` that the MemWr came first. -/
structure DirEntry where
  line : Nat
  sec : Sec
  excl : Bool
  snp : Bool
  overdue : Bool
  rsp : Bool
  wrote : Bool
  deriving DecidableEq, Repr

/-- R376: a request that waits for a quota recall. -/
structure Waiter where
  line : Nat
  sec : Sec
  excl : Bool
  deriving DecidableEq, Repr

/-- HIF_LSTAT, the HDM decoders, the inbound buffer, the window reads that wait for slot 0 (device address, MetaValue; R366),
the cache, the directory, and the recalls that are due (line, true for a quota recall). `stale` holds the forwarded lines of the eviction buffer that a new RdOwn has overtaken
(R372): the host still has to answer their eviction. -/
structure Hif where
  mode : BitVec 4
  speed : BitVec 4
  width : BitVec 5
  cacheEn : Bool
  memEn : Bool
  hostRid : W16
  ridSet : Bool
  hdm0 : Option Nat
  hdm1 : Option Nat
  inbound : List Inbound
  inNum : Nat
  reads : List (Nat × Meta)
  cache : Sparse CacheLine
  stale : List (Nat × BitVec 512)
  clock : Nat
  dir : List DirEntry
  waiting : List Waiter
  due : List (Nat × Sec × Bool)
  deriving DecidableEq, Repr

/-! ### Warden, power, card -/

/-- Table 15.6. -/
inductive CardSt where
  | service | suspect | departed
  deriving DecidableEq, Repr

/-- R538, R539: the start-up stages passed. -/
inductive Stage0 where
  | off | present | boot | measure | memory | core | links | halted | failed
  deriving DecidableEq, Repr

/-- R426: a card drain in progress: before its guard band, before the next slot 0, in that slot 0. -/
inductive DrainSt where
  | none | guard | armed | send
  deriving DecidableEq, Repr

/-- R418: an error record. -/
structure ErrRec where
  ns : W64
  frame : W64
  cls : BitVec 8
  severity : BitVec 8
  sect : BitVec 8
  srcKind : BitVec 8
  srcIndex : W16
  count : W16
  detail : W64
  deriving DecidableEq, Repr

/-- R484: an audit entry. -/
structure Audit where
  seq : Nat
  ns : W64
  role : BitVec 8
  channel : BitVec 8
  action : W16
  result : W32
  keyId : W64
  target : W64
  old : W64
  new : W64
  chain : BitVec 384
  deriving DecidableEq, Repr

/-- R478: a P-384 public key, with an operator's section mask. -/
structure Key where
  x : BitVec 384
  y : BitVec 384
  mask : BitVec 4
  deriving DecidableEq, Repr

/-- R476: the raw record that an event reports (Tables 15.2, 9.11, 16.9, 15.6, 18.14, 17.6). -/
inductive RawRec where
  | error (e : ErrRec)
  | wear (serial : W64) (w : Wear)
  | word (x : W64)
  | audit (a : Audit)
  deriving DecidableEq, Repr

/-- R476: an event, with the subscribers that it is sent to. -/
structure Event where
  kind : BitVec 8
  sect : BitVec 8
  severity : BitVec 8
  raw : RawRec
  dests : List Client
  deriving DecidableEq, Repr

/-- R480: a mailbox session. -/
inductive Session where
  | none
  | operator (slot : Fin 8)
  | installer
  deriving DecidableEq, Repr

/-- R444: what the power-failure sequence writes to flash. -/
structure FlashRec where
  errs : List ErrRec
  tails : Four (Option (W64 × BitVec 384))
  steps : Four (Option Nat)
  deriving DecidableEq, Repr

/-- The warden and the sentry. `events` are being sent, `logSvc` are those given up after 60 s, and `subs` the subscribers
of the EventService (R476); `lateCores` are the physical cores that the latest failed assembly was without (R84). -/
structure Warden where
  card : CardSt
  cause : BitVec 4
  frame : W32
  chg : Bool
  flashCard : CardSt
  flashCause : BitVec 4
  suspectNs : W64
  suspectFrame : W64
  depart : W64
  drain : DrainSt
  stage : Stage0
  running : Bool
  sentryArmed : Bool
  sentryActed : Bool
  session : Session
  busy : Bool
  result : BitVec 5
  noSession : Bool
  denied : W32
  nonce : BitVec 384
  nonceRole : Option (BitVec 2)
  sig : BitVec 768
  maker : Key
  installer : Option Key
  operators : Sparse (Option Key)
  auditAck : W64
  auditLost : W32
  auditFull : Bool
  audit : List Audit
  errlog : List ErrRec
  events : List Event
  logSvc : List Event
  redfishFail : Nat
  staged : Option (BitVec 8)
  flashRec : Option FlashRec
  drainCopies : List (Nat × Nat)
  subs : List Client
  lateCores : List W64
  deriving DecidableEq, Repr

/-- R488-R493, R521: the power block, cluster scrubs and the assembly of R84. -/
structure Power where
  on : BitVec 37
  mdozeCanopy : Bool
  mdozeBridge : Bool
  mdozeRefused : Bool
  waking : BitVec 2
  hdr : BitVec 9
  vin : W16
  rail : Sparse W16
  temp : Sparse W16
  dozeAt : Sparse Nat
  wakeDue : W16
  scrubs : List Scrub
  assembly : Bool
  deriving DecidableEq, Repr

/-! ### Trace -/

/-- R451, R452: a log entry that waits to be written or compared; `ordinal` is its matching key. -/
structure LogEntry where
  kind : BitVec 8
  ring : BitVec 8
  payload : List (BitVec 512)
  ordinal : Nat
  deriving DecidableEq, Repr

/-- R461: a trace record but its SEQ and source time. -/
structure TraceRec where
  ns : W64
  frac : W16
  event : BitVec 8
  srcKind : BitVec 8
  srcIndex : W16
  seq : W16
  arg0 : W64
  arg1 : W64
  deriving DecidableEq, Repr

/-- R450-R463: a section's replay log (`rlOff` in bytes), comparison and trace buffer. -/
structure Trace where
  rlcfg : W64
  rlSeq : Nat
  rlOff : Nat
  chain : BitVec 384
  logQ : List LogEntry
  wSum : W64
  wCount : Nat
  rccfg : W64
  rclen : W64
  rcdelta : W64
  div : W64
  cmpQ : List LogEntry
  ordinals : Sparse Nat
  tcfg : W64
  dropped : Nat
  written : Nat
  traceQ : List TraceRec
  gap : Nat
  seqs : Sparse W16
  deriving DecidableEq, Repr

/-! ### What goes out -/

/-- D2H requests of Table 13.8. -/
inductive D2h where
  | rdShared | rdCurr | rdOwn | dirtyEvict | cleanEvict
  deriving DecidableEq, Repr

/-- Table 13.9. -/
inductive SnpRsp where
  | iHitI | sHitSE | iHitSE | vHitV | sFwdM | iFwdM | vFwdV
  deriving DecidableEq, Repr

/-- R347, R469, Table 17.3: what a read of the Redfish services Chassis, Assembly, Sensors and Fabric shows: the identity, the
core map among it, the physical ID, ERR_CARD, each header with the wear record of its assembly, the sensors of the PWR block,
each link as FAB_LSTAT, its delay and its partner's capability block, and the roles of the sections. -/
structure CardView where
  id : Ident
  physId : BitVec 17
  card : W64
  cables : List (Header × Option Wear)
  vin : W16
  rail : List W16
  temp : List W16
  links : List (Nat × W16 × BitVec 1920)
  roles : List (BitVec 2)
  deriving DecidableEq, Repr

/-- R475, Table 17.3: the content of a Redfish answer. -/
inductive Reply where
  | card (c : CardView)
  | records (errors : List ErrRec) (events : List Event)
  | audit (log : List Audit)
  | keys (installer : Option Key) (operators : List (Nat × Key))
  deriving DecidableEq, Repr

/-- What the latest command sent out of the card. -/
inductive Out where
  | record (r : Pair) (addr : Nat) (data : BitVec 256)
  | d2h (q : D2h) (addr : Nat)
  | snoop (r : SnpRsp) (data : Option (BitVec 512))
  | pull (line : Nat) (bogus : Bool) (data : BitVec 512)
  | msix (v : Pair)
  | memData (data : BitVec 512) (poison : Bool) (m : Meta)
  | cmp
  | bisnp (addr : Nat)
  | unsupported
  | abort
  | aer
  | time (ns : W64) (frac : W32)
  | unit (l : Link) (bytes : BitVec 2048)
  | heartbeat (echo : W64) (state cause : BitVec 4)
  | event (who : Client) (e : Event)
  | redfish (r : Reply)
  | http (code : Nat)
  | pldm (x : W64)
  | pldmRefused
  deriving DecidableEq, Repr

/-- What the slot-0 work of the present frame has used (R373, R392, R411, R455), per section: records, the lines they went
into, quota recalls, other recalls, bytes of log entries, and the pairs whose doorbell has been read again. -/
structure Budget where
  recs : Nat
  lines : Nat
  quotaRecalls : Nat
  admitRecalls : Nat
  logBytes : Nat
  rereads : W16
  deriving DecidableEq, Repr

/-- The card. `slotsNow` is the slot table that traffic follows, as the last tick found it (R66). `loadPages` holds, for each variant of the loaded image, the managed pages it covers (R208); `store` the
program stores, keyed core × 4096 + index. The last four fields are the model's own: `out` (log entry 9), `fresh` (10), `seq` (16) and the queue
`pending` of commands, first in first out. -/
structure State where
  id : Ident
  time : Time
  sect : Four Sect
  slots : Sparse Byte
  slotsNow : Sparse Byte
  slotRefused : Bool
  ownRefused : Bool
  nflag : Sparse W32
  rings : Sparse Ring
  cmds : Four (List Cmd)
  recs : Four (List Rec)
  steps : Four Steps
  images : Four (Option Image)
  loadPages : Four (List (List Nat))
  cores : Sparse Core
  store : Sparse BundleWord
  slate : Memory
  commons : Memory
  acc : Sparse W32
  colls : Four (List CollSt)
  tiers : Tiers
  links : Sparse LinkSt
  lctlPhys : BitVec 17
  lctlEnable : BitVec 36
  lctlRefused : Bool
  headers : Sparse Header
  wear : Sparse Wear
  hif : Hif
  ward : Warden
  power : Power
  trace : Four Trace
  budget : Four Budget
  out : List Out
  fresh : Nat
  seq : Nat
  pending : List Instr
  deriving DecidableEq, Repr

/-! ### Reset -/

def identReset : Ident where
  grade := 0x41
  stepping := 0x20
  site0 := 0xF
  site1 := 0xF
  serial := 0
  cmap := (List.range 128).map (fun q => BitVec.ofNat 8 (66 * (q / 64) + q % 64))
  activeSvn := 0
  minSvn := 0
  stagedSvn := 0xFF
  otherSvn := 0
  bank := false

def timeReset : Time where
  ns := 0
  frac := 0
  fracLatch := 0
  lock := .free
  chg := false
  offset := 0
  holdOffset := 0
  inBound := 0
  link := none
  since := 0
  holdSince := 0
  gm := 0
  src := 0
  domain := 0
  hbPort := 0x18AD
  period := 12
  epoch := 0
  latch := 0
  bellRefused := false
  frame := some 0
  guard := false

/-- R545: the reset value of ERR_OVR. -/
def ovrReset : W64 := 0xFF0F_F000
/-- R545: the reset value of ERR_XPND. -/
def xpndReset : W32 := 0xFF00_0000
/-- R545: the reset value of TRACE_DIV. -/
def divReset : W64 := 0x0F00_0000

def sectReset : Sect where
  st := .free
  clusters := 0
  ctlRefused := false
  commons := 0
  role := 0
  roleRefused := false
  cdoze := 0
  cdozeRefused := false
  winRd := false
  winWr := false
  winRefused := false
  quota := 16
  quotaRefused := false
  rcCfg := 0x1000
  rcRes := 0
  rcAnd := 0
  rcOr := 0
  cfgRefused := false
  mrgnRefused := false
  pinRefused := false
  errOvr := ovrReset
  ovrCount := 0
  errXpnd := xpndReset
  errMem := 0
  groveErr := 0
  hifErr := 0
  errStep := 0
  errLoss := 0
  mrgn := []
  fills := []

def ringReset : Ring where
  sqBase := 0
  cqBase := 0
  dbAddr := 0
  enable := false
  irqEn := false
  cqSize := 0
  sqSize := 0
  refused := false
  lastCmd := 0
  sqHead := 0
  cqTail := 0
  outstanding := 0
  cause := 0
  st := .idle
  chg := false
  sqTail := 0
  cqHead := 0
  phase := true
  rung := false
  held := none
  irqDue := false
  msixMasked := true
  msixPend := false

def stepsReset : Steps := ⟨0, false, none, none, none, [], []⟩

def chanReset : Chan := ⟨0, 0⟩
def streamReset : StreamSt := ⟨0, 0, 0, 0⟩
def loopReset : LoopSt := ⟨false, 0, 0, 0⟩

def coreReset : Core where
  wide := false
  tile := none
  active := false
  ended := false
  stopped := false
  pc := 0
  limit := 0
  first := 0
  len := 0
  tail := 0
  cursor := 0
  loops := []
  flight := []
  inCh := []
  outCh := []
  streams := []
  sent := []
  marks := 0
  issued := 0
  packed := []

def pageReset : Page := ⟨false, false, none, 0⟩
/-- R186: the reset value of MEM_BLKCFG: no owner. -/
def blkReset : Byte := 0xE0

def tiersReset : Tiers := ⟨[], [], [], [], [], [], [], [], [], 0⟩

def spaceReset : Space := ⟨0, [], none, 0, 4095, false, false, 0, []⟩

def linkReset : LinkSt where
  st := 0
  cause := 0
  retrains := 0
  bellDiff := false
  timeDiff := false
  timeSrc := false
  chg := false
  delay := 0
  lcnt := []
  cdisc := 0
  spaces := List.replicate 5 spaceReset
  samples := []
  cycle := 0
  echo := 0
  echoAt := 0
  phyFails := 0
  capsOk := false
  caps := 0
  departTx := false
  departRx := false
  departWait := false
  timeOk := false
  timeOffset := 0
  cut := 0

def headerReset : Header := ⟨false, false, false, none, 0⟩
def wearReset : Wear := ⟨0, 0, 0, 0, 0, 0, 0, 0, false, false⟩

def hifReset : Hif where
  mode := 0
  speed := 0
  width := 0
  cacheEn := false
  memEn := false
  hostRid := 0
  ridSet := false
  hdm0 := none
  hdm1 := none
  inbound := []
  inNum := 0
  reads := []
  cache := []
  stale := []
  clock := 0
  dir := []
  waiting := []
  due := []

/-- R484: entry 0 of the audit log, as manufacture wrote it: LOG_START over 64 bytes of which only ACTION is nonzero, at
system time 0 (log entry 4). The chain value is SHA-384 of 48 zero bytes and those 64 bytes. -/
def logStart : Audit where
  seq := 0
  ns := 0
  role := 0
  channel := 0
  action := 1
  result := 0
  keyId := 0
  target := 0
  old := 0
  new := 0
  chain := 0xE181B98755905E7951CBDEA6867B212B0B98F32FEB56EA8190CCFDCE11CBFF32F8854BF85F981FA641B694F0543CBC27

def wardenReset : Warden where
  card := .service
  cause := 0
  frame := 0
  chg := false
  flashCard := .service
  flashCause := 0
  suspectNs := 0
  suspectFrame := 0
  depart := 0
  drain := .none
  stage := .off
  running := false
  sentryArmed := false
  sentryActed := false
  session := .none
  busy := false
  result := 0
  noSession := false
  denied := 0
  nonce := 0
  nonceRole := none
  sig := 0
  maker := ⟨0, 0, 0⟩
  installer := none
  operators := []
  auditAck := 0
  auditLost := 0
  auditFull := false
  audit := [logStart]
  errlog := []
  events := []
  logSvc := []
  redfishFail := 0
  staged := none
  flashRec := none
  drainCopies := []
  subs := []
  lateCores := []

def powerReset : Power where
  on := 0
  mdozeCanopy := false
  mdozeBridge := false
  mdozeRefused := false
  waking := 0
  hdr := 0x1FF
  vin := 0
  rail := []
  temp := []
  dozeAt := []
  wakeDue := 0
  scrubs := []
  assembly := false

def traceReset : Trace where
  rlcfg := 0
  rlSeq := 0
  rlOff := 0
  chain := 0
  logQ := []
  wSum := 0
  wCount := 0
  rccfg := 0
  rclen := 0
  rcdelta := 0
  div := divReset
  cmpQ := []
  ordinals := []
  tcfg := 0
  dropped := 0
  written := 0
  traceQ := []
  gap := 0
  seqs := []

def budgetReset : Budget := ⟨0, 0, 0, 0, 0, 0⟩

/-- The card right after reset, before any start-up stage (R538): every register at the reset value of chapter 18. -/
def State.reset : State where
  id := identReset
  time := timeReset
  sect := .all sectReset
  slots := []
  slotsNow := []
  slotRefused := false
  ownRefused := false
  nflag := []
  rings := []
  cmds := .all []
  recs := .all []
  steps := .all stepsReset
  images := .all none
  loadPages := .all []
  cores := []
  store := []
  slate := []
  commons := []
  acc := []
  colls := .all []
  tiers := tiersReset
  links := []
  lctlPhys := 0x1FFFF
  lctlEnable := 0xFFFFFFFFF
  lctlRefused := false
  headers := []
  wear := []
  hif := hifReset
  ward := wardenReset
  power := powerReset
  trace := .all traceReset
  budget := .all budgetReset
  out := []
  fresh := 0
  seq := 0
  pending := []

end Sys2Proof.Machine
end

