-- ==== Sys2Proof/Machine/Flags.lean ====
section
/-!
DEFINITION. The numeric flags: engine numbers, ERR_NFLAG, and the flag summary of a completion record.
-/
namespace Sys2Proof.Machine

/-- R1: the card is of stepping A1. -/
def isA1 (s : State) : Bool := s.id.stepping == 0x11

/-- R88, R89: the physical core of logical core q. -/
def physCore (s : State) (q : Nat) : Nat := (s.id.cmap.getD q 0xFF).toNat

/-- R46: engine numbers. -/
def arrayEngine (s : State) (q : Nat) : Nat := physCore s q
def laneEngine (s : State) (q : Nat) : Nat := 132 + physCore s q
def groveEngineNo (e : Nat) : Nat := 264 + e
def fabricEngine (l : Nat) : Nat := 520 + l

/-- Table 1.15: flags f raised on a word by command `cmd` of ring `ring`. FIRST_CMD and FIRST_RING are captured when no
flag is held; on stepping A1 they read 0 (R52). -/
def nflagRaise (a1 : Bool) (x : W32) (f : NumFlags) (cmd : W16) (ring : Nat) : W32 :=
  if f == 0 then x
  else
    let first : W32 := if x &&& 0x1F == 0 && !a1 then cmd.setWidth 32 <<< 16 ||| BitVec.ofNat 32 ((ring % 16) * 4096) else x &&& 0xFFFFF000
    first ||| (x &&& 0xFFF) ||| f.setWidth 32

/-- R49: W1C clear; FIRST_CMD and FIRST_RING read 0 when no flag is left. -/
def nflagClear (x : W32) (mask : NumFlags) : W32 :=
  let y := x &&& ~~~ (mask.setWidth 32)
  if y &&& 0x1F == 0 then y &&& 0xFFF else y

/-- The key of ERR_NFLAG[s][n]. -/
def nflagKey (t : Sec) (n : Nat) : Nat := t.val * 556 + n

/-- Table 1.14: the class bit of an engine. -/
def classBit (n : Nat) : Nat :=
  if n < 132 then 0x100 else if n < 264 then 0x200 else if n < 520 then 0x400 else 0x800

/-- Table 1.14: the flag summary over the command copies. -/
def flagsum (copies : Sparse NumFlags) : W16 :=
  copies.foldl (fun (x : W16) e => x ||| e.2.setWidth 16 ||| (if e.2 == 0 then 0 else BitVec.ofNat 16 (classBit e.1))) 0

/-- NV or OF in any command copy (R48). -/
def nvOf (copies : Sparse NumFlags) : Bool := copies.any (fun e => e.2 &&& 0xC != 0)

/-- R47: a flag joined to an engine's command copy. -/
def copyRaise (copies : Sparse NumFlags) (n : Nat) (f : NumFlags) : Sparse NumFlags :=
  sset 0 copies n (sget 0 copies n ||| f)

end Sys2Proof.Machine
end

