-- ==== Sys2Proof/Machine/Ops.lean ====
section
/-!
DEFINITION. The named operations over the state: sections, rings, records, the warden's logs, trace records, commands in
flight and their completion.
-/
namespace Sys2Proof.Machine

/-! ### Access to parts of the state -/

def secOf (p : Pair) : Sec := ⟨p.val / 16, by have := p.isLt; omega⟩
def ringIx (p : Pair) : Nat := p.val % 16

def allSecs : List Sec := [0, 1, 2, 3]
def allPairs : List Pair := List.finRange 64
def allLinks : List Link := List.finRange 36

def pairsOf (t : Sec) : List Pair := allPairs.filter (fun p => secOf p == t)

def getSect (s : State) (t : Sec) : Sect := s.sect.get t
def modSect (s : State) (t : Sec) (f : Sect → Sect) : State := { s with sect := s.sect.set t (f (s.sect.get t)) }
def getRing (s : State) (p : Pair) : Ring := sget ringReset s.rings p.val
def modRing (s : State) (p : Pair) (f : Ring → Ring) : State :=
  { s with rings := sset ringReset s.rings p.val (f (getRing s p)) }
def getCmds (s : State) (t : Sec) : List Cmd := s.cmds.get t
def setCmds (s : State) (t : Sec) (l : List Cmd) : State := { s with cmds := s.cmds.set t l }
def getSteps (s : State) (t : Sec) : Steps := s.steps.get t
def modSteps (s : State) (t : Sec) (f : Steps → Steps) : State := { s with steps := s.steps.set t (f (s.steps.get t)) }
def getTrace (s : State) (t : Sec) : Trace := s.trace.get t
def modTrace (s : State) (t : Sec) (f : Trace → Trace) : State := { s with trace := s.trace.set t (f (s.trace.get t)) }
def getCore (s : State) (q : Nat) : Core := sget coreReset s.cores q
def modCore (s : State) (q : Nat) (f : Core → Core) : State :=
  { s with cores := sset coreReset s.cores q (f (getCore s q)) }
def getLink (s : State) (l : Nat) : LinkSt := sget linkReset s.links l
def modLink (s : State) (l : Nat) (f : LinkSt → LinkSt) : State :=
  { s with links := sset linkReset s.links l (f (getLink s l)) }
def getPage (s : State) (g : Nat) : Page := sget pageReset s.tiers.pages g
def modPage (s : State) (g : Nat) (f : Page → Page) : State :=
  { s with tiers := { s.tiers with pages := sset pageReset s.tiers.pages g (f (getPage s g)) } }
def getBlk (s : State) (b : Nat) : Byte := sget blkReset s.tiers.blk b
def setBlk (s : State) (b : Nat) (x : Byte) : State := { s with tiers := { s.tiers with blk := sset blkReset s.tiers.blk b x } }
def getGblk (s : State) (b : Nat) : Byte := sget 0 s.tiers.gblk b
def setGblk (s : State) (b : Nat) (x : Byte) : State := { s with tiers := { s.tiers with gblk := sset 0 s.tiers.gblk b x } }
def getMrgn (s : State) (t : Sec) (i : Nat) : W64 := sget 0 (getSect s t).mrgn i

def modHif (s : State) (f : Hif → Hif) : State := { s with hif := f s.hif }
def modWard (s : State) (f : Warden → Warden) : State := { s with ward := f s.ward }
def modPower (s : State) (f : Power → Power) : State := { s with power := f s.power }
def modTime (s : State) (f : Time → Time) : State := { s with time := f s.time }

/-- Something leaves the card. -/
def emit (s : State) (o : Out) : State := { s with out := s.out ++ [o] }

/-- What the command before sent out is no longer on the way. -/
def begin (s : State) : State := { s with out := [] }

/-! ### Frames -/

/-- R60: TIME_FRAME. -/
def frameNow (s : State) : Nat := s.time.frame.getD 0xFFFFFFFFFFFFFFFF
/-- The number of the frame in progress, for comparisons: before tick 0 every frame is still to come. -/
def frameOf (s : State) : Nat := s.time.frame.getD 0
def w64 (n : Nat) : W64 := BitVec.ofNat 64 n
def w32 (n : Nat) : W32 := BitVec.ofNat 32 n
def periodNs (s : State) : Nat := s.time.period.toNat * 1000
/-- R60: the system time of tick n. -/
def tickNs (s : State) (n : Nat) : Nat := s.time.epoch.toNat + n * periodNs s

/-- R63: the present system time lies in slot 0. -/
def inSlot0 (s : State) : Bool :=
  match s.time.frame with
  | none => false
  | some n => !s.time.guard && decide (s.time.ns.toNat < tickNs s n + 20 * s.time.period.toNat)

/-- R58: system time is LOCKED or in HOLDOVER. -/
def timeGood (s : State) : Bool := s.time.lock == .locked || s.time.lock == .holdover

/-! ### Bit fields -/

def bits (x : W64) (lo n : Nat) : Nat := (x.toNat >>> lo) % 2 ^ n
def putBits (x : W64) (lo n v : Nat) : W64 :=
  let m : W64 := (w64 (2 ^ n - 1)) <<< lo
  (x &&& ~~~ m) ||| ((w64 (v % 2 ^ n)) <<< lo)
def bit64 (x : W64) (k : Nat) : Bool := x.getLsbD k
def satInc (x : W32) : W32 := if x == 0xFFFFFFFF then x else x + 1
def b2n (b : Bool) : Nat := if b then 1 else 0

/-- R506: a write to part of a 64-bit register whose RW fields read `cur`. -/
def mergePart (p : Part) (cur data : W64) : W64 :=
  match p with
  | .whole => data
  | .low => (cur &&& 0xFFFFFFFF00000000) ||| (data &&& 0xFFFFFFFF)
  | .high => (cur &&& 0xFFFFFFFF) ||| (data <<< 32)

/-! ### Trace records -/

/-- R460: the trace buffer of a section is enabled. -/
def traceOn (s : State) (t : Sec) : Bool := bit64 (getTrace s t).tcfg 63

/-- Table 16.13: the mask bit of an event's group; 3 for always. -/
def eventGroup (e : Nat) : Nat :=
  if e == 5 then 3 else if e < 0x10 then 0 else if e < 0x20 then 1 else if e < 0x30 then 2 else 3

/-- R461-R463: a record joins its queue, or is dropped and counted when the queue is full (512 for a core, 4,096 for the
front end). The record's stamp is given; on stepping A1 TIME_FRAC is 0 (R467). -/
def traceAt (s : State) (t : Sec) (ns : W64) (frac : W16) (event srcKind srcIndex : Nat) (arg0 arg1 : W64) : State :=
  let r := getTrace s t
  let g := eventGroup event
  if !bit64 r.tcfg 63 || (g < 3 && !bit64 r.tcfg (48 + g)) then s
  else
    let key := 65536 * srcKind + srcIndex
    let sq := sget 0 r.seqs key
    let cap := if srcKind == 1 then 512 else 4096
    let waiting := (r.traceQ.filter (fun x => (x.srcKind == 1) == (srcKind == 1) &&
      (srcKind != 1 || x.srcIndex.toNat == srcIndex))).length
    let seqs := sset 0 r.seqs key (sq + 1)
    if waiting ≥ cap then
      modTrace s t (fun r => { r with dropped := min (r.dropped + 1) 0xFFFFFF, gap := r.gap + 1, seqs := seqs })
    else
      let x : TraceRec := ⟨ns, if isA1 s then 0 else frac, BitVec.ofNat 8 event, BitVec.ofNat 8 srcKind,
        BitVec.ofNat 16 srcIndex, sq, arg0, arg1⟩
      modTrace s t (fun r => { r with traceQ := r.traceQ ++ [x], seqs := seqs })

/-- A record stamped with system time at the event (R462). -/
def traceRec (s : State) (t : Sec) (event srcKind srcIndex : Nat) (arg0 arg1 : W64) : State :=
  traceAt s t s.time.ns (s.time.frac.extractLsb' 16 16) event srcKind srcIndex arg0 arg1

/-- R462: the stamp of a core's event in units of 2^-16 ns: tick n's time and the term of cycle c, which is the cycle that
system time shows (1,500 to the microsecond). -/
def coreStamp (s : State) : Nat :=
  let now := s.time.ns.toNat * 2 ^ 32 + s.time.frac.toNat
  match s.time.frame with
  | none => now / 2 ^ 16
  | some n =>
    let c := (now - tickNs s n * 2 ^ 32) * 3 / 2 ^ 33
    tickNs s n * 2 ^ 16 + c * 2 ^ 17 / 3

/-- R462: a record of an event of a core in the frame. -/
def traceCore (s : State) (t : Sec) (event core : Nat) (arg0 arg1 : W64) : State :=
  traceAt s t (w64 (coreStamp s / 2 ^ 16)) (BitVec.ofNat 16 (coreStamp s)) event 1 core arg0 arg1

/-! ### The warden's logs -/

def operatorKey (s : State) (k : Fin 8) : Option Key := sget none s.ward.operators k.val

/-- R481, R483: an enrolled client sees the events and records of a section: an operator those of its mask, the maker none,
and all of them the card-wide ones. -/
def seesSection (s : State) (who : Client) (sect : Nat) : Bool :=
  match who with
  | .none => false
  | .operator k => (match operatorKey s k with | some x => sect == 0xF || x.mask.getLsbD sect | none => false)
  | .installer => s.ward.installer.isSome
  | .maker => sect == 0xF

/-- R476: an event is sent to every subscriber that may see it; it stays in the list until it is delivered or given up. -/
def raiseEvent (s : State) (kind sect severity : Nat) (raw : RawRec) : State :=
  if s.ward.running then
    let e : Event := ⟨BitVec.ofNat 8 kind, BitVec.ofNat 8 sect, BitVec.ofNat 8 severity, raw,
      s.ward.subs.filter (fun who => seesSection s who sect)⟩
    e.dests.foldl (fun s who => emit s (.event who e)) (modWard s (fun w => { w with events := w.events ++ [e] }))
  else s

/-- Table 17.4: the events, numbered in the table's order. -/
def evErrorRecord : Nat := 0
def evCableWear : Nat := 1
def evCableReplace : Nat := 2
def evReplayDivergence : Nat := 3
def evCardState : Nat := 4
def evTimeLock : Nat := 5
def evAuditFull : Nat := 6

/-- Table 15.1: the severity of a class (0x0C is given by its event). -/
def classSeverity (c : Nat) : Nat :=
  if c ≤ 2 then 0 else if c == 9 || c == 0xA || c == 0xB then 2 else if c ≥ 0xE then 3 else 1

/-- R418, R419: an error record. Events of one class, section and source within one frame merge; classes 0x01 and 0x02 are
logged at most once per second per source; the log keeps the latest 4,096. -/
def logError (s : State) (cls sev sect srcKind srcIndex : Nat) (detail : W64) : State :=
  if !s.ward.running then s
  else
    let same (e : ErrRec) : Bool := e.cls.toNat == cls && e.sect.toNat == sect && e.srcKind.toNat == srcKind &&
      e.srcIndex.toNat == srcIndex
    let fr := w64 (frameNow s)
    if s.ward.errlog.any (fun e => same e && e.frame == fr) then
      modWard s (fun w => { w with errlog := w.errlog.map (fun e =>
        if same e && e.frame == fr then { e with count := if e.count == 0xFFFF then e.count else e.count + 1 } else e) })
    else if cls ≤ 2 && s.ward.errlog.any (fun e => same e && s.time.ns.toNat < e.ns.toNat + 1000000000) then s
    else
      let r : ErrRec := ⟨s.time.ns, fr, BitVec.ofNat 8 cls, BitVec.ofNat 8 sev, BitVec.ofNat 8 sect,
        BitVec.ofNat 8 srcKind, BitVec.ofNat 16 srcIndex, 1, detail⟩
      let s := modWard s (fun w => { w with errlog := (w.errlog ++ [r]).drop (w.errlog.length + 1 - 4096) })
      if sev ≥ 1 then raiseEvent s evErrorRecord sect sev (.error r) else s

/-- A record of a class with the severity of Table 15.1. -/
def logClass (s : State) (cls sect srcKind srcIndex : Nat) (detail : W64) : State :=
  logError s cls (classSeverity cls) sect srcKind srcIndex detail

def byteList (n x : Nat) : List Nat := leBytes n x

/-- R484: bytes 0x00-0x3F of an audit entry. -/
def auditBytes (a : Audit) : List Nat :=
  byteList 8 a.seq ++ byteList 8 a.ns.toNat ++ [a.role.toNat, a.channel.toNat] ++ byteList 2 a.action.toNat ++
  byteList 4 a.result.toNat ++ byteList 8 a.keyId.toNat ++ byteList 8 a.target.toNat ++ byteList 8 a.old.toNat ++
  byteList 8 a.new.toNat ++ List.replicate 8 0

def be384 (x : BitVec 384) : List Nat := (leBytes 48 x.toNat).reverse

/-- SHA-384 as a number whose most significant byte is the first byte. -/
def shaNum (bs : List Nat) : BitVec 384 := BitVec.ofNat 384 (beNat (sha384 bs))

/-- R478, R484: KEY_ID: the first 8 bytes of the SHA-384 of the key (its two coordinates, big-endian), little-endian. -/
def keyId (k : Key) : W64 := w64 (leNat ((be384 (shaNum (be384 k.x ++ be384 k.y))).take 8))

def auditHead (s : State) : Nat := (s.ward.audit.getLast?.map (·.seq)).getD 0
def auditUsed (s : State) : Nat := auditHead s - s.ward.auditAck.toNat

/-- R484, R485: one entry appended; entries at or below AUDIT_ACK are overwritten, oldest first. -/
def auditPut (s : State) (role channel action result : Nat) (kid target old new : W64) : State :=
  let prev := (s.ward.audit.getLast?.map (·.chain)).getD 0
  let a : Audit := ⟨auditHead s + 1, s.time.ns, BitVec.ofNat 8 role, BitVec.ofNat 8 channel, Config.actionCode action,
    BitVec.ofNat 32 result, kid, target, old, new, 0⟩
  let a := { a with chain := shaNum (be384 prev ++ auditBytes a) }
  let s := modWard s (fun w => { w with audit := (w.audit ++ [a]).drop (w.audit.length + 1 - 65536) })
  if auditUsed s ≥ 65280 && !s.ward.auditFull then
    raiseEvent (modWard s (fun w => { w with auditFull := true })) evAuditFull 0xF 1 (.audit a)
  else s

/-- R485, R486: an entry can be put in flash: the warden runs, and an entry at or below AUDIT_ACK, or none yet, gives room. -/
def auditRoom (s : State) : Bool := s.ward.running && decide (auditUsed s < 65536)

/-- R486, R501: a device entry uses the last 256, over the oldest entry at or below AUDIT_ACK; with none left it is counted in
AUDIT_LOST, which on stepping A1 reads 0 (log entry 34). -/
def auditDevice (s : State) (action : Nat) (target old new : W64) : State :=
  if !s.ward.running then s
  else if auditRoom s then auditPut s 0 0 action 0 0 target old new
  else if isA1 s then s
  else modWard s (fun w => { w with auditLost := satInc w.auditLost })

/-- R486: the log refuses further role actions. -/
def auditIsFull (s : State) : Bool := decide (auditUsed s ≥ 65280)

/-! ### Record registers -/

/-- Tables 6.7, 8.8, 13.13: a record register of an address, a kind, a 4-bit source or operand and MORE. -/
def recWord (x : W64) (granule kind src : Nat) : W64 :=
  if bit64 x 0 then putBits x 8 8 (min (bits x 8 8 + 1) 0xFF)
  else w64 ((granule % 2 ^ 40) * 2 ^ 24 + kind * 2 ^ 20 + src * 2 ^ 16 + 1)

/-- R196: a memory error of section t. -/
def capMem (s : State) (t : Sec) (addr kind src : Nat) : State :=
  let s := modSect s t (fun x => { x with errMem := recWord x.errMem (addr / 256) kind src })
  logClass s 5 t.val 0xF 0 (getSect s t).errMem

/-- R261: on stepping A1 GROVE_ERR reads 0 (R262). -/
def capGrove (s : State) (t : Sec) (addr kind opnd : Nat) : State :=
  if isA1 s then s else modSect s t (fun x => { x with groveErr := recWord x.groveErr (addr / 256) kind opnd })

/-- R385: on stepping A1 KIND 0x5 is not recorded (R386). -/
def capHif (s : State) (t : Sec) (addr kind : Nat) : State :=
  if isA1 s && kind == 5 then s
  else modSect s t (fun x => { x with hifErr := recWord x.hifErr (addr / 256) kind 0 })

/-- R81, Table 2.11: an overrun of section t. -/
def capOvr (s : State) (t : Sec) (frame core cause path ring : Nat) : State :=
  let x := getSect s t
  let s :=
    if bit64 x.errOvr 0 then modSect s t (fun x => { x with ovrCount := satInc x.ovrCount })
    else
      let w := w64 ((frame % 2 ^ 32) * 2 ^ 32 + core * 2 ^ 24 + cause * 2 ^ 20 + path * 2 ^ 12 + ring * 2 ^ 8 + 1)
      modSect s t (fun x => { x with errOvr := w })
  let y := (getSect s t).errOvr
  let s := traceRec s t 0x20 0 0 y (w64 ring)
  logClass s 7 t.val 4 (t.val * 16 + ring) y

/-- R81: cause LATE_START, with the start frame that the command would have had. -/
def capLate (s : State) (t : Sec) (start ring : Nat) : State := capOvr s t start 0xFF 5 0xFF ring

/-- R434: state of section t is lost; on stepping A1 ERR_LOSS reads 0 (R446). -/
def capLoss (s : State) (t : Sec) (step : Option Nat) (cmdId : W16) (cause : Nat) : State :=
  let st := (step.orElse (fun _ => (getSteps s t).latest)).getD 0
  let s := if isA1 s || bit64 (getSect s t).errLoss 0 then s
    else
      let w := w64 ((st % 2 ^ 32) * 2 ^ 32 + cmdId.toNat * 2 ^ 16 + cause * 2 ^ 12 + 1)
      modSect s t (fun x => { x with errLoss := w })
  let cls := if cause == 4 then 0xB else if cause == 5 then 9 else if cause == 3 then 0xC else 0xA
  logError s cls 2 t.val 0xF 0 (if cls == 0xA then (getSect s t).errLoss else 0)

/-- R152: a malformed block met by core q on a side (0 activation, 1 weight). -/
def capXpnd (s : State) (t : Sec) (q side : Nat) : State :=
  let x := (getSect s t).errXpnd
  let n := (x.toNat / 256) % 65536
  let y : W32 := if x.getLsbD 0 then w32 (x.toNat - n * 256 + min (n + 1) 0xFFFF * 256)
    else w32 (physCore s q * 2 ^ 24 + 256 + side * 2 + 1)
  logClass (modSect s t (fun z => { z with errXpnd := y })) 6 t.val 3 (physCore s q) 0

/-! ### Slots -/

/-- R65: the slot-table entry of slot k on path p; slot 0 is CONTROL. -/
def slotEntry (s : State) (path k : Nat) : Byte := if k == 0 then 0x80 else sget 0 s.slots (path * 50 + k)

/-- R66: section t owns slot k of the path. -/
def ownsSlot (s : State) (t : Sec) (path k : Nat) : Bool :=
  let e := slotEntry s path k
  e.extractLsb' 6 2 == 1 && (e.extractLsb' 4 2).toNat == t.val

/-- R66: the entry of slot k that traffic of the present frame follows. -/
def slotNow (s : State) (path k : Nat) : Byte := if k == 0 then 0x80 else sget 0 s.slotsNow (path * 50 + k)

/-- R66, R67: traffic of section t may move in slot k of the path. -/
def mayUse (s : State) (t : Sec) (path k : Nat) : Bool :=
  let e := slotNow s path k
  e.extractLsb' 6 2 == 1 && (e.extractLsb' 4 2).toNat == t.val

def mayUseAny (s : State) (t : Sec) (path : Nat) : Bool := (List.range 50).any (fun k => mayUse s t path k)

/-- R67: compute-die traffic of section t may move on the memory path: it has a slot there that grove work does not take. -/
def streamSlot (s : State) (t : Sec) (path : Nat) : Bool :=
  (List.range 50).any (fun k => mayUse s t path k && !(slotNow s path k).getLsbD 3)

/-! ### Replay log -/

def logOn (s : State) (t : Sec) : Bool := bit64 (getTrace s t).rlcfg 63
def cmpOn (s : State) (t : Sec) : Bool := bit64 (getTrace s t).rccfg 63

/-- The bytes that a queued entry takes (R451). -/
def entryBytes (e : LogEntry) : Nat := 64 * (1 + e.payload.length)

/-- R455: the section's queue holds more than 512 KiB. -/
def logFull (s : State) (t : Sec) : Bool :=
  decide (((getTrace s t).logQ.map entryBytes).foldl (· + ·) 0 > 524288)

/-- R457: the key of an ordinal: 0-15 a ring, 16 FENCE, 17 LOAD. -/
def nextOrdinal (s : State) (t : Sec) (key : Nat) : Nat := sget 0 (getTrace s t).ordinals key

/-- R452: an entry joins the log's queue. It has an ordinal only while comparison is enabled. -/
def logAppend (s : State) (t : Sec) (kind : Nat) (ring : Nat) (payload : List (BitVec 512)) (ordinal : Nat) : State :=
  if logOn s t || cmpOn s t then
    let e : LogEntry := ⟨BitVec.ofNat 8 kind, BitVec.ofNat 8 ring, payload, ordinal⟩
    modTrace s t (fun r => { r with
      logQ := if bit64 r.rlcfg 63 then r.logQ ++ [e] else r.logQ
      cmpQ := if bit64 r.rccfg 63 && !bit64 r.rccfg 61 then r.cmpQ ++ [e] else r.cmpQ })
  else s

/-! ### Numeric flags of a command -/

def modCmd (s : State) (t : Sec) (ord : Nat) (f : Cmd → Cmd) : State :=
  setCmds s t ((getCmds s t).map (fun c => if c.ord == ord then f c else c))

def findCmd (s : State) (t : Sec) (ord : Nat) : Option Cmd := (getCmds s t).find? (fun c => c.ord == ord)

/-- R47, R49: flags raised on engine n by work done for command `ord` of section t. -/
def raise (s : State) (t : Sec) (ord n : Nat) (f : NumFlags) : State :=
  if f == 0 then s
  else
    match findCmd s t ord with
    | none => s
    | some c =>
      let s := modCmd s t ord (fun c => { c with copies := copyRaise c.copies n f })
      let k := nflagKey t n
      let w := nflagRaise (isA1 s) (sget 0 s.nflag k) f c.id (ringIx c.pair)
      let s := { s with nflag := sset 0 s.nflag k w }
      if f &&& 0xC != 0 then logClass s 3 t.val 0 n 0 else s

/-! ### Completion -/

/-- Table 14.10. -/
def stOk : BitVec 8 := 0
def stSkipped : BitVec 8 := 1
def stOverrun : BitVec 8 := 2
def stNoVariant : BitVec 8 := 3
def stQuota : BitVec 8 := 4
def stDrained : BitVec 8 := 5
def stMismatch : BitVec 8 := 6
def stAborted : BitVec 8 := 7
def stBad : BitVec 8 := 8
def stDenied : BitVec 8 := 9
def stDiverged : BitVec 8 := 0xA
def stConfirmed : BitVec 8 := 0xB

def isRunOp (c : Cmd) : Bool := match c.job with | .run _ => true | _ => false
def isGroveOp (c : Cmd) : Bool := match c.job with | .grove _ => true | _ => false

/-- A pending step of section t changed. -/
def modPend (s : State) (t : Sec) (step : Nat) (f : Pend → Pend) : State :=
  modSteps s t (fun x => { x with pend := x.pend.map (fun q => if q.step == step && !q.closed then f q else q) })

/-- R331: the outcome of a counting command enters its step. -/
def countStep (s : State) (t : Sec) (c : Cmd) (status : BitVec 8) : State :=
  match c.carry with
  | none => s
  | some k => modPend s t k (fun q => { q with
      flags := q.flags || nvOf c.copies
      incomplete := q.incomplete || status != stOk })

/-- R76, R254, R406, R407: a completion that falls on a tick: every end of a RUN, a RESHARD or a TIME_MARK, and of a GROVE
command every end but that of its own work. -/
def onTick (c : Cmd) (status : BitVec 8) : Bool :=
  match c.job with
  | .run _ => true
  | .reshard _ => true
  | .timeMark _ => true
  | .grove _ => status != stOk
  | _ => false

/-- R410: the record of a completed command. RESULT is 0 unless the status is OK, DRAINED or REPEAT_CONFIRMED. -/
def recordOf (s : State) (c : Cmd) (status detail : BitVec 8) (result : BitVec 128) : Rec where
  ord := c.ord
  ringOrd := c.ringOrd
  pair := c.pair
  id := c.id
  op := c.op
  irq := c.irq
  status := status
  flagsum := if status == stSkipped then 0 else flagsum c.copies
  detail := detail
  frame := w64 (frameNow s)
  result := if status == stOk || status == stDrained || status == stConfirmed then result else 0
  tick := onTick c status

/-- R411: records in the order of completion; those of one ring that complete at the same tick stand in ring order. -/
def insertRec (r : Rec) : List Rec → List Rec
  | [] => [r]
  | x :: xs =>
    if x.pair == r.pair && x.frame == r.frame && x.tick && r.tick && decide (r.ord < x.ord) then r :: x :: xs
    else x :: insertRec r xs

/-- R452: the WRITE_DIGEST entry of a FENCE. -/
def writeDigest (s : State) (t : Sec) (c : Cmd) (sum : W64) (count : Nat) : State :=
  let line := BitVec.ofNat 512 (sum.toNat + (count % 2 ^ 64) * 2 ^ 64 + c.id.toNat * 2 ^ 128)
  let s := logAppend s t 3 0xFF [line] (nextOrdinal s t 16)
  modTrace s t (fun x => { x with
    ordinals := if bit64 x.rccfg 63 then sset 0 x.ordinals 16 (sget 0 x.ordinals 16 + 1) else x.ordinals })

/-- R452: what the log takes in when a command completes, before its COMPLETION entry: a FENCE's WRITE_DIGEST. -/
def logEnd (s : State) (t : Sec) (c : Cmd) : State :=
  match c.job with
  | .fence _ sum count => if c.stop == some .lost then s else writeDigest s t c sum count
  | _ => s

/-- R384, R408: a command ends without a record: OUTSTANDING falls, and no drain waits for it. -/
def leaveNoRecord (s : State) (t : Sec) (c : Cmd) : State :=
  let s := modRing s c.pair (fun r => { r with outstanding := r.outstanding - 1 })
  setCmds s t ((getCmds s t).map (fun d => match d.job with
    | .drain e n w => { d with job := .drain e n (w.filter (· != c.ord)) }
    | .netDrain e w f => { d with job := .netDrain e (w.filter (· != c.ord)) f }
    | _ => d))

/-- One command completes: its record waits (R411), the ring it held is free (R396), CMD_END is traced. A command that
the loss of the host link stopped, or one with no descriptor (R429), leaves no record. -/
def completeOne (s : State) (t : Sec) (c : Cmd) (status detail : BitVec 8) (result : BitVec 128) : State :=
  let s := setCmds s t ((getCmds s t).filter (fun x => x.ord != c.ord))
  let s := { s with colls := s.colls.set t ((s.colls.get t).filter (fun x => x.ord != c.ord)) }
  match c.job with
  | .netDrain _ _ _ => s
  | _ =>
    let s := logEnd s t c
    let s := if c.stop == some .lost then leaveNoRecord s t c
      else { s with recs := s.recs.set t (insertRec (recordOf s c status detail result) (s.recs.get t)) }
    let s := modRing s c.pair (fun r => if r.held == some c.ord then { r with held := none } else r)
    let s := countStep s t c status
    if c.stop == some .lost then s
    else traceRec s t 3 0 0 (w64 (c.id.toNat + c.op.toNat * 2 ^ 16 + status.toNat * 2 ^ 24)) (w64 (frameNow s))

/-- R76: a later follow-on RUN that has not started. R254: a later follow-on GROVE command. -/
def followsOn (c d : Cmd) : Bool :=
  decide (c.ord < d.ord) &&
  (match c.job, d.job with
  | .run _, .run r => r.follow && !r.started
  | .grove _, .grove g => g.follow && !g.started
  | _, _ => false)

/-- R254: command `ord` has no planned end any longer: what follows on it starts in the frame `next`, or at the second
tick after its own read; a timed command then fixes the start of what follows on it in turn. -/
def releaseFrom : Nat → State → Sec → Nat → Nat → State
  | 0, s, _, _, _ => s
  | fuel + 1, s, t, ord, next =>
    match (getCmds s t).find? (fun d => match d.job with | .grove g => g.after == some ord | _ => false) with
    | none => s
    | some d =>
      match d.job with
      | .grove g =>
        let start := max next (g.readAt + 1)
        let s := modCmd s t d.ord (fun d => { d with job := .grove { g with after := none, start := some start } })
        let limit := (groveRecOf g.bits.toNat).limit
        if limit == 0 then s else releaseFrom fuel s t d.ord (start + limit)
      | _ => s

/-- R254: a GROVE command whose untimed predecessor has completed starts in the next frame, or at the second tick after
its own read. -/
def releaseAfter (s : State) (t : Sec) (ord : Nat) : State := releaseFrom (getCmds s t).length s t ord (frameOf s + 1)

/-- R76, R254, R256: a command completes, and with it the follow-on commands that its status takes along. -/
def complete (s : State) (t : Sec) (c : Cmd) (status detail : BitVec 8) (result : BitVec 128) : State :=
  let later := (getCmds s t).filter (fun d => followsOn c d)
  let chain := match c.job with
    | .run _ => status != stOk
    | .grove _ => status == stOverrun || status == stAborted
    | _ => false
  let s := completeOne s t c status detail result
  if chain then later.foldl (fun s d => completeOne s t d stAborted 0 0) s
  else match c.job with
    | .grove _ => releaseAfter s t c.ord
    | _ => s

/-- A command that completes when it is read (it was never admitted): a fresh entry that completes at once. -/
def completeRead (s : State) (t : Sec) (c : Cmd) (status detail : BitVec 8) (result : BitVec 128) : State :=
  complete (setCmds s t (getCmds s t ++ [c])) t c status detail result

end Sys2Proof.Machine
end

