-- ==== Sys2Proof/Machine/Tiers.lean ====
section
/-!
DEFINITION. Device memory: blocks, reach, managed pages and their moves, poison, reads and writes.
-/
namespace Sys2Proof.Machine

/-! ### The address map (R179, R180) -/

def underBase : Nat := 0x10000000000
def canopyEnd : Nat := 0x8000000000
def underEnd : Nat := 0x30000000000
def blockBytes : Nat := 0x4000000
def pageBytes : Nat := 0x200000

/-- R180: the hash block of an address; none where the address is reserved. -/
def blockOf (a : Nat) : Option Nat :=
  if a < canopyEnd then some (a / blockBytes)
  else if underBase ≤ a ∧ a < underEnd then some (8192 + (a - underBase) / blockBytes) else none

/-- R180: the first address of a block. -/
def blockBase (b : Nat) : Nat := if b < 8192 then blockBytes * b else underBase + blockBytes * (b - 8192)

/-- Table 6.5: the fields of MEM_BLKCFG. -/
def blkOwner (x : Byte) : Nat := (x.extractLsb' 5 3).toNat
def blkType (x : Byte) : Bool := x.getLsbD 4
def blkUse (x : Byte) : Bool := x.getLsbD 3
def blkBusy (x : Byte) : Bool := x.getLsbD 2
def isPinnedBlk (s : State) (b : Nat) : Bool := (getGblk s b).getLsbD 0
def gblkBusy (s : State) (b : Nat) : Bool := (getGblk s b).getLsbD 1
/-- R187, R237: a change of the block is being applied. -/
def isBusy (s : State) (b : Nat) : Bool := blkBusy (getBlk s b) || gblkBusy s b
def ownedBy (s : State) (t : Sec) (b : Nat) : Bool := blkOwner (getBlk s b) == t.val

/-- The blocks that bytes lo to hi − 1 touch; none where a reserved address is among them. -/
def blocksOf (lo hi : Nat) : Option (List Nat) :=
  if hi ≤ lo then some []
  else match blockOf lo, blockOf (hi - 1) with
    | some a, some b => if (a < 8192) == (b < 8192) then some ((List.range (b - a + 1)).map (· + a)) else none
    | _, _ => none

def overlap (a n b m : Nat) : Bool := decide (max a b < min (a + n) (b + m))

/-! ### Dozing tiers (R491, R492) -/

def canopyDozing (s : State) : Bool := s.power.mdozeCanopy || s.power.waking.getLsbD 0
def bridgeDozing (s : State) : Bool := s.power.mdozeBridge || s.power.waking.getLsbD 1
def dozing (s : State) (a : Nat) : Bool := if a < canopyEnd then canopyDozing s else bridgeDozing s

/-! ### Managed regions (R199, R200) -/

def mrgnOn (x : W64) : Bool := bit64 x 63
def mrgnMode (x : W64) : Nat := bits x 61 2
def mrgnProtect (x : W64) : Bool := bit64 x 60
def mrgnBase (x : W64) : Nat := pageBytes * bits x 21 27
def mrgnBytes (x : W64) : Nat := pageBytes * bits x 0 21
def mrgnHas (x : W64) (a : Nat) : Bool := mrgnOn x && decide (mrgnBase x ≤ a ∧ a < mrgnBase x + mrgnBytes x)

/-- The enabled region of section t that holds a home address. -/
def regionOf (s : State) (t : Sec) (a : Nat) : Option W64 :=
  ((List.range 16).map (getMrgn s t)).find? (fun x => mrgnHas x a)

/-- The section whose enabled region holds a home address, with the region. -/
def regionAny (s : State) (a : Nat) : Option (Sec × W64) :=
  allSecs.findSome? (fun t => (regionOf s t a).map (fun x => (t, x)))

/-- R204: some byte of the range lies in a read-only lower tier region of the section. -/
def touchesReadOnly (s : State) (t : Sec) (lo hi : Nat) : Bool :=
  (List.range 16).any (fun i =>
    let x := getMrgn s t i
    mrgnOn x && mrgnMode x == 1 && overlap lo (hi - lo) (mrgnBase x) (mrgnBytes x))

/-! ### Reach (R188) -/

/-- R450, R457, R460: the log, the reference and the trace buffer of a section, while enabled: (base, bytes). The
reference's length is that of its entries as they stand in memory; the model takes 64 bytes an entry at least. -/
def sizedRegion (x : W64) : Nat × Nat := (0x100000 * bits x 20 28, 2 ^ (20 + bits x 56 6))

/-- R457: the bytes of a reference log of `n` entries from address a. -/
def refLength (m : Memory) (a : Nat) : Nat → Nat
  | 0 => 0
  | n + 1 =>
    let k := 64 * (1 + rd8 m (a + 1) % 16)
    k + refLength m (a + k) n

def refRegion (s : State) (t : Sec) : Nat × Nat :=
  let r := getTrace s t
  let base := bits r.rccfg 6 42 * 64
  (base, refLength s.tiers.mem base r.rclen.toNat)

def logRegions (s : State) (t : Sec) : List (Nat × Nat) :=
  let r := getTrace s t
  (if bit64 r.rlcfg 63 then [sizedRegion r.rlcfg] else []) ++ (if bit64 r.tcfg 63 then [sizedRegion r.tcfg] else [])
    ++ (if bit64 r.rccfg 63 then [refRegion s t] else [])

/-- R205, R492: the bytes lo to hi − 1 touch a dozing tier: that of their addresses, or the canopy, where a page of theirs is
resident. -/
def touchesDoze (s : State) (lo hi : Nat) : Bool :=
  decide (lo < hi) && (dozing s lo || (canopyDozing s && s.tiers.pages.any (fun e =>
    e.2.frame.isSome && overlap lo (hi - lo) (e.1 * pageBytes) pageBytes)))

/-- R187, R188, R204, R450, R492: section t reaches bytes lo to hi − 1 (to write them, when `wr`). -/
def reach (s : State) (t : Sec) (wr : Bool) (lo hi : Nat) : Bool :=
  match blocksOf lo hi with
  | none => false
  | some bs => bs.all (fun b => ownedBy s t b && !blkUse (getBlk s b) && !isBusy s b)
      && !touchesDoze s lo hi
      && (logRegions s t).all (fun r => !overlap lo (hi - lo) r.1 r.2)
      && !(wr && touchesReadOnly s t lo hi)

/-- R188 over the signed addresses of an image's rows (first and last byte). -/
def reachInt (s : State) (t : Sec) (wr : Bool) (lo hi : Int) : Bool :=
  decide (0 ≤ lo) && reach s t wr lo.toNat (hi + 1).toNat

/-- R189: the hole of a protected block. -/
def holeByte (s : State) (a : Nat) : Bool :=
  match blockOf a with
  | none => true
  | some b => decide (b < 8192) && blkType (getBlk s b) && decide (0x3800000 ≤ a % blockBytes)

/-- R188: the range touches a protected block's hole. -/
def touchesHole (s : State) (lo hi : Nat) : Bool :=
  match blocksOf lo hi with
  | none => true
  | some bs => bs.any (fun b => decide (b < 8192) && blkType (getBlk s b)
      && overlap lo (hi - lo) (blockBase b + 0x3800000) 0x800000)

def holeInt (s : State) (lo hi : Int) : Bool := touchesHole s lo.toNat (hi + 1).toNat

/-! ### Managed pages -/

def pageNo (a : Nat) : Nat := a / pageBytes

/-- R201: where a byte lies now: the page's canopy frame while it is resident. -/
def place (s : State) (a : Nat) : Nat :=
  match (getPage s (pageNo a)).frame with
  | some f => if underBase ≤ a then f + a % pageBytes else a
  | none => a

/-- R193: a granule that can be poisoned: understorey, or a protected block. -/
def holdsPoison (s : State) (p : Nat) : Bool :=
  decide (underBase ≤ p) || (match blockOf p with | some b => blkType (getBlk s b) | none => false)

def isPoison (s : State) (a : Nat) : Bool := sget false s.tiers.poison (place s a / 256)

/-- R193: a byte as the device reads it; a poisoned granule reads 0xFF. -/
def rdDev (s : State) (a : Nat) : Nat := if isPoison s a then 255 else rd8 s.tiers.mem (place s a)

def rdDevBytes (s : State) (a n : Nat) : List Nat := (List.range n).map (fun i => rdDev s (a + i))

/-- Any granule of the range is poisoned. -/
def anyPoison (s : State) (a n : Nat) : Bool :=
  (List.range ((a % 256 + n + 255) / 256)).any (fun i => isPoison s ((a / 256 + i) * 256))

def setMem (s : State) (m : Memory) : State := { s with tiers := { s.tiers with mem := m } }
/-- A granule is poisoned, or encoded anew without an error. -/
def setPoison (s : State) (g : Nat) (b : Bool) : State :=
  { s with tiers := { s.tiers with poison := sset false s.tiers.poison g b, upset := sset 0 s.tiers.upset g 0 } }

/-- R194: patrol scrub writes a granule back without the errors that the code has corrected. -/
def clearUpset (s : State) (g : Nat) : State :=
  { s with tiers := { s.tiers with upset := sset 0 s.tiers.upset g 0 } }

/-- R190, R193: bytes of one granule written at physical place p, which encodes it anew: a write of the whole granule
removes poison; a partial write into a poisoned granule is not retained. -/
def wrGranule (s : State) (p : Nat) (bs : List Nat) : State :=
  if sget false s.tiers.poison (p / 256) && bs.length != 256 then s
  else setMem (setPoison s (p / 256) false) (wrBytes s.tiers.mem p bs)

/-- Bytes written from device address a on, each where it lies now. -/
def wrDevN : Nat → State → Nat → List Nat → State
  | 0, s, _, _ => s
  | fuel + 1, s, a, bs =>
    let n := 256 - a % 256
    if bs.isEmpty then s else wrDevN fuel (wrGranule s (place s a) (bs.take n)) (a + n) (bs.drop n)

def wrDev (s : State) (a : Nat) (bs : List Nat) : State := wrDevN (bs.length / 256 + 2) s a bs

/-- Single bytes written, as a grove unit writes the elements of its granules (R243). -/
def wrCells (s : State) (ws : List (Nat × Nat)) : State := ws.foldl (fun s w => wrGranule s (place s w.1) [w.2]) s

/-- R193: a granule becomes poisoned: where poison can be held its bytes read 0xFF; in a plain block it is 0xFF bytes. -/
def poisonGranule (s : State) (p : Nat) : State :=
  let g := p / 256 * 256
  if holdsPoison s g then setPoison s (g / 256) true else setMem s (wrBytes s.tiers.mem g (List.replicate 256 255))

/-- R193: granule copied from place p to place q: a poisoned one becomes 0xFF bytes, and in a protected block it stays
poisoned. -/
def copyGranule (s : State) (p q : Nat) : State :=
  let bad := sget false s.tiers.poison (p / 256)
  let bs := if bad then List.replicate 256 255 else rdBytes s.tiers.mem p 256
  setMem (setPoison s (q / 256) (bad && decide (q < canopyEnd) && holdsPoison s q)) (wrBytes s.tiers.mem q bs)

def copyGranules (s : State) (p q n : Nat) : State :=
  (List.range n).foldl (fun s i => copyGranule s (p + 256 * i) (q + 256 * i)) s

/-- R181, R182: the index of the stack (0 to 7) or bridge (8 to 11) of a place in no bank-pinned block. -/
def tierIndex (a : Nat) : Nat := if a < canopyEnd then (canopyPlace a).unit else 8 + (underPlace (a - underBase)).unit

/-- R181, R236: the index of the stack or bridge, with the block's placement. -/
def spotOf (s : State) (a : Nat) : Spot :=
  if a < canopyEnd then
    if (match blockOf a with | some b => isPinnedBlk s b | none => false) then pinnedPlace a else canopyPlace a
  else underPlace (a - underBase)

/-- R194: the counter of a stack or bridge rises. -/
def addCe (s : State) (k n : Nat) : State :=
  { s with tiers := { s.tiers with ce := sset 0 s.tiers.ce k (BitVec.ofNat 32 (min (2 ^ 32 - 1) ((sget 0 s.tiers.ce k).toNat + n))) } }

/-- R190, R194: what a decode of the granule at place p corrects: a canopy granule counts once, an understorey granule by
its sectors; a plain block has no code of the device's (R191). -/
def correctedAt (s : State) (p : Nat) : Nat :=
  let n := sget 0 s.tiers.upset (p / 256)
  if !holdsPoison s p || sget false s.tiers.poison (p / 256) then 0 else if p < canopyEnd then min n 1 else n

/-- R194, R415: one decode, with its record of class 0x01. -/
def noteCorrected (s : State) (p : Nat) : State :=
  match correctedAt s p with
  | 0 => s
  | n + 1 =>
    logClass (addCe s (tierIndex p) (n + 1)) 1 0xF 5 (tierIndex p) 0

/-- R190, R194: the compute dies decode every granule of a range of n bytes from a on. -/
def noteDecodes (s : State) (a n : Nat) : State :=
  if s.tiers.upset.isEmpty then s
  else (List.range ((a % 256 + n + 255) / 256)).foldl (fun s i => noteCorrected s (place s ((a / 256 + i) * 256))) s

/-- R190: a write of n bytes from a on decodes the granules that it covers in part. -/
def notePartWrite (s : State) (a n : Nat) : State :=
  let s := if a % 256 == 0 && 256 ≤ n then s else noteDecodes s a (min n 1)
  if (a + n) % 256 == 0 || (a + n) / 256 == a / 256 then s else noteDecodes s (a + n) (min n 1)

/-- R187: a block is filled with zeros. -/
def fillBlock (s : State) (b : Nat) : State :=
  let base := blockBase b
  { s with tiers := { s.tiers with
    mem := zeroRange s.tiers.mem base blockBytes
    poison := s.tiers.poison.filter (fun e => !(decide (base / 256 ≤ e.1 ∧ e.1 < (base + blockBytes) / 256)))
    upset := s.tiers.upset.filter (fun e => !(decide (base / 256 ≤ e.1 ∧ e.1 < (base + blockBytes) / 256))) } }

/-! ### Frames (R201-R203) -/

/-- R203: the frame of page g's move target or its residence. -/
def frameTaken (s : State) (f : Nat) : Bool :=
  s.tiers.pages.any (fun e => e.2.frame == some f) || s.tiers.moves.any (fun m => m.target == some f)

/-- R203: an admitted and incomplete command names the page. -/
def pageNamed (s : State) (g : Nat) : Bool := allSecs.any (fun t => (getCmds s t).any (fun c => c.pages.contains g))

/-- The frame blocks of an owner code and type with the frame of colour c (R201). -/
def framesOf (s : State) (owner : Nat) (prot : Bool) (c : Nat) : List Nat :=
  if prot && decide (28 ≤ c) then []
  else (s.tiers.blk.filter (fun e => decide (e.1 < 8192) && blkOwner e.2 == owner && blkUse e.2 && blkType e.2 == prot
    && !isBusy s e.1)).map (fun e => blockBytes * e.1 + pageBytes * c)

/-- R203: the oldest evictable page of the shared pool among given frames; ties go to the lowest frame. `keep` are the pages
of the command that asks, which is being admitted. -/
def oldestEvictable (s : State) (keep fs : List Nat) : Option (Nat × Nat) :=
  let cand := fs.filterMap (fun f => (s.tiers.pages.find? (fun e => e.2.frame == some f)).bind (fun e =>
    if e.2.pinned || keep.contains e.1 || pageNamed s e.1 || s.tiers.moves.any (fun m => m.page == e.1 || m.target == some f) then none
    else some (e.1, f, e.2.age)))
  (cand.foldl (fun (b : Option (Nat × Nat × Nat)) x =>
    match b with
    | none => some x
    | some y => if x.2.2 < y.2.2 then some x else some y) none).map (fun x => (x.1, x.2.1))

/-- R202: a frame for page g of section t, with the page to evict from it. -/
def findFrame (s : State) (t : Sec) (keep : List Nat) (prot : Bool) (g : Nat) (ownOnly : Bool) : Option (Nat × Option Nat) :=
  let c := g % 32
  match (framesOf s t.val prot c).find? (fun f => !frameTaken s f) with
  | some f => some (f, none)
  | none =>
    if ownOnly then none
    else
      let pool := framesOf s 4 prot c
      match pool.find? (fun f => !frameTaken s f) with
      | some f => some (f, none)
      | none => (oldestEvictable s keep pool).map (fun x => (x.2, some x.1))

/-! ### Moves (R205) -/

/-- R205, R239, R378: the recalls that a move needs: the lines of the page that the host holds modified, and before a
switch into a plain frame every line that it holds. They go out in slot 0. -/
def moveRecalls (s : State) (t : Sec) (g : Nat) (target : Option Nat) : List (Nat × Sec × Bool) :=
  let all := match target with | some f => !holdsPoison s f | none => false
  (s.hif.dir.filter (fun e => e.line / 32768 == g && (all || e.excl) && !e.snp && !s.hif.due.any (fun d => d.1 == e.line))).map
    (fun e => (e.line, t, false))

/-- R239: the recalls of section t's moves that are still to be asked for, lines granted since the move began among them. -/
def recallMoves (s : State) (t : Sec) : State :=
  s.tiers.moves.foldl (fun s m =>
    if m.sec == t then modHif s (fun h => { h with due := h.due ++ moveRecalls s m.sec m.page m.target }) else s) s

def addMove (s : State) (m : PageMove) : State :=
  let s := modHif s (fun h => { h with due := h.due ++ moveRecalls s m.sec m.page m.target })
  { s with tiers := { s.tiers with moves := s.tiers.moves ++ [m] } }

/-- R204: the read-only lower tier releases a frame with nothing written. -/
def evict (s : State) (ord : Option Nat) (g : Nat) : State :=
  match regionAny s (pageBytes * g) with
  | none => s
  | some (u, x) =>
    if mrgnMode x == 1 then modPage s g (fun q => { q with frame := none })
    else addMove s ⟨g, u, none, ord⟩

/-- R202, R208, R210: page g of section t starts toward the canopy; none where no frame can be found. -/
def startResident (s : State) (t : Sec) (ord : Option Nat) (keep : List Nat) (g : Nat) : Option State :=
  let pg := getPage s g
  if pg.frame.isSome || s.tiers.moves.any (fun m => m.page == g && m.target.isSome) then some s
  else
    match regionOf s t (pageBytes * g) with
    | none => none
    | some x =>
      match findFrame s t keep (mrgnProtect x) g false with
      | none => none
      | some (f, v) =>
        let s := match v with | some v => evict s ord v | none => s
        some (addMove s ⟨g, t, some f, ord⟩)

def startAll (s : State) (t : Sec) (ord : Option Nat) (keep : List Nat) : List Nat → Option State
  | [] => some s
  | g :: gs => (startResident s t ord keep g).bind (fun s => startAll s t ord keep gs)

/-- R203, R208: of the pages a command names, those canopy-bound are made resident; none of them is evicted for another. -/
def makeResident (s : State) (t : Sec) (ord : Nat) (pages : List Nat) : Option State :=
  startAll s t (some ord) pages (pages.filter (fun g => (getPage s g).bound))

/-- A command whose work has begun. -/
def hasStarted (c : Cmd) : Bool :=
  match c.job with
  | .run r => r.started
  | .grove g => g.started
  | .reshard r => r.started
  | .checkpoint k => k.started
  | _ => false

def isMigrate (c : Cmd) : Bool := match c.job with | .migrate _ _ _ => true | _ => false

/-- R208, R209: a command that has not started waits for a move toward the canopy: its own, and one asked for before it of
a page that is canopy-bound, or that the grove units must reach. -/
def waitsFor (s : State) (c : Cmd) (m : PageMove) : Bool :=
  !hasStarted c && c.pages.contains m.page && m.target.isSome && (match m.ord with
    | none => false
    | some o => o == c.ord || (decide (o < c.ord) && ((getPage s m.page).bound || isGroveOp c)))

/-- R209: no page that the command needs in the canopy is still on its way. -/
def residencyDone (s : State) (c : Cmd) : Bool := s.tiers.moves.all (fun m => !waitsFor s c m)

/-- R206: an admitted command that names the page holds the move, unless the move is its own or it waits for it; of two
MIGRATEs the one read first goes first. -/
def moveBlocked (s : State) (m : PageMove) : Bool :=
  allSecs.any (fun t => (getCmds s t).any (fun c => c.pages.contains m.page && !waitsFor s c m &&
    (match m.ord with
    | none => true
    | some o => if isMigrate c then decide (c.ord < o) else c.ord != o)))

/-- The pages of the section's enabled regions that a range of home addresses touches. -/
def pagesIn (s : State) (t : Sec) (lo hi : Nat) : List Nat :=
  if hi ≤ lo then []
  else ((List.range (pageNo (hi - 1) - pageNo lo + 1)).map (· + pageNo lo)).filter
    (fun g => (regionOf s t (pageBytes * g)).isSome)

/-- R203: a command that names pages is admitted: their age is the present frame. -/
def touchPages (s : State) (pages : List Nat) : State :=
  pages.foldl (fun s g => modPage s g (fun q => { q with age := frameOf s })) s

/-- R208: the pages of managed regions that some variants of an image cover. -/
def imagePages (s : State) (t : Sec) (g : Image) (vs : Nat → Bool) : List Nat :=
  ((List.range 16).flatMap (fun i =>
    let x := getMrgn s t i
    if mrgnOn x then (List.range (bits x 0 21)).map (· + pageNo (mrgnBase x)) else [])).filter (fun k =>
      !deviceOkIn g vs (fun _ lo hi => decide (hi < (pageBytes * k : Nat) ∨ (pageBytes * (k + 1) : Nat) ≤ lo)))

/-! ### Images and blocks -/

/-- The block lies apart from a row's bytes. -/
def apart (b : Nat) (lo hi : Int) : Bool := decide (hi < (blockBase b : Nat) ∨ ((blockBase b + blockBytes : Nat) : Int) ≤ lo)

/-- R187: an image names a block. -/
def imageNames (g : Image) (b : Nat) : Bool := !deviceOk g (fun _ lo hi => apart b lo hi)
/-- R377: some variants of an image can write a block, or can reach it. -/
def imageWrites (g : Image) (vs : Nat → Bool) (b : Nat) : Bool := !deviceOkIn g vs (fun wr lo hi => !wr || apart b lo hi)
def imageReaches (g : Image) (vs : Nat → Bool) (b : Nat) : Bool := !deviceOkIn g vs (fun _ lo hi => apart b lo hi)

def loadedNames (s : State) (t : Sec) (b : Nat) : Bool :=
  match s.images.get t with | some g => imageNames g b | none => false

def ownedBlocks (s : State) (t : Sec) : List Nat :=
  (s.tiers.blk.filter (fun e => blkOwner e.2 == t.val)).map (·.1)

/-- R186: a managed page occupies a frame in the block. -/
def blockHasPage (s : State) (b : Nat) : Bool :=
  s.tiers.pages.any (fun e => match e.2.frame with | some f => f / blockBytes == b | none => false)
    || s.tiers.moves.any (fun m => match m.target with | some f => f / blockBytes == b | none => false)

/-! ### Admission recalls (R377) -/

def blockOfLine (line : Nat) : Option Nat := blockOf (line * 64)

/-- R377: the entries that a command's admission recalls. -/
def recallLines (s : State) (t : Sec) (writes reads : List Nat) : List Nat :=
  (s.hif.dir.filter (fun e => e.sec == t && (match blockOfLine e.line with
    | none => false
    | some b => writes.contains b || (reads.contains b && e.excl)))).map (·.line)

def addRecalls (s : State) (t : Sec) (writes reads : List Nat) : State :=
  let ls := (recallLines s t writes reads).filter (fun l => !s.hif.due.any (fun d => d.1 == l))
  modHif s (fun h => { h with due := h.due ++ ls.map (fun l => (l, t, false)) })

/-- R377: the recalls of a command are complete. -/
def recallsDone (s : State) (t : Sec) (c : Cmd) : Bool := (recallLines s t c.writes c.reads).isEmpty

/-- The blocks of a list of ranges (first byte, length). -/
def rangeBlocks (rs : List (Nat × Nat)) : List Nat := rs.flatMap (fun r => (blocksOf r.1 (r.1 + r.2)).getD [])

end Sys2Proof.Machine
end

