-- ==== Sys2Proof/Machine/Ring.lean ====
section
/-!
DEFINITION. Reading a descriptor: when the device reads one, what reading it changes, the checks of R399, and the step
fields of NOP, RUN and GROVE.
-/
namespace Sys2Proof.Machine

/-- What a meaning answers. -/
abbrev Res := Host.Outcome State Fault Refusal

/-! ### Ring arithmetic (R393, R394) -/

def sqSlots (r : Ring) : Nat := 2 ^ (6 + r.sqSize.toNat)
def cqSlots (r : Ring) : Nat := 2 ^ (6 + r.cqSize.toNat)
/-- Slots between SQ_HEAD and SQ_TAIL. -/
def sqAvail (r : Ring) : Nat := (r.sqTail + sqSlots r - r.sqHead) % sqSlots r
/-- R393: records written and not consumed. -/
def cqHeld (r : Ring) : Nat := (r.cqTail + cqSlots r - r.cqHead) % cqSlots r

/-- R397: INLINE[2:0]. -/
def inlineOf (d : Desc) : Nat := (d.inline.extractLsb' 0 3).toNat

/-- The host link carries rings (R360), and the card has power (R427, R442). -/
def hostUp (s : State) : Bool := s.hif.mode == 2 && s.ward.stage != .halted && s.ward.stage != .failed

/-- R66, R394, R396, R455: the device reads the next descriptor of the pair. -/
def canRead (s : State) (p : Pair) (d : Desc) : Bool :=
  let r := getRing s p
  let t := secOf p
  r.st == .active && hostUp s && r.held.isNone && mayUseAny s t 48 && !logFull s t
    && decide (inlineOf d + 1 ≤ sqAvail r ∧ r.outstanding < 255 ∧ r.outstanding + cqHeld r < cqSlots r - 1)
    && d.follow.length == inlineOf d

/-- R397: the 64 bytes of a descriptor. -/
def descWord (op : BitVec 8) (d : Desc) : BitVec 512 :=
  BitVec.ofNat 512 (op.toNat + d.inline.toNat * 2 ^ 8 + d.cmdId.toNat * 2 ^ 16 + d.flags.toNat * 2 ^ 32
    + d.rsvd.toNat * 2 ^ 40 + d.fields.toNat * 2 ^ 64 + d.step.toNat * 2 ^ 256)

/-- The command that a descriptor begins. -/
def cmdOf (s : State) (p : Pair) (op : BitVec 8) (d : Desc) : Cmd where
  ord := s.seq
  ringOrd := nextOrdinal s (secOf p) (ringIx p)
  pair := p
  op := op
  id := d.cmdId
  irq := d.flags.getLsbD 0
  carry := none
  draw := 0
  pages := []
  writes := []
  reads := []
  copies := []
  stop := none
  job := .inlineWrite []

/-- R394, R399, R452: the device reads a descriptor: INLINE[2:0] + 1 slots are consumed and read by RdCurr, OUTSTANDING
rises, and the DESCRIPTOR entry is formed. -/
def readDesc (s : State) (p : Pair) (op : BitVec 8) (d : Desc) : State :=
  let r := getRing s p
  let n := inlineOf d + 1
  let s := (List.range n).foldl (fun s i =>
    emit s (.d2h .rdCurr (r.sqBase.toNat + 64 * ((r.sqHead + i) % sqSlots r)))) s
  let s := modRing s p (fun r => { r with sqHead := (r.sqHead + n) % sqSlots r, outstanding := r.outstanding + 1 })
  let t := secOf p
  let s := logAppend s t 1 (ringIx p) (descWord op d :: d.follow) (nextOrdinal s t (ringIx p))
  let s := modTrace s t (fun x => { x with
    ordinals := if bit64 x.rccfg 63 then sset 0 x.ordinals (ringIx p) (sget 0 x.ordinals (ringIx p) + 1) else x.ordinals })
  { s with seq := s.seq + 1 }

/-! ### Fields -/

/-- A field of Table 14.8 at an offset of 0x08 to 0x1F. -/
def ff (d : Desc) (off n : Nat) : Nat := (d.fields.toNat >>> (8 * (off - 8))) % 2 ^ (8 * n)

/-- R398: the opcode fields outside the given (offset, bytes) are 0. -/
def onlyFields (d : Desc) (fs : List (Nat × Nat)) : Bool :=
  fs.foldl (fun x f => x - ff d f.1 f.2 * 2 ^ (8 * (f.1 - 8))) d.fields.toNat == 0

/-- The follow-on slots as one string of bytes. -/
def followBytes (d : Desc) : List Nat := d.follow.flatMap (fun w => leBytes 64 w.toNat)

/-- R399: INLINE as Table 14.8 gives it, reserved header bits and bytes 0. -/
def headerOk (d : Desc) (inline : Nat) : Bool :=
  d.inline.toNat == inline && d.flags &&& 0xFE == 0 && d.rsvd == 0

/-- A command without step fields has zeros there. -/
def noStep (d : Desc) : Bool := d.step == 0

/-! ### Step fields (Table 11.1) -/

def stCarry (d : Desc) : Bool := d.step.getLsbD 0
def stVote (d : Desc) : Bool := d.step.getLsbD 1
def stForce (d : Desc) : Bool := d.step.getLsbD 2
def stIndex (d : Desc) : Nat := (d.step.extractLsb' 64 64).toNat
def stRoll (d : Desc) : Nat := (d.step.extractLsb' 128 64).toNat
def stWord (d : Desc) : Nat := (d.step.extractLsb' 192 64).toNat
/-- STEP_CTL[7:3] and bytes 0x01-0x07. -/
def stRsv (d : Desc) : Bool := d.step.extractLsb' 3 61 == 0

def isTrain (s : State) (t : Sec) : Bool := (getSect s t).role == 0
def stepOpen (x : Steps) : Bool := x.pend.any (fun q => !q.closed)
def findPend (x : Steps) (k : Nat) : Option Pend := x.pend.find? (fun q => q.step == k && !q.closed)

/-- R327, R345: the form of the step fields of a NOP, a RUN or an ungated GROVE. -/
def stepForm (s : State) (t : Sec) (d : Desc) : Bool :=
  if !stCarry d then d.step == 0
  else stRsv d && (stVote d || stWord d == 0) && !(isA1 s && stForce d)
    && (isTrain s t || (!stVote d && !stForce d && stRoll d == 0 && stWord d == 0))

/-- R255, R327: the step fields of a GATED GROVE. -/
def gatedForm (d : Desc) : Bool :=
  stCarry d && stRsv d && !stVote d && !stForce d && stRoll d == 0 && stWord d == 0

/-- What the rules of R329 say of a counting command. -/
inductive StepVerdict where
  | bad
  | late (opens : Bool)
  | joins
  | opens
  deriving DecidableEq, Repr

/-- R188, R332: the agreement word's address is a multiple of 8 within reach and in no hole, and the same in every
command of the step. -/
def wordOk (s : State) (t : Sec) (d : Desc) (q : Option Pend) : Bool :=
  !stVote d || (stWord d % 8 == 0 && reach s t false (stWord d) (stWord d + 8)
      && !touchesHole s (stWord d) (stWord d + 8)
    && (match q.bind (·.word) with | none => true | some w => w == stWord d))

/-- R329: a step that has been opened since the most recent SEED: one from its NEXT_STEP to the last step opened. -/
def openedBefore (x : Steps) (k : Nat) : Bool :=
  match x.next, x.last with
  | some n, some (l, _) => decide ((k + 2 ^ 64 - n) % 2 ^ 64 ≤ (l + 2 ^ 64 - n) % 2 ^ 64)
  | _, _ => false

/-- R328, R329: whether a counting command of TRAIN is accepted, and whether it opens its step. A command of a step that
has closed is late, whatever its other fields. -/
def stepVerdict (s : State) (t : Sec) (d : Desc) : StepVerdict :=
  let x := getSteps s t
  let k := stIndex d
  let f := stRoll d
  let now := decide (f ≤ frameOf s)
  if !x.seeded || (s.images.get t).isNone then .bad
  else
    match findPend x k with
    | some q =>
      if decide (q.roll ≤ frameOf s) then .late false
      else if q.roll != f || !wordOk s t d (some q) then .bad else .joins
    | none =>
      if openedBefore x k then .late false
      else
        let next := match x.last with
          | none => x.next == some k
          | some (l, r) => k == (l + 1) % 2 ^ 64 && decide (r < f)
        if !next || !wordOk s t d none then .bad else if now then .late true else .opens

/-- A step as it opens. One that is closed at once has no contribution of the card's, which every combined value then
lacks (R320). -/
def newPend (no : Nat) (d : Desc) (id n : Nat) (fifth closed : Bool) : Pend where
  no := no
  step := stIndex d
  roll := stRoll d
  logicalId := id
  devices := n
  fifth := fifth
  silent := closed
  late := false
  word := none
  forced := false
  incomplete := false
  flags := false
  scan := false
  closed := closed
  causes := 0
  ownWord := 0
  value := if closed then some ⟨true, true, 0, 0xFFFFFFFFFFFFFFFF, 0, 0⟩ else none
  level := 0
  kept := []
  result := none
  taken := false
  lost := false

/-- R329, R320: step k opens; as a fifth step when four are pending. A step opened at or after tick f is closed at once. -/
def openStep (s : State) (t : Sec) (d : Desc) (closed : Bool) : State :=
  let g := s.images.get t
  let id := (g.map (·.logicalId)).getD 0
  let n := (g.map (·.deviceCount)).getD 1
  modSteps s t (fun x => { x with
    last := some (stIndex d, stRoll d)
    latest := some (stIndex d)
    pend := x.pend ++ [newPend s.seq d id n (decide (4 ≤ x.pend.length)) closed]
    outcomes := x.outcomes.filter (fun e => e.1 != stIndex d) })

/-- R331: FORCE_SKIP and VOTE of an accepted counting command enter the step. -/
def joinStep (s : State) (t : Sec) (d : Desc) : State :=
  modPend s t (stIndex d) (fun q => { q with
    forced := q.forced || stForce d
    word := if stVote d then some (stWord d) else q.word })

/-- R327: the step that a refused command still counts for: one that is open. -/
def openCarry (s : State) (t : Sec) (d : Desc) : Option Nat :=
  if stCarry d && isTrain s t && (findPend (getSteps s t) (stIndex d)).isSome then some (stIndex d) else none

/-- R331: FORCE_SKIP of a refused command that counts for an open step; stepping A1 has none (R345). -/
def forceRefused (s : State) (t : Sec) (d : Desc) : State :=
  if stForce d && !isA1 s && (openCarry s t d).isSome then modPend s t (stIndex d) (fun q => { q with forced := true }) else s

/-- Table 8.3: the GATED bit of a GROVE descriptor's operation record; such a command is no counting command (R327). -/
def isGated (d : Desc) : Bool := (d.follow.headD 0).getLsbD 10

/-- R427: what a card that has departed does with a descriptor, then R399, then the command itself. `k` continues with the
command when the descriptor is read and its header and fields (`form`) are in order. A refused command that carries an open
step enters that step (R329, Table 11.2), a GATED GROVE with a BAD_DESCRIPTOR alone. -/
def withRead (s : State) (p : Pair) (op : BitVec 8) (d : Desc) (form : State → Bool)
    (k : State → Cmd → State) : State :=
  let s := begin s
  if !canRead s p d then s
  else
    let c := cmdOf s p op d
    let s := readDesc s p op d
    let t := secOf p
    let carried := { c with carry := if op == 1 || op == 4 || op == 5 then openCarry s t d else none }
    let counts := op == 1 || op == 4 || (op == 5 && !isGated d)
    let refuse (s : State) : State := if counts then forceRefused s t d else s
    if s.ward.card == .departed && op != 0x0D && op != 0x0E then
      completeRead (refuse s) t (if counts then carried else c) stDrained 0 0
    else if !form s then completeRead (refuse s) t carried stBad 0 0
    else k s c

/-- R327-R332, R348: the step fields of a counting command: `k` continues with the command that carries its step. -/
def withStep (s : State) (t : Sec) (d : Desc) (c : Cmd) (k : State → Cmd → State) : State :=
  if !stCarry d then k s c
  else if !isTrain s t then k s { c with draw := stIndex d }
  else
    match stepVerdict s t d with
    | .bad => completeRead (forceRefused s t d) t { c with carry := openCarry s t d } stBad 0 0
    | .late opens =>
      completeRead (if opens then openStep s t d true else s) t c stAborted 0 0
    | .joins => k (joinStep s t d) { c with carry := some (stIndex d), draw := stIndex d }
    | .opens => k (joinStep (openStep s t d false) t d) { c with carry := some (stIndex d), draw := stIndex d }

/-- A command is admitted: it joins the commands in flight of its section. -/
def takeIn (s : State) (t : Sec) (c : Cmd) : State := setCmds s t (getCmds s t ++ [c])

/-- R396: the command holds the ring. -/
def hold (s : State) (p : Pair) (ord : Nat) : State := modRing s p (fun r => { r with held := some ord })

/-- The RESULT bytes of Table 14.8, given as (offset, bytes, value). -/
def resultOf (fs : List (Nat × Nat × Nat)) : BitVec 128 :=
  BitVec.ofNat 128 (fs.foldl (fun x f => x + (f.2.2 % 2 ^ (8 * f.2.1)) * 2 ^ (8 * f.1)) 0)

/-- RUN or GROVE commands of the section that are admitted and not complete. -/
def busyWork (s : State) (t : Sec) : Bool := (getCmds s t).any (fun c => isRunOp c || isGroveOp c)

end Sys2Proof.Machine
end

