-- ==== Sys2Proof/Machine/RingCmds.lean ====
section
/-!
DEFINITION. The ring commands that need no schedule: NOP, FENCE, INLINE_WRITE, SEED, TIME_MARK, QUERY, DRAIN and reserved
opcodes; the doorbell re-read and the completion records.
-/
namespace Sys2Proof.Machine

/-! ### NOP, reserved opcodes, SEED, QUERY -/

/-- R398: NOP. -/
def execNop (p : Pair) (d : Desc) (s : State) : Res :=
  .next (withRead s p 1 d (fun s => headerOk d 0 && d.fields == 0 && stepForm s (secOf p) d) (fun s c =>
    withStep s (secOf p) d c (fun s c => completeRead s (secOf p) c stOk 0 0)))

/-- R399: OPCODE 0x00 or 0x0F-0xFF. -/
def execReservedOpcode (p : Pair) (op : BitVec 8) (d : Desc) (s : State) : Res :=
  .next (if op == 0 || decide (0x0F ≤ op.toNat) then withRead s p op d (fun _ => false) (fun s _ => s) else begin s)

/-- R405, R347: SEED. -/
def execSeed (p : Pair) (d : Desc) (s : State) : Res :=
  .next (withRead s p 0x0A d (fun _ => headerOk d 0 && noStep d && onlyFields d [(8, 8), (0x10, 8)]) (fun s c =>
    let t := secOf p
    if stepOpen (getSteps s t) || busyWork s t || (s.images.get t).isNone then completeRead s t c stAborted 0 0
    else
      let s := modSteps s t (fun x => if isTrain s t
        then { x with seed := w64 (ff d 8 8), seeded := true, next := some (ff d 0x10 8), last := none, outcomes := [] }
        else { x with seed := w64 (ff d 8 8), seeded := true })
      completeRead s t c stOk 0 0))

/-- R409: the next step index that the section expects. -/
def nextStepOf (x : Steps) : Nat := match x.last with | some (k, _) => k + 1 | none => x.next.getD 0

/-- R409: a QUERY is of a kind of Table 14.9a, with its ARG in range; KIND 0x02 is reserved on stepping A1. -/
def queryForm (s : State) (t : Sec) (d : Desc) : Bool :=
  headerOk d 0 && noStep d && onlyFields d [(8, 1), (0x10, 8)] &&
  (match ff d 8 1 with
  | 1 => ff d 0x10 8 == 0
  | 2 => !isA1 s && ff d 0x10 8 % pageBytes == 0 && (regionOf s t (ff d 0x10 8)).isSome
  | 3 => ff d 0x10 8 == 0
  | _ => false)

/-- R409: the RESULT of a QUERY. -/
def queryResult (s : State) (t : Sec) (d : Desc) : BitVec 128 :=
  match ff d 8 1 with
  | 1 =>
    let x := getSteps s t
    resultOf [(0, 8, nextStepOf x), (8, 1, x.pend.length), (9, 1, (getSect s t).role.toNat)]
  | 2 =>
    let g := getPage s (pageNo (ff d 0x10 8))
    resultOf [(0, 8, g.frame.getD 0), (8, 1, b2n g.bound + 2 * b2n g.pinned)]
  | _ =>
    let l := getCmds s t
    resultOf [(0, 2, (l.filter isRunOp).length), (2, 2, (l.filter isGroveOp).length), (4, 1, b2n (s.images.get t).isSome)]

/-- R409: the section's state at the moment the device reads the command; the descriptor's KIND says which. -/
def query (p : Pair) (d : Desc) (s : State) : State :=
  withRead s p 0x0E d (fun s => queryForm s (secOf p) d) (fun s c =>
    completeRead s (secOf p) c stOk 0 (queryResult s (secOf p) d))

/-- R409: QUERY of kind STEP. -/
def execQueryStep (p : Pair) (d : Desc) (s : State) : Res := .next (query p d s)
/-- R409: QUERY of kind PAGE. -/
def execQueryPage (p : Pair) (d : Desc) (s : State) : Res := .next (query p d s)
/-- R409: QUERY of kind LOAD. -/
def execQueryLoad (p : Pair) (d : Desc) (s : State) : Res := .next (query p d s)

/-! ### TIME_MARK -/

def lockCode : Lock → Nat
  | .free => 0 | .acquiring => 1 | .locked => 2 | .holdover => 3

/-- R406, Table 16.13: a TIME_MARK completes with system time, and its trace record carries the same time. -/
def finishMark (s : State) (t : Sec) (c : Cmd) : State :=
  let s := traceRec s t 5 0 0 (w64 c.id.toNat) (w64 (frameNow s))
  complete s t c stOk 0 (resultOf [(0, 8, s.time.ns.toNat), (8, 4, s.time.frac.toNat), (0xC, 1, lockCode s.time.lock)])

/-- R406: TIME_MARK. -/
def execTimeMark (p : Pair) (d : Desc) (s : State) : Res :=
  .next (withRead s p 0x0B d (fun _ => headerOk d 0 && noStep d && onlyFields d [(8, 8)]) (fun s c =>
    let t := secOf p
    let f := ff d 8 8
    if f == 0 || (s.time.frame.isSome && decide (f ≤ frameOf s)) then
      if timeGood s then finishMark (takeIn s t c) t c else completeRead s t c stAborted 0 0
    else takeIn s t { c with job := .timeMark f }))

/-- R406: tick AT_FRAME of a waiting TIME_MARK. -/
def execTimeMarkAtFrame (t : Sec) (s : State) : Res :=
  let s := begin s
  .next (match (getCmds s t).find? (fun c => match c.job with
      | .timeMark f => s.time.frame.isSome && decide (f ≤ frameOf s) | _ => false) with
    | some c => if timeGood s then finishMark s t c else complete s t c stAborted 0 0
    | none => s)

/-! ### Writes that act as host-window writes (R204, R205) -/

/-- R193: bytes at physical places; a write that covers a whole granule first removes its poison. -/
def wrPlaces (s : State) (ws : List (Nat × Nat)) (poison : Bool) : State :=
  ((ws.map (fun w => w.1 / 256)).eraseDups).foldl (fun s g =>
    let here := ws.filter (fun w => w.1 / 256 == g)
    if poison && holdsPoison s (g * 256) then poisonGranule s (g * 256)
    else if poison then here.foldl (fun s w => wrGranule s w.1 [255]) s
    else
      let s := if here.length == 256 then setPoison s g false else s
      here.foldl (fun s w => wrGranule s w.1 [w.2]) s) s

/-- R204: a byte of a resident page of a read-only lower tier region. -/
def inReadOnlyFrame (s : State) (a : Nat) : Bool :=
  place s a != a && (match regionAny s a with | some (_, x) => mrgnMode x == 1 | none => false)

/-- R204: bytes of a host-window write applied: at the page's present place, and in a read-only lower tier also at home. -/
def hostApply (s : State) (ws : List (Nat × Nat)) (poison : Bool) : State :=
  let homes := ws.filter (fun w => inReadOnlyFrame s w.1)
  let s := ((ws.map (fun w => w.1 / 256)).eraseDups).foldl (fun s g =>
    notePartWrite s (256 * g) (ws.filter (fun w => w.1 / 256 == g)).length) s
  wrPlaces (wrPlaces s (ws.map (fun w => (place s w.1, w.2))) poison) homes poison

/-- R205: a page that is being copied: its move waits for no command. -/
def pageMoving (s : State) (a : Nat) : Bool :=
  decide (underBase ≤ a) && s.tiers.moves.any (fun m => m.page == pageNo a && !moveBlocked s m)

/-- The bytes of a write, cut at pages: those of pages that are being copied wait. -/
def pagesOfCells (ws : List (Nat × Nat)) : List Nat := (ws.map (fun w => pageNo w.1)).eraseDups

/-- R205: a host-window write lands, or waits for the moves of its pages. -/
def landWrite (s : State) (num : Nat) (ws : List (Nat × Nat)) (poison : Bool) : State :=
  let held := ws.filter (fun w => pageMoving s w.1)
  let s := hostApply s (ws.filter (fun w => !pageMoving s w.1)) poison
  (pagesOfCells held).foldl (fun s g =>
    let h : Held := ⟨g, num, held.filter (fun w => pageNo w.1 == g), poison⟩
    { s with tiers := { s.tiers with held := s.tiers.held ++ [h] } }) s

/-- R205: the writes that waited for the page are applied, once. -/
def releaseHeld (s : State) (page : Nat) : State :=
  let hs := s.tiers.held.filter (fun h => h.page == page)
  let s := { s with tiers := { s.tiers with held := s.tiers.held.filter (fun h => h.page != page) } }
  hs.foldl (fun s h => hostApply s h.data h.poison) s

/-- R366, R403: the bytes of an INLINE_WRITE travel in slot 0, when no page of theirs is being copied. -/
def inlineMayLand (s : State) (ws : List (Nat × Nat)) : Bool :=
  inSlot0 s && ws.all (fun w => !pageMoving s w.1 && !dozing s (place s w.1))

/-- R384, R403: INLINE_WRITE commands whose bytes may travel are written whole, and complete. -/
def finishInline (s : State) (t : Sec) : State :=
  (getCmds s t).foldl (fun s c => match c.job with
    | .inlineWrite ws => if inlineMayLand s ws then complete (hostApply s ws false) t c stOk 0 0 else s
    | _ => s) s

/-! ### INLINE_WRITE -/

/-- R398, R403: the form of an INLINE_WRITE; on stepping A1 at most three follow-on slots. -/
def inlineForm (s : State) (d : Desc) : Bool :=
  let n := ff d 0x10 2
  headerOk d ((n + 63) / 64) && noStep d && onlyFields d [(8, 8), (0x10, 2)]
    && decide (1 ≤ n ∧ n ≤ 448) && !(isA1 s && decide (192 < n)) && ((followBytes d).drop n).all (· == 0)

/-- R403: INLINE_WRITE. -/
def execInlineWrite (p : Pair) (d : Desc) (s : State) : Res :=
  .next (withRead s p 9 d (fun s => inlineForm s d) (fun s c =>
    let t := secOf p
    let a := ff d 8 8
    let n := ff d 0x10 2
    let onA1 := isA1 s && (List.range n).any (fun i => inReadOnlyFrame s (a + i))
    if !reach s t false a (a + n) || onA1 then completeRead s t c stDenied 0 0
    else if touchesHole s a (a + n) then completeRead s t c stBad 0 0
    else
      let ws := ((followBytes d).take n).mapIdx (fun i b => (a + i, b))
      let c := { c with job := .inlineWrite ws }
      let s := takeIn s t c
      if inlineMayLand s ws then complete (hostApply s ws false) t c stOk 0 0 else hold s p c.ord))

/-! ### FENCE -/

/-- R382: FENCE takes the set of completed window writes, and their write sum and count (R453), and holds the ring. -/
def execFence (p : Pair) (d : Desc) (s : State) : Res :=
  .next (withRead s p 2 d (fun _ => headerOk d 0 && noStep d && d.fields == 0) (fun s c =>
    let t := secOf p
    let x := getTrace s t
    let s := takeIn s t { c with job := .fence s.hif.inNum x.wSum x.wCount }
    hold (modTrace s t (fun x => { x with wSum := 0, wCount := 0 })) p c.ord))

/-- R382: every write of the set is in device memory. -/
def fenceMet (s : State) (upTo : Nat) : Bool :=
  s.hif.inbound.all (fun e => decide (upTo ≤ e.num)) && s.tiers.held.all (fun h => decide (upTo ≤ h.num))

/-- R382: the FENCE that holds the pair completes. -/
def execFenceCompletion (p : Pair) (s : State) : Res :=
  let s := begin s
  let t := secOf p
  .next (match (getCmds s t).find? (fun c => c.pair == p && (match c.job with
      | .fence n _ _ => fenceMet s n | _ => false)) with
    | some c => complete s t c stOk 0 0
    | none => s)

/-! ### DRAIN (R408, R429) -/

/-- R258, R428: a fresh number for a stop, which the free value Config.writtenAtStop is applied to. -/
def newStop (s : State) : State := { s with fresh := s.fresh + 1 }

/-- R404: how many granules of a copy had been written when it stopped: a leading part, which part is open. -/
def writtenCount (stop : Nat) : Nat → Nat → Nat
  | _, 0 => 0
  | k, n + 1 => if Config.writtenAtStop stop k then 1 + writtenCount stop (k + 1) n else 0

/-- The granules of a CHECKPOINT in copying order: (source, destination). -/
def ckptGranules (k : CkptJob) : List (Nat × Nat) :=
  k.ranges.flatMap (fun r => (List.range (r.2.2 / 256)).map (fun i => (r.1 + 256 * i, r.2.1 + 256 * i)))

/-- R404, R193: one granule of a CHECKPOINT copied, with the record of poison that a copy carries. -/
def ckptCopy (s : State) (t : Sec) (g : Nat × Nat) : State :=
  let bad := isPoison s g.1
  let s := copyGranule (noteDecodes s g.1 256) (place s g.1) (place s g.2)
  if bad then capMem s t g.1 4 3 else s

def ckptCopyAll (s : State) (t : Sec) (gs : List (Nat × Nat)) : State := gs.foldl (fun s g => ckptCopy s t g) s

/-- R408: the part of a CHECKPOINT that had been copied when it stops, with the bytes. -/
def ckptStop (s : State) (t : Sec) (k : CkptJob) : State × Nat :=
  if !k.started then (s, 0)
  else
    let gs := ckptGranules k
    let n := writtenCount s.fresh 0 gs.length
    (ckptCopyAll (newStop s) t (gs.take n), 256 * n)

/-- R205, R408: the moves of a command end; a page whose copy is incomplete does not switch, and the writes that waited
for it land where the page stays. -/
def dropMoves (s : State) (ord : Nat) : State :=
  let gone := s.tiers.moves.filter (fun m => m.ord == some ord)
  let s := { s with tiers := { s.tiers with moves := s.tiers.moves.filter (fun m => m.ord != some ord) } }
  gone.foldl (fun s m => if s.tiers.moves.any (fun x => x.page == m.page) then s else releaseHeld s m.page) s

/-- R82: the stop that counts when several fall on one command: OVERRUN, then ABORTED, then DRAINED; a lost host link
leaves no status at all (R384). -/
def strongerStop : Option Stop → Stop → Stop
  | some .lost, _ => .lost
  | _, .lost => .lost
  | some (.overrun k), _ => .overrun k
  | some .aborted, .drained => .aborted
  | _, x => x

def setStop (c : Cmd) (x : Stop) : Cmd := { c with stop := some (strongerStop c.stop x) }

def isDrain (c : Cmd) : Bool := match c.job with | .drain _ _ _ => true | .netDrain _ _ _ => true | _ => false

/-- A started RUN, GROVE or RESHARD, which stops at the next tick. -/
def isRunning (c : Cmd) : Bool :=
  match c.job with
  | .run r => r.started
  | .grove g => g.started
  | .reshard r => r.started
  | _ => false

/-- R401: the RESULT of a RUN or GROVE command that a drain ends before it starts. -/
def waitingResult : Job → BitVec 128
  | .run r => resultOf [(0, 8, r.start)]
  | .grove g => resultOf [(8, 4, g.need)]
  | _ => 0

/-- R408: what the drain of a section does to one of its commands at the guard band. -/
def drainOne (s : State) (t : Sec) (c : Cmd) : State :=
  if isDrain c then s
  else if isRunning c then modCmd s t c.ord (fun c => setStop c .drained)
  else
    match c.job with
    | .migrate _ _ n => completeOne (dropMoves s c.ord) t c stDrained 0 (resultOf [(0, 4, n)])
    | .checkpoint k =>
      let (s, n) := ckptStop s t k
      completeOne (dropMoves s c.ord) t c stDrained 0 (resultOf [(0, 8, n)])
    | _ => completeOne (dropMoves s c.ord) t c stDrained 0 (waitingResult c.job)

/-- The commands that a drain of the section ends. -/
def drained (s : State) (t : Sec) : List Cmd := (getCmds s t).filter (fun c => !isDrain c)

/-- R408: a section drains; an INLINE_WRITE of another section may have waited for a dropped move. -/
def drainSection (s : State) (t : Sec) : State :=
  allSecs.foldl finishInline ((drained s t).foldl (fun s c =>
    match findCmd s t c.ord with | some c => drainOne s t c | none => s) s)

/-- R408: every DRAIN of the section that has not taken effect takes effect. -/
def drainTakes (s : State) (t : Sec) : State :=
  let ds := drained s t
  let todo := (getCmds s t).filter (fun c => match c.job with
    | .drain e _ _ => !e | .netDrain e _ _ => !e | _ => false)
  if todo.isEmpty then s
  else
    let s := drainSection s t
    let ords := ds.map (·.ord)
    setCmds s t ((getCmds s t).map (fun c => match c.job with
      | .drain false _ _ => { c with job := .drain true 0 ords }
      | .netDrain false _ _ => { c with job := .netDrain true ords (frameOf s) }
      | _ => c))

/-- R429: a DRAIN report of section t to its multicast group waits on every ACTIVE link. -/
def drainPayload (s : State) (t : Sec) (kind frame : Nat) : BitVec 1920 :=
  BitVec.ofNat 1920 (kind + t.val * 2 ^ 8 + (frame % 2 ^ 64) * 2 ^ 64
    + ((getSteps s t).latest.getD 0xFFFFFFFFFFFFFFFF % 2 ^ 64) * 2 ^ 128)

/-- R429: the DRAIN flit of section t: a request (1) or a report (2), with the frame of the section's drain. -/
def drainBody (s : State) (t : Sec) (kind frame : Nat) : Body where
  type := 9
  dest := (getSect s t).rcCfg.extractLsb' 16 16
  src := BitVec.ofNat 16 (((s.images.get t).map (·.logicalId)).getD 0)
  tag := 0x8000
  frame := frameOf s
  len := 24
  payload := drainPayload s t kind frame

def modSpace (x : LinkSt) (k : Nat) (f : Space → Space) : LinkSt :=
  { x with spaces := x.spaces.mapIdx (fun i y => if i == k then f y else y) }

/-- A control flit joins the queue of every ACTIVE link. -/
def queueControl (s : State) (b : Body) : State :=
  allLinks.foldl (fun s l =>
    if (getLink s l.val).st == 5 then modLink s l.val (fun x => modSpace x 4 (fun y => { y with queue := y.queue ++ [b] }))
    else s) s

/-- R408, R429: a drain whose last record is written completes; that of a request multicasts its report. On stepping
A1 cards send no DRAIN flit (R446). -/
def finishDrains (s : State) (t : Sec) : State :=
  (getCmds s t).foldl (fun s c =>
    match c.job with
    | .drain true n [] => complete s t c stOk 0 (resultOf [(0, 4, n)])
    | .netDrain true [] n => completeOne (if isA1 s then s else queueControl s (drainBody s t 2 n)) t c stOk 0 0
    | _ => s) s

/-- R408: DRAIN. -/
def execDrain (p : Pair) (d : Desc) (s : State) : Res :=
  .next (withRead s p 0x0D d (fun _ => headerOk d 0 && noStep d && d.fields == 0) (fun s c =>
    let t := secOf p
    let s := hold (takeIn s t { c with job := .drain false 0 [] }) p c.ord
    if s.time.guard then finishDrains (drainTakes s t) t else s))

/-- R408: the guard band of the frame of a DRAIN. -/
def execDrainTakesEffect (t : Sec) (s : State) : Res :=
  let s := begin s
  .next (if s.time.guard then finishDrains (drainTakes s t) t else s)

/-! ### The host-memory cache (R369) -/

def lineSet (line : Nat) : Nat := line % 4096

/-- A doorbell line of an enabled pair. -/
def isDoorbell (s : State) (line : Nat) : Bool :=
  allPairs.any (fun p => (getRing s p).enable && (getRing s p).dbAddr.toNat / 64 == line)

def inSet : LineSt → Bool
  | .s => true | .e => true | .m => true | _ => false

/-- R369: room for a line in its set: the least recently used line that is no doorbell leaves when 16 are held. -/
def makeRoom (s : State) (line : Nat) : State :=
  let here := s.hif.cache.filter (fun e => lineSet e.1 == lineSet line && inSet e.2.st)
  if here.length < 16 then s
  else
    let cand := here.filter (fun e => !isDoorbell s e.1)
    match cand.foldl (fun (b : Option (Nat × CacheLine)) x =>
        match b with
        | none => some x
        | some y => if x.2.used < y.2.used then some x else some y) none with
    | none => s
    | some (k, v) =>
      let dirty := v.st == .m
      let st : LineSt := if dirty then .evicting false else .cleanPending
      emit (modHif s (fun h => { h with cache := sset ⟨.s, 0, 0⟩ h.cache k { v with st := st } }))
        (.d2h (if dirty then .dirtyEvict else .cleanEvict) (64 * k))

/-- The line as the cache lists it; the default is never listed, so `used` starts at 1. -/
def cacheLine (s : State) (line : Nat) : Option CacheLine := (s.hif.cache.find? (fun e => e.1 == line)).map (·.2)

def putLine (s : State) (line : Nat) (st : LineSt) (data : BitVec 512) : State :=
  modHif s (fun h => { h with clock := h.clock + 1, cache := sset ⟨.s, 0, 0⟩ h.cache line ⟨st, data, h.clock + 1⟩ })

def dropLine (s : State) (line : Nat) : State := modHif s (fun h => { h with cache := sdel h.cache line })

/-! ### Doorbells -/

def setRingSt (r : Ring) (st : RingSt) : Ring := if r.st == st then r else { r with st := st, chg := true }

/-- R392: the pair's doorbell line has been read again in this frame. -/
def wasReread (s : State) (p : Pair) : Bool := (s.budget.get (secOf p)).rereads.getLsbD (ringIx p)

/-- R373, R392: one re-read for each pair and frame. -/
def noteReread (s : State) (p : Pair) : State :=
  let b := s.budget.get (secOf p)
  { s with budget := s.budget.set (secOf p) { b with rereads := b.rereads ||| BitVec.ofNat 16 (2 ^ ringIx p) } }

/-- R392, R393: in slot 0 the doorbell line is re-read by RdShared; a pointer in range is taken (log entry 32). -/
def execDoorbellReread (p : Pair) (sqTail cqHead : W32) (s : State) : Res :=
  let s := begin s
  let r := getRing s p
  .next (if inSlot0 s && !wasReread s p && r.rung && hostUp s
      && (r.st == .active || r.st == .stopping || r.st == .error) then
      let line := r.dbAddr.toNat / 64
      let s := emit (makeRoom (noteReread s p) line) (.d2h .rdShared (64 * line))
      let s := putLine s line .s (BitVec.ofNat 512 (sqTail.toNat + cqHead.toNat * 2 ^ 32))
      let okT := decide (sqTail.toNat < sqSlots r)
      let okH := decide (cqHead.toNat < cqSlots r)
      modRing s p (fun r =>
        let r := { r with rung := false, sqTail := if okT then sqTail.toNat else r.sqTail,
                          cqHead := if okH then cqHead.toNat else r.cqHead }
        if okT && okH || r.st != .active then r
        else { setRingSt r .error with cause := if okT then 2 else 1 })
    else s)

/-! ### Completion records -/

/-- R410: the 32 bytes of a record. -/
def recordBits (r : Rec) (phase : Bool) : BitVec 256 :=
  BitVec.ofNat 256 (r.id.toNat + r.op.toNat * 2 ^ 16 + r.status.toNat * 2 ^ 24 + r.flagsum.toNat * 2 ^ 32
    + (ringIx r.pair + (secOf r.pair).val * 16 + b2n phase * 128) * 2 ^ 48 + r.detail.toNat * 2 ^ 56
    + r.frame.toNat * 2 ^ 64 + r.result.toNat * 2 ^ 128)

/-- R369, R372: the line that a record goes into is owned: by a new RdOwn unless the cache holds it in E or M. -/
def ownLine (s : State) (line : Nat) : State :=
  match cacheLine s line with
  | some ⟨.e, _, _⟩ => s
  | some ⟨.m, _, _⟩ => s
  | old =>
    let s := match old with
      | some ⟨.evicting _, x, _⟩ => modHif s (fun h => { h with stale := h.stale ++ [(line, x)] })
      | _ => s
    let s := emit (makeRoom s line) (.d2h .rdOwn (64 * line))
    putLine { s with fresh := s.fresh + 1 } line .e (Config.hostLine s.fresh line)

def isEvicting (s : State) (line : Nat) : Bool :=
  match cacheLine s line with
  | some ⟨.evicting f, _, _⟩ => !f
  | _ => false

/-- R410: 32 bytes of a line replaced. -/
def putHalf (x : BitVec 512) (hi : Bool) (r : BitVec 256) : BitVec 512 :=
  if hi then (x.extractLsb' 0 256).setWidth 512 ||| r.setWidth 512 <<< 256
  else (x >>> 256 <<< 256) ||| r.setWidth 512

/-- The host line that the pair's next record goes into. -/
def recordLine (q : Ring) : Nat := (q.cqBase.toNat + 32 * q.cqTail) / 64

/-- R369: the line is owned already. -/
def isOwned (s : State) (line : Nat) : Bool :=
  match cacheLine s line with
  | some ⟨.e, _, _⟩ => true
  | some ⟨.m, _, _⟩ => true
  | _ => false

/-- R373, R390, R393, R411: the pair may have a record written: the completion ring has room, the line is not waiting for
the host's answer to an eviction, it is owned or within the frame's 2 × PERIOD lines, and this slot 0 begins at or after the
completion: that fell on the frame's tick, or in another frame. -/
def canRecord (s : State) (r : Rec) : Bool :=
  let q := getRing s r.pair
  (q.st == .active || q.st == .stopping || q.st == .error) && (r.tick || r.frame != w64 (frameNow s))
    && !isEvicting s (recordLine q) && decide (cqHeld q < cqSlots q - 1)
    && (isOwned s (recordLine q) || decide ((s.budget.get (secOf r.pair)).lines < 2 * s.time.period.toNat))

/-- R411, R452: one record is written; PHASE flips at each wrap of CQ_TAIL. -/
def writeRecord (s : State) (r : Rec) : State :=
  let p := r.pair
  let t := secOf p
  let q := getRing s p
  let a := q.cqBase.toNat + 32 * q.cqTail
  let fresh := if isOwned s (a / 64) then 0 else 1
  let s := ownLine s (a / 64)
  let x := recordBits r q.phase
  let old := match cacheLine s (a / 64) with | some y => y.data | none => 0
  let s := putLine s (a / 64) .m (putHalf old (a % 64 == 32) x)
  let s := emit s (.record p a x)
  let s := modRing s p (fun q =>
    let wrap := q.cqTail + 1 == cqSlots q
    let q := { q with cqTail := if wrap then 0 else q.cqTail + 1, phase := q.phase != wrap, lastCmd := r.id,
                      outstanding := q.outstanding - 1, irqDue := q.irqDue || r.irq }
    if q.st == .stopping && q.outstanding == 0 then setRingSt q .idle else q)
  let s := logAppend s t 2 (ringIx p) [x.setWidth 512] r.ringOrd
  let s := setCmds s t ((getCmds s t).map (fun c => match c.job with
    | .drain e n w =>
      { c with job := .drain e (if w.contains r.ord && r.status == stDrained then n + 1 else n) (w.filter (· != r.ord)) }
    | .netDrain e w n => { c with job := .netDrain e (w.filter (· != r.ord)) n }
    | _ => c))
  let b := s.budget.get t
  { s with budget := s.budget.set t { b with recs := b.recs + 1, lines := b.lines + fresh } }

/-- R373, R411: records in order of completion within each ring, while the frame's budget of 4 × PERIOD lasts. -/
def writeRecords : Nat → State → Sec → List Rec → State
  | 0, s, _, _ => s
  | _ + 1, s, _, [] => s
  | n + 1, s, t, r :: rs =>
    if decide ((s.budget.get t).recs < 4 * s.time.period.toNat) && canRecord s r then
      let s := { s with recs := s.recs.set t ((s.recs.get t).filter (fun x => x.ord != r.ord)) }
      writeRecords n (writeRecord s r) t rs
    else writeRecords n s t (rs.filter (fun x => x.pair != r.pair))

/-- R372: the lines written in M leave by DirtyEvict through the eviction buffer. -/
def evictWritten (s : State) : State :=
  (s.hif.cache.filter (fun e => e.2.st == .m)).foldl (fun s e =>
    emit (putLine s e.1 (.evicting false) e.2.data) (.d2h .dirtyEvict (64 * e.1))) s

/-- R412: MSI-X vector r once a frame for each pair that wrote a record with IRQ set; a masked vector is held pending. -/
def sendIrqs (s : State) (t : Sec) : State :=
  (pairsOf t).foldl (fun s p =>
    let r := getRing s p
    if !r.irqDue then s
    else
      let s1 := modRing s p (fun r => { r with irqDue := false, msixPend := r.msixPend || (r.irqEn && r.msixMasked) })
      if r.irqEn && !r.msixMasked then emit s1 (.msix p) else s1) s

/-- R411, R412: the slot-0 work of completion records. -/
def execCompletionRecordWrite (t : Sec) (s : State) : Res :=
  let s := begin s
  .next (if inSlot0 s && hostUp s then
      let rs := s.recs.get t
      sendIrqs (evictWritten (finishDrains (writeRecords rs.length s t rs) t)) t
    else s)

/-- R412: the host unmasks a vector; a held message is sent. -/
def execMsixUnmask (p : Pair) (s : State) : Res :=
  let s := begin s
  let r := getRing s p
  let s1 := modRing s p (fun r => { r with msixMasked := false, msixPend := false })
  .next (if r.msixPend then emit s1 (.msix p) else s1)

end Sys2Proof.Machine
end

