-- ==== Sys2Proof/Machine/Load.lean ====
section
/-!
DEFINITION. LOAD_IMAGE and its unload form.
-/
namespace Sys2Proof.Machine

/-- R398: the form of LOAD_IMAGE; ADDR = 0 is the unload form, with BYTES = 0. -/
def loadForm (d : Desc) : Bool := headerOk d 0 && noStep d && onlyFields d [(8, 8), (0x10, 8)]

def loadAddr (d : Desc) : Nat := ff d 8 8
def loadBytes (d : Desc) : Nat := ff d 0x10 8

/-- R400: the checks of the command itself. -/
def loadCheck0 (s : State) (t : Sec) (d : Desc) : Option (BitVec 8) :=
  let a := loadAddr d
  let n := loadBytes d
  if !reach s t false a (a + n) then some stDenied
  else if a == 0 || a % 64 != 0 || decide (n < 256 ∨ 2 ^ 30 < n) then some stBad
  else none

/-- The bytes of an image as they stand in device memory. -/
def imageBytes (s : State) (a n : Nat) : Memory :=
  (List.range n).foldr (fun i m => let b := rdDev s (a + i); if b == 0 then m else (i, BitVec.ofNat 8 b) :: m) []

/-- R132: the slices that a section holds on each die. -/
def popcount16 (x : Nat) : Nat := ((List.range 16).filter (fun k => (x >>> k) % 2 == 1)).length
def commonsOf (s : State) (t : Sec) : Nat × Nat :=
  let x := (getSect s t).commons.toNat
  (popcount16 (x % 65536), popcount16 (x / 65536))

/-- R70: check 8 of Table 2.7. DESIGN CHOICE (log entry 25): the bits of a use word above slot 49 name no slot of the
section, and one that is set fails the check. -/
def check8 (s : State) (t : Sec) (g : Image) : Bool :=
  (List.range 49).all (fun p => (List.range 64).all (fun k =>
    ((slotUse g p >>> k) % 2 == 0 || (decide (k < 50) && ownsSlot s t p k))
    && (!(decide (36 ≤ p ∧ p ≤ 43)) || (slotGrove g p >>> k) % 2 == 0 || (slotUse g p >>> k) % 2 == 1)))

/-- Table 2.7: the first check that fails, with its status. DESIGN CHOICE (log entry 25): on stepping B0 an image that
uses shape 0x04 and carries MIN_STEPPING 0x11 loads, because no check of the table refuses it. -/
def loadCheck (s : State) (t : Sec) (d : Desc) (g : Image) : Option (Nat × BitVec 8) :=
  if !check1 g (loadBytes d) then some (1, stBad)
  else if g.digest != imageDigest g.bytes (loadBytes d) then some (2, stMismatch)
  else if g.grade != s.id.grade.toNat then some (3, stBad)
  else if !check4 g s.id.stepping.toNat then some (4, stBad)
  else if g.period != s.time.period.toNat || !between 2 g.period 100 then some (5, stBad)
  else if g.section_ != t.val then some (6, stDenied)
  else if g.clusterMask &&& ~~~ (getSect s t).clusters != 0 then some (7, stDenied)
  else if !check8 s t g then some (8, stDenied)
  else if !check9 g then some (9, stBad)
  else if !check10 g (commonsOf s t) || (isA1 s && !a1Ok g) then some (10, stBad)
  else if !streamMembersOk g || !deviceOk g (fun wr lo hi => reachInt s t wr lo hi) then some (10, stDenied)
  else if !deviceOk g (fun _ lo hi => !holeInt s lo hi) then some (10, stBad)
  else none

/-- R70: the GROVE fields of the section's canopy slot entries. -/
def setGroveBits (s : State) (t : Sec) (bit : Nat → Nat → Bool) : State :=
  (List.range 8).foldl (fun s i => (List.range 49).foldl (fun s j =>
    let path := 36 + i
    let k := j + 1
    if ownsSlot s t path k then
      let e := slotEntry s path k
      { s with slots := sset 0 s.slots (path * 50 + k) (if bit path k then e ||| 8 else e &&& 0xF7) }
    else s) s) s

/-- R109: the program stores filled with the image's bundles. -/
def fillStore (s : State) (g : Image) : State :=
  (imageCores g).foldl (fun s q => (List.range 4096).foldl (fun s k =>
    { s with store := sset 0 s.store (4096 * q + k) (bundleIn g q k) }) s) s

/-- R490: the clusters that doze, as a mask. -/
def dozeMask (s : State) : W16 :=
  (List.range 16).foldl (fun (m : W16) c =>
    if s.power.dozeAt.any (fun e => e.1 == c) then m ||| BitVec.ofNat 16 (2 ^ c) else m) 0

/-- R490: the clusters of a mask that doze are to wake; a doze of one that has not yet switched off is taken back. -/
def requestWake (s : State) (mask : W16) : State :=
  let stays := mask &&& ~~~ dozeMask s
  let s := modPower s (fun w => { w with wakeDue := w.wakeDue ||| (mask &&& dozeMask s) })
  allSecs.foldl (fun s t => modSect s t (fun x => { x with cdoze := x.cdoze &&& ~~~ stays })) s

/-- R453: CONFIG_CRC. -/
def configCrc (s : State) (t : Sec) : Nat :=
  let slots := (List.range 49).flatMap (fun p => (List.range 50).map (fun k =>
    if ownsSlot s t p k then (slotEntry s p k).toNat else 0))
  let own := ownedBlocks s t
  crc32c (slots ++ own.map (fun b => (getBlk s b &&& 0xF8).toNat)
    ++ (own.filter (· < 8192)).map (fun b => (getGblk s b &&& 1).toNat)
    ++ (List.range 16).flatMap (fun i => leBytes 8 (getMrgn s t i).toNat)
    ++ leBytes 8 s.time.period.toNat ++ leBytes 8 s.time.epoch.toNat
    ++ leBytes 4 ((getSect s t).rcCfg &&& 0xFFFFFFFE).toNat ++ leBytes 4 (getSect s t).role.toNat)

/-- R452: the LOAD entry. -/
def loadEntry (s : State) (t : Sec) (g : Image) : State :=
  let line := BitVec.ofNat 512 (g.digest + g.jobId * 2 ^ 384 + configCrc s t * 2 ^ 448)
  let s := logAppend s t 4 0xFF [line] (nextOrdinal s t 17)
  modTrace s t (fun x => { x with
    ordinals := if bit64 x.rccfg 63 then sset 0 x.ordinals 17 (sget 0 x.ordinals 17 + 1) else x.ordinals })

/-- R90: the logical cores of clusters in a mask. -/
def coresOf (mask : W16) : List Nat := (List.range 128).filter (fun q => mask.getLsbD (q / 8))

/-- R44, Table 1.15: the flush mode bit in force for a section's work on engine n. -/
def setFlush (s : State) (t : Sec) (n : Nat) (b : Bool) : State :=
  let k := nflagKey t n
  let x := sget 0 s.nflag k
  { s with nflag := sset 0 s.nflag k ((x &&& 0xFFFFFFDF) ||| (if b then 0x20 else 0)) }

def flushOf (s : State) (t : Sec) (n : Nat) : Bool := (sget 0 s.nflag (nflagKey t n)).getLsbD 5

/-- R44: the image sets the flush mode bits of its array groups, lane groups and fabric reduction engines. -/
def imageFlush (s : State) (t : Sec) (g : Image) : State :=
  let s := (List.range s.id.cmap.length).foldl (fun s q =>
    let on := g.clusterMask.getLsbD (q / 8)
    setFlush (setFlush s t (arrayEngine s q) (on && g.flush.getLsbD 0)) t (laneEngine s q) (on && g.flush.getLsbD 1)) s
  (List.range 36).foldl (fun s l => setFlush s t (fabricEngine l) (g.flush.getLsbD 2)) s

/-- R71, R208: the image replaces the section's previous one. -/
def applyImage (s : State) (t : Sec) (g : Image) : State :=
  let s := { s with images := s.images.set t (some g) }
  let pages := (List.range g.variantCount).map (fun v => imagePages s t g (fun u => u == v))
  let s := { s with loadPages := s.loadPages.set t pages }
  requestWake (imageFlush (fillStore (setGroveBits s t (fun p k => (slotGrove g p >>> k) % 2 == 1)) g) t g) g.clusterMask

/-- R400: the image is unloaded; its GROVE fields clear. -/
def dropImage (s : State) (t : Sec) : State :=
  setGroveBits { s with images := s.images.set t none, loadPages := s.loadPages.set t [] } t (fun _ _ => false)

/-- R400, R71: a LOAD_IMAGE whose earlier commands of the pair have completed. -/
def finishLoad (s : State) (t : Sec) (c : Cmd) (d : Desc) : State :=
  let unload := loadAddr d == 0 && loadBytes d == 0
  if busyWork s t || (unload && stepOpen (getSteps s t)) then complete s t c stAborted 0 0
  else if unload then complete (dropImage s t) t c stOk 0 0
  else
    match loadCheck0 s t d with
    | some st => complete s t c st 0 0
    | none =>
      let g := imageOf (imageBytes s (loadAddr d) (loadBytes d)) (loadBytes d)
      match loadCheck s t d g with
      | some (n, st) => complete s t c st (BitVec.ofNat 8 n) 0
      | none => complete (loadEntry (applyImage s t g) t g) t c stOk 0 (resultOf [(0, 8, g.jobId)])

/-- R71: a command of the same pair, read before this one, is not complete. -/
def earlierOnPair (s : State) (t : Sec) (c : Cmd) : Bool :=
  (getCmds s t).any (fun x => x.pair == c.pair && decide (x.ord < c.ord))

/-- R396, R400: LOAD_IMAGE holds the ring while it waits for the earlier commands of its pair. -/
def load (p : Pair) (d : Desc) (s : State) : State :=
  withRead s p 3 d (fun _ => loadForm d) (fun s c =>
    let c := { c with job := .load d }
    let s := hold (takeIn s (secOf p) c) p c.ord
    if earlierOnPair s (secOf p) c then s else finishLoad s (secOf p) c d)

/-- R400: the loads of section t that wait for no earlier command of their pair any more (log entry 32). -/
def resumeLoad (s : State) (t : Sec) : State :=
  (getCmds s t).foldl (fun s c => match c.job with
    | .load d => if earlierOnPair s t c then s else finishLoad s t c d
    | _ => s) s

def resumeLoads (s : State) : State := allSecs.foldl resumeLoad s

/-- R71, R400: LOAD_IMAGE. -/
def execLoadImage (p : Pair) (d : Desc) (s : State) : Res := .next (load p d s)
/-- R400: LOAD_IMAGE with ADDR and BYTES 0. -/
def execUnloadImage (p : Pair) (d : Desc) (s : State) : Res := .next (load p d s)

end Sys2Proof.Machine
end

