-- ==== Sys2Proof/Machine/Run.lean ====
section
/-!
DEFINITION. RUN and repeat RUN: reading, admission, start and completion.
-/
namespace Sys2Proof.Machine

/-! ### Fields and form -/

def runStartFrame (d : Desc) : Nat := ff d 8 8
def runCount (d : Desc) : Nat := ff d 0x10 1
def runRepeat (d : Desc) : Bool := ff d 0x11 1 == 1
def runRef (d : Desc) : Nat := ff d 0x18 8
def runLen (d : Desc) (i : Nat) : Nat := ((d.follow.headD 0).toNat >>> (32 * i)) % 2 ^ 32
def runLens (d : Desc) : List Nat := (List.range (runCount d)).map (runLen d)

/-- R73, R398, R399, R401: the form of a RUN. -/
def runForm (s : State) (t : Sec) (d : Desc) : Bool :=
  headerOk d 1 && onlyFields d [(8, 8), (0x10, 1), (0x11, 1), (0x18, 8)]
    && decide (1 ≤ runCount d ∧ runCount d ≤ 8 ∧ ff d 0x11 1 ≤ 1)
    && (List.range (runCount d)).all (fun i => runLen d i != 0)
    && (d.follow.headD 0).toNat >>> (32 * runCount d) == 0
    && (if runRepeat d then !stCarry d else runRef d == 0)
    && stepForm s t d

/-! ### Frames -/

/-- The next tick: tick 0 while no frame is in progress. -/
def nextTick (s : State) : Nat := match s.time.frame with | none => 0 | some n => n + 1

/-- R72: the frames of the variants run back to back. -/
def framesIn (g : Image) (vs : List Nat) : Nat := (vs.map (fun v => (variantAt g v).frames)).foldl (· + ·) 0

def runFrames (s : State) (t : Sec) (r : RunJob) : Nat :=
  match s.images.get t with
  | some g => framesIn g r.variants
  | none => 0

/-- R75, R330: the planned last frame of an admitted RUN. -/
def plannedLast (s : State) (t : Sec) (r : RunJob) : Nat := r.start + runFrames s t r - 1

/-- The RUNs of a section that are running or admitted, in the order read. -/
def runsOf (s : State) (t : Sec) : List (Cmd × RunJob) :=
  (getCmds s t).filterMap (fun c => match c.job with | .run r => some (c, r) | _ => none)

/-- R75: the start frame S of a RUN as it is read. -/
def startOf (s : State) (t : Sec) (d : Desc) : Nat :=
  if runStartFrame d == 0 then
    match (runsOf s t).getLast? with
    | some (_, r) => plannedLast s t r + 1
    | none => nextTick s + 1
  else runStartFrame d

/-- R75: read before tick S − 1, and S after the planned last frame of every RUN running or admitted. -/
def startFits (s : State) (t : Sec) (start : Nat) : Bool :=
  decide (nextTick s + 1 ≤ start) && (runsOf s t).all (fun x => decide (plannedLast s t x.2 < start))

/-- R330: the roll-call frame of the open step that a command counts for. -/
def rollOf (s : State) (t : Sec) (c : Cmd) : Option Nat :=
  c.carry.bind (fun k => (findPend (getSteps s t) k).map (·.roll))

/-! ### Reference records (R420) -/

/-- Table 15.3: the ranges (ADDR, BYTES) of the record at an address. -/
def refRanges (s : State) (a : Nat) : List (Nat × Nat) :=
  (List.range (leNat (rdDevBytes s a 2))).map (fun i =>
    let b := a + 0x40 + 32 * i
    (leNat (rdDevBytes s b 8), leNat (rdDevBytes s (b + 8) 8)))

def refBytes (s : State) (a : Nat) : Nat := 64 + 32 * leNat (rdDevBytes s a 2)


/-- No range of a list overlaps a later one. -/
def apartAll : List (Nat × Nat) → Bool
  | [] => true
  | r :: rs => rs.all (fun q => !overlap r.1 r.2 q.1 q.2) && apartAll rs

/-- R420: the status of a repeat whose reference record breaks a rule. -/
def refCheck (s : State) (t : Sec) (a : Nat) : Option (BitVec 8) :=
  if !reach s t true a (a + 64) then some stDenied
  else if a % 64 != 0 || decide ((if isA1 s then 16 else 62) < leNat (rdDevBytes s a 2)) then some stBad
  else
    let rs := refRanges s a
    let n := refBytes s a
    if !reach s t true a (a + n) || !rs.all (fun r => reach s t false r.1 (r.1 + r.2)) then some stDenied
    else if touchesHole s a (a + n) || !rs.all (fun r => r.1 % 256 == 0 && r.2 % 256 == 0
        && !touchesHole s r.1 (r.1 + r.2) && !overlap r.1 r.2 a n) || !apartAll rs then some stBad
    else none

/-- R421: the digests of a repeat that lists bytes are not complete at the tick before its start (log entry 50). -/
def digestsLate (s : State) (c : Cmd) (a : Nat) : Bool :=
  (refRanges s a).any (fun r => r.2 != 0) && Config.digestsLate c.ord

/-- R421: the digest of a range. -/
def rangeCrc (s : State) (r : Nat × Nat) : Nat := crc32c (rdDevBytes s r.1 r.2)

/-- R421: ORIG_CRC, REP_CRC and STATE of the ranges written; REP_CRC and STATE 0 for a repeat that stopped. -/
def writeRef (s : State) (a : Nat) (rows : List (Nat × Nat × Nat)) : State :=
  (rows.mapIdx (fun i x => (i, x))).foldl (fun s e =>
    wrDev s (a + 0x50 + 32 * e.1) (leBytes 4 e.2.1 ++ leBytes 4 e.2.2.1 ++ [e.2.2.2])) s

/-- R421: a repeat completes: the record is written and the outcome formed. -/
def repeatDone (s : State) (c : Cmd) (a : Nat) (crcs : List Nat) : State × BitVec 8 :=
  let rs := refRanges s a
  let rows := (crcs.zip rs).map (fun x =>
    let q := rangeCrc s x.2
    (x.1, q, if q == x.1 then 1 else 2))
  let orig := BitVec.ofNat 16 (leNat (rdDevBytes s (a + 2) 2))
  let same := rows.all (fun x => x.2.2 == 1) && (flagsum c.copies &&& 0xC == orig &&& 0xC)
  (writeRef s a rows, if same then stConfirmed else stDiverged)

/-- R421: the record of a repeat that stopped. -/
def repeatStopped (s : State) (a : Nat) (crcs : List Nat) : State := writeRef s a (crcs.map (fun x => (x, 0, 0)))

/-! ### Admission -/

/-- R377: the blocks that the variants of a RUN can write, and those that they can only read. -/
def runBlocks (s : State) (t : Sec) (g : Image) (vs : List Nat) : List Nat × List Nat :=
  let own := ownedBlocks s t
  let w := own.filter (imageWrites g (fun v => vs.contains v))
  (w, own.filter (fun b => imageReaches g (fun v => vs.contains v) b && !w.contains b))

def runPages (s : State) (t : Sec) (vs : List Nat) : List Nat :=
  ((vs.flatMap (fun v => (s.loadPages.get t).getD v []))).eraseDups

/-- R208, R377, R490: a RUN that has passed its checks is admitted, or completes QUOTA. -/
def admitRun (s : State) (t : Sec) (c : Cmd) (g : Image) (r : RunJob) : State :=
  let pages := runPages s t r.variants
  let (w, rd) := runBlocks s t g r.variants
  let (w, rd) := match r.refRec with
    | none => (w, rd)
    | some a =>
      let w := (w ++ rangeBlocks [(a, refBytes s a)]).eraseDups
      (w, (rd ++ rangeBlocks (refRanges s a)).eraseDups.filter (fun b => !w.contains b))
  match makeResident s t c.ord pages with
  | none => completeRead s t c stQuota 0 0
  | some s =>
    let c := { c with job := .run r, pages := pages, writes := w, reads := rd }
    requestWake (addRecalls (touchPages (takeIn s t c) pages) t w rd) g.clusterMask

/-- R58, R72-R75, R330, R420: what the device does with a RUN whose fields and step are in order. -/
def runRead (s : State) (t : Sec) (d : Desc) (c : Cmd) : State :=
  match s.images.get t with
  | none => completeRead s t c stBad 0 0
  | some g =>
    match (runLens d).mapM (variantFor g) with
    | none => completeRead s t c stNoVariant 0 0
    | some vs =>
      let bad := if runRepeat d then refCheck s t (runRef d) else none
      match bad with
      | some st => completeRead s t c st 0 0
      | none =>
        if !timeGood s then completeRead s t c stAborted 0 0
        else
          let start := startOf s t d
          let last := start + framesIn g vs - 1
          let late := match rollOf s t c with | some f => decide (f ≤ last) | none => false
          if !startFits s t start || late then
            completeRead (capLate s t start (ringIx c.pair)) t c stOverrun 5 0
          else
            let ref := if runRepeat d then some (runRef d) else none
            let crcs := match ref with | some a => (refRanges s a).map (rangeCrc s) | none => []
            let draw := match ref with | some a => leNat (rdDevBytes s (a + 8) 8) | none => c.draw
            admitRun s t { c with draw := draw } g
              ⟨runLens d, vs, start, runStartFrame d == 0, false, 0, 0, 0, ref, crcs,
                runStartFrame d == 0 && (runsOf s t).isEmpty⟩

/-- R72-R76, R401, R421: a RUN or a repeat RUN is read; RFLAGS says which. -/
def readRun (p : Pair) (d : Desc) (s : State) : State :=
  withRead s p 4 d (fun s => runForm s (secOf p) d) (fun s c =>
    withStep s (secOf p) d c (fun s c => runRead s (secOf p) d c))

/-- R72-R76: RUN. -/
def execRun (p : Pair) (d : Desc) (s : State) : Res := .next (readRun p d s)
/-- R420, R421: RUN with REPEAT = 1. -/
def execRepeatRun (p : Pair) (d : Desc) (s : State) : Res := .next (readRun p d s)

/-! ### Start -/

def modRun (s : State) (t : Sec) (ord : Nat) (f : RunJob → RunJob) : State :=
  modCmd s t ord (fun c => match c.job with | .run r => { c with job := .run (f r) } | _ => c)

/-- R98, R103: the accumulator rows of a core read 0 at a RUN's start; the key of a row's column is
(core × 2048 + row) × 128 + column. -/
def clearAcc (s : State) (q : Nat) : State :=
  { s with acc := s.acc.filter (fun e => e.1 / (2048 * 128) != q) }

/-- A RUN that is running. -/
def runningRun (s : State) (t : Sec) : Option (Cmd × RunJob) := (runsOf s t).find? (fun x => x.2.started)

/-- R58, R75: the RUN whose start tick has come. -/
def dueRun (s : State) (t : Sec) : Option (Cmd × RunJob) :=
  if s.time.frame.isNone then none
  else (runsOf s t).find? (fun x => !x.2.started && decide (x.2.start ≤ frameOf s))

/-- R58, R76: tick S of an admitted RUN. -/
def execRunStart (t : Sec) (s : State) : Res :=
  let s := begin s
  .next (match dueRun s t, runningRun s t with
    | some (c, _), none =>
      if !timeGood s then complete s t c stAborted 0 0
      else
        let mask := match s.images.get t with | some g => g.clusterMask | none => 0
        let s := (coresOf mask).foldl (fun s q =>
          modCore (if isA1 s then s else clearAcc s q) q (fun _ => coreReset)) s
        let s := modRun s t c.ord (fun r => { r with started := true, mbFirst := r.start })
        traceRec s t 1 0 0 (w64 (c.id.toNat + ringIx c.pair * 2 ^ 16)) (w64 (frameOf s))
    | _, _ => s)

/-! ### Completion -/

/-- R401: RESULT of a RUN that ends in frame `last`. -/
def runResult (r : RunJob) (last : Nat) : BitVec 128 :=
  resultOf [(0, 8, r.start), (8, 4, if r.started then last + 1 - r.start else 0), (0xC, 1, r.done)]

/-- R80, R122: what a section's cores hold of the work that ends: partial results in slates and commons are discarded. -/
def quietCores (s : State) (t : Sec) : State :=
  match s.images.get t with
  | none => s
  | some g => (coresOf g.clusterMask).foldl (fun s q => modCore s q (fun x => { coreReset with wide := x.wide })) s

/-- R76, R421: a RUN ends with the given status, after frame `last`. -/
def endRun (s : State) (t : Sec) (c : Cmd) (r : RunJob) (last : Nat) (status detail : BitVec 8) : State :=
  let s := quietCores s t
  let (s, status) := match r.refRec with
    | none => (s, status)
    | some a => if status == stOk then repeatDone s c a r.crcs else (repeatStopped s a r.crcs, status)
  let s := if status == stConfirmed || status == stDiverged then
    logClass s 0xD t.val 4 (t.val * 16 + ringIx c.pair) 0 else s
  complete s t c status detail (runResult r last)

/-- R76: the tick after the last frame of the running RUN, when nothing has stopped it. -/
def execRunCompletion (t : Sec) (s : State) : Res :=
  let s := begin s
  .next (match runningRun s t with
    | some (c, r) =>
      let last := plannedLast s t r
      if c.stop.isNone && s.time.frame.isSome && decide (last < frameOf s) then endRun s t c r last stOk 0 else s
    | none => s)

end Sys2Proof.Machine
end

