-- ==== Sys2Proof/Machine/Grove.lean ====
section
/-!
DEFINITION. GROVE: admission, the gate, start, completion and stops.
-/
namespace Sys2Proof.Machine

/-! ### Form -/

/-- The operation record of the two follow-on slots (Table 8.3). -/
def groveBits (d : Desc) : BitVec 1024 :=
  BitVec.ofNat 1024 ((d.follow.headD 0).toNat + (d.follow.getD 1 0).toNat * 2 ^ 512)

def groveOf (b : BitVec 1024) : GroveRec := groveRecOf b.toNat
def opOf (r : GroveRec) : GroveOp := (groveOpOf r.op).getD .fill

/-- R327, R347, R399: the form of a GROVE descriptor. -/
def groveForm (s : State) (t : Sec) (d : Desc) : Bool :=
  let r := groveOf (groveBits d)
  headerOk d 2 && d.fields == 0 && (if r.gated then gatedForm d else stepForm s t d)
    && (isTrain s t || (!r.gated && !r.contrib && !(decide (0x20 ≤ r.op ∧ r.op ≤ 0x22))))

/-! ### Operands -/

/-- What a command names: operand index (0xF for the result area), first byte, bytes, whether it is written. -/
structure Named where
  k : Nat
  a : Nat
  n : Nat
  wr : Bool

/-- R243: the element operands. -/
def elemRanges (r : GroveRec) : List Named :=
  let o := opOf r
  (groveOperands o r.init 1).map (fun k => ⟨k.1, opndOf r k.1, groveBytes r o, (groveWrites o).contains k.1⟩)

def countRange (r : GroveRec) : List Named := if isOpt (opOf r) then [⟨4, opndOf r 4, 4, true⟩] else []
def queryRange (r : GroveRec) : List Named := if opOf r == .qkscan then [⟨1, opndOf r 1, 2 * r.d * r.qcount, false⟩] else []
def areaRange (r : GroveRec) : List Named :=
  if resultBytes r (opOf r) == 0 then [] else [⟨0xF, r.result, resultBytes r (opOf r), true⟩]

def namedRanges (r : GroveRec) : List Named := elemRanges r ++ countRange r ++ queryRange r ++ areaRange r

/-- Check 2 of Table 8.7. -/
def groveCheck2 (s : State) (t : Sec) (r : GroveRec) : Bool :=
  (namedRanges r).all (fun x => reach s t x.wr x.a (x.a + x.n))

/-- A managed page of a region without PROTECT, or a plain fixed canopy block: the block that decides, by its first byte
within the range. -/
def groveBlockOk (s : State) (t : Sec) (b lo : Nat) : Bool :=
  if b < 8192 then !blkType (getBlk s b) && !blkUse (getBlk s b)
  else match regionOf s t lo with | some x => !mrgnProtect x | none => false

/-- The parts of a range by the page that holds them: first bytes. -/
def pageStarts (a n : Nat) : List Nat :=
  if n == 0 then [] else (List.range ((a + n - 1) / pageBytes - a / pageBytes + 1)).map (fun i => max a (pageBytes * (a / pageBytes + i)))

/-- Check 3 of Table 8.7, R188: the first operand and place that is not in plain canopy, or a hole that the queries or the
result area (which has no operand index, 0xF here) touch. -/
def groveCheck3 (s : State) (t : Sec) (r : GroveRec) : Option (Nat × Nat) :=
  let placed := (elemRanges r ++ countRange r).findSome? (fun x =>
    ((pageStarts x.a x.n).find? (fun lo => !groveBlockOk s t ((blockOf lo).getD 0) lo)).map (fun lo => (x.k, lo)))
  placed.orElse (fun _ => (queryRange r ++ areaRange r).findSome? (fun x =>
    ((pageStarts x.a x.n).find? (fun lo => touchesHole s lo (min (x.a + x.n) (pageBytes * (lo / pageBytes + 1))))).map
      (fun lo => (x.k, lo))))

/-- R236: whether the byte at an address is in a pinned block. -/
def pinnedAt (s : State) (a : Nat) : Bool := match blockOf a with | some b => decide (b < 8192) && isPinnedBlk s b | none => false

/-- Check 4 of Table 8.7: (kind, operand, place). -/
def groveCheck4 (s : State) (r : GroveRec) : Option (Nat × Nat × Nat) :=
  match (elemRanges r).find? (fun x => x.a % blockBytes != opndOf r 0 % blockBytes) with
  | some x => some (3, x.k, x.a)
  | none =>
    let p := pinnedAt s (opndOf r 0)
    (elemRanges r).findSome? (fun x => ((pageStarts x.a x.n).find? (fun lo => pinnedAt s lo != p)).map (fun lo => (4, x.k, lo)))

/-- The managed pages that a command names. -/
def grovePages (s : State) (t : Sec) (r : GroveRec) : List Nat :=
  ((namedRanges r).flatMap (fun x => pagesIn s t x.a (x.a + x.n))).eraseDups

def grovePagesPlaced (s : State) (t : Sec) (r : GroveRec) : List Nat :=
  ((elemRanges r ++ countRange r).flatMap (fun x => pagesIn s t x.a (x.a + x.n))).eraseDups

/-- Check 5 of Table 8.7 (R208): the state with residency under way; none where a page that the units must reach has no
frame. -/
def groveResident (s : State) (t : Sec) (ord : Nat) (r : GroveRec) : Option State :=
  match makeResident s t ord (grovePages s t r) with
  | none => none
  | some u =>
    if (grovePagesPlaced s t r).all (fun g => (getPage u g).frame.isSome
        || u.tiers.moves.any (fun m => m.page == g && m.target.isSome)) then some u else none

/-! ### Frames (R233, R234, R252, R254) -/

/-- R234: B(s, t). -/
def budgetOf (s : State) (t : Sec) (stack : Nat) : Nat :=
  ((List.range 50).map (fun k =>
    if ownsSlot s t (36 + stack) k && (slotEntry s (36 + stack) k).getLsbD 3 then slotTransfers s.time.period.toNat k else 0)).foldl
    (· + ·) 0

/-- R181, R236: the engine of a location; residence keeps the bits that decide (R183, R201). -/
def engOf (s : State) (a : Nat) : Nat := groveEngine (pinnedAt s a) a

/-- R262: the charge of a key granule. -/
def qkCharge (s : State) (r : GroveRec) : Nat := if isA1 s then r.qcount else (r.qcount + 1) / 2

/-- R252: the largest need among the channels of a stack. -/
def stackNeed (s : State) (r : GroveRec) (stack : Nat) : Nat :=
  let ops := groveOperands (opOf r) r.init (qkCharge s r)
  (List.range 32).foldl (fun m c => max m (groveNeed ops (engOf s) (groveBytes r (opOf r)) r (32 * stack + c))) 0

/-- The frames that a stack needs; none where it has work and no budget. -/
def stackFrames (s : State) (t : Sec) (r : GroveRec) (stack : Nat) : Option Nat :=
  let need := stackNeed s r stack
  let b := budgetOf s t stack
  if need == 0 then some 0 else if b == 0 then none else some ((need + b - 1) / b)

/-- Check 7 of Table 8.7: F, or the stack that needs the most. -/
def groveFrames (s : State) (t : Sec) (r : GroveRec) : Nat ⊕ Nat :=
  let fs := (List.range 8).map (fun k => (k, stackFrames s t r k))
  match fs.find? (fun x => x.2.isNone) with
  | some x => .inr x.1
  | none =>
    let best := fs.foldl (fun (m : Nat × Nat) x => if m.2 < x.2.getD 0 then (x.1, x.2.getD 0) else m) (0, 0)
    if r.limit != 0 && decide (r.limit < best.2) then .inr best.1 else .inl best.2

/-- The GROVE commands of a section that are running or admitted, in the order read. -/
def grovesOf (s : State) (t : Sec) : List (Cmd × GroveJob) :=
  (getCmds s t).filterMap (fun c => match c.job with | .grove g => some (c, g) | _ => none)

/-- R254: the frame after the last one granted to a timed command whose start is known. -/
def grantEnd (g : GroveJob) : Option Nat :=
  let limit := (groveOf g.bits).limit
  if limit == 0 then none else g.start.map (· + limit)

/-- R254: the start frame of a command as it is read, or the command that it follows without one; with the check that can
be made at once. -/
def groveStartOf (s : State) (t : Sec) (r : GroveRec) : Option Nat × Option Nat × Bool :=
  if r.startFrame == 0 then
    match (grovesOf s t).getLast? with
    | none => (some (nextTick s + 1), none, true)
    | some (c, g) =>
      match grantEnd g with
      | some e => (some e, none, decide (nextTick s + 1 ≤ e))
      | none => (none, some c.ord, true)
  else (some r.startFrame, none, decide (nextTick s + 1 ≤ r.startFrame)
    && (grovesOf s t).all (fun x => match grantEnd x.2 with | some e => decide (e ≤ r.startFrame) | none => true))

/-! ### The gate (R255, R334, R345) -/

/-- Table 11.3: what an outcome does to a GATED command: none where it may start. -/
def gateStatus (s : State) : Option Vote → Option (BitVec 8)
  | none => some stOverrun
  | some v =>
    if v.bit then some stSkipped
    else if !isA1 s && v.voters != 0 && v.andW != v.orW then some stMismatch
    else none

/-- The roll call of a step that a GATED command waits for: the one opened last (R329). -/
def gatePend (s : State) (t : Sec) (step : Nat) : Option Pend := (getSteps s t).pend.reverse.find? (fun q => q.step == step)

/-- R334: the step's roll call was late for a GATED command. -/
def markLate (s : State) (t : Sec) (step : Nat) : State :=
  match gatePend s t step with
  | some q => modSteps s t (fun x => { x with pend := x.pend.map (fun p => if p.no == q.no then { p with late := true } else p) })
  | none => s

/-- R255, R434: a GATED command that its gate refuses. -/
def refuseGate (s : State) (t : Sec) (c : Cmd) (start : Nat) (st : BitVec 8) : State :=
  let s := if st == stOverrun then capLoss (capLate s t start (ringIx c.pair)) t (some c.draw) c.id 4 else s
  complete s t { c with copies := [] } st 8 0

/-- R81, R254, R255: what an outcome does to one command that waits on it; a command whose predecessor has no planned end
would start in the next frame at the earliest. -/
def gateOne (s : State) (t : Sec) (step : Nat) (v : Option Vote) (c : Cmd) : State :=
  match c.job with
  | .grove g =>
    if g.gate != some step then s
    else match gateStatus s v with
      | none => modCmd s t c.ord (fun c => { c with job := .grove { g with gate := none } })
      | some st => refuseGate s t c (g.start.getD (max (nextTick s) (g.readAt + 1))) st
  | _ => s

/-- R255: the roll call of a step returned: every GATED command that waits on it acts. -/
def actOnGate (s : State) (t : Sec) (step : Nat) (v : Option Vote) : State :=
  (getCmds s t).foldl (fun s c =>
    match findCmd s t c.ord with
    | some c => gateOne s t step v c
    | none => s) s

/-! ### Reading (R253) -/

/-- R253, R331: a GROVE that a check refuses as BAD_DESCRIPTOR; a GATED one that carries an open step sets INCOMPLETE. -/
def groveBad (s : State) (t : Sec) (r : GroveRec) (c : Cmd) (check : BitVec 8) : State :=
  let open_ := isTrain s t && (findPend (getSteps s t) c.draw).isSome
  completeRead s t { c with carry := if r.gated then (if open_ then some c.draw else none) else c.carry } stBad check 0

/-- Table 8.7 from check 5 on. -/
def groveAdmit (s : State) (t : Sec) (bits : BitVec 1024) (c : Cmd) : State :=
  let r := groveOf bits
  match groveResident s t c.ord r with
  | none => completeRead s t c stQuota 5 0
  | some u =>
    if !timeGood s then completeRead s t c stAborted 0 0
    else
      let (start, after, fits) := groveStartOf s t r
      let late := match start, rollOf s t c with
        | some a, some f => r.limit != 0 && decide (f ≤ a + r.limit - 1)
        | _, _ => false
      if !fits || late then
        completeRead (capLate s t (start.getD 0) (ringIx c.pair)) t c stOverrun 6 0
      else
        match groveFrames s t r with
        | .inr k => completeRead (capOvr s t (frameNow s) 0xFF 3 (36 + k) (ringIx c.pair)) t c stOverrun 7 0
        | .inl f =>
          let w := (rangeBlocks ((namedRanges r).filter (·.wr) |>.map (fun x => (x.a, x.n)))).eraseDups
          let rd := (rangeBlocks ((namedRanges r).map (fun x => (x.a, x.n)))).eraseDups.filter (fun b => !w.contains b)
          let gate := if r.gated then some c.draw else none
          let c := { c with pages := grovePages s t r, writes := w, reads := rd
                            job := .grove ⟨bits, start, r.startFrame == 0, after, nextTick s, f, gate, none, false⟩ }
          let s := addRecalls (touchPages (takeIn u t c) c.pages) t w rd
          if r.gated then
            match (getSteps s t).outcomes.find? (fun e => e.1 == c.draw) with
            | some (_, v) => actOnGate s t c.draw v
            | none => s
          else s

/-- R253, R435: Table 8.7. -/
def groveRead (s : State) (t : Sec) (bits : BitVec 1024) (c : Cmd) : State :=
  let r := groveOf bits
  if !groveCheck1 r (isA1 s) then groveBad s t r c 1
  else if r.gated && !isA1 s && bit64 (getSect s t).errLoss 0 then completeRead s t c stAborted 0 0
  else if !groveCheck2 s t r then completeRead s t c stDenied 2 0
  else
    match groveCheck3 s t r with
    | some (k, a) => groveBad (capGrove s t a 2 k) t r c 3
    | none =>
      match groveCheck4 s r with
      | some (kind, k, a) => groveBad (capGrove s t a kind k) t r c 4
      | none => groveAdmit s t bits c

/-- R240-R256: GROVE. -/
def execGrove (p : Pair) (d : Desc) (s : State) : Res :=
  let t := secOf p
  let b := groveBits d
  .next (withRead s p 5 d (fun s => groveForm s t d) (fun s c =>
    if (groveOf b).gated then groveRead s t b { c with draw := stIndex d }
    else withStep s t d c (fun s c => groveRead s t b c)))

/-! ### Start and completion -/

def modGrove (s : State) (t : Sec) (ord : Nat) (f : GroveJob → GroveJob) : State :=
  modCmd s t ord (fun c => match c.job with | .grove g => { c with job := .grove (f g) } | _ => c)

def runningGrove (s : State) (t : Sec) : Option (Cmd × GroveJob) := (grovesOf s t).find? (fun x => x.2.started)

/-- R328: the job seed that keys draws. -/
def seedOf (s : State) (t : Sec) : Nat := if (getSteps s t).seeded then (getSteps s t).seed.toNat else 0

/-- The command whose start tick has come: its pages are resident and its recalls complete (R232, R377). -/
def dueGrove (s : State) (t : Sec) : Option (Cmd × GroveJob) :=
  if s.time.frame.isNone then none
  else (grovesOf s t).find? (fun x => !x.2.started && x.2.gate.isNone && residencyDone s x.1 && recallsDone s t x.1
    && (match x.2.start with | some a => decide (a ≤ frameOf s) | none => false))

/-- R254: a command that its pages held back starts n frames late, and with it the follow-on commands after it. -/
def delayGrove (s : State) (t : Sec) (c : Cmd) (g : GroveJob) (n : Nat) : State :=
  if n == 0 then s
  else
    let later (d : Cmd) (h : GroveJob) : Bool := d.ord == c.ord || ((grantEnd g).isSome && decide (c.ord < d.ord) && h.follow)
    setCmds s t ((getCmds s t).map (fun d => match d.job with
      | .grove h => if later d h then { d with job := .grove { h with start := h.start.map (· + n) } } else d
      | _ => d))

/-- R244-R250: what the units compute, from the operands as they stand. -/
def workOf (s : State) (t : Sec) (c : Cmd) (g : GroveJob) : GroveWork :=
  let r := groveOf g.bits
  groveWork ⟨r.flush, isA1 s⟩ (rdDev s) (engOf s) (opOf r) r (seedOf s t) c.draw

/-- R44: the flush mode bit of the units that the command uses. -/
def groveFlush (s : State) (t : Sec) (r : GroveRec) : State :=
  let ops := groveOperands (opOf r) r.init (qkCharge s r)
  engines256.foldl (fun s e =>
    if groveNeed ops (engOf s) (groveBytes r (opOf r)) r e == 0 then s else setFlush s t (groveEngineNo e) r.flush) s

/-- R58, R254: tick START_FRAME of an admitted GROVE command. -/
def execGroveStart (t : Sec) (s : State) : Res :=
  let s := begin s
  .next (match dueGrove s t, runningGrove s t with
    | some (c, g), none =>
      if !timeGood s then complete s t c stAborted 0 0
      else
        let s := delayGrove (groveFlush s t (groveOf g.bits)) t c g (frameOf s - g.start.getD (frameOf s))
        let w := workOf s t c g
        let s := modGrove s t c.ord (fun g => { g with started := true, work := some w })
        traceRec s t 4 0 0 (w64 c.id.toNat) (w64 (frameOf s))
    | _, _ => s)

/-- One granule's work lands: its bytes and its flags. -/
def applyItem (s : State) (t : Sec) (ord : Nat) (x : GroveItem) : State :=
  raise (wrCells s x.writes) t ord (groveEngineNo x.engine) x.flags

/-- R245, R251: what stands after the units have finished: the count word and the result area. -/
def finishArea (s : State) (r : GroveRec) (w : GroveWork) : State :=
  let s := match w.count with | some k => wrDev s (opndOf r 4) (leBytes 4 k) | none => s
  if w.area.isEmpty then s else wrDev s r.result w.area

/-- R401: RESULT. -/
def groveResult (g : GroveJob) (w : GroveWork) : BitVec 128 := resultOf [(0, 8, w.result), (8, 4, g.need)]

/-- R248: a nonzero total of a SCAN with CONTRIB enters the step. -/
def scanStep (s : State) (t : Sec) (c : Cmd) (r : GroveRec) (w : GroveWork) : State :=
  match c.carry with
  | some k => if r.contrib && w.result != 0 then modPend s t k (fun q => { q with scan := true }) else s
  | none => s

/-- R257: the frame in which the work of the running command ends has come. -/
def execGroveCompletion (t : Sec) (s : State) : Res :=
  let s := begin s
  .next (match runningGrove s t with
    | none => s
    | some (c, g) =>
      if c.stop.isSome || decide (frameOf s + 1 < g.start.getD 0 + g.need) then s
      else
        let r := groveOf g.bits
        let w := g.work.getD ⟨[], [], 0, none⟩
        let s := w.items.foldl (fun s x => applyItem s t c.ord x) s
        let s := scanStep (finishArea s r w) t c r w
        let c := (findCmd s t c.ord).getD c
        complete s t c stOk 0 (groveResult g w))

/-- R258, R408, R428: a running GROVE command stops: what had been written stays written, which part is open. -/
def stopGrove (s : State) (t : Sec) (c : Cmd) (g : GroveJob) (status detail : BitVec 8) : State :=
  let w := g.work.getD ⟨[], [], 0, none⟩
  let k := s.fresh
  let s := (w.items.mapIdx (fun i x => (i, x))).foldl (fun s e =>
    if Config.writtenAtStop k e.1 then applyItem s t c.ord e.2 else s) (newStop s)
  let s := if (groveOf g.bits).gated && c.stop != some .lost then capLoss s t (some c.draw) c.id 1 else s
  let c := (findCmd s t c.ord).getD c
  complete s t c status detail (resultOf [(8, 4, g.need)])

end Sys2Proof.Machine
end

