-- ==== Sys2Proof/Machine/Clock.lean ====
section
/-!
DEFINITION. System time and its lock (R53-R59), and frames (R60): sync messages and TIME_NOW.
-/
namespace Sys2Proof.Machine

/-! ### Frames -/

/-- R60: the frame at the present system time. -/
def frameAt (s : State) : Option Nat :=
  let e := s.time.epoch.toNat
  if s.time.ns.toNat < e then none else some ((s.time.ns.toNat - e) / (max 1 (periodNs s)))

/-- R62: the present system time lies in the guard band. -/
def guardAt (s : State) : Bool :=
  match frameAt s with
  | none => false
  | some n => decide (tickNs s (n + 1) - 200 ≤ s.time.ns.toNat)

/-- Bell or system time have been set anew: the frame number follows. -/
def reframe (s : State) : State := modTime s (fun x => { x with frame := frameAt s, guard := guardAt s })

/-! ### Lock states -/

/-- R58, R258: work that stops at the next tick when the lock is lost: a RUN before the tick that ends its last frame, a
running GROVE command. -/
def stopsOnLoss (s : State) (t : Sec) (c : Cmd) : Bool :=
  match c.job with
  | .run r => r.started && decide (frameOf s ≤ plannedLast s t r)
  | .grove g => g.started
  | _ => false

def stopWork (s : State) : State :=
  allSecs.foldl (fun s t => setCmds s t ((getCmds s t).map (fun c => if stopsOnLoss s t c then setStop c .aborted else c))) s

def isGood (x : Lock) : Bool := x == .locked || x == .holdover

/-- Table 18.14. -/
def timeLockWord (s : State) : Nat := s.time.offset.toNat * 2 ^ 32 + b2n s.time.chg * 2 ^ 4 + lockCode s.time.lock
def bellWord1 (s : State) : Nat := b2n s.time.bellRefused * 2 ^ 63 + s.time.period.toNat

/-- R443: the time counter has lost its power. -/
def counterDead (s : State) : Bool := s.ward.stage == .halted

/-- Table 2.1, R465, Table 17.4: a change of lock state, with its trace record, event and consequences. -/
def setLock (s : State) (st : Lock) : State :=
  let old := s.time.lock
  if old == st then s
  else
    let s := modTime s (fun x => { x with
      lock := st, chg := true, inBound := 0, since := x.ns.toNat
      holdSince := if st == .holdover then x.ns.toNat else x.holdSince
      holdOffset := if st == .holdover then x.offset else x.holdOffset
      gm := if st == .free then 0 else x.gm })
    let s := allSecs.foldl (fun s t => traceRec s t 0x33 0xF 0 (w64 (lockCode st + 16 * lockCode old)) (w64 (frameNow s))) s
    let s := raiseEvent s evTimeLock 0xF (if st == .free then 1 else 0) (.word (w64 (timeLockWord s)))
    if isGood old && st == .free then stopWork s else s

/-! ### Sync messages (R54-R57) -/

/-- An offset in 1/16 ns. -/
def signed32 (x : W32) : Int := x.toInt
def inBound (off : Int) : Bool := decide (-160 ≤ off ∧ off ≤ 160)

/-- R55: one sync interval of the source in use. -/
def syncInterval (s : State) (inBand : Bool) : Nat := if inBand then periodNs s else 125000000

/-- R56, R465: the counter is stepped by the measured offset. -/
def stepTime (s : State) (off : Int) : State :=
  let before : Nat := s.time.ns.toNat * 2 ^ 32 + s.time.frac.toNat
  let after : Nat := ((before : Int) - off * 2 ^ 28).toNat
  let ns := w64 (after / 2 ^ 32)
  let s := allSecs.foldl (fun s t => traceRec s t 0x32 0xF 0 s.time.ns ns) s
  reframe (modTime s (fun x => { x with ns := ns, frac := w32 (after % 2 ^ 32), since := ns.toNat }))

/-- R55-R57: a valid message of the source in use, with the offset it measures. -/
def syncMsg (s : State) (gm : W64) (off : Int) (inBand : Bool) : State :=
  let word := BitVec.ofInt 32 off
  match s.time.lock with
  | .free => setLock (modTime s (fun x => { x with gm := gm, offset := word })) .acquiring
  | st =>
    if s.time.gm != gm then s
    else
      let gap := decide (s.time.since + 4 * syncInterval s inBand < s.time.ns.toNat)
      let count := if gap then 0 else s.time.inBound
      let s := modTime s (fun x => { x with offset := word, since := x.ns.toNat, inBound := if inBound off then count + 1 else 0 })
      if !inBound off then
        if isGood st then setLock s .free
        else if off < -16000 || 16000 < off then stepTime s off else s
      else if s.time.inBound ≥ 16 && st != .locked then setLock s .locked
      else s

/-- R54, R471: a message on the management port counts when the port is the source in use. -/
def execSyncMessage (gm : W64) (domain : BitVec 8) (offset : W32) (s : State) : Res :=
  let s := begin s
  .next (if s.ward.running && !counterDead s && domain == s.time.domain && (s.time.src == 1 || (s.time.src == 0 && s.time.link.isNone)) then
      syncMsg s gm (signed32 offset) false
    else s)

/-- R55, R57: four sync intervals have passed without a valid message. -/
def execSyncTimeout (s : State) : Res :=
  let s := begin s
  .next (match s.time.lock with
    | .acquiring => setLock s .free
    | .locked => setLock s .holdover
    | _ => s)

/-- R56: the system time at which HOLDOVER ends: |o| + t × 1 ns/s passes 12.5 ns, or t reaches 10 s, whichever comes first
(offsets in 1/16 ns). -/
def holdoverEnd (s : State) : Nat :=
  s.time.holdSince + min 10000000000 ((200 - (signed32 s.time.holdOffset).natAbs) * 62500000)

/-- R56: HOLDOVER ends in FREE once its limit has come. -/
def endHoldover (s : State) : State :=
  if s.time.lock == .holdover && decide (holdoverEnd s ≤ s.time.ns.toNat) then setLock s .free else s

/-- The system time that the next event of the bell is at: the guard band or the tick. -/
def bellNs (s : State) : Nat :=
  match s.time.frame with
  | none => s.time.epoch.toNat
  | some n => if s.time.guard then tickNs s (n + 1) else tickNs s (n + 1) - 200

/-- R56: the end of HOLDOVER, where its instant comes before the next event of the bell; time goes on to that instant. -/
def execHoldoverLimit (s : State) : Res :=
  let s := begin s
  .next (if s.time.lock == .holdover && decide (holdoverEnd s < bellNs s) then
      setLock (modTime s (fun x => { x with ns := w64 (max x.ns.toNat (holdoverEnd s)), frac := if holdoverEnd s ≤ x.ns.toNat then x.frac else 0 })) .free
    else s)

/-! ### TIME_NOW -/

/-- R518: system time at the read is `ns` + `frac` later than at the event before; a read does not carry time past the
next tick (log entry 7). -/
def execTimeNowRead (ns : W64) (frac : W32) (s : State) : Res :=
  let s := begin s
  let x := s.time.ns.toNat * 2 ^ 32 + s.time.frac.toNat + ns.toNat * 2 ^ 32 + frac.toNat
  let s := if x / 2 ^ 32 < bellNs s && !counterDead s then
      endHoldover (modTime s (fun t => { t with ns := w64 (x / 2 ^ 32), frac := w32 (x % 2 ^ 32) }))
    else s
  let s := modTime s (fun t => { t with fracLatch := t.frac })
  .next (emit s (.time s.time.ns s.time.frac))

end Sys2Proof.Machine
end

