-- ==== Sys2Proof/Machine/Operands.lean ====
section
/-!
DEFINITION. The operand path: slates, commons slices, tensor elements in every layout (R129-R154), and the ring offset of
a tensor that a stream fills (R218).
-/
namespace Sys2Proof.Machine

/-! ### Spaces -/

def slateBytes : Nat := 0x300000

/-- R129: the key of a byte of a core's slate. -/
def slateKey (q a : Nat) : Nat := slateBytes * q + a

/-- R132: the section's slices of a die, ascending. -/
def slicesOf (s : State) (t : Sec) (die : Nat) : List Nat :=
  (List.range 16).filter (fun k => (getSect s t).commons.getLsbD (16 * die + k))

/-- R132: the key of a commons byte of a section: (die × 16 + slice) × 3 MiB + offset; none beyond the section's share. -/
def commonsKey (s : State) (t : Sec) (die a : Nat) : Option Nat :=
  let sl := slicesOf s t die
  let n := sl.length
  let line := a / 256
  if n * slateBytes ≤ a then none
  else (sl[line % n]?).map (fun k => slateBytes * (die * 16 + k) + line / n * 256 + a % 256)

/-- A byte of a space (Table 4.2) as core q of section t reads it. R154: no address of a run leaves its space; one
outside reads 0. -/
def rdSpace (s : State) (t : Sec) (q space : Nat) (a : Int) : Nat :=
  if a < 0 then 0
  else match space with
    | 0 => if a.toNat < slateBytes then rd8 s.slate (slateKey q a.toNat) else 0
    | 1 => match commonsKey s t 0 a.toNat with | some k => rd8 s.commons k | none => 0
    | 2 => match commonsKey s t 1 a.toNat with | some k => rd8 s.commons k | none => 0
    | _ => rdDev s a.toNat

def rdSpaceN (s : State) (t : Sec) (q space : Nat) (a : Int) (n : Nat) : List Nat :=
  (List.range n).map (fun (i : Nat) => rdSpace s t q space (a + i))

/-- Bytes written to a space. -/
def wrSpace (s : State) (t : Sec) (q space : Nat) (a : Int) (bs : List Nat) : State :=
  if a < 0 then s
  else
    let a := a.toNat
    match space with
    | 0 => { s with slate := wrBytes s.slate (slateKey q a) (bs.take (slateBytes - a)) }
    | 3 => wrDev s a bs
    | d => { s with commons := (bs.mapIdx (fun i b => (i, b))).foldl (fun m e =>
        match commonsKey s t (d - 1) (a + e.1) with | some k => wr8 m k e.2 | none => m) s.commons }

/-! ### Elements -/

/-- What addresses an operand: the section, the logical core, and the trip indices of its open loops (R136). -/
structure Site where
  sec : Sec
  core : Nat
  trips : Trips
  deriving DecidableEq, Repr

/-- The indices lie within the tensor's extent (R139). -/
def inExtent (t : Tensor) (i0 i1 i2 i3 : Nat) : Bool :=
  decide (i0 < t.dims.1 ∧ i1 < t.dims.2.1 ∧ i2 < t.dims.2.2.1 ∧ i3 < t.dims.2.2.2)

/-- R136, R142: the address of element (i0, i1, i2, i3). -/
def elemAddr (x : Site) (t : Tensor) (i0 i1 i2 i3 : Nat) : Int := t.base + elemOffset t x.trips i0 i1 i2 i3

/-- The bit within its byte at which an element starts (R18). -/
def elemBit (t : Tensor) (i0 : Nat) : Nat := (i0 * codeBits (tensorCode t)) % 8

/-- The code of an element as stored. -/
def rdCode (s : State) (x : Site) (t : Tensor) (i0 i1 i2 i3 : Nat) : Nat :=
  let w := codeBits (tensorCode t)
  let b := elemBit t i0
  (leNat (rdSpaceN s x.sec x.core t.space (elemAddr x t i0 i1 i2 i3) ((b + w + 7) / 8)) >>> b) % 2 ^ w

/-- R139: a write changes only the bits of the element. -/
def wrCode (s : State) (x : Site) (t : Tensor) (i0 i1 i2 i3 v : Nat) : State :=
  let w := codeBits (tensorCode t)
  let b := elemBit t i0
  let n := (b + w + 7) / 8
  let a := elemAddr x t i0 i1 i2 i3
  let old := leNat (rdSpaceN s x.sec x.core t.space a n)
  let new := old - ((old >>> b) % 2 ^ w) <<< b + (v % 2 ^ w) <<< b
  wrSpace s x.sec x.core t.space a (leBytes n new)

/-- R140: the address of the scale byte of the block that holds element i0 of a row. -/
def scaleAddr (x : Site) (t : Tensor) (i0 i1 i2 i3 : Nat) : Int :=
  t.scaleBase + elemOffset t x.trips (i0 / 32 * 32) i1 i2 i3 / (mxBlockBytes (tensorCode t) : Int)

def rdScale (s : State) (x : Site) (t : Tensor) (i0 i1 i2 i3 : Nat) : Nat :=
  rdSpace s x.sec x.core t.space (scaleAddr x t i0 i1 i2 i3)

/-! ### Compressed tensors (R148-R151) -/

/-- An expanded block: its number, its 256 values, the flags of its expansion, and whether it was malformed. -/
structure Expanded where
  block : Int
  vals : List Nat
  flags : NumFlags
  bad : Bool
  deriving DecidableEq, Repr

/-- R148, R151: block b of a CBD tensor in the slate, as the operand port expands it. -/
def expandBlock (s : State) (c : Eng) (x : Site) (t : Tensor) (b : Int) : Expanded :=
  let rd (a : Int) (n : Nat) : List Nat := rdSpaceN s x.sec x.core t.space a n
  let a := t.base + (leNat (rd (t.indexBase + 8 * b) 8) : Nat)
  let bad : Expanded := ⟨b, List.replicate 256 (fmtNan .bf16), fNV, true⟩
  if (slateBytes : Int) < a + 8 then bad
  else
    let n := cbdLen (leNat (rd a 4))
    if (slateBytes : Int) < a + n then bad
    else
      let (vs, f, m) := cbdExpand c (rd a n)
      ⟨b, vs, f, m⟩

/-- R148: the block that holds an element, and its place in the block. -/
def cbdPlace (x : Site) (t : Tensor) (i0 i1 i2 i3 : Nat) : Int × Nat :=
  let o := elemOffset t x.trips i0 i1 i2 i3
  (o / 512, (o % 512).toNat / 2)

def cbdElem (bs : List Expanded) (p : Int × Nat) : Nat :=
  match bs.find? (fun e => e.block == p.1) with
  | some e => e.vals.getD p.2 0
  | none => 0

/-! ### Values -/

/-- An element's value as an engine reads it: flush of subnormal inputs (R43), MX elements with their scale (R17). -/
def rdVal (s : State) (c : Eng) (x : Site) (t : Tensor) (i0 i1 i2 i3 : Nat) : Val × NumFlags :=
  let k := tensorCode t
  let v := rdCode s x t i0 i1 i2 i3
  if codeIsMx k then (mxVal k (rdScale s x t i0 i1 i2 i3) v, fNone) else readCode c k v

/-- R24, R139: an element as a binary32 value: an exact widening; +0 beyond the tensor's extent. -/
def rd32 (s : State) (c : Eng) (x : Site) (t : Tensor) (i0 i1 i2 i3 : Nat) : Nat × NumFlags :=
  if !inExtent t i0 i1 i2 i3 then (0, fNone)
  else
    let (v, f) := rdVal s c x t i0 i1 i2 i3
    ((roundTo ⟨false, c.a1⟩ .fp32 .rne false v).1, f)

/-- A binary32 element written; nothing beyond the tensor's extent. -/
def wr32 (s : State) (x : Site) (t : Tensor) (i0 i1 i2 i3 v : Nat) : State :=
  if inExtent t i0 i1 i2 i3 then wrCode s x t i0 i1 i2 i3 v else s

/-- A quantised MX block written at element i0 (a multiple of 32) of a row. -/
def wrMx (s : State) (x : Site) (t : Tensor) (i0 i1 i2 i3 scale : Nat) (es : List Nat) : State :=
  let k := tensorCode t
  let s := wrSpace s x.sec x.core t.space (elemAddr x t i0 i1 i2 i3) (leBytes (mxBlockBytes k) (packElems (codeBits k) es))
  wrSpace s x.sec x.core t.space (scaleAddr x t i0 i1 i2 i3) [scale]

/-! ### The sliding window (R145-R147) -/

/-- R146: the input element of row r and column k; none for padding. -/
def windowElem (t : Tensor) (w : Window) (r k : Nat) : Option (Nat × Nat × Nat × Nat) :=
  let c := t.dims.1
  let n := r / (w.oh * w.ow)
  let oy := (r / w.ow) % w.oh
  let ox := r % w.ow
  let tap := k / c
  let iy : Int := (oy * w.sy + tap / w.kw * w.dy : Nat) - (w.py : Int)
  let ix : Int := (ox * w.sx + tap % w.kw * w.dx : Nat) - (w.px : Int)
  if iy < 0 || ix < 0 || decide ((t.dims.2.2.1 : Int) ≤ iy) || decide ((t.dims.2.1 : Int) ≤ ix) then none
  else some (k % c, ix.toNat, iy.toNat, n)

/-- R146: the first K column of the K-tile that a pass of `step` columns takes; the tile is a free value (log entry 49). -/
def windowTile (t : Tensor) (w : Window) (pc step : Nat) (r : Trips) : Nat :=
  let tiles := (w.kh * w.kw * t.dims.1 + step - 1) / step
  Config.windowTile pc r.1 r.2.1 r.2.2.1 r.2.2.2 % max 1 tiles * step

/-- Rows and K columns of an activation: of the expanded operand for a window. -/
def actExtent (g : Image) (t : Tensor) : Nat × Nat :=
  if t.window then
    let w := windowAt g t.winIx
    (w.oh * w.ow * t.dims.2.2.2, w.kh * w.kw * t.dims.1)
  else (t.dims.2.1, t.dims.1)

/-! ### Ring buffers (R218) -/

def getStream (s : State) (q n : Nat) : StreamSt := sget streamReset (getCore s q).streams n
def modStream (s : State) (q n : Nat) (f : StreamSt → StreamSt) : State :=
  modCore s q (fun x => { x with streams := sset streamReset x.streams n (f (sget streamReset x.streams n)) })

/-- R218: tensor i as a bundle of core q addresses it: in the buffer of the chunk acquired last, while the core holds a
chunk of the stream whose ring the tensor is. -/
def namedTensor (s : State) (g : Image) (v q i : Nat) : Tensor :=
  let t := tensorAt g i
  match (List.range (streamCount g)).find? (fun j =>
    let y := streamAt g j
    y.variant == v && streamMember y q && ringTensor y == i && !isStaging g y) with
  | none => t
  | some j =>
    let y := streamAt g j
    let st := getStream s q y.number
    if st.released < st.acquired then shiftTensor t (bufOffset y (st.acquired - 1)) else t

end Sys2Proof.Machine
end

