-- ==== Sys2Proof/Machine/Coll.lean ====
section
/-!
DEFINITION. Collectives (R292-R309): contributions, the fixed order of reduction, gathering, multicast and PERMUTE, the
flits they send and receive, and their wire encodings.
-/
namespace Sys2Proof.Machine

/-! ### The block stores -/

abbrev Words := BitVec 8192

def packWords (vs : List Nat) : Words := BitVec.ofNat 8192 (packElems 32 vs)
def wordsOf (x : Words) : List Nat := unpackElems 32 256 x.toNat

def collFresh (ord : Nat) : CollSt := ⟨ord, [], [], [], [], [], []⟩

def getColl (s : State) (t : Sec) (ord : Nat) : CollSt :=
  ((s.colls.get t).find? (fun x => x.ord == ord)).getD (collFresh ord)

def putColl (s : State) (t : Sec) (x : CollSt) : State :=
  { s with colls := s.colls.set t ((s.colls.get t).filter (fun y => y.ord != x.ord) ++ [x]) }

def modColl (s : State) (t : Sec) (ord : Nat) (f : CollSt → CollSt) : State := putColl s t (f (getColl s t ord))

/-- Keys: of a block at a level of a collective, and of a core's contribution to a block. -/
def collKey (id level b : Nat) : Nat := (id * 32 + level) * 2 ^ 40 + b
def contribKey (id b q : Nat) : Nat := (id * 2 ^ 40 + b) * 128 + q

/-- What a collective runs under: its command, the image with the tables it names, the entry and its member and move
lists, the frame its START counts from, and the draws of its narrowings. -/
structure CollRun where
  sec : Sec
  ord : Nat
  g : Image
  id : Nat
  coll : Coll
  members : List Nat
  moves : List Move
  maps : List SendMap
  origin : Nat
  draw : Nat
  deriving DecidableEq, Repr

def collRank (x : CollRun) : Nat := rankOf x.members x.g.logicalId

/-- R44: the arithmetic of the engine beside link l. -/
def fabEng (s : State) (t : Sec) (l : Nat) : Eng := ⟨flushOf s t (fabricEngine l), isA1 s⟩

/-- R307: the first frame of level j. -/
def levelFrame (x : CollRun) (j : Nat) : Nat := x.origin + levelStart x.coll j

def levelOpen (s : State) (x : CollRun) (j : Nat) : Bool := s.time.frame.isSome && decide (levelFrame x j ≤ frameOf s)

/-! ### Values in memory -/

/-- R193, R194, R196: poisoned granules of a range that an engine, a stream or the window (source) reads are recorded, and
corrected ones counted. -/
def noteRead (s : State) (t : Sec) (source a n : Nat) : State :=
  (List.range ((a % 256 + n + 255) / 256)).foldl (fun s i =>
    let p := (a / 256 + i) * 256
    if isPoison s p then capMem s t p (if underBase ≤ place s p then 2 else 1) source else s) (noteDecodes s a n)

/-- The bytes of block b of a collective tensor. -/
def collAddr (t : Tensor) (b : Nat) : Nat := t.base.toNat + b * (32 * codeBits (tensorCode t))

/-- R193, R298: block b of a tensor as binary32 values, as engine l reads it. -/
def readBlock (s : State) (x : CollRun) (l : Nat) (t : Tensor) (b : Nat) : State × List Nat :=
  let c := fabEng s x.sec l
  let k := tensorCode t
  let w := codeBits k
  let a := collAddr t b
  let bs := rdDevBytes s a (32 * w)
  let vs := (unpackElems w 256 (leNat bs)).map (fun y => convertCode c k (.fp .fp32) .rne false false y)
  let f := vs.foldl (fun (f : NumFlags) v => f ||| v.2) (if anyPoison s a (32 * w) then fNV else fNone)
  (raise (noteRead s x.sec 1 a (32 * w)) x.sec x.ord (fabricEngine l) f, vs.map (·.1))

/-- A block of codes of the tensor's format written. -/
def writeBlock (s : State) (t : Tensor) (b : Nat) (codes : List Nat) : State :=
  let w := codeBits (tensorCode t)
  wrDev s (collAddr t b) (leBytes (32 * w) (packElems w codes))

/-- The floating-point format of a collective tensor. -/
def collFmt (t : Tensor) : Fmt := match tensorCode t with | .fp f => f | _ => .fp32

/-- binary32 values narrowed to a format; `rm` gives the rounding mode of each element. -/
def narrowAll (c : Eng) (f : Fmt) (rm : Nat → Rm) (sat : Bool) (vs : List Nat) : List Nat × NumFlags :=
  if f == .fp32 then (vs, fNone)
  else
    let ys := vs.mapIdx (fun i v => convertFp c .fp32 f (rm i) sat v)
    (ys.map (·.1), ys.foldl (fun (a : NumFlags) y => a ||| y.2) fNone)

/-! ### Wire encodings (Table 10.3) -/

/-- 256 binary32 values in a wire encoding. -/
def encodeWire (c : Eng) (wire : Nat) (rm : Nat → Rm) (sat : Bool) (vs : List Nat) : List Nat × NumFlags :=
  match codeOf wire with
  | some (.fp .fp32) => (vs.flatMap (leBytes 4), fNone)
  | some (.fp .bf16) => let (ys, f) := narrowAll c .bf16 rm sat vs; (cbdLossless ys, f)
  | some (.fp f) => narrowAll c f rm sat vs
  | some (.mx f) => cbdMxOf wire (.mx f) rm (vs.map (readIn c .fp32))
  | _ => (vs.flatMap (leBytes 4), fNone)

/-- R302, R308: a block's wire form expanded to 256 codes of a format; a malformed one to 256 canonical NaN values. -/
def decodeWire (c : Eng) (wire : Nat) (dst : Fmt) (bs : List Nat) : List Nat × NumFlags × Bool :=
  let bad : List Nat × NumFlags × Bool := (List.replicate 256 (fmtNan dst), fNV, true)
  match codeOf wire with
  | some (.fp .fp32) => if bs.length != 1024 then bad else ((chunks 256 4 bs).map leNat, fNone, false)
  | some (.fp .bf16) => cbdExpandTo c dst bs
  | some (.fp f) =>
    if bs.length != 256 then bad
    else if dst == f then (bs, fNone, false)
    else
      let ys := bs.map (convertFp c f dst .rne false)
      (ys.map (·.1), ys.foldl (fun (a : NumFlags) y => a ||| y.2) fNone, false)
  | some (.mx _) => cbdExpandTo c dst bs
  | _ => bad

/-! ### Flits (R309) -/

/-- A flit of a section, or a control flit, waits to be sent on a link. -/
def pushFlit (s : State) (l space : Nat) (b : Body) : State :=
  modLink s l (fun k => { k with spaces := k.spaces.mapIdx (fun i x =>
    if i == space then { x with queue := x.queue ++ [b] } else x) })

/-- R309: the pieces of one block's wire form. -/
def sendPieces (s : State) (x : CollRun) (l dest level b : Nat) (mcast : Bool) (bs : List Nat) : State :=
  let n := bs.length
  (List.range ((n + 223) / 224)).foldl (fun s p =>
    let part := (bs.drop (224 * p)).take 224
    let head := b % 2 ^ 32 + level * 2 ^ 32 + p * 2 ^ 40 + n * 2 ^ 48
    let body : Body := ⟨3, BitVec.ofNat 16 dest, BitVec.ofNat 16 x.g.logicalId,
      BitVec.ofNat 16 (x.id + (if mcast then 0x8000 else 0)), frameOf s, 16 + part.length,
      BitVec.ofNat 1920 (head + leNat part * 2 ^ 128)⟩
    pushFlit s l x.sec.val body) s

def memberAt (x : CollRun) (r : Nat) : Nat := x.members.getD r 0

def markSent (s : State) (x : CollRun) (k : Nat) : State :=
  modColl s x.sec x.ord (fun y => { y with sent := sset false y.sent k true })
def isSent (s : State) (x : CollRun) (k : Nat) : Bool := sget false (getColl s x.sec x.ord).sent k
def recvAt (s : State) (x : CollRun) (k : Nat) : Option Words :=
  ((getColl s x.sec x.ord).recv.find? (fun e => e.1 == k)).map (·.2)
def putRecv (s : State) (x : CollRun) (k : Nat) (w : Words) : State :=
  modColl s x.sec x.ord (fun y => { y with recv := sins (sdel y.recv k) k w })

/-- R31, R300: the rounding mode of element i of block b in the logical tensor. -/
def collRm (s : State) (x : CollRun) (b : Nat) (i : Nat) : Rm :=
  rmOf x.coll.rm ⟨(getSteps s x.sec).seed.toNat, x.draw, x.coll.tid⟩ (256 * b + i)

/-! ### Contributions (R298) -/

/-- The cores whose send map covers a block. -/
def sendersOf (x : CollRun) (b : Nat) : List Nat :=
  ((x.maps.filter (fun e => decide (e.first ≤ b ∧ b < e.first + e.count))).map (·.core)).eraseDups

def contribOf (s : State) (x : CollRun) (b q : Nat) : Option Words :=
  ((getColl s x.sec x.ord).contribs.find? (fun e => e.1 == contribKey x.id b q)).map (·.2)

/-- One binary32 addition for each element of a block, on engine l. -/
def addWords (s : State) (x : CollRun) (l : Nat) (a b : List Nat) : State × List Nat :=
  let c := fabEng s x.sec l
  let ys := (a.zip b).map (fun p => add32 c p.1 p.2)
  (raise s x.sec x.ord (fabricEngine l) (ys.foldl (fun (f : NumFlags) y => f ||| y.2) fNone), ys.map (·.1))

/-- R298: this card's contribution to block b, once every core of the send map has given its own. -/
def contribution (s : State) (x : CollRun) (l b : Nat) : Option (State × List Nat) :=
  match (sendersOf x b).mapM (contribOf s x b) with
  | none => none
  | some cs =>
    let start := if x.coll.useSrc then some (readBlock s x l (tensorAt x.g x.coll.src) b) else none
    let step (acc : State × Option (List Nat)) (w : Words) : State × Option (List Nat) :=
      match acc.2 with
      | none => (acc.1, some (wordsOf w))
      | some v => let (s, v) := addWords acc.1 x l v (wordsOf w); (s, some v)
    let r := cs.foldl step (match start with | some (s, v) => (s, some v) | none => (s, none))
    some (r.1, r.2.getD (List.replicate 256 0))

/-! ### Reduction (R299) -/

/-- The levels at which relative rank q receives, and the one at which it sends. -/
def receives (n q j : Nat) : Bool := q % 2 ^ (j + 1) == 0 && decide (q + 2 ^ j < n)
def sendsAt (q j : Nat) : Bool := q % 2 ^ (j + 1) == 2 ^ j

def getAcc (s : State) (x : CollRun) (b : Nat) : Option (Nat × Words) :=
  ((getColl s x.sec x.ord).acc.find? (fun e => e.1 == collKey x.id 0 b)).map (·.2)
def putAcc (s : State) (x : CollRun) (b j : Nat) (v : List Nat) : State :=
  modColl s x.sec x.ord (fun y => { y with acc := sins (sdel y.acc (collKey x.id 0 b)) (collKey x.id 0 b) (j, packWords v) })

def isWrote (s : State) (x : CollRun) (b : Nat) : Bool := sget false (getColl s x.sec x.ord).wrote (collKey x.id 0 b)
def markWrote (s : State) (x : CollRun) (b : Nat) : State :=
  modColl s x.sec x.ord (fun y => { y with wrote := sset false y.wrote (collKey x.id 0 b) true })

/-- R303: the gather level of an ALL_REDUCE; R302, R304: of ALL_GATHER and MULTICAST. -/
def gatherLevel (c : Coll) : Nat := if c.kind == 3 then log2up c.members else 0

/-- R302-R304: a gathered block is written to DST. -/
def gatherWrite (s : State) (x : CollRun) (l b : Nat) (bs : List Nat) : State :=
  let d := tensorAt x.g x.coll.dst
  let (vs, f, _) := decodeWire (fabEng s x.sec l) x.coll.wire (collFmt d) bs
  markWrote (writeBlock (raise s x.sec x.ord (fabricEngine l) f) d b vs) x b

/-- R302-R304: a block goes to the group. The sender keeps the wire form, for the part that it takes itself (R293). -/
def gatherSend (s : State) (x : CollRun) (l b : Nat) (rm : Nat → Rm) (vs : List Nat) : State :=
  let (bs, f) := encodeWire (fabEng s x.sec l) x.coll.wire rm x.coll.sat vs
  let s := raise s x.sec x.ord (fabricEngine l) f
  let k := collKey x.id (gatherLevel x.coll) b
  let s := sendPieces s x l x.coll.group (gatherLevel x.coll) b true bs
  markSent (modColl s x.sec x.ord (fun y => { y with
    asm := sins (sdel y.asm k) k ⟨bs.length, [], wrBytes [] 0 bs, false⟩ })) x k

/-- R293: the last piece of a gathered block has left: the sender takes its own part, in the frame in which the other members
take theirs. -/
def takeOwn (s : State) (x : CollRun) (l b : Nat) : State :=
  let k := collKey x.id (gatherLevel x.coll) b
  match (getColl s x.sec x.ord).asm.find? (fun e => e.1 == k) with
  | some (_, a) => gatherWrite (modColl s x.sec x.ord (fun y => { y with asm := sdel y.asm k })) x l b (rdBytes a.data 0 a.elen)
  | none => s

/-- R299, R303: the total of block b at its owner. -/
def finishBlock (s : State) (x : CollRun) (l b : Nat) (v : List Nat) : State :=
  let d := tensorAt x.g x.coll.dst
  let c := fabEng s x.sec l
  if x.coll.kind == 1 then
    if isWrote s x b then s
    else
      let (ys, f) := narrowAll c (collFmt d) (collRm s x b) x.coll.sat v
      markWrote (writeBlock (raise s x.sec x.ord (fabricEngine l) f) d (b - chunkFirst x.coll (collRank x)) ys) x b
  else if isSent s x (collKey x.id (gatherLevel x.coll) b) || !levelOpen s x (gatherLevel x.coll) then s
  else
    let (ys, f) := narrowAll c (collFmt d) (collRm s x b) x.coll.sat v
    let vs := if collFmt d == .fp32 then ys else ys.map (fun y => (convertFp ⟨false, c.a1⟩ (collFmt d) .fp32 .rne false y).1)
    gatherSend (raise s x.sec x.ord (fabricEngine l) f) x l b (fun _ => .rne) vs

/-- R307: what was received in level j may be used: from the first frame of the next level, and after the last one at once,
since its write is due in the frame of the receipt (R220, log entry 26). -/
def mayUseRecv (s : State) (x : CollRun) (j : Nat) : Bool := decide (collLevels x.coll ≤ j + 1) || levelOpen s x (j + 1)

/-- R299: block b goes as far as what has arrived allows; `fuel` bounds the levels. -/
def reduceBlock : Nat → State → CollRun → Nat → Nat → State
  | 0, s, _, _, _ => s
  | fuel + 1, s, x, l, b =>
    match getAcc s x b with
    | none =>
      (match if levelOpen s x 0 then contribution s x l b else none with
      | none => s
      | some (s, v) => reduceBlock fuel (putAcc s x b 0 v) x l b)
    | some (j, w) =>
      let n := x.coll.members
      let q := (collRank x + n - chunkOf x.coll b % n) % n
      let v := wordsOf w
      if log2up n ≤ j then finishBlock s x l b v
      else if sendsAt q j then
        if isSent s x (collKey x.id j b) || !levelOpen s x j then s
        else
          let (bs, f) := encodeWire (fabEng s x.sec l) x.coll.wire (fun _ => .rne) false v
          let s := raise s x.sec x.ord (fabricEngine l) f
          let dest := memberAt x ((collRank x + n - 2 ^ j) % n)
          markSent (sendPieces s x l dest j b false bs) x (collKey x.id j b)
      else if receives n q j then
        (match if mayUseRecv s x j then recvAt s x (collKey x.id j b) else none with
        | none => s
        | some y =>
          let (s, v) := addWords s x l v (wordsOf y)
          let more := (List.range (log2up n)).any (fun i => decide (j < i) && receives n q i)
          let src := tensorAt x.g x.coll.src
          let (s, v) :=
            if more && collFmt src != .fp32 then
              let c := fabEng s x.sec l
              let (ys, f) := narrowAll c (collFmt src) (fun _ => .rne) false v
              let s := writeBlock (raise s x.sec x.ord (fabricEngine l) f) src b ys
              (s, ys.map (fun y => (convertFp ⟨false, c.a1⟩ (collFmt src) .fp32 .rne false y).1))
            else if more then (writeBlock s src b v, v)
            else (s, v)
          reduceBlock fuel (putAcc s x b (j + 1) v) x l b)
      else reduceBlock fuel (putAcc s x b (j + 1) v) x l b

/-! ### PERMUTE (R305) -/

/-- The units that this card sends: (destination rank, source unit, destination unit). -/
def moveUnits (x : CollRun) : List (Nat × Nat × Nat) :=
  x.moves.flatMap (fun m => (List.range (m.bytes / 512)).map (fun i => (m.dest, m.srcOff / 512 + i, m.dstOff / 512 + i)))

def unitAddr (t : Tensor) (u : Nat) : Nat := t.base.toNat + 512 * u

/-- R193: a unit as an engine reads it. -/
def readUnit (s : State) (x : CollRun) (l a : Nat) : State × List Nat :=
  let f := if anyPoison s a 512 then fNV else fNone
  (raise (noteRead s x.sec 1 a 512) x.sec x.ord (fabricEngine l) f, rdDevBytes s a 512)

/-- One unit of a move read from its source and sent, or held by the engine for a move to the card's own rank. -/
def sendUnit (s : State) (x : CollRun) (i : Nat) (m : Nat × Nat × Nat) : State :=
  let l := blockLink x.coll m.2.2
  let (s, bs) := readUnit s x l (unitAddr (tensorAt x.g x.coll.src) m.2.1)
  let s :=
    if m.1 == collRank x then
      putRecv s x (collKey x.id 1 m.2.2) (BitVec.ofNat 8192 (leNat bs))
    else
      let wire := if (tensorAt x.g x.coll.src).format == 2 then cbdLossless ((chunks 256 2 bs).map leNat) else bs
      sendPieces s x l (memberAt x m.1) 0 m.2.2 false wire
  markSent s x (collKey x.id 0 i)

/-- Units received from other cards. -/
def unitsIn (s : State) (x : CollRun) : List Nat :=
  (getColl s x.sec x.ord).recv.filterMap (fun e => if e.1 / 2 ^ 40 == x.id * 32 then some (e.1 % 2 ^ 40) else none)
/-- Units moved within the card. -/
def unitsOwn (s : State) (x : CollRun) : List Nat :=
  (getColl s x.sec x.ord).recv.filterMap (fun e => if e.1 / 2 ^ 40 == x.id * 32 + 1 then some (e.1 % 2 ^ 40) else none)

/-- R305: received units go from SCRATCH to DST, and those moved within the card from the engine, once every move of the card
has read its source. -/
def flushUnits (s : State) (x : CollRun) : State :=
  let us := moveUnits x
  if (List.range us.length).all (fun i => isSent s x (collKey x.id 0 i)) then
    (unitsIn s x ++ unitsOwn s x).foldl (fun s u =>
      if isWrote s x u then s
      else
        let bs := match recvAt s x (collKey x.id 1 u) with
          | some w => leBytes 512 w.toNat
          | none => rdDevBytes s (unitAddr (tensorAt x.g x.coll.scratch) u) 512
        markWrote (wrDev s (unitAddr (tensorAt x.g x.coll.dst) u) bs) x u) s
  else s

def pumpPermute (s : State) (x : CollRun) : State :=
  if !levelOpen s x 0 then s
  else
    let s := ((moveUnits x).mapIdx (fun i m => (i, m))).foldl (fun s e =>
      if isSent s x (collKey x.id 0 e.1) then s else sendUnit s x e.1 e.2) s
    flushUnits s x

/-! ### A collective goes on -/

/-- R302, R304: the blocks that this card sends in a gather, from SRC; ALL_GATHER holds its own chunk there. -/
def gatherBlocks (x : CollRun) : List (Nat × Nat) :=
  let r := collRank x
  if x.coll.kind == 2 then
    let a := chunkFirst x.coll r
    (List.range (chunkFirst x.coll (r + 1) - a)).map (fun i => (a + i, i))
  else if x.coll.kind == 4 && r == x.coll.root then (List.range (collBlocks x.coll)).map (fun b => (b, b))
  else []

def pumpGather (s : State) (x : CollRun) : State :=
  if !levelOpen s x 0 then s
  else (gatherBlocks x).foldl (fun s e =>
    let l := blockLink x.coll e.1
    if isSent s x (collKey x.id 0 e.1) then s
    else
      let (s, vs) := readBlock s x l (tensorAt x.g x.coll.src) e.2
      gatherSend s x l e.1 (collRm s x e.1) vs) s

/-- What a collective can do in the present frame with what it has. -/
def pumpColl (s : State) (x : CollRun) : State :=
  match x.coll.kind with
  | 5 => pumpPermute s x
  | 2 => pumpGather s x
  | 4 => pumpGather s x
  | _ => (List.range (collBlocks x.coll)).foldl (fun s b =>
      reduceBlock (2 * log2up x.coll.members + 4) s x (blockLink x.coll b) b) s

/-- R294, R307: the collectives of the running micro-batch of a RUN. -/
def runColls (s : State) (t : Sec) : List CollRun :=
  match runningRun s t, s.images.get t with
  | some (c, r), some g =>
    if r.mb == 0 then []
    else
      let v := r.variants.getD (r.mb - 1) 0
      (List.range (collCount g v)).map (fun i =>
        let k := collAt g v i
        ⟨t, c.ord, g, i, k, memberList g.bytes k, if k.kind == 5 then moveList g.bytes k else [],
          if k.kind == 5 then [] else sendMap g.bytes k, r.mbFirst, c.draw⟩)
  | _, _ => []

/-- R407: the PERMUTE of a RESHARD that has started; its collective ID is 0. -/
def reshardColls (s : State) (t : Sec) : List CollRun :=
  match s.images.get t with
  | some g => (getCmds s t).filterMap (fun c => match c.job with
    | .reshard r => if r.started then
        some ⟨t, c.ord, g, 0, r.coll, r.members, r.moves, [], r.start, 0⟩ else none
    | _ => none)
  | none => []

def sectionColls (s : State) (t : Sec) : List CollRun := runColls s t ++ reshardColls s t

def pumpSection (s : State) (t : Sec) : State := (sectionColls s t).foldl pumpColl s

/-- R308: FAB_CDISC of link l counts; on stepping A1 it reads 0 (R323). -/
def countDisc (s : State) (l : Nat) : State :=
  if isA1 s then s else modLink s l (fun k => { k with cdisc := satInc k.cdisc })

/-- R297, R298: a SEND block of core q enters a collective, as 256 bfloat16 values. -/
def collContribute (s : State) (t : Sec) (id q : Nat) (vs : List Nat) : State :=
  match (runColls s t).find? (fun x => x.id == id) with
  | none => s
  | some x =>
    let n := sget 0 (getCore s q).sent id
    let s := modCore s q (fun k => { k with sent := sset 0 k.sent id (n + 1) })
    match sendBlock x.maps q n with
    | none =>
      countDisc (raise s t x.ord (fabricEngine 0) fNV) 0
    | some b =>
      let c := fabEng s t (blockLink x.coll b)
      let ws := vs.map (convertFp c .bf16 .fp32 .rne false)
      let s := raise s t x.ord (fabricEngine (blockLink x.coll b)) (ws.foldl (fun (f : NumFlags) w => f ||| w.2) fNone)
      let s := modColl s t x.ord (fun y => { y with
        contribs := sins (sdel y.contribs (contribKey id b q)) (contribKey id b q) (packWords (ws.map (·.1))) })
      pumpColl s x

/-! ### Receipt (R308, R309) -/

/-- The levels and blocks that this card takes in. -/
def expects (x : CollRun) (level b : Nat) : Bool :=
  let c := x.coll
  let n := c.members
  match c.kind with
  | 5 =>
    let d := tensorAt x.g c.dst
    level == 0 && decide ((b + 1) * 4096 ≤ tensorElems d * codeBits (tensorCode d))
  | 2 => level == 0 && decide (b < collBlocks c) && chunkOf c b != collRank x
  | 4 => level == 0 && decide (b < collBlocks c) && c.root != collRank x
  | _ =>
    decide (b < collBlocks c) &&
      (if level < log2up n then receives n ((collRank x + n - chunkOf c b % n) % n) level
       else c.kind == 3 && level == log2up n && chunkOf c b != collRank x)

/-- R308, R309, R415: a block's wire form has arrived whole, or is malformed. -/
def blockIn (s : State) (x : CollRun) (l level b : Nat) (a : Asm) : State :=
  let k := collKey x.id level b
  let bs := if a.bad then [] else rdBytes a.data 0 a.elen
  let note (s : State) (bad : Bool) : State := if bad then logClass (countDisc s l) 6 x.sec.val 2 l 0 else s
  if x.coll.kind == 5 then
    let c := fabEng s x.sec l
    let bf := (tensorAt x.g x.coll.src).format == 2
    let (vs, f, bad) : List Nat × NumFlags × Bool :=
      if !a.bad && !bf && a.elen == 512 then (bs, fNone, false)
      else
        let (ys, f, bad) := if bf then cbdExpandTo ⟨false, c.a1⟩ .bf16 bs else (List.replicate 256 (fmtNan .bf16), fNV, true)
        (ys.flatMap (leBytes 2), if bad then f else fNone, bad)
    let s := note (raise s x.sec x.ord (fabricEngine l) f) bad
    putRecv (wrDev s (unitAddr (tensorAt x.g x.coll.scratch) b) vs) x k 0
  else if x.coll.kind == 2 || x.coll.kind == 4 || level == log2up x.coll.members then
    let bad := (decodeWire (fabEng s x.sec l) x.coll.wire .fp32 bs).2.2
    putRecv (gatherWrite (note s bad) x l b bs) x k 0
  else
    let (vs, f, bad) := decodeWire (fabEng s x.sec l) x.coll.wire .fp32 bs
    putRecv (note (raise s x.sec x.ord (fabricEngine l) f) bad) x k (packWords vs)

/-- The fields of a COLL payload (Table 10.5). -/
def collBlock (f : Flit) : Nat := f.payload.toNat % 2 ^ 32
def collLevelOf (f : Flit) : Nat := (f.payload.toNat >>> 32) % 256
def collPiece (f : Flit) : Nat := (f.payload.toNat >>> 40) % 256
def collElen (f : Flit) : Nat := (f.payload.toNat >>> 48) % 65536
def collData (f : Flit) : List Nat := (leBytes 240 f.payload.toNat).drop 16 |>.take (f.len.toNat - 16)

/-- R309: the pieces of a block. -/
def pieceCount (a : Asm) : Nat := (a.elen + 223) / 224

/-- R309: a piece joins its block; one that the block does not have makes it malformed. -/
def joinPiece (a : Asm) (f : Flit) : Asm :=
  let p := collPiece f
  let d := collData f
  let bad := a.bad || a.elen != collElen f || a.got.contains p || decide (pieceCount a ≤ p)
    || d.length != min 224 (a.elen - 224 * p) || decide (a.elen < 8 ∨ 1024 < a.elen)
  { a with got := if a.got.contains p || decide (pieceCount a ≤ p) then a.got else p :: a.got
           data := wrBytes a.data (224 * p) d, bad := bad }

/-- R293, R308, R309: a COLL flit that a link delivers to section t. A piece of a block that is whole repeats one, and makes
the block malformed. -/
def collReceive (s : State) (t : Sec) (l : Nat) (f : Flit) : State :=
  let own := match s.images.get t with | some g => f.src.toNat == g.logicalId | none => false
  if own then s
  else
    let b := collBlock f
    let lv := collLevelOf f
    match (sectionColls s t).find? (fun x => x.id == f.tag.toNat % 4096 && expects x lv b) with
    | none => countDisc s l
    | some x =>
      let k := collKey x.id lv b
      if (recvAt s x k).isSome then blockIn s x l lv b ⟨collElen f, [], [], true⟩
      else
        let a := ((getColl s t x.ord).asm.find? (fun e => e.1 == k)).map (·.2)
        let a := joinPiece (a.getD ⟨collElen f, [], [], false⟩) f
        if pieceCount a ≤ a.got.length then
          let s := modColl s t x.ord (fun y => { y with asm := sdel y.asm k })
          pumpColl (blockIn s x l lv b a) x
        else modColl s t x.ord (fun y => { y with asm := sins (sdel y.asm k) k a })

/-! ### The guard band of a level's last frame (R307) -/

/-- COLL flits of a collective still wait in a link's queue. -/
def collQueued (s : State) (x : CollRun) (l : Nat) : Bool :=
  match (getLink s l).spaces[x.sec.val]? with
  | some sp => sp.queue.any (fun b => b.type == 3 && b.tag.toNat % 4096 == x.id)
  | none => false

/-- What a level leaves undone on link l: something unsent, or an expected block not in. -/
def levelLate (s : State) (x : CollRun) (j l : Nat) : Bool :=
  let c := x.coll
  let n := c.members
  collQueued s x l ||
  (match c.kind with
  | 5 => ((moveUnits x).mapIdx (fun i m => (i, m))).any (fun e => blockLink c e.2.2.2 == l && !isSent s x (collKey x.id 0 e.1))
      || (blockLink c 0 == l && decide ((unitsIn s x).length < c.elements / 512))
  | _ => (List.range (collBlocks c)).any (fun b => blockLink c b == l &&
      ((expects x j b && (recvAt s x (collKey x.id j b)).isNone)
        || ((if c.kind == 2 || c.kind == 4 then (gatherBlocks x).any (fun e => e.1 == b)
             else if j < log2up n then sendsAt ((collRank x + n - chunkOf c b % n) % n) j
             else chunkOf c b == collRank x) && !isSent s x (collKey x.id j b)))))

/-- R307, R81: the lowest link on which a level that ends in the present frame is unfinished. -/
def collOverrun (s : State) (x : CollRun) : Option Nat :=
  (List.range (collLevels x.coll)).findSome? (fun j =>
    if levelFrame x (j + 1) == frameOf s + 1 then (collLinks x.coll).find? (levelLate s x j) else none)

end Sys2Proof.Machine
end

