-- ==== Sys2Proof/Machine/Pass.lean ====
section
/-!
DEFINITION. The array slot of a bundle: the prologue (R159-R163), the matrix pass (R92-R99, R103, R104), and the epilogue
(R164-R170).
-/
namespace Sys2Proof.Machine

/-- What a bundle works under: its command, the image, the running variant, where its operands are addressed, the tail
count if it stands on the last trip of its innermost loop (R113), the step that keys its draws, and the bundle: its index
in the store, and its number among those the stage has issued. -/
structure Work where
  ord : Nat
  g : Image
  v : Nat
  site : Site
  tail : Option Nat
  draw : Nat
  pc : Nat
  no : Nat
  deriving DecidableEq, Repr

/-- R43: the arithmetic of a core's array group and lane group. -/
def arrayEng (s : State) (w : Work) : Eng := ⟨flushOf s w.site.sec (arrayEngine s w.site.core), isA1 s⟩
def laneEng (s : State) (w : Work) : Eng := ⟨flushOf s w.site.sec (laneEngine s w.site.core), isA1 s⟩

def workTensor (s : State) (w : Work) (i : Nat) : Tensor := namedTensor s w.g w.v w.site.core i

def orFlags {α : Type} (l : List (α × NumFlags)) : NumFlags := l.foldl (fun a y => a ||| y.2) fNone

/-- Table 5.2: the flags that a chain entry can set (log entry 24). -/
def chainFlags (code : Nat) : NumFlags :=
  match code with
  | 0x02 => fFZ
  | 0x04 => fNX ||| fUF ||| fOF ||| fFZ
  | 0x05 => fNX ||| fUF ||| fOF ||| fFZ
  | 0x06 => fNX ||| fUF ||| fOF ||| fFZ
  | 0x07 => fNX ||| fUF ||| fOF ||| fFZ
  | 0x10 => fNX ||| fOF ||| fNV
  | 0x11 => fNX ||| fUF
  | 0x12 => fNX ||| fUF
  | 0x14 => fNX ||| fUF ||| fOF
  | 0x15 => fNX ||| fOF ||| fNV
  | 0x16 => fNX ||| fOF ||| fNV
  | 0x17 => fNX ||| fUF ||| fOF ||| fNV
  | _ => fNone

/-! ### Prologue -/

/-- R159: a product rounded to 24 significant bits, with no bound on the exponent. -/
def round24 (v : Val) : Val × NumFlags :=
  match v with
  | .fin n m e =>
    if m == 0 then (v, fNone)
    else
      let u : Int := (m.log2 : Int) + e - 23
      if u ≤ e then (v, fNone)
      else
        let (q, inx) := roundGrid .rne m e u
        (.fin n q u, if inx then fNX else fNone)
  | v => (v, fNone)

/-- R161: one multiplication by a factor, with the flags that Table 5.2 gives it. -/
def scaleVal (acc : Val × NumFlags) (k : Val × NumFlags) : Val × NumFlags :=
  let (p, f1) := valMul acc.1 k.1
  let (r, f2) := round24 p
  (r, acc.2 ||| ((k.2 ||| f1 ||| f2) &&& chainFlags 5))

/-- R160, R161: the factors of one element of a side: SCALE, then SCALE_ROW, then SCALE_K. A factor beyond its tensor's
extent reads +0 (log entry 24). -/
def factorsOf (s : State) (c : Eng) (w : Work) (ch : Chain) (side r k : Nat) : List (Val × NumFlags) :=
  let one (e : ChainEntry) : Option (Val × NumFlags) :=
    if e.code == 5 then some (readIn c .fp32 e.p0)
    else if e.code == 6 then some (let t := workTensor s w e.tensor; if inExtent t r 0 0 0 then rdVal s c w.site t r 0 0 0 else (valZero, fNone))
    else if e.code == 7 then some (let t := workTensor s w e.tensor; if inExtent t k 0 0 0 then rdVal s c w.site t k 0 0 0 else (valZero, fNone))
    else none
  (ch.pro.filter (fun e => e.flags % 2 == side)).filterMap one

/-- R159: the delivery of a value: unchanged where nothing widened or scaled it, or rounded once to the format. -/
def deliver (c : Eng) (fmt : Fmt) (deq : Bool) (factors : List (Val × NumFlags)) (v : Val × NumFlags) : Val × NumFlags :=
  if factors.isEmpty && !deq then v
  else
    let (x, f) := factors.foldl scaleVal v
    let (y, f2) := roundTo c fmt .rne false x
    (decodeFmt fmt y, f ||| f2)

/-- The format in which a side is delivered, for rounding. -/
def deliverFmt (ch : Chain) (side : Nat) (t : Tensor) : Fmt :=
  match codeOf (delivered ch side t) with
  | some (.fp f) => f
  | _ => .bf16

/-- The blocks of a CBD operand that a set of its elements needs, expanded once each. -/
def expandFor (s : State) (c : Eng) (w : Work) (t : Tensor) (els : List (Nat × Nat × Nat × Nat)) : List Expanded :=
  if t.cbd then
    ((els.map (fun e => (cbdPlace w.site t e.1 e.2.1 e.2.2.1 e.2.2.2).1)).eraseDups).map (expandBlock s c w.site t)
  else []

/-- An operand element as the port delivers it. -/
def operandVal (s : State) (c : Eng) (w : Work) (ch : Chain) (side : Nat) (t : Tensor) (xs : List Expanded) (r k : Nat)
    (e : Nat × Nat × Nat × Nat) : Val × NumFlags :=
  let v := if t.cbd then readIn c .bf16 (cbdElem xs (cbdPlace w.site t e.1 e.2.1 e.2.2.1 e.2.2.2))
    else rdVal s c w.site t e.1 e.2.1 e.2.2.1 e.2.2.2
  deliver c (deliverFmt ch side t) ((proOf ch side 4).isSome) (factorsOf s c w ch side r k) v

/-- R146: the K column at which the pass of a slot starts in the expanded operand of a window; 0 for another activation. -/
def kOrigin (w : Work) (sl : ArraySlot) (t : Tensor) : Nat :=
  if t.window then windowTile t (windowAt w.g t.winIx) w.pc (shapeK sl.shape) w.site.trips else 0

/-- The element of the activation at row r and column k: none beyond the extent, `some none` for window padding. -/
def actElem (g : Image) (t : Tensor) (r k : Nat) : Option (Option (Nat × Nat × Nat × Nat)) :=
  let (rows, cols) := actExtent g t
  if rows ≤ r || cols ≤ k then none
  else if t.window then some (windowElem t (windowAt g t.winIx) r k)
  else some (some (k, r, 0, 0))

/-- R141: the element of the weight at position k and column n; none beyond the extent. -/
def wgtElem (t : Tensor) (k n : Nat) : Option (Nat × Nat × Nat × Nat) :=
  let e := if t.kinner then (k, n, 0, 0) else (n, k, 0, 0)
  if inExtent t e.1 e.2.1 0 0 then some e else none

/-- R141: the K positions of a weight. -/
def wgtK (t : Tensor) : Nat := if t.kinner then t.dims.1 else t.dims.2.1

/-- The steps along K of a pass: the shape's, and for a wide shape the activation's (R99). -/
def passK (shape : Nat) (ta : Tensor) : Nat := if isWide shape then ta.dims.1 else shapeK shape

/-- R151, R152: malformed blocks met on a side. -/
def noteBlocks (s : State) (w : Work) (side : Nat) (xs : List Expanded) : State :=
  xs.foldl (fun s e => if e.bad then capXpnd s w.site.sec w.site.core side else s) s

def blockFlags (xs : List Expanded) : NumFlags := xs.foldl (fun f e => f ||| e.flags) fNone

/-- R94, R139: the weight tile as it stands in the arrays: k by k, column by column; +0 (none) at a position beyond the
extent of either operand. -/
def loadTile (s : State) (c : Eng) (w : Work) (ch : Chain) (sl : ArraySlot) (kAct : Nat) :
    State × List (List (Option Val)) × NumFlags :=
  let t := workTensor s w sl.wgt
  let ks := List.range (passK sl.shape (workTensor s w sl.act))
  let els := ks.map (fun k => (List.range (shapeN sl.shape)).map (fun n => if k < kAct then wgtElem t k n else none))
  let xs := expandFor s c w t (els.flatMap (fun r => r.filterMap id))
  let vals := els.mapIdx (fun k r => r.map (fun e => e.map (operandVal s c w ch 1 t xs 0 k)))
  (noteBlocks s w 1 xs, vals.map (fun r => r.map (fun v => v.map (·.1))),
    vals.foldl (fun f r => r.foldl (fun f v => match v with | some y => f ||| y.2 | none => f) f) (blockFlags xs))

/-- R139, R146: the activation rows of a pass. -/
def loadRows (s : State) (c : Eng) (w : Work) (ch : Chain) (sl : ArraySlot) (m kWgt : Nat) :
    State × List (List (Option Val)) × NumFlags :=
  let t := workTensor s w sl.act
  let ks := List.range (passK sl.shape t)
  let k0 := kOrigin w sl t
  let els := (List.range m).map (fun r => ks.map (fun k => if k < kWgt then actElem w.g t r (k0 + k) else none))
  let xs := expandFor s c w t (els.flatMap (fun r => r.filterMap (fun e => e.bind id)))
  let val (r k : Nat) (e : Option (Option (Nat × Nat × Nat × Nat))) : Option (Val × NumFlags) :=
    match e with
    | none => none
    | some none => some (deliver c (deliverFmt ch 0 t) false (factorsOf s c w ch 0 r k) (valZero, fNone))
    | some (some e) => some (operandVal s c w ch 0 t xs r k e)
  let vals := els.mapIdx (fun r row => row.mapIdx (fun k e => val r k e))
  (noteBlocks s w 0 xs, vals.map (fun r => r.map (fun v => v.map (·.1))),
    vals.foldl (fun f r => r.foldl (fun f v => match v with | some y => f ||| y.2 | none => f) f) (blockFlags xs))

/-! ### The pass -/

/-- R113, R126: the rows of a pass: the slot's, or the tail's, clamped to the shape and to the accumulator file. -/
def passRows (w : Work) (sl : ArraySlot) : Nat :=
  let m := match w.tail with | some t => if sl.tail then t else sl.rows | none => sl.rows
  let m := min m (shapeMaxRows sl.shape)
  if isDeep sl.shape then min m (2048 - sl.accRow) else m

/-- R98, R171: the key of the accumulator of tile row r and column n. -/
def accKey (q : Nat) (sl : ArraySlot) (r n : Nat) : Nat :=
  let span := (shapeN sl.shape + 127) / 128
  (q * 2048 + sl.accRow + r * span + n / 128) * 128 + n % 128

/-- R97, R162: the value at which an accumulator of the pass starts. -/
def accStart (s : State) (c : Eng) (w : Work) (ch : Chain) (sl : ArraySlot) (r n : Nat) : Nat × NumFlags :=
  match sl.mode with
  | 0 => (0, fNone)
  | 1 => ((sget 0 s.acc (accKey w.site.core sl r n)).toNat, fNone)
  | _ => match proOf ch 0 2 with
    | some e =>
      let (v, f) := rd32 s c w.site (workTensor s w e.tensor) n r 0 0
      (v, f &&& chainFlags 2)
    | none => (0, fNone)

/-- R96: the sum of one accumulator over the K positions of the pass, in ascending k. -/
def accSum (c : Eng) (shape : Nat) (mx : Bool) (acc : Nat × NumFlags) (ab : List (Option Val × Option Val)) : Nat × NumFlags :=
  let pair (x : Option Val × Option Val) : Val × Val :=
    match x with
    | (some a, some b) => (a, b)
    | _ => (valZero, valZero)
  let ps := ab.map pair
  if mx then
    (chunks (ps.length / 32 + 1) 32 ps).foldl (fun acc blk => mxStep c acc (blk.map (·.1)) (blk.map (·.2))) acc
  else if shape == 5 then ps.foldl (fun acc p => mac3 c acc p.1 p.2) acc
  else ps.foldl (fun acc p => macStep c acc p.1 p.2) acc

/-- Column n of a tile. -/
def tileCol (tile : List (List (Option Val))) (n : Nat) : List (Option Val) := tile.map (fun r => (r[n]?).join)

/-- R92-R99: the matrix pass: the state with its accumulators written, and the rows of results. -/
def runPass (s : State) (w : Work) (sl : ArraySlot) : State × List (List Nat) :=
  let c := arrayEng s w
  let q := w.site.core
  let ch := chainAt w.g sl.chain
  let ta := workTensor s w sl.act
  let tw := workTensor s w sl.wgt
  let m := passRows w sl
  let kAct := (actExtent w.g ta).2 - kOrigin w sl ta
  let (s, tile, f1) := match (getCore s q).tile with
    | some t => if sl.retain && !isWide sl.shape then (s, t, fNone) else loadTile s c w ch sl kAct
    | none => loadTile s c w ch sl kAct
  let s := if isWide sl.shape then s else modCore s q (fun x => { x with tile := some tile })
  let (s, rows, f2) := loadRows s c w ch sl m (wgtK tw)
  let mx := isMxCode (delivered ch 0 ta) && isMxCode (delivered ch 1 tw)
  let cols := (List.range (shapeN sl.shape)).map (tileCol tile)
  let out := rows.mapIdx (fun r row => cols.mapIdx (fun n col =>
    accSum c sl.shape mx (accStart s c w ch sl r n) (row.zip col)))
  let f := out.foldl (fun f r => f ||| orFlags r) (f1 ||| f2)
  let s := raise s w.site.sec w.ord (arrayEngine s q) f
  let acc := (out.mapIdx (fun r row => (r, row))).foldl (fun acc e =>
    (e.2.mapIdx (fun n y => (n, y.1))).foldl (fun acc y => sset 0 acc (accKey q sl e.1 y.1) (w32 y.2)) acc) s.acc
  ({ s with acc := acc }, out.map (fun r => r.map (·.1)))

/-! ### Reductions of a row (R107) -/

/-- One level of R107: adjacent pairs combined, an unpaired value passed up. -/
def pairUp (op : Nat → Nat → Nat × NumFlags) : List Nat → List Nat × NumFlags
  | a :: b :: r =>
    let (y, f) := op a b
    let (ys, g) := pairUp op r
    (y :: ys, f ||| g)
  | l => (l, fNone)

def treeFold (op : Nat → Nat → Nat × NumFlags) : Nat → List Nat → Nat × NumFlags
  | 0, l => (l.headD 0, fNone)
  | n + 1, l => if l.length ≤ 1 then (l.headD 0, fNone) else
      let (l, f) := pairUp op l
      let (y, g) := treeFold op n l
      (y, f ||| g)

/-- R107: a row reduced in groups of 64, and the groups in ascending order; 0 for an empty row. -/
def groupFold (op : Nat → Nat → Nat × NumFlags) (row : List Nat) : Nat × NumFlags :=
  let gs := (chunks (row.length / 64 + 1) 64 row).map (treeFold op 6)
  match gs with
  | [] => (0, fNone)
  | a :: r => r.foldl (fun acc y => let (z, f) := op acc.1 y.1; (z, acc.2 ||| y.2 ||| f)) a

/-! ### Epilogue -/

def fp32Neg (x : Nat) : Nat := if x ≥ 2 ^ 31 then x - 2 ^ 31 else x + 2 ^ 31
def fp32Abs (x : Nat) : Nat := x % 2 ^ 31
def fp32IsNan (x : Nat) : Bool := valIsNan (decodeFmt .fp32 x)

/-- A chain of binary32 steps with their flags. -/
def thenOp (a : Nat × NumFlags) (op : Nat → Nat × NumFlags) : Nat × NumFlags :=
  let (y, f) := op a.1
  (y, a.2 ||| f)

/-- Table 5.3: GELU. -/
def gelu (c : Eng) (x : Nat) : Nat × NumFlags :=
  match decodeFmt .fp32 x with
  | .nan => (fmtNan .fp32, fNone)
  | v =>
    if fp32Abs x < 0x4F800000 then
      let u := mul32 c x x
      let u := thenOp u (fun u => mul32 c u x)
      let u := thenOp u (mul32 c 0x3D372713)
      let u := thenOp u (add32 c x)
      let u := thenOp u (mul32 c 0x3F4C422A)
      let t := thenOp u (fn32 c .tanh)
      let a := thenOp t (add32 c 0x3F800000)
      let y := thenOp a (mul32 c x)
      thenOp y (mul32 c 0x3F000000)
    else if valNeg v then (0x80000000, fNX) else (x, fNone)

/-- Table 5.3: SILU. -/
def silu (c : Eng) (x : Nat) : Nat × NumFlags :=
  match decodeFmt .fp32 x with
  | .nan => (fmtNan .fp32, fNone)
  | .inf neg => if neg then (0x80000000, fNX) else (x, fNone)
  | v =>
    if valLt v (decodeFmt .fp32 0xC2800000) then (0x80000000, fNX)
    else
      let u := mul32 c x 0x3FB8AA3B
      let e := thenOp u (fun u => fn32 c .exp2 (fp32Neg u))
      let d := thenOp e (add32 c 0x3F800000)
      thenOp d (div32 c x)

/-- Table 5.3: RELU. -/
def relu (x : Nat) : Nat × NumFlags :=
  match decodeFmt .fp32 x with
  | .nan => (fmtNan .fp32, fNone)
  | v => if valLt valZero v then (x, fNone) else (0, fNone)

/-- R165-R167: an entry that acts on one value, at row r and column j of the tile. -/
def epiVal (s : State) (c : Eng) (w : Work) (out : Tensor) (e : ChainEntry) (r j x : Nat) : Nat × NumFlags :=
  match e.code with
  | 0x10 =>
    let (b, f) := rd32 s c w.site (workTensor s w e.tensor) j 0 0 0
    let (y, g) := add32 c x b
    (y, f ||| g)
  | 0x11 => gelu c x
  | 0x12 => silu c x
  | 0x13 => relu x
  | 0x14 =>
    let d : Draw := ⟨(getSteps s w.site.sec).seed.toNat, w.draw, e.p1⟩
    if draw16 d 1 (elemIndex out j r 0 0) < e.p2 % 65536 then (0, fNone) else mul32 c x e.p0
  | 0x15 =>
    let (b, f) := rd32 s c w.site (workTensor s w e.tensor) j r 0 0
    let (y, g) := add32 c x b
    (y, f ||| g)
  | _ => (x, fNone)

/-- R168: the two statistics of a row. -/
def rowStats (c : Eng) (mode : Bool) (k : Nat) (row : List Nat) : Nat × Nat × NumFlags :=
  if mode then
    let (a, f) := groupFold (add32 c) row
    let sq := row.map (fun x => mul32 c x x)
    let (b, g) := groupFold (add32 c) (sq.map (·.1))
    (a, b, f ||| g ||| orFlags sq)
  else
    let (m, f) := groupFold (max32 c) row
    if m == 0xFF800000 then (m, 0, f)
    else
      let es := row.map (fun x =>
        let d := sub32 c x m
        let p := thenOp d (mul32 c k)
        thenOp p (fn32 c .exp2))
      let (l, g) := groupFold (add32 c) (es.map (·.1))
      (m, l, f ||| g ||| orFlags es)

/-- R169: the tile's amax, under R37. -/
def tileAmax (c : Eng) (rows : List (List Nat)) : Nat :=
  rows.foldl (fun m r => r.foldl (fun m x => (max32 c m (if fp32IsNan x then x else fp32Abs x)).1) m) (fmtNan .fp32)

/-- One epilogue entry over the tile; it sets the flags that Table 5.2 gives it. -/
def epiStep (w : Work) (sl : ArraySlot) (a : State × List (List Nat) × NumFlags) (e : ChainEntry) :
    State × List (List Nat) × NumFlags :=
  let (s, rows, f) := a
  let c := arrayEng s w
  let x := w.site
  match e.code with
  | 0x16 =>
    let t := workTensor s w e.tensor
    let st := rows.map (rowStats c ((e.flags / 2) % 2 == 1) e.p0)
    let s := (st.mapIdx (fun r y => (r, y))).foldl (fun s y =>
      wr32 (wr32 s x t y.1 0 0 0 y.2.1) x t y.1 1 0 0 y.2.2.1) s
    (s, rows, f ||| (st.foldl (fun f y => f ||| y.2.2) fNone &&& chainFlags 0x16))
  | 0x17 =>
    let at_ := workTensor s w (e.p0 % 65536)
    let amax := tileAmax c rows
    let (old, g0) := rd32 s c x at_ 0 0 0 0
    let (m, g0) := if (e.flags / 2) % 2 == 1 then (amax, fNone) else (let (y, g) := max32 c old amax; (y, g ||| g0))
    let (k, g1) := rd32 s c x (workTensor s w e.tensor) 0 0 0 0
    let ys := rows.map (fun r => r.map (fun v => mul32 c v k))
    (wr32 s x at_ 0 0 0 0 m, ys.map (fun r => r.map (·.1)),
      f ||| (ys.foldl (fun f r => f ||| orFlags r) (g0 ||| g1) &&& chainFlags 0x17))
  | 0x18 => (s, rows, f)
  | _ =>
    let out := workTensor s w sl.out
    let ys := rows.mapIdx (fun r row => row.mapIdx (fun j v => epiVal s c w out e r j v))
    (s, ys.map (fun r => r.map (·.1)), f ||| (ys.foldl (fun f r => f ||| orFlags r) fNone &&& chainFlags e.code))

/-- R169: the tile narrowed once and stored to OUT, inside its extent. -/
def storeTile (s : State) (w : Work) (sl : ArraySlot) (ch : Chain) (rows : List (List Nat)) : State × NumFlags :=
  let c := arrayEng s w
  let t := workTensor s w sl.out
  let k := tensorCode t
  let d : Draw := ⟨(getSteps s w.site.sec).seed.toNat, w.draw, t.tid⟩
  let rows := rows.take t.dims.2.1
  if codeIsMx k then
    (rows.mapIdx (fun r row => (r, row))).foldl (fun a e =>
      ((chunks (e.2.length / 32 + 1) 32 (e.2.take t.dims.1)).mapIdx (fun b vs => (b, vs))).foldl (fun a y =>
        let ins := y.2.map (readIn c .fp32)
        let (sc, es, f) := quantBlock k (fun i => rmOf ch.rm d (elemIndex t (32 * y.1 + i) e.1 0 0)) (ins.map (·.1))
        (wrMx a.1 w.site t (32 * y.1) e.1 0 0 sc es, a.2 ||| f ||| orFlags ins)) a) (s, fNone)
  else
    let sat := ch.sat && isFp8 t.format
    (rows.mapIdx (fun r row => (r, row))).foldl (fun a e =>
      ((e.2.take t.dims.1).mapIdx (fun j v => (j, v))).foldl (fun a y =>
        let rm := rmOf (ch.rm && isFp8 t.format) d (elemIndex t y.1 e.1 0 0)
        let (code, f) := convertCode c (.fp .fp32) k rm sat false y.2
        (wrCode a.1 w.site t y.1 e.1 0 0 code, a.2 ||| f)) a) (s, fNone)

/-- R148, R170: the column of OUT that a byte offset from BASE lies in, loop advances included: what is left of it within
its row (log entry 24). -/
def outCol (t : Tensor) (o : Int) : Int :=
  let within (o s : Int) (n : Nat) : Int := if 1 < n && 0 < s then o % s else o
  within (within (within o t.strides.2.2 t.dims.2.2.2) t.strides.2.1 t.dims.2.2.1) t.strides.1 t.dims.2.1 / 2

/-- R170: the blocks of 256 consecutive elements that the pass completes: the offset from BASE of the first element of each
whose highest one it writes, ascending. DIM0 is a multiple of 256, so a block lies within a row. -/
def sentBlocks (w : Work) (t : Tensor) (m n : Nat) : List Int :=
  let os := (List.range (min m t.dims.2.1)).flatMap (fun r =>
    (List.range (min n t.dims.1)).filterMap (fun j =>
      let o := elemOffset t w.site.trips j r 0 0
      if outCol t o % 256 == 255 then some (o - 510) else none))
  os.mergeSort (fun a b => decide (a ≤ b))

/-- R170: SEND hands over its blocks. -/
def sendTile (s : State) (w : Work) (sl : ArraySlot) (e : ChainEntry) (m : Nat) : State :=
  let t := workTensor s w sl.out
  let q := w.site.core
  let lossy := if (e.flags / 2) % 2 == 1 then some (e.p2 % 256) else none
  (sentBlocks w t m (shapeN sl.shape)).foldl (fun s o =>
    let vs := (chunks 256 2 (rdSpaceN s w.site.sec q t.space (t.base + o) 512)).map leNat
    let c := arrayEng s w
    let (bs, f) := cbdCompress c lossy vs
    let s := raise s w.site.sec w.ord (arrayEngine s q) f
    if e.p0 % 256 == 1 then collContribute s w.site.sec e.p1 q (cbdExpand ⟨false, c.a1⟩ bs).1
    else modCore s q (fun x => { x with packed := x.packed ++ [(w.no, (e.p0 / 256) % 256, bs)] })) s

/-- The array slot: the pass, and for a FINAL one its epilogue, store and SEND. -/
def arrayWork (s : State) (w : Work) (sl : ArraySlot) : State :=
  let (s, rows) := runPass s w sl
  if !sl.final then s
  else
    let ch := chainAt w.g sl.chain
    let (s, rows, f) := ch.epi.foldl (epiStep w sl) (s, rows, fNone)
    let (s, g) := storeTile s w sl ch rows
    let s := raise s w.site.sec w.ord (arrayEngine s w.site.core) (f ||| g)
    match epiOf ch 0x18 with
    | some e => sendTile s w sl e rows.length
    | none => s

end Sys2Proof.Machine
end

