-- ==== Sys2Proof/Machine/Lane.lean ====
section
/-!
DEFINITION. The lane slot of a bundle (R105-R108): the micro-ops of Table 3.9 over COUNT elements.
-/
namespace Sys2Proof.Machine

/-- The indices of the i-th element of a tensor in row-major order (R32, R136). -/
def laneIndex (t : Tensor) (i : Nat) : Nat × Nat × Nat × Nat :=
  let a := t.dims.1
  let b := t.dims.2.1
  let c := t.dims.2.2.1
  if a * b * c == 0 then (i, 0, 0, 0) else (i % a, i / a % b, i / (a * b) % c, i / (a * b * c))

/-- The i-th element as stored; 0 beyond the extent. -/
def laneCode (s : State) (x : Site) (t : Tensor) (i : Nat) : Nat :=
  let e := laneIndex t i
  if inExtent t e.1 e.2.1 e.2.2.1 e.2.2.2 then rdCode s x t e.1 e.2.1 e.2.2.1 e.2.2.2 else 0

/-- The scale byte of the i-th element of an MX tensor; 2^0 beyond the extent and for the other formats. -/
def laneScale (s : State) (x : Site) (t : Tensor) (i : Nat) : Nat :=
  let e := laneIndex t i
  if codeIsMx (tensorCode t) && inExtent t e.1 e.2.1 e.2.2.1 e.2.2.2 then rdScale s x t e.1 e.2.1 e.2.2.1 e.2.2.2 else 0x7F

/-- An element `code` of format k under scale byte `scale` converted to a plain format (R24-R27), an MX element
dequantised. -/
def laneCast (c : Eng) (k : Code) (scale code : Nat) (dst : Code) (rm : Rm) (sat trunc : Bool) : Nat × NumFlags :=
  if codeIsMx k then
    let v := mxVal k scale code
    match dst with
    | .fp f => roundTo c f rm sat v
    | .int8 => valToInt 8 trunc v
    | .int32 => valToInt 32 trunc v
    | _ => roundTo c .fp32 .rne false v
  else convertCode c k dst rm sat trunc code

/-- The i-th element converted to a format. -/
def laneTo (s : State) (c : Eng) (x : Site) (t : Tensor) (dst : Code) (rm : Rm) (sat trunc : Bool) (i : Nat) : Nat × NumFlags :=
  laneCast c (tensorCode t) (laneScale s x t i) (laneCode s x t i) dst rm sat trunc

/-- The i-th element as a lane reads it. -/
def lane32 (s : State) (c : Eng) (x : Site) (t : Tensor) (i : Nat) : Nat × NumFlags :=
  laneTo s c x t (.fp .fp32) .rne false false i

/-- A code written to the i-th element; nothing beyond the extent. -/
def lanePut (s : State) (x : Site) (t : Tensor) (i v : Nat) : State :=
  let e := laneIndex t i
  if inExtent t e.1 e.2.1 e.2.2.1 e.2.2.2 then wrCode s x t e.1 e.2.1 e.2.2.1 e.2.2.2 v else s

/-- The draws of a lane slot's narrowing: the destination's tensor ID and logical index (R31, R106). -/
def laneRm (s : State) (w : Work) (l : LaneSlot) (t : Tensor) (i : Nat) : Rm :=
  rmOf l.rm ⟨(getSteps s w.site.sec).seed.toNat, w.draw, t.tid⟩ i

/-- R21, R106: binary32 results written to the destination in its format, from element 0 on. -/
def laneStore (s : State) (c : Eng) (w : Work) (l : LaneSlot) (t : Tensor) (vs : List Nat) : State × NumFlags :=
  let k := tensorCode t
  if codeIsMx k then
    ((chunks (vs.length / 32 + 1) 32 vs).mapIdx (fun b ys => (b, ys))).foldl (fun a y =>
      let ins := (y.2 ++ List.replicate (32 - y.2.length) 0).map (readIn c .fp32)
      let (sc, es, f) := quantBlock k (fun i => laneRm s w l t (32 * y.1 + i)) (ins.map (·.1))
      let e := laneIndex t (32 * y.1)
      let s := if inExtent t e.1 e.2.1 e.2.2.1 e.2.2.2 then wrMx a.1 w.site t e.1 e.2.1 e.2.2.1 e.2.2.2 sc es else a.1
      (s, a.2 ||| f ||| orFlags ins)) (s, fNone)
  else if k == .fp .fp32 then ((vs.mapIdx (fun i v => (i, v))).foldl (fun s y => lanePut s w.site t y.1 y.2) s, fNone)
  else
    (vs.mapIdx (fun i v => (i, v))).foldl (fun a y =>
      let (code, f) := convertCode c (.fp .fp32) k (laneRm s w l t y.1) l.sat l.trunc y.2
      (lanePut a.1 w.site t y.1 code, a.2 ||| f)) (s, fNone)

/-- R38: the predicates of CMP. -/
def lanePred (p : Nat) (a b : Val) : Bool :=
  match p with
  | 0 => valEq a b
  | 1 => !valEq a b
  | 2 => valLt a b
  | 3 => valLt a b || valEq a b
  | 4 => valLt b a
  | _ => valLt b a || valEq a b

/-- The i-th element as an integer micro-op reads it: an integer sign-extended to 32 bits (R23), a value of another
format converted to INT32 by R26 (log entry 20). -/
def laneInt (s : State) (c : Eng) (x : Site) (t : Tensor) (i : Nat) : Nat × NumFlags :=
  laneTo s c x t .int32 .rne false false i

/-- R38: the key that orders codes of a plain format by totalOrder, or integers by value. -/
def orderKey (k : Code) (x : Nat) : Int :=
  let w := codeBits k
  let top := 2 ^ (w - 1)
  match k with
  | .int8 => signedLe 1 x
  | .int32 => signedLe 4 x
  | _ => if top ≤ x then -((x - top : Nat) : Int) - 1 else (x : Int)

/-- R38: a comes no later than b in totalOrder; the NaN of an MX block counts as a positive one. -/
def totalLe (a b : Val) : Bool :=
  valIsNan b || (!valIsNan a && (valLt a b || (!valLt b a && (valNeg a || !valNeg b))))

/-- R38: the order of SORT over (scale, code): the stored bits of a plain format, the scaled value of an MX element (log
entry 20). -/
def sortLe (k : Code) (a b : Nat × Nat) : Bool :=
  if codeIsMx k then totalLe (mxVal k a.1 a.2) (mxVal k b.1 b.2) else decide (orderKey k a.2 ≤ orderKey k b.2)

/-- R108: a group of (scale, code) sorted stably, each element with its position in the input group. -/
def sortGroup (k : Code) (xs : List (Nat × Nat)) : List ((Nat × Nat) × Nat) :=
  (xs.mapIdx (fun i x => (x, i))).mergeSort (fun a b => sortLe k a.1 b.1)

/-- Rows of a lane slot's source: COUNT elements cut at DIM0 (R107). -/
def laneRows {α : Type} (t : Tensor) (vs : List α) : List (List α) := chunks (vs.length + 1) (max 1 t.dims.1) vs

/-- Codes written to a tensor from element 0 on. -/
def lanePuts (s : State) (x : Site) (t : Tensor) (ys : List Nat) : State :=
  (ys.mapIdx (fun i y => (i, y))).foldl (fun s e => lanePut s x t e.1 e.2) s

/-- 32-bit integer results written to the destination in its format, a narrowing one under the slot's RM and SAT (R106);
an MX destination is quantised from their binary32 values. -/
def laneInts (s : State) (c : Eng) (w : Work) (l : LaneSlot) (t : Tensor) (ys : List Nat) : State × NumFlags :=
  let conv (k : Code) : List (Nat × NumFlags) := ys.mapIdx (fun i y => convertCode c .int32 k (laneRm s w l t i) l.sat false y)
  if codeIsMx (tensorCode t) then
    let vs := conv (.fp .fp32)
    let (s, f) := laneStore s c w l t (vs.map (·.1))
    (s, f ||| orFlags vs)
  else
    let vs := conv (tensorCode t)
    (lanePuts s w.site t (vs.map (·.1)), orFlags vs)

/-- R108: SORT's destination: the stored bits where its format is the plain one of the source, else each value under the
slot's RM and SAT; blocks of an MX destination get scales of their own by R21 (log entry 20). -/
def laneSorted (s : State) (c : Eng) (w : Work) (l : LaneSlot) (k : Code) (t : Tensor) (ys : List (Nat × Nat)) : State :=
  let d := tensorCode t
  if codeIsMx d then (laneStore s c w l t (ys.map (fun y => (laneCast c k y.1 y.2 (.fp .fp32) .rne false false).1))).1
  else if d == k then lanePuts s w.site t (ys.map (·.2))
  else lanePuts s w.site t (ys.mapIdx (fun i y => (laneCast c k y.1 y.2 d (laneRm s w l t i) l.sat l.trunc).1))

/-- R105-R108: the lane slot's work on its operands. -/
def laneRun (s : State) (c : Eng) (w : Work) (l : LaneSlot) : State × NumFlags :=
  let x := w.site
  let ta := workTensor s w l.srcA
  let tb := workTensor s w l.srcB
  let td := workTensor s w l.dst
  let is := List.range l.count
  let a := fun i => lane32 s c x ta i
  let b := fun i => lane32 s c x tb i
  let d := fun i => lane32 s c x td i
  let store (ys : List (Nat × NumFlags)) : State × NumFlags :=
    let (s, f) := laneStore s c w l td (ys.map (·.1))
    (s, f ||| orFlags ys)
  let two (op : Nat → Nat → Nat × NumFlags) : State × NumFlags :=
    store (is.map (fun i => let (y, f) := op (a i).1 (b i).1; (y, (a i).2 ||| (b i).2 ||| f)))
  let one (op : Nat → Nat × NumFlags) : State × NumFlags := store (is.map (fun i => thenOp (a i) op))
  let ints (op : Nat → Nat → Nat) : State × NumFlags :=
    let as := is.map (laneInt s c x ta)
    let bs := is.map (laneInt s c x tb)
    let (s, f) := laneInts s c w l td ((as.zip bs).map (fun p => op p.1.1 p.2.1 % 2 ^ 32))
    (s, f ||| orFlags as ||| orFlags bs)
  let reduce (op : Nat → Nat → Nat × NumFlags) : State × NumFlags :=
    let ins := is.map a
    let ys := (laneRows ta (ins.map (·.1))).map (groupFold op)
    let (s, f) := store ys
    (s, f ||| orFlags ins)
  match l.op with
  | 0x01 => two (add32 c)
  | 0x02 => two (sub32 c)
  | 0x03 => two (mul32 c)
  | 0x04 => store (is.map (fun i =>
      let (y, f) := fma32 c (a i).1 (b i).1 (d i).1
      (y, (a i).2 ||| (b i).2 ||| (d i).2 ||| f)))
  | 0x05 => two (max32 c)
  | 0x06 => two (min32 c)
  | 0x07 =>
    let (s, f) := laneInts s c w l td (is.map (fun i =>
      b2n (lanePred l.pred (readIn c .fp32 (a i).1).1 (readIn c .fp32 (b i).1).1)))
    (s, f ||| orFlags (is.map a) ||| orFlags (is.map b))
  | 0x08 =>
    let pick (i : Nat) : Tensor := if laneCode s x td i != 0 then ta else tb
    if codeIsMx (tensorCode td) then store (is.map (fun i => lane32 s c x (pick i) i))
    else
      let ys := is.map (fun i => laneTo s c x (pick i) (tensorCode td) (laneRm s w l td i) l.sat l.trunc i)
      (lanePuts s x td (ys.map (·.1)), orFlags ys)
  | 0x09 =>
    if codeIsMx (tensorCode td) then one (fun y => (y, fNone))
    else
      let ys := is.map (fun i => laneTo s c x ta (tensorCode td) (laneRm s w l td i) l.sat l.trunc i)
      (lanePuts s x td (ys.map (·.1)), orFlags ys)
  | 0x0A => one (fn32 c .exp2)
  | 0x0B => one (fn32 c .log2)
  | 0x0C => one (fn32 c .recip)
  | 0x0D => one (fn32 c .rsqrt)
  | 0x0E => one (fn32 c .tanh)
  | 0x0F => two (div32 c)
  | 0x10 => one (fn32 c .sqrt)
  | 0x11 => reduce (add32 c)
  | 0x12 => reduce (max32 c)
  | 0x13 =>
    let ins := is.map (fun i => (laneScale s x ta i, laneCode s x ta i))
    let gs := ((laneRows ta ins).flatMap (fun r => chunks (r.length / 64 + 1) 64 r)).map (sortGroup (tensorCode ta))
    let s := if l.srcB == 0xFFFF then s else lanePuts s x tb (gs.flatMap (fun g => g.map (·.2)))
    (laneSorted s c w l (tensorCode ta) td (gs.flatMap (fun g => g.map (·.1))), fNone)
  | 0x14 => ints (· + ·)
  | 0x15 => ints (· * ·)
  | 0x16 => ints Nat.land
  | 0x17 => ints Nat.lor
  | _ => (s, fNone)

/-- R120: the lane slot, with its flags on the core's lane group. -/
def laneWork (s : State) (w : Work) (l : LaneSlot) : State :=
  let (s, f) := laneRun s (laneEng s w) w l
  raise s w.site.sec w.ord (laneEngine s w.site.core) f

end Sys2Proof.Machine
end

