-- ==== Sys2Proof/Machine/Stage.lean ====
section
/-!
DEFINITION. Stage programs (R109-R124): the start of a micro-batch, bundles, channels, arrangement switches; and streams
(R212-R229).
-/
namespace Sys2Proof.Machine

/-! ### What runs on a core -/

/-- The work of a logical core: its section, the RUN with its job, the image, and the variant of the micro-batch. -/
structure CoreRun where
  sec : Sec
  cmd : Cmd
  job : RunJob
  g : Image
  v : Nat
  deriving DecidableEq, Repr

/-- The RUN whose micro-batch a section's cores work on. -/
def sectionRun (s : State) (t : Sec) : Option CoreRun :=
  match runningRun s t, s.images.get t with
  | some (c, r), some g => if r.mb == 0 then none else some ⟨t, c, r, g, r.variants.getD (r.mb - 1) 0⟩
  | _, _ => none

/-- The RUN that core q works for. One that is to stop works on until the tick (R58, R80). -/
def coreRun (s : State) (q : Nat) : Option CoreRun :=
  (allSecs.filterMap (sectionRun s)).find? (fun x => x.g.clusterMask.getLsbD (q / 8))

/-- R114: the last frame of the micro-batch that runs. -/
def mbLast (x : CoreRun) : Nat := x.job.mbFirst + (variantAt x.g x.v).frames - 1

/-! ### Channels (R111) -/

def getChan (l : List Chan) (c : Nat) : Chan := l.getD c chanReset
def modChan (l : List Chan) (c : Nat) (f : Chan → Chan) : List Chan := l.mapIdx (fun i x => if i == c then f x else x)

def sameCard (x : CoreRun) (d : ChanDef) : Bool := d.logicalId == x.g.logicalId

/-- The channels of a core at the start of a RUN: nothing posted, every buffer of a partner free. -/
def freshIn : List Chan := List.replicate 8 chanReset
def freshOut (g : Image) (v q : Nat) : List Chan :=
  (List.range 8).map (fun c => let d := chanDef g v q true c; ⟨if d.used then d.depth else 0, 0⟩)

/-- The channel numbers of an 8-bit mask. -/
def maskBits (m : Nat) : List Nat := (List.range 8).filter (fun c => (m >>> c) % 2 == 1)

/-! ### The start of a micro-batch (R110, R114, R118, R226) -/

/-- R111: the variant of the micro-batch before. -/
def lastVariant (x : CoreRun) : Nat := if x.job.mb < 2 then x.v else x.job.variants.getD (x.job.mb - 2) x.v

/-- R111: the channels of one direction at the start of a micro-batch: one whose table entry is that of the micro-batch
before keeps its tiles and buffers, another starts afresh (log entry 23). -/
def carryChans (x : CoreRun) (q : Nat) (out : Bool) (old new : List Chan) : List Chan :=
  if old.isEmpty then new
  else new.mapIdx (fun c y =>
    if chanEntry x.g x.v q out c == chanEntry x.g (lastVariant x) q out c then getChan old c else y)

/-- The core restarts its stage program; channels, arrangement and accumulators keep what they hold. -/
def restartCore (s : State) (x : CoreRun) (len q : Nat) : State :=
  let st := stageAt x.g x.v q
  let s := modCore s q (fun k => { k with
    active := st.length != 0
    ended := false
    stopped := false
    pc := st.entry
    limit := st.entry + st.length
    first := st.entry
    len := len
    tail := tailOf st len
    cursor := x.job.mbFirst
    loops := List.replicate 4 loopReset
    flight := []
    inCh := if st.length == 0 then k.inCh else carryChans x q false k.inCh freshIn
    outCh := if st.length == 0 then k.outCh else carryChans x q true k.outCh (freshOut x.g x.v q)
    streams := []
    sent := []
    marks := 0
    issued := 0
    packed := [] })
  if st.length == 0 then s else traceCore s x.sec 0x10 (physCore s q) (w64 q) (w64 (frameOf s))

/-- R72, R110, R118, R226: the first tick of the next micro-batch of a RUN. -/
def execMicroBatchStart (t : Sec) (s : State) : Res :=
  let s := begin s
  .next (match runningRun s t, s.images.get t with
    | some (c, r), some g =>
      let first := r.start + framesIn g (r.variants.take r.mb)
      if decide (r.variants.length ≤ r.mb) || decide (frameOf s < first) || s.time.guard then s
      else
        let v := r.variants.getD r.mb 0
        let len := r.lens.getD r.mb 0
        let s := modRun s t c.ord (fun r => { r with mb := r.mb + 1, mbFirst := first })
        let s := { s with colls := s.colls.set t ((s.colls.get t).filter (fun y => y.ord != c.ord)) }
        let s := traceRec s t 2 0 0 (w64 (v + len * 2 ^ 32)) (w64 first)
        match sectionRun s t with
        | none => s
        | some x => pumpSection ((imageCores g).foldl (fun s q => restartCore s x len q) s) t
    | _, _ => s)

/-! ### Bundles -/

def bundleAt (s : State) (q k : Nat) : BundleWord := sget 0 s.store (4096 * q + k)

def getLoop (k : Core) (l : Nat) : LoopSt := k.loops.getD l loopReset
def modLoop (k : Core) (l : Nat) (f : LoopSt → LoopSt) : Core :=
  { k with loops := k.loops.mapIdx (fun i x => if i == l then f x else x) }

/-- R136: the trip indices of the four levels. -/
def coreTrips (k : Core) : Trips :=
  let t (l : Nat) : Int := if (getLoop k l).opened then (getLoop k l).trip else 0
  (t 0, t 1, t 2, t 3)

/-- R117: the deepest level open. -/
def innermost (k : Core) : Option Nat := [3, 2, 1, 0].find? (fun l => (getLoop k l).opened)

/-- R113: the tail count, on the last trip of the innermost loop. -/
def tailNow (k : Core) : Option Nat :=
  match innermost k with
  | some l => if (getLoop k l).left ≤ 1 then some k.tail else none
  | none => none

/-- R117: the bundle after the loop end that matches a start at level l. -/
def afterLoop (s : State) (q l : Nat) : Nat → Nat → Nat
  | 0, k => k
  | fuel + 1, k =>
    let b := bundleAt s q k
    if loopOp b == 2 && loopLevel b == l then k + 1 else afterLoop s q l fuel (k + 1)

/-- R117: the program counter and the loop counters after a bundle. -/
def loopStep (s : State) (x : CoreRun) (q : Nat) (b : BundleWord) (k : Core) : Core :=
  let l := loopLevel b
  match loopOp b with
  | 1 =>
    let n := boundOf x.g (stageAt x.g x.v q) (loopBound b) k.len
    if n == 0 then { k with pc := afterLoop s q l 4096 (k.pc + 1) }
    else modLoop { k with pc := k.pc + 1 } l (fun _ => ⟨true, n, 0, k.pc + 1⟩)
  | 2 =>
    if 1 < (getLoop k l).left then
      modLoop { k with pc := loopTarget b } l (fun y => { y with left := y.left - 1, trip := y.trip + 1 })
    else modLoop { k with pc := k.pc + 1 } l (fun _ => loopReset)
  | _ => { k with pc := k.pc + 1 }

/-- The stream of core q and number n in the running variant. -/
def streamOf (x : CoreRun) (q n : Nat) : Option Stream := (streamIx x.g x.v q n).map (streamAt x.g)

/-- R217: whether the next chunk in order can be acquired. -/
def canAcquire (x : CoreRun) (y : Stream) (st : StreamSt) (len : Nat) : Bool :=
  decide (st.acquired < chunkCount x.g y len)
    && (if y.out then decide (st.acquired < st.filled + y.buffers) else decide (st.acquired < st.filled))

/-- R217: the waits of a bundle's stream actions, in order; none where one is not met. -/
def acquireAll (x : CoreRun) (q len : Nat) : List (Nat × Nat) → Sparse StreamSt → Option (Sparse StreamSt)
  | [], m => some m
  | (n, a) :: r, m =>
    if a % 2 == 0 then acquireAll x q len r m
    else
      match streamOf x q n with
      | none => none
      | some y =>
        let st := sget streamReset m n
        if canAcquire x y st len then
          acquireAll x q len r (sset streamReset m n { st with acquired := st.acquired + 1 })
        else none

/-! ### Layer drain (R83) -/

/-- The cores of the card that a core exchanges tiles with. -/
def chanPeers (x : CoreRun) (q : Nat) : List Nat :=
  ((List.range 8).flatMap (fun c => [chanDef x.g x.v q false c, chanDef x.g x.v q true c])).filterMap (fun d =>
    if d.used && sameCard x d then some d.partner else none)

def growPipe (x : CoreRun) : Nat → List Nat → List Nat
  | 0, l => l
  | n + 1, l =>
    let l' := (l ++ l.flatMap (chanPeers x)).eraseDups
    if l'.length == l.length then l else growPipe x n l'

/-- The stages of the pipeline on this card that core q belongs to: those joined to it by channels, over however many. -/
def pipeOf (x : CoreRun) (q : Nat) : List Nat := growPipe x (gradeCores x.g.grade) [q]

/-- R83: a stage has come to its m-th layer drain marker. -/
def atMark (s : State) (p m : Nat) : Bool :=
  let k := getCore s p
  !k.active || k.ended || decide (m < k.marks) || (k.marks == m && bMarker (bundleAt s p k.pc) == 1)

/-- R83: every tile of the layer that core p has to do with has been consumed: none stands in its input channels, none is
still to be taken or posted by a bundle in flight, and every buffer at a consumer on another card is free again. -/
def tilesGone (s : State) (x : CoreRun) (p : Nat) : Bool :=
  let k := getCore s p
  k.inCh.all (fun c => c.count == 0) && k.flight.all (fun f => f.consume.isEmpty && f.produce.isEmpty)
    && (List.range 8).all (fun c =>
      let d := chanDef x.g x.v p true c
      !d.used || sameCard x d || (getChan k.outCh c).count == d.depth)

/-- R83: the drain condition at core q: every stage of the pipeline is at the marker and every tile of the layer has been
consumed. -/
def drainMet (s : State) (x : CoreRun) (q : Nat) : Bool :=
  let m := (getCore s q).marks
  (pipeOf x q).all (fun p => atMark s p m && tilesGone s x p)

/-- R83: every stage of the pipeline has passed the markers that core q has passed; its next layer may begin. -/
def layerOpen (s : State) (x : CoreRun) (q : Nat) : Bool :=
  let m := (getCore s q).marks
  m == 0 || (pipeOf x q).all (fun p =>
    let k := getCore s p
    !k.active || k.ended || decide (m ≤ k.marks))

/-! ### Issue (R115) -/

/-- Why a core's next bundle does not issue. -/
inductive Hold where
  | go | idle | past | notYet | token | stream | arrange | drain
  deriving DecidableEq, Repr

/-- R114: the frame that a core's next bundle belongs to. -/
def bundleFrame (s : State) (q : Nat) : Nat := (getCore s q).cursor + bTicks (bundleAt s q (getCore s q).pc)

/-- R115: the conditions of issue, in order. -/
def holdOf (s : State) (x : CoreRun) (q : Nat) : Hold :=
  let k := getCore s q
  let b := bundleAt s q k.pc
  if !k.active || k.ended || k.stopped || decide (k.limit ≤ k.pc) then .idle
  else if mbLast x < bundleFrame s q then .past
  else if s.time.guard || s.time.frame.isNone || decide (frameOf s < bundleFrame s q) then .notYet
  else if (maskBits (waitValid b)).any (fun c => (getChan k.inCh c).count == 0)
      || (maskBits (waitReady b)).any (fun c => (getChan k.outCh c).count == 0) then .token
  else if (acquireAll x q k.len (streamActions b) k.streams).isNone then .stream
  else if hasArray b && isWide (arraySlot b).shape != k.wide then .arrange
  else if !layerOpen s x q || (bMarker b == 1 && !drainMet s x q) then .drain
  else .go

/-- R115, R120: a core's next bundle issues: its streams are acquired, its slots do their work, and its loop slot names
the next bundle. -/
def issueBundle (s : State) (x : CoreRun) (q : Nat) : State :=
  let k := getCore s q
  let b := bundleAt s q k.pc
  let streams := (acquireAll x q k.len (streamActions b) k.streams).getD k.streams
  let s := modCore s q (fun k => { k with streams := streams, cursor := bundleFrame s q })
  let w : Work := ⟨x.cmd.ord, x.g, x.v, ⟨x.sec, q, coreTrips k⟩, tailNow k, x.cmd.draw, k.pc, k.issued⟩
  let s := if hasArray b then arrayWork s w (arraySlot b) else s
  let s := if hasLane b then laneWork s w (laneSlot b) else s
  let f : Flight := ⟨k.issued, k.pc, maskBits (consumeBits b), maskBits (produceBits b),
    (streamActions b).filterMap (fun sa => if 2 ≤ sa.2 then some sa.1 else none)⟩
  let s := modCore s q (fun k => loopStep s x q b { k with
    flight := k.flight ++ [f]
    issued := k.issued + 1
    marks := if bMarker b == 1 then k.marks + 1 else k.marks
    ended := bMarker b == 2 })
  match bMarker b with
  | 1 => traceCore s x.sec 0x11 (physCore s q) (w64 q) (w64 (frameOf s))
  | 2 => traceCore s x.sec 0x12 (physCore s q) (w64 q) (w64 (frameOf s))
  | _ => s

/-- R114, R115: a core issues its next bundle, or waits; one that would pass the last frame stops the stage. -/
def execBundleIssue (q : Fin 128) (s : State) : Res :=
  let s := begin s
  .next (match coreRun s q.val with
    | none => s
    | some x =>
      match holdOf s x q.val with
      | .go => issueBundle s x q.val
      | .past => modCore s q.val (fun k => { k with stopped := true })
      | _ => s)

/-! ### Tokens (R111) -/

/-- A TOKEN flit to the partner on another card: of a posted tile, or of a freed buffer. -/
def tokenOut (s : State) (x : CoreRun) (q c : Nat) (d : ChanDef) (posts : Bool) : State :=
  let e := if posts then 8 + c else c
  let l := Config.tokenFlit q e 0 % 36
  pushFlit s l x.sec.val ⟨2, BitVec.ofNat 16 d.logicalId, BitVec.ofNat 16 x.g.logicalId,
    BitVec.ofNat 16 (Config.tokenFlit q e 1), frameOf s, 240, BitVec.ofNat 1920 (Config.tokenFlit q e (if posts then 2 else 3))⟩

/-- R267: a tile to another card, as DATA flits. -/
def tileOut (s : State) (x : CoreRun) (q c : Nat) (d : ChanDef) (bs : List Nat) : State :=
  let l := Config.tokenFlit q (8 + c) 0 % 36
  (chunks (bs.length / 240 + 1) 240 bs).foldl (fun s p => pushFlit s l x.sec.val
    ⟨1, BitVec.ofNat 16 d.logicalId, BitVec.ofNat 16 x.g.logicalId, BitVec.ofNat 16 (Config.tokenFlit q (8 + c) 1),
      frameOf s, p.length, BitVec.ofNat 1920 (leNat p)⟩) s

/-- R170, R316: a packed tile: its index table, padded to 64 bytes, and its blocks. -/
def packTile (blocks : List (List Nat)) : List Nat :=
  let offs := (blocks.foldl (fun (a : List Nat × Nat) b => (a.1 ++ [a.2], a.2 + b.length)) ([], 0)).1
  let table := offs.flatMap (leBytes 8)
  table ++ List.replicate ((64 - table.length % 64) % 64) 0 ++ blocks.flatten

/-- R170: the blocks of the tile that bundle `no` posts: those that it and the bundles since the last one that produces
for the channel have handed over. -/
def tileBlocks (k : Core) (no c : Nat) : List (Nat × Nat × List Nat) :=
  let before := (k.flight.filter (fun f => decide (f.no < no) && f.produce.contains c)).map (·.no + 1)
  k.packed.filter (fun p => p.2.1 == c && decide (before.foldl max 0 ≤ p.1 ∧ p.1 ≤ no))

/-- The bytes of the tile that a bundle posts: what SEND packed for the channel, or the core's own output buffer. -/
def tileBytes (s : State) (x : CoreRun) (q no c : Nat) (d : ChanDef) : List Nat :=
  let k := getCore s q
  let blocks := (tileBlocks k no c).map (·.2.2)
  if blocks.isEmpty then rdSpaceN s x.sec q 0 ((d.base + (getChan k.outCh c).head % max 1 d.depth * d.bytes : Nat) : Int) d.bytes
  else packTile blocks

/-- R111: bundle `no` posts a tile on output channel c. -/
def postTile (s : State) (x : CoreRun) (q no c : Nat) : State :=
  let d := chanDef x.g x.v q true c
  let bs := tileBytes s x q no c d
  let taken := tileBlocks (getCore s q) no c
  let s := modCore s q (fun k => { k with
    outCh := modChan k.outCh c (fun y => { count := y.count - 1, head := y.head + 1 })
    packed := k.packed.filter (fun p => !taken.contains p) })
  if sameCard x d then
    let e := chanDef x.g x.v d.partner false d.far
    let y := getChan (getCore s d.partner).inCh d.far
    let a := e.base + (y.head + y.count) % max 1 e.depth * e.bytes
    let s := wrSpace s x.sec d.partner 0 (a : Int) bs
    modCore s d.partner (fun k => { k with inCh := modChan k.inCh d.far (fun y => { y with count := y.count + 1 }) })
  else tokenOut (tileOut s x q c d bs) x q c d true

/-- R111: the oldest tile of input channel c is consumed: its buffer is free again at the producer. -/
def consumeTile (s : State) (x : CoreRun) (q c : Nat) : State :=
  let d := chanDef x.g x.v q false c
  let s := modCore s q (fun k => { k with
    inCh := modChan k.inCh c (fun y => { count := y.count - 1, head := y.head + 1 }) })
  if sameCard x d then
    modCore s d.partner (fun k => { k with outCh := modChan k.outCh d.far (fun y => { y with count := y.count + 1 }) })
  else tokenOut s x q c d false

/-- R217: a release frees the oldest held chunk; one while no chunk is held has no effect. -/
def releaseChunk (s : State) (q n : Nat) : State :=
  modStream s q n (fun y => if y.released < y.acquired then { y with released := y.released + 1 } else y)

/-- R226: the end of a stage: held and unacquired IN chunks are freed; held OUT chunks are not written. -/
def endStreams (s : State) (x : CoreRun) (q : Nat) : State :=
  (List.range 32).foldl (fun s n =>
    match streamOf x q n with
    | none => s
    | some y => modStream s q n (fun z =>
        if y.out then { z with acquired := z.released } else { z with acquired := z.filled, released := z.filled })) s

/-- R115: a bundle in flight can retire: nothing is posted to a full consumer, and nothing unposted is consumed. -/
def canRetire (k : Core) (f : Flight) : Bool :=
  f.consume.all (fun c => (getChan k.inCh c).count != 0) && f.produce.all (fun c => (getChan k.outCh c).count != 0)

/-- R115: the k-th bundle in flight retires. -/
def execBundleRetire (q : Fin 128) (k : Nat) (s : State) : Res :=
  let s := begin s
  .next (match coreRun s q.val, (getCore s q.val).flight[k]? with
    | some x, some f =>
      if s.time.guard || !canRetire (getCore s q.val) f then s
      else
        let s := modCore s q.val (fun c => { c with flight := c.flight.eraseIdx k })
        let s := f.consume.foldl (fun s c => consumeTile s x q.val c) s
        let s := f.produce.foldl (fun s c => postTile s x q.val f.no c) s
        let s := f.release.foldl (fun s n => releaseChunk s q.val n) s
        if bMarker (bundleAt s q.val f.pc) == 2 then endStreams s x q.val else s
    | _, _ => s)

/-- R101: a bundle in flight whose pass has not written its last row: it holds nothing but its pass, waits for no channel,
and has not retired. -/
def passRuns (s : State) (q : Nat) (f : Flight) : Bool :=
  let b := bundleAt s q f.pc
  hasArray b && !hasLane b && canRetire (getCore s q) f

/-- R101: the core switches its arrays, once every pass in the pipeline has written its last row; the weight registers hold
nothing valid. -/
def execArrangementSwitch (q : Fin 128) (s : State) : Res :=
  let s := begin s
  .next (match coreRun s q.val with
    | none => s
    | some x =>
      if holdOf s x q.val == .arrange && !(getCore s q.val).flight.any (passRuns s q.val) then
        modCore s q.val (fun k => { k with wide := !k.wide, tile := none })
      else s)

/-! ### Streams (R215-R229) -/

/-- The members that a stream delivers to. -/
def streamMembers (y : Stream) : List Nat :=
  if y.mcast then (List.range 128).filter (fun q => (y.members >>> q) % 2 == 1) else [y.core]

/-- R219: the streams gated on a staging stream. -/
def gatedOn (x : CoreRun) (y : Stream) : List Stream :=
  ((List.range (streamCount x.g)).map (streamAt x.g)).filter (fun z =>
    z.variant == x.v && z.core == y.core && z.gate == y.number)

/-- Chunks of a stream whose buffers are free again: released by every member, or, for a staging stream, drawn whole by
every stream gated on it. -/
def freedChunks (s : State) (x : CoreRun) (y : Stream) : Nat :=
  if isStaging x.g y then
    ((gatedOn x y).map (fun z => (getStream s z.core z.number).filled / max 1 z.perGate)).foldl min
      (getStream s y.core y.number).filled
  else ((streamMembers y).map (fun q => (getStream s q y.number).released)).foldl min (getStream s y.core y.number).released

/-- R215, R219: the offsets of chunk k on the memory side (within the gate's buffer for a gated stream) and in the ring. -/
def chunkOffsets (x : CoreRun) (y : Stream) (k : Nat) : Int × Int :=
  match gateOf x.g y with
  | some z => (bufOffset z (k / max 1 y.perGate) + ((k % max 1 y.perGate : Nat) : Int) * y.adv0, bufOffset y k)
  | none => (memOffset y k, bufOffset y k)

/-- R215: the source and the destination of chunk k. -/
def chunkEnds (x : CoreRun) (y : Stream) (k : Nat) : Tensor × Tensor :=
  let (mo, bo) := chunkOffsets x y k
  (shiftTensor (tensorAt x.g y.src) (if y.out then bo else mo), shiftTensor (tensorAt x.g y.dst) (if y.out then mo else bo))

/-- R216: the bytes that a chunk copies, as (source address, destination address, bytes). -/
def chunkRows (a b : Tensor) : List (Int × Int × Nat) :=
  let outer := (List.range a.dims.2.2.1).flatMap (fun i2 => (List.range a.dims.2.2.2).map (fun i3 => (i2, i3)))
  if a.pi4 then
    outer.flatMap (fun o => (List.range ((a.dims.1 + 255) / 256)).map (fun p =>
      (a.base + elemOffset a noTrips (256 * p) 0 o.1 o.2, b.base + elemOffset b noTrips (256 * p) 0 o.1 o.2, rowLen a)))
  else
    let rows := outer.flatMap (fun o => (List.range a.dims.2.1).map (fun i1 =>
      (elemOffset a noTrips 0 i1 o.1 o.2, elemOffset b noTrips 0 i1 o.1 o.2)))
    let n := (rowBytes a + 63) / 64 * 64
    let elems := rows.map (fun r => (a.base + r.1, b.base + r.2, n))
    let bb : Int := mxBlockBytes (tensorCode a)
    elems ++ (if isMxCode a.format then
      rows.map (fun r => (a.scaleBase + r.1 / bb, b.scaleBase + r.2 / bb, a.dims.1 / 32)) else [])

/-- R216: the index entries of a packed chunk, reduced by its first, and the extent of its packed bytes, which R316 bounds
by 520 bytes a block. -/
def packedChunk (s : State) (t : Sec) (q : Nat) (a : Tensor) : List Nat × Nat × Nat :=
  let nb := tensorElems a / 256
  let entry (b : Nat) : Nat := leNat (rdSpaceN s t q a.space (a.indexBase + 8 * (b : Int)) 8)
  let e0 := entry 0
  let last := entry (nb - 1)
  let len := cbdLen (leNat (rdSpaceN s t q a.space (a.base + (last : Nat)) 4))
  ((List.range nb).map (fun b => (entry b + 2 ^ 64 - e0) % 2 ^ 64), e0, min (last + len - e0) (520 * nb))

/-- R216: what chunk k reads of its source: addresses and bytes. -/
def chunkReads (s : State) (x : CoreRun) (y : Stream) (k : Nat) : List (Int × Nat) :=
  let (a, b) := chunkEnds x y k
  if a.cbd then
    let (ix, e0, n) := packedChunk s x.sec y.core a
    [(a.indexBase, 8 * ix.length), (a.base + (e0 : Nat), n)]
  else (chunkRows a b).map (fun r => (r.1, r.2.2))

/-- R216: what chunk k writes to its destination: addresses and the bytes read for them, each source byte once (R225). -/
def chunkWrites (s : State) (x : CoreRun) (y : Stream) (k : Nat) : List (Int × List Nat) :=
  let (a, b) := chunkEnds x y k
  if a.cbd then
    let (ix, e0, n) := packedChunk s x.sec y.core a
    [(b.indexBase, ix.flatMap (leBytes 8)), (b.base, rdSpaceN s x.sec y.core a.space (a.base + (e0 : Nat)) n)]
  else (chunkRows a b).map (fun r => (r.2.1, rdSpaceN s x.sec y.core a.space r.1 r.2.2))

/-! ### Memory paths (R67, R181, R182, R227) -/

/-- Table 2.3, R181, R182: the memory path of a device address: a canopy stack, or a bridge. -/
def memPath (s : State) (a : Nat) : Nat := (if a < canopyEnd then 36 else 44) + (spotOf s a).unit

/-- The granules of device memory of a list of ranges, in their order. -/
def granulesOf (rs : List (Int × Nat)) : List Nat :=
  rs.flatMap (fun r => if r.1 < 0 || r.2 == 0 then []
    else (List.range ((r.1.toNat % 256 + r.2 + 255) / 256)).map (fun i => r.1.toNat / 256 + i))

/-- R221: the granules of device memory that chunk k of a stream reads, or writes. -/
def chunkGranules (s : State) (x : CoreRun) (y : Stream) (k : Nat) : List Nat :=
  let (a, b) := chunkEnds x y k
  (if (if y.out then b else a).space != 3 then []
   else granulesOf (if y.out then (chunkWrites s x y k).map (fun w => (w.1, w.2.length)) else chunkReads s x y k)).eraseDups

/-- R67, R227: the memory paths that the transfer of chunk k uses. -/
def chunkPaths (s : State) (x : CoreRun) (y : Stream) (k : Nat) : List Nat :=
  ((chunkGranules s x y k).map (fun g => memPath s (place s (256 * g)))).eraseDups

/-! ### Requests (R220-R223) -/

/-- R220: the cycle of a chunk's deadline, from the micro-batch's first tick. -/
def deadline (y : Stream) (k : Nat) : Nat := y.firstNeed + k * y.period

/-- R220: the deadline of a fabric engine's write of data received in frame f of the micro-batch. -/
def fabricDeadline (s : State) (f : Nat) : Nat := (f + 1) * (s.time.period.toNat * 1500) - 300

/-- R222: a request that waits at an arbitration point. -/
structure Req where
  cls : Nat
  deadline : Nat
  core : Nat
  stream : Nat
  addr : Nat
  deriving DecidableEq, Repr

/-- R222: the key of a request but its class, field by field. -/
def Req.before (a b : Req) : Bool :=
  decide (a.deadline < b.deadline) || (a.deadline == b.deadline &&
    (decide (a.core < b.core) || (a.core == b.core &&
      (decide (a.stream < b.stream) || (a.stream == b.stream && decide (a.addr < b.addr))))))

/-- R222: request r may be served next of those that wait: in class 0, which is served in the order of arrival, any of the
class (log entry 27); else the one with the lowest key of the lowest class. -/
def mayPick (waiting : List Req) (r : Req) : Bool :=
  waiting.all (fun z => decide (r.cls ≤ z.cls)) && (r.cls == 0 || waiting.all (fun z => z.cls != r.cls || !z.before r))

/-- R221: an engine may request the next chunk of a stream: its buffer is free, its gate chunk is filled and the chunk count
allows it; R67: its section has a slot for stream traffic on every memory path that the chunk uses. -/
def canRequest (s : State) (x : CoreRun) (y : Stream) : Bool :=
  let st := getStream s y.core y.number
  let k := st.requested
  decide (k < chunkCount x.g y (getCore s y.core).len)
    && (if y.out then decide (k < st.released) else decide (k < freedChunks s x y + y.buffers))
    && (match gateOf x.g y with
        | some z => decide (k / max 1 y.perGate < (getStream s z.core z.number).filled)
        | none => true)
    && (chunkPaths s x y k).all (streamSlot s x.sec)

/-- R220, R223: the request of a stream's next chunk: an LC stream's is of class 0. -/
def chunkReq (s : State) (y : Stream) : Req :=
  let k := (getStream s y.core y.number).requested
  ⟨if y.lc then 0 else 1, deadline y k, y.core, y.number, k⟩

/-- R222: the requests that wait at the stream engine of core q. -/
def engineReqs (s : State) (x : CoreRun) (q : Nat) : List Req :=
  (((List.range (streamCount x.g)).map (streamAt x.g)).filter (fun y =>
    y.variant == x.v && y.core == q && canRequest s x y)).map (chunkReq s)

/-- R221, R222: a stream engine requests the next chunk of a stream, when that request goes first of those that wait. -/
def execChunkRequest (q : Fin 128) (n : Fin 256) (s : State) : Res :=
  let s := begin s
  .next (match coreRun s q.val with
    | none => s
    | some x =>
      match streamOf x q.val n.val with
      | some y =>
        if y.core == q.val && !s.time.guard && s.time.frame.isSome && canRequest s x y
            && mayPick (engineReqs s x q.val) (chunkReq s y) then
          modStream s q.val n.val (fun z => { z with requested := z.requested + 1 })
        else s
      | none => s)

/-! ### Transfers -/

/-- R193, R194: what a stream's reads of device memory find: poison raises NV on the array group of the stream's core and
is recorded in ERR_MEM; corrected granules are counted. -/
def streamPoison (s : State) (x : CoreRun) (y : Stream) (space : Nat) (rs : List (Int × Nat)) : State :=
  if space != 3 then s
  else rs.foldl (fun s r =>
    let u := noteRead s x.sec 0 r.1.toNat r.2
    if anyPoison s r.1.toNat r.2 then raise u x.sec x.cmd.ord (arrayEngine s y.core) fNV else u) s

/-- R215, R216, R225: chunk k is copied: its source is read once, and written in every member. -/
def copyChunk (s : State) (x : CoreRun) (y : Stream) (k : Nat) : State :=
  let ws := chunkWrites s x y k
  let dst := (tensorAt x.g y.dst).space
  let s := streamPoison s x y (tensorAt x.g y.src).space (chunkReads s x y k)
  (if y.out then [y.core] else streamMembers y).foldl (fun s q =>
    ws.foldl (fun s w =>
      wrSpace (if dst == 3 then notePartWrite s w.1.toNat w.2.length else s) x.sec q dst w.1 w.2) s) s

/-- R217, R225: the oldest requested chunk has arrived in every member, or has been written. -/
def execChunkFilled (q : Fin 128) (n : Fin 256) (s : State) : Res :=
  let s := begin s
  .next (match coreRun s q.val with
    | none => s
    | some x =>
      match streamOf x q.val n.val with
      | some y =>
        let st := getStream s q.val n.val
        if y.core == q.val && !s.time.guard && decide (st.filled < st.requested) then
          (streamMembers y).foldl (fun s p => modStream s p n.val (fun z => { z with filled := z.filled + 1 }))
            (copyChunk s x y st.filled)
        else s
      | none => s)

/-! ### A stop (R80, R122, R173, R229) -/

/-- The writes of a chunk cut at the granules of the destination, in ascending order. -/
def granuleWrites (ws : List (Int × List Nat)) : List (Int × List Nat) :=
  (ws.flatMap (fun w =>
    let k := (w.1 % 256).toNat
    let first := w.2.take (256 - k)
    let rest := w.2.drop (256 - k)
    ((w.1, first) :: (chunks (rest.length / 256 + 1) 256 rest).mapIdx (fun i p =>
      (w.1 + ((256 - k + 256 * i : Nat) : Int), p))).filter (fun p => !p.2.isEmpty))).mergeSort
    (fun a b => decide (a.1 ≤ b.1))

/-- R221, R229: the granule writes of a chunk that a stop finds under way: each is complete or not made, as a free value
says, in ascending order and with at most `left` outstanding. -/
def spillWrites (x : CoreRun) (q dst stop : Nat) : Nat → Nat → List (Int × List Nat) → State → State
  | _, _, [], s => s
  | i, left, w :: ws, s =>
    if left == 0 then s
    else if Config.writtenAtStop stop i then spillWrites x q dst stop (i + 1) left ws (wrSpace s x.sec q dst w.1 w.2)
    else spillWrites x q dst stop (i + 1) (left - 1) ws s

/-- R80, R229: when a RUN stops, each granule write of the OUT chunks under way is complete or not made. -/
def partialSpill (s : State) (x : CoreRun) (y : Stream) : State :=
  let st := getStream s y.core y.number
  if !y.out then s
  else ((List.range st.requested).drop st.filled).foldl (fun s k =>
    spillWrites x y.core (tensorAt x.g y.dst).space s.fresh 0 384 (granuleWrites (chunkWrites s x y k))
      { s with fresh := s.fresh + 1 }) s

def partialSpills (s : State) (t : Sec) : State :=
  match sectionRun s t with
  | none => s
  | some x => ((List.range (streamCount x.g)).map (streamAt x.g)).foldl (fun s y =>
      if y.variant == x.v then partialSpill s x y else s) s

/-- R173: the blocks that SEND has handed to a channel of another card are not recalled: they go out, without a token. -/
def handedBlocks (s : State) (x : CoreRun) (q : Nat) : State :=
  (List.range 8).foldl (fun s c =>
    let d := chanDef x.g x.v q true c
    let blocks := ((getCore s q).packed.filter (fun p => p.2.1 == c)).map (·.2.2)
    if blocks.isEmpty || sameCard x d then s else tileOut s x q c d (packTile blocks)) s

/-- Bytes of a space that a stop discards: what they read as from then on is free. -/
def discardBytes (s : State) (t : Sec) (q space stop : Nat) (a : Int) (n : Nat) : State :=
  wrSpace s t q space a ((List.range n).map (fun i => (Config.discarded stop ((a.toNat + i) * 512 + space * 128 + q)).toNat))

/-- R80, R122: the buffers of a core's input channels are discarded. -/
def discardChans (s : State) (x : CoreRun) (q stop : Nat) : State :=
  (List.range 8).foldl (fun s c =>
    let d := chanDef x.g x.v q false c
    if d.used then discardBytes s x.sec q 0 stop d.base (min (d.depth * d.bytes) slateBytes) else s) s

/-- R80, R229: what a stream has put into its ring, or into the commons, is discarded; outputs in a slate stay (R173). -/
def discardStream (s : State) (x : CoreRun) (y : Stream) (stop : Nat) : State :=
  let st := getStream s y.core y.number
  let b := tensorAt x.g y.dst
  if b.space == 3 then s
  else (List.range (if y.out then st.requested else min st.requested y.buffers)).foldl (fun s k =>
    let (a, b) := chunkEnds x y k
    let rs := if b.cbd then [(b.indexBase, tensorElems b / 256 * 8), (b.base, tensorElems b / 256 * 520)]
      else (chunkRows a b).map (fun r => (r.2.1, r.2.2))
    (if y.out then [y.core] else streamMembers y).foldl (fun s q =>
      rs.foldl (fun s r => discardBytes s x.sec q b.space stop r.1 r.2) s) s) s

/-- R80, R122, R173: a RUN that stops discards its partial results in slates and commons (log entry 29). -/
def discardRun (s : State) (t : Sec) : State :=
  match sectionRun s t with
  | none => s
  | some x =>
    let stop := s.fresh
    let s := { s with fresh := s.fresh + 1 }
    let s := (coresOf x.g.clusterMask).foldl (fun s q => discardChans (handedBlocks s x q) x q stop) s
    ((List.range (streamCount x.g)).map (streamAt x.g)).foldl (fun s y =>
      if y.variant == x.v then discardStream s x y stop else s) s

/-! ### Guard-band checks of a RUN (R79) -/

/-- R79, R83, R114, R118: the cause that a core finds at the guard band of the present frame: BUNDLE (1) or TOKEN_WAIT (6). -/
def coreOverrun (s : State) (x : CoreRun) (q : Nat) : Option Nat :=
  let k := getCore s q
  if !k.active then none
  else if !k.flight.isEmpty then some 1
  else if k.ended then none
  else if k.stopped then (if mbLast x ≤ frameOf s then some 1 else none)
  else if mbLast x ≤ frameOf s then some 1
  else if frameOf s < bundleFrame s q then none
  else
    match holdOf { s with time := { s.time with guard := false } } x q with
    | .token => some (if isA1 s then 1 else 6)
    | .drain => some (if isA1 s then 1 else 6)
    | _ => some 1

/-- R227: a chunk of the stream whose deadline falls in the present frame, or before, is not complete. -/
def streamLate (s : State) (x : CoreRun) (y : Stream) : Bool :=
  let k := (getStream s y.core y.number).filled
  y.variant == x.v && decide (k < chunkCount x.g y (getCore s y.core).len)
    && decide (deadline y k < (frameOf s + 1 - x.job.mbFirst) * (s.time.period.toNat * 1500))

/-- R81, R227: the memory path of an unfinished transfer: the lowest that the chunk uses, or 0xFF (log entry 27). -/
def streamPath (s : State) (x : CoreRun) (y : Stream) : Nat :=
  (chunkPaths s x y (getStream s y.core y.number).filled).foldl min 0xFF

/-! ### Uncorrectable SRAM words (R417) -/

/-- R417: a line reads 0xFF bytes from here on. -/
def lineFf (m : Memory) (a : Nat) : Memory := wrBytes m a (List.replicate 64 255)

/-- R417: NV on the engine that reads the word, attributed to the RUN of its section, and class 0x05 in the log. -/
def sramNv (s : State) (t : Sec) (n kind ix : Nat) : State :=
  let s := match runningRun s t with | some (c, _) => raise s t c.ord n fNV | none => s
  logClass s 5 t.val kind ix 0

def coreSec (s : State) (q : Nat) : Option Sec := allSecs.find? (fun t => (getSect s t).clusters.getLsbD (q / 8))

end Sys2Proof.Machine
end

