-- ==== Sys2Proof/Machine/Link.lean ====
section
/-!
DEFINITION. Helzu links (R263-R291): states and training, link units, sequence spaces, replay, sending and receiving flits;
headers, cables and their wear; the delivery of DATA, TOKEN, COLL, TIME, MGMT, DRAIN and DEPART flits.
-/
namespace Sys2Proof.Machine

/-! ### Link states (Table 9.8) -/

def lsOff : BitVec 4 := 0
def lsDetect : BitVec 4 := 1
def lsPhy : BitVec 4 := 2
def lsCaps : BitVec 4 := 3
def lsDelay : BitVec 4 := 4
def lsActive : BitVec 4 := 5
def lsRetrain : BitVec 4 := 6
def lsDisabled : BitVec 4 := 7

def linkState (s : State) (l : Nat) : BitVec 4 := (getLink s l).st

/-- R288: a link enters a state. -/
def goLink (s : State) (l : Nat) (st : BitVec 4) : State :=
  modLink s l (fun x => if x.st == st then x else { x with st := st, chg := true, timeSrc := false })

/-- R288: CAUSE; on stepping A1 it reads 0 (R291). -/
def setCause (s : State) (l : Nat) (cause : BitVec 4) : State :=
  modLink s l (fun x => { x with cause := if isA1 s then 0 else cause })

/-- R276: every replay buffer and every queued flit of the link is discarded and every space restarts; the sections that
had scheduled flits there are marked. -/
def clearLink (s : State) (l : Nat) : State :=
  modLink s l (fun x => { x with
    spaces := List.replicate 5 spaceReset
    departTx := false, departRx := false, departWait := false, timeOk := false
    cut := (List.range 4).foldl (fun (m : BitVec 4) t =>
      let y := x.spaces.getD t spaceReset
      if y.out.isEmpty && y.queue.isEmpty then m else m ||| BitVec.ofNat 4 (2 ^ t)) x.cut })

/-- A link leaves what it did for a state, with the cause. -/
def leaveLink (s : State) (l : Nat) (st cause : BitVec 4) : State := setCause (goLink (clearLink s l) l st) l cause

def linkEnabled (s : State) (l : Nat) : Bool := s.lctlEnable.getLsbD l

/-- R279: a link starts DETECT. -/
def startDetect (s : State) (l : Nat) : State := goLink (clearLink s l) l lsDetect

def linksOf (h : Nat) : List Nat := [4 * h, 4 * h + 1, 4 * h + 2, 4 * h + 3]
def headerOf (l : Nat) : Nat := l / 4
def getHeader (s : State) (h : Nat) : Header := sget headerReset s.headers h
def modHeader (s : State) (h : Nat) (f : Header → Header) : State :=
  { s with headers := sset headerReset s.headers h (f (getHeader s h)) }
def getWear (s : State) (serial : W64) : Wear := sget wearReset s.wear serial.toNat
def modWear (s : State) (serial : W64) (f : Wear → Wear) : State :=
  { s with wear := sset wearReset s.wear serial.toNat (f (getWear s serial)) }

/-- R488, R493: the domain of a header is on. -/
def headerOnBit (s : State) (h : Nat) : Bool := s.power.on.getLsbD (28 + h)

/-- R279, R424: the card is in service, so that a DISABLED link may start. -/
def mayLeaveDisabled (s : State) : Bool := s.ward.card == .service

/-- R285, R493: a header's domain is switched off. -/
def headerOff (s : State) (h : Nat) (cause : BitVec 4) : State :=
  let s := modPower s (fun w => { w with
    on := w.on &&& ~~~ (BitVec.ofNat 37 (2 ^ (28 + h))), hdr := w.hdr &&& ~~~ (BitVec.ofNat 9 (2 ^ h)) })
  let s := modHeader s h (fun y => { y with highPower := false })
  (linksOf h).foldl (fun s l => leaveLink s l lsOff cause) s

/-- R493: a header's domain is switched on. -/
def headerOn (s : State) (h : Nat) : State :=
  let s := modPower s (fun w => { w with
    on := w.on ||| BitVec.ofNat 37 (2 ^ (28 + h)), hdr := w.hdr ||| BitVec.ofNat 9 (2 ^ h) })
  (linksOf h).foldl startDetect s

/-! ### Counters and retraining (R276, R288) -/

/-- R288: counter k of a link counts n events. -/
def addLcntN (s : State) (l k n : Nat) : State :=
  modLink s l (fun x => { x with lcnt := sset 0 x.lcnt k (BitVec.ofNat 32 (min (2 ^ 32 - 1) ((sget 0 x.lcnt k).toNat + n))) })

def addLcnt (s : State) (l k : Nat) : State := addLcntN s l k 1

/-- The wear record of the assembly that carries a link. -/
def modLinkWear (s : State) (l : Nat) (f : Wear → Wear) : State :=
  match (getHeader s (headerOf l)).cable with
  | some c => modWear s c.serial f
  | none => s

/-- R286, R288, R415: RS codewords that a port has corrected and found uncorrectable. -/
def noteFec (s : State) (l fixed lost : Nat) : State :=
  let s := if fixed == 0 then s else logClass (addLcntN s l 0 fixed) 1 0xF 2 l 0
  if lost == 0 then s
  else modLinkWear (addLcntN s l 1 lost) l (fun w => { w with uncorrectable := w.uncorrectable + lost })

def retrain (s : State) (l : Nat) (cause : BitVec 4) : State :=
  if linkState s l != lsActive then s
  else
    let s := leaveLink s l lsRetrain cause
    let s := modLink s l (fun x => { x with retrains := if x.retrains < 255 then x.retrains + 1 else 255 })
    modLinkWear s l (fun w => { w with retrains := w.retrains + 1 })

/-- R276: FEC or alignment lock is lost, or too many codewords (`lost`) are uncorrectable. -/
def execFecLockLoss (e : FecLoss) (s : State) : Res :=
  let s := begin s
  .next (if linkState s e.link.val == lsActive then retrain (noteFec s e.link.val 0 e.lost) e.link.val 8 else s)

/-! ### Training (R279-R281) -/

/-- Table 9.9: the card's capability block. -/
def capsPayload (s : State) (l : Nat) : Nat :=
  leNat (leBytes 2 2 ++ [1, 5] ++ leBytes 2 1024 ++ leBytes 2 l ++ leBytes 4 s.lctlPhys.toNat ++ leBytes 2 0 ++ [0x0F, 0]
    ++ leBytes 4 s.time.period.toNat ++ leBytes 8 s.time.epoch.toNat)

def capsBody (s : State) (l : Nat) : Body := ⟨0xC, Config.flitHead 48, Config.flitHead 49, 1, frameOf s, 28, BitVec.ofNat 1920 (capsPayload s l)⟩

/-- R279, R280: PHY or RETRAIN is over: the capability exchange begins. -/
def execPhyTraining (l : Link) (s : State) : Res :=
  let s := begin s
  .next (if linkState s l.val == lsPhy || linkState s l.val == lsRetrain then
      let s := modLink (goLink (clearLink s l.val) l.val lsCaps) l.val (fun x => { x with phyFails := 0, capsOk := false })
      pushFlit s l.val 4 (capsBody s l.val)
    else s)

/-- R281: the spread and the mean of samples in 1/16 ns. -/
def spread (xs : List Int) : Int :=
  match xs with
  | [] => 0
  | x :: r => r.foldl max x - r.foldl min x

def meanOf (xs : List Int) : Int := xs.foldl (· + ·) 0 / (max 1 xs.length : Nat)

def delayWord (xs : List Int) : W16 := BitVec.ofNat 16 (meanOf xs).toNat

/-- R281: DELAY ends with 1,024 samples: the link is ACTIVE, and every space starts under R271, or it fails. -/
def execDelayMeasurement (l : Link) (s : State) : Res :=
  let s := begin s
  let x := getLink s l.val
  .next (if x.st != lsDelay || x.samples.length < 1024 then s
    else if 64 < spread x.samples then leaveLink s l.val lsDisabled 5
    else
      modLink (goLink (clearLink s l.val) l.val lsActive) l.val (fun y => { y with delay := delayWord x.samples }))

/-- R281, R291: d follows the latest 1,024 samples; on stepping A1 it is set in DELAY only. -/
def execCableDelayUpdate (l : Link) (s : State) : Res :=
  let s := begin s
  let x := getLink s l.val
  .next (if x.st == lsActive && x.samples.length == 1024 && !isA1 s then
      modLink s l.val (fun y => { y with delay := delayWord y.samples })
    else s)

/-- R279: PHY fails: back to DETECT, and after eight in a row DISABLED. -/
def phyFail (s : State) (l : Nat) : State :=
  let s := modLink s l (fun x => { x with phyFails := x.phyFails + 1 })
  if 8 ≤ (getLink s l).phyFails then modLink (leaveLink s l lsDisabled 2) l (fun x => { x with phyFails := 0 })
  else startDetect s l

/-- Table 9.8: the time limit of a link state. -/
def execLinkStateLimit (l : Link) (s : State) : Res :=
  let s := begin s
  let st := linkState s l.val
  .next (if st == lsDetect then leaveLink s l.val lsDisabled 1
    else if st == lsPhy || st == lsRetrain then phyFail s l.val
    else if st == lsCaps then leaveLink s l.val lsDisabled 4
    else if st == lsDelay then leaveLink s l.val lsDisabled 5
    else s)

/-! ### Headers and cables (R284-R287) -/

/-- R279, R286: an assembly is inserted or removed. -/
def execPresenceChange (h : Fin 9) (present : Bool) (s : State) : Res :=
  let s := begin s
  .next (if (getHeader s h.val).present == present then s
    else
      let s := modHeader s h.val (fun _ => ⟨present, false, false, none, 0⟩)
      if !headerOnBit s h.val then s
      else (linksOf h.val).foldl (fun s l =>
        let st := linkState s l
        if present then
          if st == lsDetect || (st == lsDisabled && mayLeaveDisabled s) then startDetect s l else s
        else if st == lsActive then setCause (startDetect s l) l 1 else s) s)

/-- R287: wear events at 90 % and 100 % of a rating, once each. -/
def wearEvents (s : State) (serial : W64) : State :=
  let w := getWear s serial
  let reached (k : Nat) : Bool :=
    decide ((0 < w.ratedPoh ∧ w.ratedPoh * k ≤ w.poh * 100) ∨ (0 < w.ratedMatings ∧ w.ratedMatings * k ≤ w.matings * 100))
  let s := if reached 90 && !w.warned then raiseEvent s evCableWear 0xF 0 (.wear serial w) else s
  let s := if reached 100 && !w.replaced then raiseEvent s evCableReplace 0xF 0 (.wear serial w) else s
  modWear s serial (fun w => { w with warned := w.warned || reached 90, replaced := w.replaced || reached 100 })

/-- R286: the wear record takes the larger of each counter from the warden's copy and from the assembly's; on stepping A1
the warden's copy alone counts (R291). A newly inserted assembly counts a mating, once its serial number is read. -/
def readWear (s : State) (c : CableRec) (fresh : Bool) : State :=
  let known := s.wear.any (fun e => e.1 == c.serial.toNat)
  let both (own its : Nat) : Nat := if isA1 s then own else max own its
  wearEvents (modWear s c.serial (fun w => { w with
    firstSeen := if known then w.firstSeen else s.time.ns
    poh := both w.poh c.poh
    ratedPoh := if c.valid then c.ratedPoh else w.ratedPoh
    matings := both w.matings c.matings + (if fresh then 1 else 0)
    ratedMatings := if c.valid then c.ratedMatings else w.ratedMatings
    retrains := both w.retrains c.retrains
    uncorrectable := both w.uncorrectable c.uncorrectable
    maxTemp := max (if known then (if isA1 s then w.maxTemp else max w.maxTemp c.maxTemp)
      else if isA1 s then c.temp else c.maxTemp) c.temp })) c.serial

/-- R286: the warden writes the wear record back to the EEPROM of the assembly in a header; not on stepping A1 (R291). -/
def writeBack (s : State) (h : Nat) : State :=
  if isA1 s then s
  else modHeader s h (fun y => { y with cable := y.cable.map (fun c =>
    let w := getWear s c.serial
    { c with poh := w.poh, matings := w.matings, retrains := w.retrains, uncorrectable := w.uncorrectable,
             maxTemp := w.maxTemp }) })

/-- R279, R285, R286: in DETECT the warden has read the assembly; a qualified one is set to high power. A link that may not
train (R514) goes no further (log entry 37). -/
def execCmisIdentityRead (h : Fin 9) (c : CableRec) (s : State) : Res :=
  let s := begin s
  let y := getHeader s h.val
  .next (if !y.present || !headerOnBit s h.val || !(linksOf h.val).any (fun l => linkState s l == lsDetect) then s
    else
      let ok := c.valid && c.namesCard
      let s := modHeader s h.val (fun y => { y with qualified := ok, highPower := ok, cable := some c })
      let s := writeBack (readWear s c y.cable.isNone) h.val
      (linksOf h.val).foldl (fun s l =>
        if linkState s l != lsDetect then s
        else if !ok then leaveLink s l lsDisabled 1
        else if linkEnabled s l then goLink s l lsPhy
        else leaveLink s l lsDisabled 6) s)

/-- R285: ten milliseconds above the power class of the assembly's record. -/
def execHeaderOvercurrent (e : Overcurrent) (s : State) : Res :=
  let s := begin s
  .next (match (getHeader s e.header.val).cable with
    | some c =>
      let s := modHeader s e.header.val (fun y => { y with drawMw := e.drawMw })
      if headerOnBit s e.header.val && decide (c.powerMw < e.drawMw) then headerOff s e.header.val 0xB else s
    | none => s)

/-- R286, R287: an hour of header power. -/
def execPowerOnHour (h : Fin 9) (s : State) : Res :=
  let s := begin s
  .next (match (getHeader s h.val).cable with
    | some c => if headerOnBit s h.val then
        writeBack (wearEvents (modWear s c.serial (fun w => { w with poh := w.poh + 1 })) c.serial) h.val
      else s
    | none => s)

/-! ### Acknowledgements and replay (R271-R274) -/

def getSpace (x : LinkSt) (k : Nat) : Space := x.spaces.getD k spaceReset

/-- R273: an ACK value A frees every flit from the oldest outstanding one through A. -/
def ackSpace (y : Space) (a : Nat) : Space :=
  match y.out with
  | [] => y
  | (o, _) :: _ =>
    let k := (a + 4096 - o) % 4096 + 1
    if k ≤ y.out.length then
      let out := y.out.drop k
      { y with out := out, timeouts := 0, replay := match y.replay with
          | some i => if out.isEmpty then none else some (i - k)
          | none => none }
    else y

/-- R274: a replay starts from the oldest outstanding flit. -/
def startReplay (s : State) (l k : Nat) : State :=
  if (getSpace (getLink s l) k).out.isEmpty then s
  else addLcnt (modLink s l (fun x => modSpace x k (fun y => { y with replay := some 0 }))) l 3

def ackLink (s : State) (l k a : Nat) : State := modLink s l (fun x => modSpace x k (fun y => ackSpace y a))

/-- R274, R276: the replay timer of a space runs out. -/
def execReplayTimeout (l : Link) (k : Fin 5) (s : State) : Res :=
  let s := begin s
  .next (if linkState s l.val != lsActive || (getSpace (getLink s l.val) k.val).out.isEmpty then s
    else
      let s := addLcnt (startReplay s l.val k.val) l.val 4
      let s := modLink s l.val (fun x => modSpace x k.val (fun y => { y with timeouts := y.timeouts + 1 }))
      if 8 ≤ (getSpace (getLink s l.val) k.val).timeouts then retrain s l.val 9 else s)

/-! ### Units (R265, R266, R269) -/

/-- R13, R250, R266: 252 bytes and their CRC-32C, as one 256-byte unit. -/
def sealUnit (bs : List Nat) : BitVec 2048 := BitVec.ofNat 2048 (leNat (bs ++ leBytes 4 (crc32c bs)))

/-- Table 9.2: a flit of a TYPE. -/
def flitUnit (f : Flit) (type : BitVec 4) : BitVec 2048 :=
  sealUnit (leBytes 2 (f.seq.toNat + type.toNat * 2 ^ 12)
    ++ leBytes 2 (f.ack.toNat + f.space.toNat * 2 ^ 12 + b2n f.late * 2 ^ 15)
    ++ leBytes 2 f.dest.toNat ++ leBytes 2 f.src.toNat ++ leBytes 2 f.tag.toNat ++ [f.frame.toNat, f.len.toNat]
    ++ leBytes 240 f.payload.toNat)

/-- R265: an idle unit. -/
def idleUnit : BitVec 2048 := sealUnit (List.replicate 252 0)

/-- Table 9.4: a link unit. -/
def linkUnitOf (cycle echo turn : Nat) (acks : BitVec 80) (state : Byte) : BitVec 2048 :=
  sealUnit (leBytes 8 0xA55A3C3CC3C35AA5 ++ leBytes 4 cycle ++ leBytes 4 echo ++ leBytes 4 turn ++ leBytes 10 acks.toNat
    ++ [state.toNat] ++ List.replicate 221 0)

/-! ### Link units (R269, R270) -/

/-- System time in 1/16 ns. -/
def time16 (s : State) : Nat := s.time.ns.toNat * 16 + s.time.frac.toNat / 2 ^ 28

/-- The five ACK words of a link unit. -/
def ackWords (x : LinkSt) : BitVec 80 :=
  BitVec.ofNat 80 ((x.spaces.mapIdx (fun i y => (y.ack + (if y.reqDue then 4096 else 0)) * 2 ^ (16 * i))).foldl (· + ·) 0)

def unitState (x : LinkSt) : Byte := if x.departTx then 2 else if x.st == lsRetrain then 3 else 1

def sendsUnits (st : BitVec 4) : Bool := st == lsCaps || st == lsDelay || st == lsActive || st == lsRetrain

/-- R270: position 9 of a link cycle. -/
def execLinkUnitSend (l : Link) (s : State) : Res :=
  let s := begin s
  let x := getLink s l.val
  .next (if !sendsUnits x.st then s
    else
      let s := emit s (.unit l (linkUnitOf x.cycle x.echo.toNat (time16 s - x.echoAt) (ackWords x) (unitState x)))
      modLink s l.val (fun x => { x with
        cycle := x.cycle + (if x.st == lsDelay || x.st == lsActive then 1 else 0)
        spaces := x.spaces.map (fun y => { y with reqDue := false }) }))

/-- R281: a link unit that echoes one of the card's own: a CYCLE that the card has sent since DELAY began. -/
def echoesOwn (x : LinkSt) (u : Unit256) : Bool := decide (2 ^ 32 ≤ x.cycle ∨ u.echo.toNat < x.cycle)

/-- R281: one delay sample, in 1/16 ns. -/
def addSample (s : State) (l : Nat) (u : Unit256) : State :=
  modLink s l (fun x =>
    let xs := x.samples ++ [((u.flight.toNat : Int) - u.turn.toNat) / 2]
    { x with samples := xs.drop (xs.length - 1024) })

/-- R290: the partner's link units turn DEPART: no section flit is sent any more. -/
def noteDepart (s : State) (l : Nat) : State :=
  modLink s l (fun x => if x.departRx then x else { x with departRx := true })

def ackWord (u : Unit256) (k : Nat) : Nat := (u.acks.toNat >>> (16 * k)) % 65536

/-- R269, R273, R274, R276, R281, R290: a link unit arrives. -/
def execLinkUnit (l : Link) (u : Unit256) (s : State) : Res :=
  let s := begin s
  let st := linkState s l.val
  let s := if sendsUnits st then noteFec s l.val u.fixed u.lost else s
  .next (if !u.intact || !(st == lsCaps || st == lsDelay || st == lsActive) then s
    else
      let s := if (st == lsDelay || st == lsActive) && echoesOwn (getLink s l.val) u then addSample s l.val u else s
      let s := modLink s l.val (fun x => { x with echo := u.cycle, echoAt := time16 s })
      if st != lsActive then s
      else if u.state == 3 then retrain s l.val 3
      else
        let s := (List.range 5).foldl (fun s k =>
          let s := ackLink s l.val k (ackWord u k % 4096)
          if ackWord u k / 4096 % 2 == 1 then startReplay s l.val k else s) s
        if u.state == 2 then noteDepart s l.val else s)

/-! ### Sending (R274, R275, R277, R278) -/

/-- R275: the frame number nearest n with given low 8 bits; of two as near, the earlier one (log entry 37). -/
def nearestFrame (n low : Nat) : Int := (n : Int) + ((low + 256 - n % 256 + 128) % 256 : Nat) - 128

/-- R275: LATE of a section flit that leaves now. -/
def isLate (s : State) (b : Body) : Bool :=
  let f := nearestFrame (frameOf s) (b.frame % 256)
  decide (b.type < 8) && (decide (f < (frameOf s : Nat)) || (f == (frameOf s : Nat) && s.time.guard))

def flitOf (s : State) (x : LinkSt) (k seq : Nat) (b : Body) : Flit where
  seq := BitVec.ofNat 12 seq
  space := BitVec.ofNat 3 k
  late := isLate s b
  ack := BitVec.ofNat 12 (getSpace x k).ack
  dest := b.dest
  src := b.src
  tag := b.tag
  frame := BitVec.ofNat 8 b.frame
  len := BitVec.ofNat 8 b.len
  payload := b.payload

/-- R278: the order of control flits by TYPE. -/
def controlRank (b : Body) : Nat :=
  if b.type == 9 then 0 else if b.type == 8 then 1 else if b.type == 0xA then 2 else if b.type == 0xB then 3 else 4

/-- R290: the control flits that a departing card still sends: its DRAIN requests (Table 15.8) and its DEPART flit. -/
def departing (b : Body) : Bool := b.type == 8 || (b.type == 9 && b.payload.toNat % 256 == 1)

/-- The first queued flit that a space may send, with the queue without it. -/
def pickQueued (x : LinkSt) (k : Nat) : Option (Body × List Body) :=
  let q := (getSpace x k).queue
  let ok (b : Body) : Bool := if x.departTx then departing b && k == 4 else true
  let cand := q.filter ok
  let best := if k != 4 then cand.head?
    else (List.range 5).findSome? (fun r => cand.find? (fun b => controlRank b == r))
  best.map (fun b => (b, q.erase b))

/-- R274: the next flit of a replay leaves. -/
def sendReplay (s : State) (l : Link) (k i : Nat) : State :=
  let x := getLink s l.val
  let y := getSpace x k
  match y.out[i]? with
  | none => modLink s l.val (fun x => modSpace x k (fun y => { y with replay := none }))
  | some (seq, b) =>
    let s := modLink s l.val (fun x => modSpace x k (fun y => { y with
      replay := if i + 1 < y.out.length then some (i + 1) else none }))
    emit s (.unit l (flitUnit (flitOf s x k seq b) b.type))

/-- R271: a new flit leaves and is kept until it is acknowledged. -/
def sendNew (s : State) (l : Link) (k : Nat) (b : Body) (rest : List Body) : State :=
  let x := getLink s l.val
  let y := getSpace x k
  let s := modLink s l.val (fun x => modSpace x k (fun y => { y with
    queue := rest, next := (y.next + 1) % 4096, out := y.out ++ [(y.next, b)] }))
  emit s (.unit l (flitUnit (flitOf s x k y.next b) b.type))

/-- R293: a flit of a gathered block that this card multicasts has left; after the block's last one the card takes its own
part. -/
def ownPart (s : State) (l : Link) (k : Nat) (b : Body) : State :=
  if b.type != 3 || !b.tag.getLsbD 15 then s
  else
    let same (d : Body) : Bool := d.type == 3 && d.tag == b.tag && d.payload.toNat % 2 ^ 40 == b.payload.toNat % 2 ^ 40
    if (getSpace (getLink s l.val) k).queue.any same then s
    else match allSecs.find? (fun t => t.val == k) with
      | none => s
      | some t =>
        match (sectionColls s t).find? (fun x => x.id == b.tag.toNat % 4096) with
        | some x => takeOwn s x l.val (b.payload.toNat % 2 ^ 32)
        | none => s

/-- R277: the space that may use a position of a slot. -/
def slotSpace (s : State) (l slot : Nat) : Option Nat :=
  if slot == 0 then some 4 else (allSecs.find? (fun t => mayUse s t l slot)).map (·.val)

/-- R265, R274, R277, R290: what a position of a slot carries on an ACTIVE link. -/
def sendActive (s : State) (l : Link) (slot : Nat) : State :=
  let x := getLink s l.val
  match slotSpace s l.val slot with
  | none => emit s (.unit l idleUnit)
  | some k =>
    if k != 4 && (x.departTx || x.departRx) then emit s (.unit l idleUnit)
    else
      let y := getSpace x k
      match y.replay with
      | some i => if k == 4 && x.departTx then emit s (.unit l idleUnit) else sendReplay s l k i
      | none =>
        if 1024 ≤ y.out.length || (s.time.guard && k != 4) then emit s (.unit l idleUnit)
        else match pickQueued x k with
          | some (b, rest) => ownPart (sendNew s l k b rest) l k b
          | none => emit s (.unit l idleUnit)

/-- R290: a departed partner's link goes to DETECT. -/
def partnerGone (s : State) (l : Nat) : State := setCause (startDetect s l) l 7

/-- R290: links whose partner has departed and whose slot 0 has passed. -/
def leaveDeparted (s : State) : State :=
  (List.range 36).foldl (fun s l => if (getLink s l).departWait then partnerGone s l else s) s

/-- R277, R279: a flit position; between PHY and ACTIVE only MGMT flits are sent, at any position. A
position of a later slot says that slot 0 has ended (R290). -/
def execFlitSend (l : Link) (slot : Fin 50) (s : State) : Res :=
  let s := if slot.val == 0 then begin s else leaveDeparted (begin s)
  let x := getLink s l.val
  .next (if x.st == lsActive then sendActive s l slot.val
    else if x.st == lsCaps || x.st == lsDelay then
      match pickQueued x 4 with
      | some (b, rest) =>
        if b.type == 0xC then
          let s := modLink s l.val (fun x => modSpace x 4 (fun y => { y with queue := rest, next := (y.next + 1) % 4096 }))
          emit s (.unit l (flitUnit (flitOf s x 4 (getSpace x 4).next b) b.type))
        else emit s (.unit l idleUnit)
      | none => emit s (.unit l idleUnit)
    else s)

/-! ### Receiving (R267, R268, R272, R275) -/

/-- R268, R267: a flit is discarded whole and counted. -/
def badFlit (s : State) (l : Nat) : State := logClass (addLcnt s l 2) 2 0xF 2 l 0

/-- R268: a flit's CRC fails, or its TYPE or SPACE is reserved. -/
def execCorruptedFlit (l : Link) (s : State) : Res :=
  let s := begin s
  .next (if sendsUnits (linkState s l.val) then badFlit s l.val else s)

/-- R267: a TYPE that matches its SPACE. -/
def typeFits (type space : Nat) : Bool := if type < 4 then decide (space < 4) else space == 4

/-- R272, R275: a flit is taken in order or not; the answer says whether its content is delivered. -/
def takeFlit (s : State) (l : Nat) (type : Nat) (f : Flit) : State × Bool :=
  let k := f.space.toNat
  let st := linkState s l
  if !typeFits type k then (if sendsUnits st then badFlit s l else s, false)
  else if st == lsCaps || st == lsDelay then (s, type == 0xC)
  else if st != lsActive then (s, false)
  else
    let s := ackLink s l k f.ack.toNat
    let s := if f.late then addLcnt s l 5 else s
    let y := getSpace (getLink s l) k
    let d := (f.seq.toNat + 4096 - y.expect) % 4096
    if d == 0 then
      (modLink s l (fun x => modSpace x k (fun y => { y with
        expect := (y.expect + 1) % 4096, ack := f.seq.toNat, reqSet := false })), !f.late)
    else if d < 1024 then
      (logClass (modLink s l (fun x => modSpace x k (fun y =>
        if y.reqSet then y else { y with reqDue := true, reqSet := true }))) 2 0xF 2 l 0, false)
    else if d < 3072 then (retrain (logClass s 2 0xF 2 l 0) l 0xA, false)
    else (s, false)

/-- A flit that is delivered does what `k` says. -/
def received (s : State) (l : Nat) (type : Nat) (f : Flit) (k : State → State) : Res :=
  let r := takeFlit (begin s) l type f
  .next (if r.2 then k r.1 else r.1)

def spaceSec (f : Flit) : Sec := if h : f.space.toNat < 4 then ⟨f.space.toNat, h⟩ else 0

def flitData (f : Flit) : List Nat := (leBytes 240 f.payload.toNat).take f.len.toNat

/-- R267, R111: the bytes of a tile or a stream land in the slate of a core of the section. -/
def deliverData (s : State) (f : Flit) : State :=
  let (q, a) := Config.dataPlace f.tag f.payload
  if coreSec s q.val == some (spaceSec f) then wrSpace s (spaceSec f) q.val 0 (a.val : Int) (flitData f) else s

/-- R111: a tile is valid, or a buffer is free, in a channel of a core that a RUN uses. -/
def deliverToken (s : State) (f : Flit) : State :=
  let (q, e) := Config.tokenOf f.tag f.payload
  match coreRun s q.val with
  | none => s
  | some x =>
    if x.sec != spaceSec f then s
    else
      let d := chanDef x.g x.v q.val (decide (8 ≤ e.val)) (e.val % 8)
      let up (c : Chan) : Chan := if c.count < d.depth then { c with count := c.count + 1 } else c
      if !d.used then s
      else modCore s q.val (fun k =>
        if e.val < 8 then { k with inCh := modChan k.inCh e.val up } else { k with outCh := modChan k.outCh (e.val - 8) up })

/-- R272: DATA. -/
def execDataFlit (l : Link) (f : Flit) (s : State) : Res := received s l.val 1 f (fun s => deliverData s f)
/-- R272, R111: TOKEN. -/
def execTokenFlit (l : Link) (f : Flit) (s : State) : Res := received s l.val 2 f (fun s => deliverToken s f)
/-- R309: COLL. -/
def execCollFlit (l : Link) (f : Flit) (s : State) : Res :=
  received s l.val 3 f (fun s => collReceive s (spaceSec f) l.val f)

/-! ### TIME (R282, R283) -/

def fieldAt (f : Flit) (off n : Nat) : Nat := (f.payload.toNat >>> (8 * off)) % 2 ^ (8 * n)

/-- R283: t_a − d − ORIGIN, in 1/16 ns. -/
def timeOff (s : State) (l : Nat) (f : Flit) (ns : W64) (frac : W32) : Int :=
  ((ns.toNat * 16 + frac.toNat / 2 ^ 28 : Nat) : Int) - (getLink s l).delay.toNat
    - ((fieldAt f 0 8 * 16 + fieldAt f 8 4 / 2 ^ 28 : Nat) : Int)

def lowestActive (s : State) : Option Nat := (List.range 36).find? (fun l => linkState s l == lsActive)

/-- R54, R57, R283: a valid TIME flit: adopted, followed, or compared. -/
def timeMsg (s : State) (l : Link) (gm : W64) (off : Int) : State :=
  let s := modLink s l.val (fun x => { x with timeOk := true, timeOffset := off })
  if s.time.src == 1 then s
  else if s.time.lock == .free then (if lowestActive s == some l.val then syncMsg s gm off true else s)
  else
    match s.time.link with
    | none => s
    | some m =>
      if m == l then syncMsg s gm off true
      else
        let far := decide (800 < (off - (getLink s m.val).timeOffset).natAbs)
        modLink s l.val (fun x => { x with timeDiff := far && !isA1 s })

/-- R283: TIME. -/
def execTimeFlit (l : Link) (f : Flit) (ns : W64) (frac : W32) (s : State) : Res :=
  received s l.val 0xB f (fun s =>
    let gm := w64 (fieldAt f 0xC 8)
    let valid := linkState s l.val == lsActive && fieldAt f 0x16 1 == 1 && (s.time.lock == .free || gm == s.time.gm)
    if valid && s.ward.running then timeMsg s l gm (timeOff s l.val f ns frac) else s)

/-! ### MGMT (R280) -/

/-- R280: the partner's capability block. -/
def takeCaps (s : State) (l : Nat) (f : Flit) : State :=
  let s := modLink s l (fun x => { x with caps := f.payload })
  if fieldAt f 2 1 == 1 then leaveLink s l lsDisabled 3
  else if fieldAt f 2 1 != 2 || fieldAt f 3 1 != 5 || decide (fieldAt f 4 2 < 1024) || fieldAt f 0xE 1 % 16 != 15 then
    leaveLink s l lsDisabled 4
  else
    let differs := fieldAt f 0x10 4 != s.time.period.toNat || fieldAt f 0x14 8 != s.time.epoch.toNat
    modLink (goLink s l lsDelay) l (fun x => { x with capsOk := true, bellDiff := differs, cycle := 0, samples := [] })

/-- R280: MGMT; only the capability block of TAG 0x0001 in CAPS has an effect. -/
def execMgmtFlit (l : Link) (f : Flit) (s : State) : Res :=
  received s l.val 0xC f (fun s => if linkState s l.val == lsCaps && f.tag == 1 then takeCaps s l.val f else s)

/-! ### DRAIN and DEPART (R429, R430) -/

/-- R429: the drain that a request asks for in one section: a DRAIN without a descriptor. -/
def requestDrain (s : State) (t : Sec) : State :=
  let c : Cmd := ⟨s.seq, 0, ⟨t.val * 16, by omega⟩, 0x0D, 0, false, none, 0, [], [], [], [], none, .netDrain false [] 0⟩
  let s := setCmds { s with seq := s.seq + 1 } t (getCmds s t ++ [c])
  if s.time.guard then finishDrains (drainTakes s t) t else s

/-- R429: a DRAIN request acts once on each section of the group that has an image; a report is logged. Stepping A1
ignores requests (R446). -/
def takeDrain (s : State) (l : Nat) (f : Flit) : State :=
  let key := (fieldAt f 1 1, fieldAt f 8 8)
  let mine := allSecs.filter (fun t => (getSect s t).rcCfg.extractLsb' 16 16 == f.dest && (s.images.get t).isSome)
  if fieldAt f 0 1 == 2 then logClass s 8 0xF 2 l 0
  else if fieldAt f 0 1 != 1 || isA1 s || s.ward.drainCopies.contains key then s
  else mine.foldl requestDrain (modWard s (fun w => { w with drainCopies := w.drainCopies ++ [key] }))

/-- R429: DRAIN. -/
def execDrainFlit (l : Link) (f : Flit) (s : State) : Res := received s l.val 9 f (fun s => takeDrain s l.val f)

/-- R430: ERR_DEPART, its trace records and log entry. -/
def noteDeparture (s : State) (l : Nat) (f : Flit) : State :=
  let w := s.ward.depart
  let w := if bit64 w 0 then putBits w 27 16 (min (bits w 27 16 + 1) 0xFFFF)
    else w64 ((fieldAt f 0 4 % 2 ^ 17) * 2 ^ 47 + (fieldAt f 4 1 % 16) * 2 ^ 43 + 1)
  let s := modWard s (fun x => { x with depart := w })
  let s := allSecs.foldl (fun s t => traceRec s t 0x22 0 0 w (w64 (frameNow s))) s
  logClass s 8 0xF 2 l w

/-- R430, R290: DEPART. -/
def execDepartFlit (l : Link) (f : Flit) (s : State) : Res :=
  received s l.val 8 f (fun s =>
    let own := (getLink s l.val).departRx
    let s := noteDeparture s l.val f
    if own then partnerGone s l.val else s)

/-! ### Uncorrectable SRAM words (R417) -/

/-- R417, R418: a word that the code corrects is logged with class 0x01 under the source of its memory. -/
def sramFixed (s : State) : SramSite → State
  | .slate q _ _ => logClass s 1 0xF 3 (physCore s q.val) 0
  | .commons _ _ n => logClass s 1 0xF 0 n.val 0
  | .accumulator q _ _ _ => logClass s 1 0xF 3 (physCore s q.val) 0
  | .blockStore l _ _ _ => logClass s 1 0xF 0 (fabricEngine l.val) 0
  | .programStore q => logClass s 1 0xF 3 (physCore s q.val) 0
  | .replayBuffer l => logClass s 1 0xF 2 l.val 0

/-- R417: what each SRAM does with a word that cannot be corrected. -/
def sramLost (s : State) (site : SramSite) : State :=
  match site with
    | .slate q line n =>
      if slateBytes ≤ 64 * line then s
      else
        let s := { s with slate := lineFf s.slate (slateKey q.val (64 * line)) }
        (match coreSec s q.val with
        | some t => sramNv s t n.val 3 (physCore s q.val)
        | none => logClass s 5 0xF 3 (physCore s q.val) 0)
    | .commons k line n =>
      if slateBytes ≤ 64 * line then s
      else
        let s := { s with commons := lineFf s.commons (slateBytes * k.val + 64 * line) }
        (match allSecs.find? (fun t => (getSect s t).commons.getLsbD k.val) with
        | some t => sramNv s t n.val 0 n.val
        | none => logClass s 5 0xF 0 n.val 0)
    | .accumulator q row col n =>
      let k := (q.val * 2048 + row.val) * 128 + col.val / 16 * 16
      let s := { s with acc := (List.range 16).foldl (fun m i => sset 0 m (k + i) 0xFFFFFFFF) s.acc }
      (match coreSec s q.val with
      | some t => sramNv s t n.val 3 (physCore s q.val)
      | none => logClass s 5 0xF 3 (physCore s q.val) 0)
    | .blockStore l coll b line =>
      (match allSecs.findSome? (fun t => ((s.colls.get t).find? (fun x =>
          x.contribs.any (fun e => e.1 / 2 ^ 7 == coll * 2 ^ 40 + b)
            || x.acc.any (fun e => e.1 == collKey coll 0 b))).map (fun x => (t, x.ord))) with
      | none => logClass s 5 0xF 0 (fabricEngine l.val) 0
      | some (t, o) =>
        let ff : Words := BitVec.ofNat 8192 ((2 ^ 512 - 1) * 2 ^ (512 * line.val))
        let s := modColl s t o (fun x => { x with
          contribs := x.contribs.map (fun e => if e.1 / 2 ^ 7 == coll * 2 ^ 40 + b then (e.1, e.2 ||| ff) else e)
          acc := x.acc.map (fun e => if e.1 == collKey coll 0 b then (e.1, (e.2.1, e.2.2 ||| ff)) else e) })
        logClass (raise s t o (fabricEngine l.val) fNV) 5 t.val 0 (fabricEngine l.val) 0)
    | .programStore q => modCore s q.val (fun k => { k with stopped := true })
    | .replayBuffer l => retrain s l.val 0xA

/-- R417: a word of an SRAM is bad when it is read. -/
def execSramUncorrectable (e : SramWord) (s : State) : Res :=
  .next (if e.fixed then sramFixed (begin s) e.site else sramLost (begin s) e.site)

end Sys2Proof.Machine
end

