-- ==== Sys2Proof/Machine/Roll.lean ====
section
/-!
DEFINITION. Roll call (R317-R321) and the contribution, return and record of a step (R331-R338).
-/
namespace Sys2Proof.Machine

/-! ### The tree (R319) -/

def hopsOf (s : State) (t : Sec) : Nat := ((getSect s t).rcCfg.extractLsb' 12 4).toNat

/-- D = ⌈log16 n⌉. -/
def depthOf (n : Nat) : Nat := (log2up n + 3) / 4

/-- The digit of a rank at a level. -/
def digitAt (r level : Nat) : Nat := r / 16 ^ level % 16

/-- The card combines level L: its rank is a multiple of 16^(L + 1). -/
def combinesAt (r level : Nat) : Bool := r % 16 ^ (level + 1) == 0

/-- The first frame of level L of a step. -/
def rollFrame (s : State) (t : Sec) (q : Pend) (level : Nat) : Nat := q.roll + level * (hopsOf s t + 1)

/-- The guard band of frame n has come. -/
def guardCame (s : State) (n : Nat) : Bool :=
  s.time.frame.isSome && (decide (n < frameOf s) || (n == frameOf s && s.time.guard))

/-- The present slot 0 is that of frame n. -/
def slotZeroOf (s : State) (n : Nat) : Bool := s.time.frame == some n && !s.time.guard

/-- A pending step changed, closed or not. -/
def modPendAny (s : State) (t : Sec) (no : Nat) (f : Pend → Pend) : State :=
  modSteps s t (fun x => { x with pend := x.pend.map (fun q => if q.no == no then f q else q) })

/-- Every pending step of a section in turn. -/
def eachPend (s : State) (t : Sec) (f : State → Pend → State) : State := (getSteps s t).pend.foldl f s

/-! ### The contribution (R331, R332) -/

/-- Table 11.2: ERR_STEP bits [11:7]: FLAGS, SCAN, INCOMPLETE, FORCED, WORD. -/
def causesOf (s : State) (t : Sec) (q : Pend) : BitVec 5 :=
  let mine := (getCmds s t).filter (fun c => c.carry == some q.step)
  let word := match q.word with | some a => anyPoison s a 8 | none => false
  BitVec.ofNat 5 (b2n (q.flags || mine.any (fun c => nvOf c.copies)) + 2 * b2n q.scan
    + 4 * b2n (q.incomplete || !mine.isEmpty) + 8 * b2n q.forced + 16 * b2n word)

/-- R317, R331: the card's own value. -/
def ownVote (s : State) (q : Pend) (causes : BitVec 5) : Vote :=
  match q.word with
  | some a =>
    let w := w64 (leNat (rdDevBytes s a 8))
    ⟨causes != 0 || q.fifth, q.fifth, 1, w, w, 1⟩
  | none => ⟨causes != 0 || q.fifth, q.fifth, 0, 0xFFFFFFFFFFFFFFFF, 0, 1⟩

/-- R331: tick f of an open step: its contribution is formed and the step closes. -/
def contribute (t : Sec) (s : State) (q : Pend) : State :=
  if q.closed || s.time.frame.isNone || frameOf s < q.roll then s
  else
    let causes := causesOf s t q
    let v := ownVote s q causes
    let s := match q.word with | some a => if isPoison s a then s else noteDecodes s a 8 | none => s
    modPendAny s t q.no (fun q => { q with
      closed := true, causes := causes, value := some v, ownWord := if q.word.isSome then v.orW else 0 })

/-- R331: tick f. -/
def execRollcallContribution (t : Sec) (s : State) : Res := .next (eachPend (begin s) t (contribute t))

/-! ### Flits (Table 10.8) -/

def votePayload (q : Pend) (v : Vote) (level : Nat) (result : Bool) : BitVec 1920 :=
  BitVec.ofNat 1920 (leNat (leBytes 8 q.step ++ [b2n v.bit + 2 * b2n result + 4 * b2n v.missing, level, 0, 0]
    ++ leBytes 4 v.voters ++ leBytes 8 v.andW.toNat ++ leBytes 8 v.orW.toNat ++ leBytes 4 v.cards ++ leBytes 4 0))

def voteBody (s : State) (t : Sec) (q : Pend) (v : Vote) (level dest : Nat) (result : Bool) : Body :=
  ⟨0xA, BitVec.ofNat 16 dest, BitVec.ofNat 16 q.logicalId, BitVec.ofNat 16 (t.val + (if result then 0x8000 else 0)),
    frameOf s, 40, votePayload q v level result⟩

/-- The value that a flit carries. -/
def voteIn (f : Flit) : Vote :=
  let g := fieldAt f 8 1
  ⟨g % 2 == 1, g / 4 % 2 == 1, fieldAt f 0xC 4, w64 (fieldAt f 0x10 8), w64 (fieldAt f 0x18 8), fieldAt f 0x20 4⟩

/-- The first ACTIVE link from link k upward, wrapping at 35. -/
def firstActive (s : State) (k : Nat) : Option Nat :=
  ((List.range 36).map (fun i => (k + i) % 36)).find? (fun l => linkState s l == lsActive)

/-- The mark of a step whose value has been sent to the parent. -/
def sentMark : Nat := 99

/-- R319: slot 0 of the frame of the level at which the card sends. -/
def sendLevel (t : Sec) (s : State) (q : Pend) : State :=
  match q.value with
  | none => s
  | some v =>
    let d := digitAt q.logicalId q.level
    if depthOf q.devices ≤ q.level || d == 0 || !slotZeroOf s (rollFrame s t q q.level) then s
    else
      let s1 := modPendAny s t q.no (fun q => { q with level := sentMark })
      if q.silent then s1
      else match firstActive s (d - 1) with
      | none => s1
      | some l => pushFlit s1 l 4 (voteBody s t q v q.level (q.logicalId - d * 16 ^ q.level) false)

/-- R319: the level sends of a section. -/
def execRollcallLevelSend (t : Sec) (s : State) : Res := .next (eachPend (begin s) t (sendLevel t))

/-! ### Combining -/

def joinVote (a b : Vote) : Vote :=
  ⟨a.bit || b.bit, a.missing || b.missing, a.voters + b.voters, a.andW &&& b.andW, a.orW ||| b.orW, a.cards + b.cards⟩

/-- R319, R320: the children of a rank at a level, each with its value or missing. -/
def combineVotes (q : Pend) (v : Vote) : Vote :=
  (List.range 15).foldl (fun v i =>
    let r := q.logicalId + (i + 1) * 16 ^ q.level
    if q.devices ≤ r then v
    else match q.kept.find? (fun e => e.1 == q.level && e.2.1 == r) with
      | some e => joinVote v e.2.2
      | none => { v with bit := true, missing := true }) v

/-- R320: rank 0 also checks the number of cards. -/
def checkCards (q : Pend) (v : Vote) : Vote :=
  if q.logicalId == 0 && v.cards != q.devices then { v with bit := true, missing := true } else v

/-- R319: the guard band at which a parent combines its level. -/
def combineLevel (t : Sec) (s : State) (q : Pend) : State :=
  match q.value with
  | none => s
  | some v =>
    if depthOf q.devices ≤ q.level || !combinesAt q.logicalId q.level
        || !guardCame s (rollFrame s t q q.level + hopsOf s t) then s
    else modPendAny s t q.no (fun q => { q with value := some (combineVotes q v), level := q.level + 1 })

/-- R319: the combining of a section. -/
def execRollcallCombine (t : Sec) (s : State) : Res := .next (eachPend (begin s) t (combineLevel t))

/-! ### The result -/

/-- R319: rank 0 multicasts the result; of a step that it opened too late it sends nothing, and takes the result itself
(R329). -/
def sendResult (t : Sec) (s : State) (q : Pend) : State :=
  match q.value with
  | none => s
  | some v =>
    if q.logicalId != 0 || q.level != depthOf q.devices || q.result.isSome
        || !slotZeroOf s (rollFrame s t q (depthOf q.devices)) then s
    else
      let v := checkCards q v
      let group := ((getSect s t).rcCfg.extractLsb' 16 16).toNat
      let s := modPendAny s t q.no (fun q => { q with result := some v })
      if q.silent then s else queueControl s (voteBody s t q v 0xFF group true)

/-- R319: slot 0 of frame f + D (H + 1). -/
def execRollcallResultSend (t : Sec) (s : State) : Res := .next (eachPend (begin s) t (sendResult t))

/-- R319, R320: the guard band at which a card takes the result, or notes that none came. -/
def takeResult (t : Sec) (s : State) (q : Pend) : State :=
  if q.taken || !guardCame s (rollFrame s t q (depthOf q.devices) + hopsOf s t) then s
  else modPendAny s t q.no (fun q => { q with taken := true, lost := q.result.isNone })

/-- R319: the result of a section's roll calls. -/
def execRollcallResult (t : Sec) (s : State) : Res := .next (eachPend (begin s) t (takeResult t))

/-- The flit carries a result. -/
def isResult (f : Flit) : Bool := fieldAt f 8 1 / 2 % 2 == 1

/-- R293, R319: a flit that a card keeps for a pending step of its index: a child's value at a level that it has still to
combine, or the result. -/
def wantsVote (s : State) (t : Sec) (f : Flit) (q : Pend) : Bool :=
  let level := fieldAt f 9 1
  let src := f.src.toNat
  let past (l : Nat) : Bool := guardCame s (rollFrame s t q l + hopsOf s t)
  q.step == fieldAt f 0 8 && src != q.logicalId &&
    (if isResult f then !(q.logicalId == 0 || q.taken || q.result.isSome || past (depthOf q.devices))
    else !(depthOf q.devices ≤ level || level < q.level || past level || !combinesAt q.logicalId level
      || q.kept.any (fun e => e.1 == level && e.2.1 == src)))

def keepVote (s : State) (t : Sec) (f : Flit) (q : Pend) : State :=
  modPendAny s t q.no (fun q =>
    if isResult f then { q with result := some (voteIn f) }
    else { q with kept := q.kept ++ [(fieldAt f 9 1, f.src.toNat, voteIn f)] })

def tagSec (f : Flit) : Sec := ⟨f.tag.toNat % 4, Nat.mod_lt _ (by decide)⟩

/-- R319: ROLLCALL; of two pending steps of one index (R329) the one opened first that still wants the flit takes it. -/
def execRollcallFlit (l : Link) (f : Flit) (s : State) : Res :=
  received s l.val 0xA f (fun s =>
    match (getSteps s (tagSec f)).pend.find? (wantsVote s (tagSec f) f) with
    | some q => keepVote s (tagSec f) f q
    | none => s)

/-! ### The return (R321, R333, R334, R338) -/

/-- R320: the words agree. -/
def agrees (v : Vote) : Bool := v.voters == 0 || v.andW == v.orW

/-- R321: FAB_RCRES, FAB_RCAND and FAB_RCOR; on stepping A1 LOST reads 0 (R323). -/
def writeRes (s : State) (t : Sec) (q : Pend) (v : Option Vote) : State :=
  let step := (q.step % 2 ^ 32) * 2 ^ 32
  match v with
  | none => modSect s t (fun x => { x with
      rcRes := w64 (step + (if isA1 s then 0 else 16) + 4 + 2 + 1), rcAnd := 0, rcOr := 0 })
  | some v => modSect s t (fun x => { x with
      rcRes := w64 (step + (v.voters % 2 ^ 17) * 2 ^ 15 + 8 * b2n (agrees v) + 4 * b2n v.missing + 2 * b2n v.bit + 1)
      rcAnd := v.andW, rcOr := v.orW })

/-- R334: the outcome skips the step. -/
def skips (a1 : Bool) : Option Vote → Bool
  | none => true
  | some v => v.bit || (!a1 && !agrees v)

/-- Table 11.5: the record of a skip. LOST stands also for a roll call that was late for a GATED command (Table 11.3). -/
def stepWord (x : W64) (q : Pend) (v : Option Vote) : W64 :=
  let n := if bit64 x 0 then min (bits x 16 16 + 1) 0xFFFF else 1
  let own := !q.silent && (q.causes != 0 || q.fifth)
  let set := match v with | some v => v.bit | none => false
  let diverged := match v with | some v => !agrees v | none => false
  let missing := q.fifth || (match v with | some v => v.missing | none => false)
  w64 ((q.step % 2 ^ 32) * 2 ^ 32 + n * 2 ^ 16 + b2n (v.isNone || q.late) * 2 ^ 15 + b2n diverged * 2 ^ 14 + b2n missing * 2 ^ 13
    + b2n (set && !own) * 2 ^ 12 + q.causes.toNat * 2 ^ 7 + 1)

/-- R338: a skipped step is recorded; on stepping A1 ERR_STEP reads 0. -/
def recordSkip (s : State) (t : Sec) (q : Pend) (v : Option Vote) : State :=
  let s := if isA1 s then s else modSect s t (fun x => { x with errStep := stepWord x.errStep q v })
  let s := traceRec s t 0x21 0 0 (w64 q.step) (getSect s t).errStep
  let s := if q.causes.getLsbD 1 then logClass s 4 t.val 0xF 0 0 else s
  if v.isNone then logClass s 0xB t.val 0xF 0 0 else s

/-- R452: the ROLLCALL entry of the replay log. -/
def rollEntry (s : State) (t : Sec) (q : Pend) : State :=
  let x := getSect s t
  let line := BitVec.ofNat 512 (q.step % 2 ^ 64 + q.causes.toNat * 2 ^ 64 + q.ownWord.toNat * 2 ^ 128 + x.rcRes.toNat * 2 ^ 192
    + x.rcAnd.toNat * 2 ^ 256 + x.rcOr.toNat * 2 ^ 320)
  logAppend s t 5 0xFF [line] q.step

/-- R321, R334, R338: what a returned roll call writes; nothing in a service role (R347). -/
def recordReturn (s : State) (t : Sec) (q : Pend) (v : Option Vote) : State :=
  if !isTrain s t then s
  else
    let s := rollEntry (writeRes s t q v) t q
    let s := if skips (isA1 s) v || q.late then recordSkip s t q v else s
    match v with | some w => if agrees w then s else capLoss s t (some q.step) 0 5 | none => s

/-- R333, R334: a roll call returns. The outcome of an index that a SEED has opened again concerns no GATED command. -/
def returnStep (t : Sec) (s : State) (q : Pend) : State :=
  if s.time.frame.isNone || frameOf s < rollFrame s t q (depthOf q.devices + 1) then s
  else
    let v := if q.lost || !q.taken then none else q.result
    let again := (getSteps s t).pend.any (fun p => p.step == q.step && decide (q.no < p.no))
    let s := modSteps (recordReturn s t q v) t (fun x => { x with
      pend := x.pend.filter (fun p => p.no != q.no)
      outcomes := if again then x.outcomes else x.outcomes ++ [(q.step, v)] })
    if again then s else actOnGate s t q.step v

/-- R333: tick f + (D + 1) (H + 1). -/
def execRollcallReturn (t : Sec) (s : State) : Res := .next (eachPend (begin s) t (returnStep t))

end Sys2Proof.Machine
end

