-- ==== Sys2Proof/Machine/Card.lean ====
section
/-!
DEFINITION. The card's service state (R424-R430), its drain, the sentry (R472-R474), power failure (R442-R444) and the
limits of input, rails and temperatures (R533-R537).
-/
namespace Sys2Proof.Machine

/-! ### ERR_CARD -/

def cardCode : CardSt → Nat
  | .service => 0 | .suspect => 1 | .departed => 2

/-- Table 15.6. -/
def causeAssembly : BitVec 4 := 1
def causeSelftest : BitVec 4 := 2
def causeOperator : BitVec 4 := 3
def causeSentry : BitVec 4 := 4
def causePower : BitVec 4 := 5
def causeThermal : BitVec 4 := 6

/-- Table 15.6. -/
def errCardWord (s : State) : Nat :=
  s.ward.frame.toNat * 2 ^ 32 + cardCode s.ward.card * 2 ^ 28 + s.ward.cause.toNat * 2 ^ 24 + b2n s.ward.chg

/-- R424, R476, R485: ERR_CARD.STATE changes; the warden keeps it in flash, audits it and raises its event, while it runs
and unless the sentry made the change (R473). -/
def setCard (s : State) (st : CardSt) (cause : BitVec 4) : State :=
  if s.ward.card == st then s
  else
    let old := s.ward.card
    let s := modWard s (fun w => { w with card := st, cause := cause, chg := true })
    if s.ward.sentryActed || !s.ward.running then s
    else
      let s := modWard s (fun w => { w with flashCard := st, flashCause := cause })
      let s := auditDevice s 2 0 (w64 (cardCode old)) (w64 (cardCode st))
      raiseEvent s evCardState 0xF (if st == .suspect then 3 else 0) (.word (w64 (errCardWord s)))

/-- R424, R426: a severity 3 cause: a record, and from SERVICE the card becomes SUSPECT and is to drain. -/
def suspect (s : State) (cls : Nat) (cause : BitVec 4) (detail : W64) : State :=
  let s := logClass s cls 0xF 0xF 0 detail
  if s.ward.card != .service then s
  else
    let s := modWard s (fun w => { w with
      frame := w32 (frameNow s), suspectNs := s.time.ns, suspectFrame := w64 (frameNow s), drain := .guard })
    setCard s .suspect cause

/-! ### The drain (Table 15.7) -/

/-- R434: a step is open, or a GATED GROVE or a RESHARD is admitted. -/
def lossAtDrain (s : State) (t : Sec) : Bool :=
  stepOpen (getSteps s t) || (getCmds s t).any (fun c => match c.job with
    | .grove g => (groveOf g.bits).gated
    | .reshard _ => true
    | _ => false)

/-- R426: one section in the guard band of a card drain. -/
def cardDrainSection (s : State) (t : Sec) : State :=
  let s := if lossAtDrain s t then capLoss s t none 0 6 else s
  finishDrains (drainSection (drainTakes s t) t) t

/-- R426, R429, R446: DRAIN requests wait for the next slot 0. -/
def queueRequests (s : State) : State :=
  if isA1 s then s
  else allSecs.foldl (fun s t => if (s.images.get t).isSome then queueControl s (drainBody s t 1 (frameOf s)) else s) s

/-- R290: every ACTIVE link carries STATE DEPART. -/
def departLinks (s : State) : State :=
  (List.range 36).foldl (fun s l =>
    if linkState s l == lsActive then modLink s l (fun x => { x with departTx := true }) else s) s

/-- R426: the rows of Table 15.7 for the guard band. -/
def drainCard (s : State) : State :=
  let s := departLinks (queueRequests (allSecs.foldl cardDrainSection s))
  modWard s (fun w => { w with drain := .armed })

/-- R426: CARD_DRAIN, the guard band after the detection. -/
def execCardDrain (s : State) : Res :=
  let s := begin s
  .next (if s.ward.drain == .guard && s.time.guard then drainCard s else s)

/-- Table 15.9. -/
def departPayload (s : State) : BitVec 1920 :=
  let on := allSecs.foldl (fun n t => n + (if (s.images.get t).isSome then 2 ^ t.val else 0)) 0
  BitVec.ofNat 1920 (leNat (leBytes 4 s.lctlPhys.toNat ++ [s.ward.cause.toNat, on, 0, 0]
    ++ allSecs.flatMap (fun t => leBytes 2 (match s.images.get t with | some g => g.logicalId | none => 0xFFFF))
    ++ leBytes 8 s.ward.suspectFrame.toNat ++ leBytes 8 s.ward.suspectNs.toNat))

def departBody (s : State) : Body :=
  ⟨8, Config.flitHead 32, Config.flitHead 33, Config.flitHead 34, frameOf s, 32, departPayload s⟩

/-- What a departing link may still send, in the order of R278. -/
def sendRest : Nat → State → Link → State
  | 0, s, _ => s
  | n + 1, s, l =>
    match pickQueued (getLink s l.val) 4 with
    | some (b, rest) => sendRest n (sendNew s l 4 b rest) l
    | none => s

/-- R290: the DRAIN requests, then the DEPART flit; the link is DISABLED with cause DEPART. -/
def departLink (s : State) (l : Link) : State :=
  if linkState s l.val != lsActive then s
  else
    let s := pushFlit s l.val 4 (departBody s)
    leaveLink (sendRest (getSpace (getLink s l.val) 4).queue.length s l) l.val lsDisabled 7

/-- R426: the card has departed. -/
def depart (s : State) : State :=
  let s := allLinks.foldl departLink s
  modWard (setCard s .departed s.ward.cause) (fun w => { w with drain := .none })

/-- R426: slot 0 of the next frame. -/
def execDepartSend (s : State) : Res :=
  let s := begin s
  .next (if s.ward.drain == .send && !s.time.guard then depart s else s)

/-! ### The sentry (R428, R472-R474) -/

/-- R428, R473: the sentry stops work and drains the card without waiting for a guard band. -/
def sentryActs (s : State) : State :=
  if s.ward.sentryActed then s
  else
    let s := modWard s (fun w => { w with sentryActed := true })
    let s := if s.ward.card == .service then
        setCard (modWard s (fun w => { w with
          frame := w32 (frameNow s), suspectNs := s.time.ns, suspectFrame := w64 (frameNow s) })) .suspect causeSentry
      else s
    if s.ward.card == .departed || s.ward.drain == .armed || s.ward.drain == .send then s else drainCard s

/-- R472: the first kick arms the sentry; a kick with a wrong self-check word makes it act. -/
def execSentryKick (word : W64) (s : State) : Res :=
  let s := begin s
  .next (if !s.ward.running then s
    else
      let s := modWard s (fun w => { w with sentryArmed := true })
      if word == Config.selfCheck then s else sentryActs s)

/-- R472: 40 µs without a kick: the warden has stopped. -/
def execSentryDeadline (s : State) : Res :=
  let s := begin s
  .next (if s.ward.sentryArmed then sentryActs (modWard s (fun w => { w with running := false })) else s)

/-- R474: the sentry's answer. -/
def execHeartbeat (data : BitVec 128) (s : State) : Res :=
  let s := begin s
  .next (if s.ward.card == .service && s.ward.sentryArmed && !s.ward.sentryActed then
      emit s (.heartbeat (data.setWidth 64) (BitVec.ofNat 4 (cardCode s.ward.card)) s.ward.cause)
    else s)

/-! ### Power failure (R442-R445) -/

/-- R443: what loses power at once: every section's work, the rings, device memory and SRAM, the host interface and the time
counter, which stands still. -/
def unpowered (s : State) : State :=
  { s with
    rings := s.rings.map (fun e => (e.1, { e.2 with st := .lost, cause := 3, held := none, outstanding := 0 }))
    cmds := .all [], recs := .all [], cores := [], store := [], slate := [], commons := [], acc := [], colls := .all []
    tiers := { s.tiers with mem := [], poison := [], moves := [], held := [], upset := [] }
    hif := hifReset
    time := { s.time with lock := .free, link := none, frame := none, guard := false }
    power := { s.power with on := 0, waking := 0, dozeAt := [], wakeDue := 0 } }

/-- R442-R444: the input has failed: every switched domain stops without a drain, and the card never resumes work. -/
def powerFails (s : State) : State :=
  if s.ward.stage == .halted || s.ward.stage == .off then s
  else
    let last (t : Sec) : Nat := (getSteps s t).latest.getD 0
    let s := logClass s 0x10 0xF 0xF 0 (w64 (last 0 % 2 ^ 16 + last 1 % 2 ^ 16 * 2 ^ 16 + last 2 % 2 ^ 16 * 2 ^ 32
      + last 3 % 2 ^ 16 * 2 ^ 48))
    let s := if s.ward.card == .service then
        setCard (modWard s (fun w => { w with
          frame := w32 (frameNow s), suspectNs := s.time.ns, suspectFrame := w64 (frameNow s) })) .suspect causePower
      else s
    modWard (unpowered (departLinks s)) (fun w => { w with stage := .halted, drain := .none })

/-- R442. -/
def execPowerFailure (s : State) : Res := .next (powerFails (begin s))

/-- R443, R444, R544: the supply of the links is gone; the warden has written its flash within the hold-up time, and stops; with the hold-up energy not
yet charged it is open whether the writes came to their end. -/
def execHoldUpEnd (s : State) : Res :=
  let s := begin s
  .next (if s.ward.stage != .halted then s
    else
      let charged := decide (150000000 ≤ s.time.ns.toNat)
      let write := s.ward.running && (charged || Config.writtenAtStop s.fresh 0)
      let tail (t : Sec) : Option (W64 × BitVec 384) :=
        let r := getTrace s t
        if bit64 r.rlcfg 63 then some (w64 r.rlSeq, r.chain) else none
      let f : FlashRec := ⟨s.ward.errlog.drop (s.ward.errlog.length - 256), ⟨tail 0, tail 1, tail 2, tail 3⟩,
        ⟨(getSteps s 0).latest, (getSteps s 1).latest, (getSteps s 2).latest, (getSteps s 3).latest⟩⟩
      modWard { s with fresh := s.fresh + 1, links := [] } (fun w => { w with
        running := false, flashRec := if write then some f else w.flashRec }))

/-! ### Limits (R470, R533, R534, R537) -/

/-- A limit is exceeded: the card drains with cause THERMAL. -/
def limitReached (s : State) : State :=
  if s.ward.running then suspect s 0x11 causeThermal 0 else s

/-- Table 19.6a. -/
def execInputOvervoltage (mv : W16) (s : State) : Res :=
  let s := modPower (begin s) (fun w => { w with vin := mv })
  .next (if 66000 < mv.toNat then powerFails s else if 60000 < mv.toNat then limitReached s else s)

/-- Table 19.6b, in 1/160 A: the limit of a rail; 40 stands for the J1 input, which has no register. -/
def railLimit (k : Nat) : Nat :=
  if k < 16 then 960 else if k < 24 then 640 else if k < 28 then 1120 else if k < 37 then 400
  else if k == 37 then 80 else if k == 38 then 16 else if k == 39 then 400 else 8320

/-- R534. -/
def execRailOvercurrent (k : Fin 41) (amps : W16) (s : State) : Res :=
  let s := modPower (begin s) (fun w => { w with rail := if k.val < 40 then sset 0 w.rail k.val amps else w.rail })
  .next (if railLimit k.val < 10 * amps.toNat then limitReached s else s)

/-- Table 19.7, in 1/16 °C. -/
def tempLimit (k : Nat) : Int :=
  if k < 2 then 1680 else if k < 10 then 1520 else if k < 14 then 1760 else if k == 14 then 720 else 1040

/-- R537: a reading above its limit, or 0x8000. -/
def execThermalLimit (k : Fin 16) (reading : W16) (s : State) : Res :=
  let s := modPower (begin s) (fun w => { w with temp := sset 0 w.temp k.val reading })
  .next (if reading == 0x8000 || tempLimit k.val < reading.toInt then limitReached s else s)

end Sys2Proof.Machine
end

