-- ==== Sys2Proof/Machine/MemCmds.lean ====
section
/-!
DEFINITION. MIGRATE, HINT and CHECKPOINT; the switch of a page; patrol scrub.
-/
namespace Sys2Proof.Machine

/-! ### Pages of a command (R402) -/

def pgFirst (d : Desc) : Nat := ff d 8 8
def pgCount (d : Desc) : Nat := ff d 0x10 4
def pgKind (d : Desc) : Nat := ff d 0x14 1

def pgList (d : Desc) : List Nat := (List.range (pgCount d)).map (· + pageNo (pgFirst d))

/-- R402: every page lies in one enabled managed region of the section. -/
def inOneRegion (s : State) (t : Sec) (d : Desc) : Bool :=
  match regionOf s t (pgFirst d) with
  | some x => decide (pgFirst d + pageBytes * pgCount d ≤ mrgnBase x + mrgnBytes x)
  | none => false

/-- The card with both tiers awake: what reach says apart from dozing tiers. -/
def awake (s : State) : State := modPower s (fun w => { w with mdozeCanopy := false, mdozeBridge := false, waking := 0 })

/-- R188, R402, R492: the status of a MIGRATE or HINT whose pages break a rule; `moves` when pages would be copied. -/
def pageCheck (s : State) (t : Sec) (d : Desc) (moves : Bool) : Option (BitVec 8) :=
  if !reach (awake s) t false (pgFirst d) (pgFirst d + pageBytes * pgCount d) then some stDenied
  else if moves && (canopyDozing s || bridgeDozing s) then some stDenied
  else if pgFirst d % pageBytes != 0 || !inOneRegion s t d then some stBad
  else none

/-! ### Moves -/

/-- R377, R378: no recall that the move or its command needs is outstanding. -/
def moveRecalled (s : State) (m : PageMove) : Bool :=
  let all := match m.target with | some f => !holdsPoison s f | none => false
  !s.hif.dir.any (fun e => e.line / 32768 == m.page && (all || e.excl))
    && (match m.ord with
        | some o => (getCmds s m.sec).all (fun c => c.ord != o || recallsDone s m.sec c)
        | none => true)

/-- R203: nothing stands in the target frame. -/
def targetFree (s : State) (m : PageMove) : Bool :=
  match m.target with
  | some f => !s.tiers.pages.any (fun e => e.2.frame == some f && e.1 != m.page)
  | none => true

/-- R193: the granules of a page that were poisoned are recorded with KIND 0x4, SOURCE 0x3, at their home addresses. -/
def carryPoison (s : State) (t : Sec) (page : Nat) : State :=
  (List.range 8192).foldl (fun s i =>
    let a := pageBytes * page + 256 * i
    if isPoison s a then capMem s t a 4 3 else s) s

/-- R194, R204, R205: the bytes of the page copied, each granule decoded and encoded anew, and its new place. -/
def applyMove (s : State) (m : PageMove) : State :=
  let home := pageBytes * m.page
  let s := { s with tiers := { s.tiers with moves := s.tiers.moves.filter (fun x => x.page != m.page || x.target != m.target) } }
  match m.target with
  | some f =>
    let s := noteDecodes (carryPoison s m.sec m.page) home pageBytes
    let s := copyGranules s (place s home) f 8192
    modPage s m.page (fun q => { q with frame := some f, age := frameOf s })
  | none =>
    let ro := match regionAny s home with | some (_, x) => mrgnMode x == 1 | none => false
    match (getPage s m.page).frame with
    | none => s
    | some f =>
      let s := if ro then s else copyGranules (noteDecodes (carryPoison s m.sec m.page) home pageBytes) f home 8192
      modPage s m.page (fun q => { q with frame := none })

/-- R210: a page stands in the tier that a MIGRATE asks for. -/
def inTier (s : State) (toCanopy : Bool) (g : Nat) : Bool := (getPage s g).frame.isSome == toCanopy

/-- R210: MIGRATE goes on to its next page, or completes. -/
def pumpMigrate (s : State) (t : Sec) (c : Cmd) (pages : List Nat) (toCanopy : Bool) (copied : Nat) : State :=
  match pages.find? (fun g => !inTier s toCanopy g || s.tiers.moves.any (fun m => m.page == g)) with
  | none => complete s t c stOk 0 (resultOf [(0, 4, copied)])
  | some g =>
    if s.tiers.moves.any (fun m => m.page == g) then s
    else if toCanopy then
      match startResident s t (some c.ord) pages g with
      | some s => s
      | none => complete s t c stQuota 0 0
    else addMove s ⟨g, t, none, some c.ord⟩

def modPages (s : State) (pages : List Nat) (f : Page → Page) : State := pages.foldl (fun s g => modPage s g f) s

/-- R205-R210, R384: a page has switched: what waited for it goes on. A PIN takes effect once all its pages have moved. -/
def pumpMoves (s : State) (t : Sec) : State :=
  (getCmds s t).foldl (fun s c => match c.job with
    | .migrate pages up n => pumpMigrate s t c pages up n
    | .pin pages =>
      if pages.any (fun g => s.tiers.moves.any (fun m => m.page == g)) then s
      else complete (modPages s pages (fun q => { q with pinned := true })) t c stOk 0 0
    | _ => s) s

/-- R210: pages that a MIGRATE has copied. -/
def countMove (s : State) (m : PageMove) : State :=
  match m.ord with
  | none => s
  | some o => modCmd s m.sec o (fun c => match c.job with
    | .migrate pages up n => if pages.contains m.page then { c with job := .migrate pages up (n + 1) } else c
    | _ => c)

/-- R205: a move switches the page's location. -/
def execPageSwitch (page : W64) (s : State) : Res :=
  let s := begin s
  let g := pageNo page.toNat
  .next (match s.tiers.moves.find? (fun m => m.page == g) with
    | none => s
    | some m =>
      if moveBlocked s m || !moveRecalled s m || !targetFree s m || canopyDozing s || bridgeDozing s then s
      else
        let s := countMove (releaseHeld (applyMove s m) g) m
        allSecs.foldl (fun s t => pumpMoves (finishInline s t) t) s)

/-! ### MIGRATE -/

def migrateForm (d : Desc) : Bool :=
  headerOk d 0 && noStep d && onlyFields d [(8, 8), (0x10, 4), (0x14, 1)]
    && decide (1 ≤ pgCount d ∧ pgCount d ≤ 1048576)

/-- R210, R377: the command that a MIGRATE becomes: to the canopy it reads its blocks, to the understorey it writes them. -/
def migrateCmd (d : Desc) (c : Cmd) : Cmd :=
  let up := pgKind d == 1
  let bs := rangeBlocks [(pgFirst d, pageBytes * pgCount d)]
  { c with pages := pgList d, writes := if up then [] else bs, reads := if up then bs else []
           job := .migrate (pgList d) up 0 }

/-- R208, R377: a command is admitted with its pages and its recalls. -/
def admitPaged (s : State) (t : Sec) (c : Cmd) : State := addRecalls (touchPages (takeIn s t c) c.pages) t c.writes c.reads

/-- R210: a MIGRATE whose fields are in order. -/
def migrateRead (s : State) (t : Sec) (d : Desc) (c : Cmd) : State :=
  match pageCheck s t d true with
  | some st => completeRead s t c st 0 0
  | none => pumpMigrate (admitPaged s t (migrateCmd d c)) t (migrateCmd d c) (pgList d) (pgKind d == 1) 0

/-- R210, R402: MIGRATE. -/
def execMigrate (p : Pair) (d : Desc) (s : State) : Res :=
  .next (withRead s p 6 d (fun _ => migrateForm d && decide (pgKind d ≤ 1)) (fun s c => migrateRead s (secOf p) d c))

/-! ### HINT (Table 6.11) -/

def hintForm (s : State) (d : Desc) : Bool :=
  headerOk d 0 && noStep d && onlyFields d [(8, 8), (0x10, 4), (0x14, 1)]
    && decide (1 ≤ pgKind d ∧ pgKind d ≤ 6) && !(isA1 s && pgKind d == 6)

/-- A page that lies in the shared pool. -/
def inPool (s : State) (g : Nat) : Bool :=
  match (getPage s g).frame with
  | some f => blkOwner (getBlk s (f / blockBytes)) == 4
  | none => false

/-- PREFER_UNDER: resident pages, and pages on their way, leave the canopy. -/
def leaveAll (s : State) (t : Sec) (ord : Nat) (pages : List Nat) : State :=
  pages.foldl (fun s g =>
    if (getPage s g).frame.isSome && !s.tiers.moves.any (fun m => m.page == g) then addMove s ⟨g, t, none, some ord⟩ else s) s

/-- PIN: the pages of the pool move to own frames; none where one has no frame. -/
def ownFrames (s : State) (t : Sec) (ord : Nat) : List Nat → Option State
  | [] => some s
  | g :: gs =>
    if !inPool s g then ownFrames s t ord gs
    else
      match regionOf s t (pageBytes * g) with
      | none => none
      | some x =>
        match findFrame s t [] (mrgnProtect x) g true with
        | none => none
        | some (f, _) => ownFrames (addMove s ⟨g, t, some f, some ord⟩) t ord gs

/-- R207: a hint that has passed its checks. -/
def hintDo (s : State) (t : Sec) (c : Cmd) (kind : Nat) (pages : List Nat) : State :=
  let ok (s : State) : State := completeRead s t c stOk 0 0
  match kind with
  | 1 => ok (modPages s pages (fun q => { q with bound := true }))
  | 2 => ok (leaveAll (modPages s pages (fun q => { q with bound := false })) t c.ord pages)
  | 3 =>
    (match ownFrames s t c.ord pages with
    | none => completeRead s t c stQuota 0 0
    | some u =>
      let here := pages.filter (fun g => (getPage s g).frame.isSome)
      if here.any (fun g => u.tiers.moves.any (fun m => m.page == g)) then takeIn u t { c with pages := [], job := .pin here }
      else ok (modPages u here (fun q => { q with pinned := true })))
  | 4 => ok (modPages s pages (fun q => { q with pinned := false }))
  | 5 =>
    (match startAll s t (some c.ord) pages (pages.filter (fun g => (getPage s g).bound)) with
    | none => completeRead s t c stQuota 0 0
    | some u => ok u)
  | _ => ok (modPages s (pages.filter (inPool s)) (fun q => { q with age := 0 }))

/-- R207, R402: HINT; the descriptor's KIND says which. -/
def hint (p : Pair) (d : Desc) (s : State) : State :=
  withRead s p 7 d (fun s => hintForm s d) (fun s c =>
    let t := secOf p
    match pageCheck s t d (pgKind d == 5) with
    | some st => completeRead s t c st 0 0
    | none => hintDo (touchPages s (pgList d)) t c (pgKind d) (pgList d))

/-- R207: PREFER_CANOPY. -/
def execPreferCanopy (p : Pair) (d : Desc) (s : State) : Res := .next (hint p d s)
/-- R207: PREFER_UNDER. -/
def execPreferUnder (p : Pair) (d : Desc) (s : State) : Res := .next (hint p d s)
/-- R207: PIN. -/
def execPin (p : Pair) (d : Desc) (s : State) : Res := .next (hint p d s)
/-- R207: UNPIN. -/
def execUnpin (p : Pair) (d : Desc) (s : State) : Res := .next (hint p d s)
/-- R207: WILLNEED. -/
def execWillneed (p : Pair) (d : Desc) (s : State) : Res := .next (hint p d s)
/-- R207: COLD. -/
def execCold (p : Pair) (d : Desc) (s : State) : Res := .next (hint p d s)

/-! ### CHECKPOINT (R404, R436, R437) -/

def ckTranche (d : Desc) : Nat := ff d 8 4
def ckRanges (d : Desc) : Nat := ff d 0xC 1
def ckDigest (d : Desc) : Nat := ff d 0x10 8

/-- The range entries: (SRC, DST, BYTES). -/
def ckList (d : Desc) : List (Nat × Nat × Nat) :=
  let b := followBytes d
  (List.range (ckRanges d)).map (fun i =>
    let f (k : Nat) : Nat := leNat ((b.drop (32 * i + k)).take 8)
    (f 0, f 8, f 16))

def ckForm (d : Desc) : Bool :=
  let n := ckRanges d
  let b := followBytes d
  headerOk d ((n + 1) / 2) && noStep d && onlyFields d [(8, 4), (0xC, 1), (0x10, 8)] && decide (1 ≤ n ∧ n ≤ 14)
    && (List.range n).all (fun i => ((b.drop (32 * i + 24)).take 8).all (· == 0)) && (b.drop (32 * n)).all (· == 0)

def isUnder (a n : Nat) : Bool := decide (underBase ≤ a ∧ a + n ≤ underEnd)

/-- R404: no DST overlaps a SRC, another DST or the digest. -/
def ckApart (rs : List (Nat × Nat × Nat)) (dig : Nat) : Bool :=
  (rs.mapIdx (fun i r => (i, r))).all (fun x => !overlap x.2.2.1 x.2.2.2 dig 64
    && (rs.mapIdx (fun j q => (j, q))).all (fun y => !overlap x.2.2.1 x.2.2.2 y.2.1 y.2.2.2
      && (x.1 == y.1 || !overlap x.2.2.1 x.2.2.2 y.2.2.1 y.2.2.2)))

def ckCheck (s : State) (t : Sec) (d : Desc) : Option (BitVec 8) :=
  let rs := ckList d
  let g := ckDigest d
  if !rs.all (fun r => reach s t false r.1 (r.1 + r.2.2) && reach s t true r.2.1 (r.2.1 + r.2.2)) || !reach s t true g (g + 64) then
    some stDenied
  else if !rs.all (fun r => r.1 % 256 == 0 && r.2.1 % 256 == 0 && r.2.2 % 256 == 0 && isUnder r.2.1 r.2.2
      && !touchesHole s r.1 (r.1 + r.2.2)) || !ckApart rs g || g % 64 != 0 || !isUnder g 64 then some stBad
  else none

/-- R404: CHECKPOINT. -/
def execCheckpoint (p : Pair) (d : Desc) (s : State) : Res :=
  .next (withRead s p 8 d (fun _ => ckForm d) (fun s c =>
    let t := secOf p
    match ckCheck s t d with
    | some st => completeRead s t c st 0 0
    | none =>
      let rs := ckList d
      let pages := ((rs.flatMap (fun r => pagesIn s t r.1 (r.1 + r.2.2) ++ pagesIn s t r.2.1 (r.2.1 + r.2.2)))
        ++ pagesIn s t (ckDigest d) (ckDigest d + 64)).eraseDups
      match makeResident s t c.ord pages with
      | none => completeRead s t c stQuota 0 0
      | some s =>
        let w := (rangeBlocks (rs.map (fun r => r.2) ++ [(ckDigest d, 64)])).eraseDups
        let r := (rangeBlocks (rs.map (fun r => (r.1, r.2.2)))).eraseDups.filter (fun b => !w.contains b)
        let c := { c with pages := pages, writes := w, reads := r
                          job := .checkpoint ⟨ckTranche d, rs, ckDigest d, false, 0, 0⟩ }
        addRecalls (touchPages (takeIn s t c) pages) t w r))

/-- R404: every RUN and GROVE command of the section read before it has completed. -/
def workBefore (s : State) (t : Sec) (c : Cmd) : Bool :=
  (getCmds s t).any (fun d => (isRunOp d || isGroveOp d) && decide (d.ord < c.ord))

/-- R437: the copy begins: 64 bytes of 0 at DIGEST_ADDR. -/
def execCheckpointCopyStart (t : Sec) (s : State) : Res :=
  let s := begin s
  .next (match (getCmds s t).find? (fun c => match c.job with | .checkpoint k => !k.started | _ => false) with
    | none => s
    | some c =>
      if workBefore s t c || !residencyDone s c || !recallsDone s t c then s
      else match c.job with
        | .checkpoint k =>
          let s := wrDev s k.digest (List.replicate 64 0)
          modCmd s t c.ord (fun c => { c with job := .checkpoint { k with
            started := true, startFrame := frameNow s, nextStep := nextStepOf (getSteps s t) } })
        | _ => s)

/-- Table 15.12. -/
def digestRecord (s : State) (t : Sec) (k : CkptJob) (poisoned crc : Nat) : List Nat :=
  let lost := !isA1 s && bit64 (getSect s t).errLoss 0
  let b := leBytes 4 0x4B484354 ++ leBytes 4 k.tranche ++ leBytes 8 k.nextStep
    ++ leBytes 8 ((k.ranges.map (fun r => r.2.2)).foldl (· + ·) 0) ++ [k.ranges.length, b2n lost, 0, 0] ++ leBytes 4 crc
    ++ leBytes 8 poisoned ++ leBytes 8 k.startFrame ++ leBytes 8 (frameNow s)
  b ++ leBytes 4 (crc32c b) ++ [0, 0, 0, 0]

/-- R436, R437: the last byte has been copied; the digest record is written and the command completes. -/
def execTrancheDigestWrite (t : Sec) (s : State) : Res :=
  let s := begin s
  .next (match (getCmds s t).find? (fun c => match c.job with | .checkpoint k => k.started | _ => false) with
    | none => s
    | some c =>
      match c.job with
      | .checkpoint k =>
        let gs := ckptGranules k
        let bad := (gs.filter (fun g => isPoison s g.1)).length
        let crc := crc32c (k.ranges.flatMap (fun r => rdDevBytes s r.1 r.2.2))
        let s := ckptCopyAll s t gs
        let s := wrDev s k.digest (digestRecord s t k bad crc)
        complete s t c stOk 0 (resultOf [(0, 8, (k.ranges.map (fun r => r.2.2)).foldl (· + ·) 0)])
      | _ => s)

/-! ### Patrol scrub (R194) -/

/-- R196: the section that an error at a physical place belongs to, and the address it is recorded with. -/
def errOwner (s : State) (a : Nat) : Option (Sec × Nat) :=
  match s.tiers.pages.find? (fun e => match e.2.frame with | some f => decide (f ≤ a ∧ a < f + pageBytes) | none => false) with
  | some (g, _) =>
    let home := pageBytes * g + a % pageBytes
    (regionAny s home).map (fun x => (x.1, home))
  | none => (blockOf a).bind (fun b => (allSecs.find? (fun t => ownedBy s t b)).map (fun t => (t, a)))

/-- R193, R194, R196: patrol scrub reads one granule. Plain canopy granules are not scrubbed. -/
def execPatrolScrub (granule : BitVec 40) (r : ScrubFind) (s : State) : Res :=
  let s := begin s
  let a := granule.toNat * 256
  .next (if !holdsPoison s a || (blockOf a).isNone || dozing s a then s
    else
      let s := { s with tiers := { s.tiers with scrubPos := granule.toNat } }
      let k := tierIndex a
      match r with
      | .clean => s
      | .corrected n =>
        logClass (addCe (clearUpset s granule.toNat) k (if a < canopyEnd then min n 1 else n)) 1 0xF 5 k 0
      | .uncorrectable =>
        let s := poisonGranule s a
        match errOwner s a with
        | some (t, home) => capMem s t home (if a < canopyEnd then 1 else 2) 4
        | none => logClass s 5 0xF 5 k 0)

end Sys2Proof.Machine
end

