-- ==== Sys2Proof/Machine/Reshard.lean ====
section
/-!
DEFINITION. RESHARD (R343, R407): reading, start and end.
-/
namespace Sys2Proof.Machine

/-! ### Form -/

def rsStart (d : Desc) : Nat := ff d 8 8

/-- The bytes of a list as a memory that starts at 0. -/
def listMem (bs : List Nat) : Memory := bs.mapIdx (fun i b => (i, BitVec.ofNat 8 b)) |>.filter (fun e => e.2 != 0)

/-- The 128 bytes of the collective entry. -/
def rsEntry (d : Desc) : Memory := listMem (followBytes d)
def rsColl (d : Desc) : Coll := collIn (rsEntry d) 0

/-- R407, R399: the form of a RESHARD. -/
def rsForm (d : Desc) : Bool :=
  let c := rsColl d
  headerOk d 2 && noStep d && onlyFields d [(8, 8)] && rsStart d != 0 && c.kind == 5
    && collFieldsOk c (collRsvOk (rsEntry d) 0) && (c.listOff != 0 || c.listCount == 0)

/-! ### Checks -/

/-- R343: no open step, no admitted GATED command and no running GROVE command. -/
def rsAllowed (s : State) (t : Sec) : Bool :=
  !stepOpen (getSteps s t) && (grovesOf s t).all (fun x => !x.2.started && !(groveOf x.2.bits).gated)

/-- The bytes of a collective tensor. -/
def tensorSpan (t : Tensor) : Nat × Nat := (t.base.toNat, rowBytes t)

/-- The entry with its lists as device memory holds them, at offset 0 of memories of their own. -/
def rsMembers (s : State) (c : Coll) : List Nat :=
  memberList (listMem (rdDevBytes s c.memberOff (2 * c.members))) { c with memberOff := 0 }
def rsMoveMem (s : State) (c : Coll) : Memory := listMem (rdDevBytes s c.listOff (32 * c.listCount))
def rsMoves (s : State) (c : Coll) : List Move := moveList (rsMoveMem s c) { c with listOff := 0 }

/-- The ranges of a RESHARD: those it reads and those it writes. -/
def rsReads (g : Image) (c : Coll) : List (Nat × Nat) :=
  [(c.memberOff, 2 * c.members), (c.listOff, 32 * c.listCount), tensorSpan (tensorAt g c.src)]
def rsWrites (g : Image) (c : Coll) : List (Nat × Nat) :=
  [tensorSpan (tensorAt g c.dst), tensorSpan (tensorAt g c.scratch)]

/-- R322, R305, R306, R188, R189: the status of an entry that breaks a rule. -/
def rsCheck (s : State) (t : Sec) (g : Image) (c : Coll) : Option (BitVec 8) :=
  if !(named g c.src && named g c.dst && named g c.scratch) then some stBad
  else
    let rd := rsReads g c
    let wr := rsWrites g c
    if !rd.all (fun r => reach s t false r.1 (r.1 + r.2)) || !wr.all (fun r => reach s t true r.1 (r.1 + r.2)) then some stDenied
    else
      let ms := rsMembers s c
      if (rd ++ wr).any (fun r => touchesHole s r.1 (r.1 + r.2))
          || !(collTensorOk (tensorAt g c.src) && collTensorOk (tensorAt g c.dst) && collTensorOk (tensorAt g c.scratch))
          || !collFormats c (tensorAt g c.src) (tensorAt g c.dst) || !collRounding c (tensorAt g c.src) (tensorAt g c.dst)
          || !ascending ms || !ms.contains g.logicalId
          || !moveListOk (rsMoveMem s c) { c with listOff := 0 }
          || !collSizesOk c (rankOf ms g.logicalId) (tensorAt g c.src) (tensorAt g c.dst) (rsMoves s c) then some stBad
      else none

/-! ### Reading, start and end -/

/-- R208, R377: a RESHARD that has passed its checks is admitted, or completes QUOTA. -/
def admitReshard (s : State) (t : Sec) (d : Desc) (c : Cmd) (g : Image) (x : Coll) : State :=
  let rd := rsReads g x
  let wr := rsWrites g x
  let pages := ((rd ++ wr).flatMap (fun r => pagesIn s t r.1 (r.1 + r.2))).eraseDups
  match makeResident s t c.ord pages with
  | none => completeRead s t c stQuota 0 0
  | some u =>
    let w := (rangeBlocks wr).eraseDups
    let r := (rangeBlocks rd).eraseDups.filter (fun b => !w.contains b)
    let c := { c with pages := pages, writes := w, reads := r
                      job := .reshard ⟨x, rsMembers s x, rsMoves s x, rsStart d, false⟩ }
    addRecalls (touchPages (takeIn u t c) pages) t w r

/-- R343, R407: RESHARD. -/
def execReshard (p : Pair) (d : Desc) (s : State) : Res :=
  .next (withRead s p 0x0C d (fun _ => rsForm d) (fun s c =>
    let t := secOf p
    match s.images.get t with
    | none => completeRead s t c stBad 0 0
    | some g =>
      if !rsAllowed s t then completeRead s t c stAborted 0 0
      else
        match rsCheck s t g (rsColl d) with
        | some st => completeRead s t c st 0 0
        | none =>
          if !startFits s t (rsStart d) then
            completeRead (capLate s t (rsStart d) (ringIx p)) t c stOverrun 5 0
          else admitReshard s t d c g (rsColl d)))

/-- The RESHARD whose start frame has come. -/
def dueReshard (s : State) (t : Sec) : Option (Cmd × ReshardJob) :=
  if s.time.frame.isNone then none
  else (getCmds s t).findSome? (fun c => match c.job with
    | .reshard r => if !r.started && decide (r.start ≤ frameOf s) then some (c, r) else none
    | _ => none)

/-- R407, R305: at START_FRAME the units are read and sent, and those of other cards are taken in; it
waits for its pages and its recalls (R208, R377). -/
def execReshardStart (t : Sec) (s : State) : Res :=
  let s := begin s
  .next (match dueReshard s t with
    | none => s
    | some (c, r) =>
      if !residencyDone s c || !recallsDone s t c then s
      else pumpSection (modCmd s t c.ord (fun c => { c with job := .reshard { r with started := true } })) t)

/-- R407: the frames of a RESHARD have passed. -/
def reshardOver (s : State) (r : ReshardJob) : Bool := r.started && decide (r.start + levelStart r.coll 1 ≤ frameOf s)

/-- R308, R344, R407, R434: a started RESHARD ends. -/
def endReshard (s : State) (t : Sec) (c : Cmd) (r : ReshardJob) (status detail : BitVec 8) : State :=
  let y := getColl s t c.ord
  let n := match s.images.get t with
    | some g => (unitsIn s ⟨t, c.ord, g, 0, r.coll, r.members, r.moves, [], r.start, 0⟩).length
    | none => 0
  let s := if status != stOk && c.stop != some .lost && !y.wrote.isEmpty then capLoss s t none c.id 2 else s
  complete s t c status detail (resultOf [(0, 4, n)])

end Sys2Proof.Machine
end

