-- ==== Sys2Proof/Machine/Bell.lean ====
section
/-!
DEFINITION. The bell (R60): the tick, and the guard band with its checks (R79-R82).
-/
namespace Sys2Proof.Machine

/-! ### The guard band -/

/-- A frame overrun that a detector finds: cause, physical core or 0xFF, path or 0xFF. -/
structure Over where
  cause : Nat
  core : Nat
  path : Nat
  deriving DecidableEq, Repr

/-- R81: the lowest cause, then the lowest core, or else the lowest path. -/
def Over.before (a b : Over) : Bool :=
  decide (a.cause < b.cause) || (a.cause == b.cause && (decide (a.core < b.core) || (a.core == b.core && decide (a.path < b.path))))

def lowest (xs : List Over) : Option Over :=
  xs.foldl (fun (m : Option Over) x => match m with
    | none => some x
    | some y => if x.before y then some x else some y) none

/-- R79: the cores of a running RUN. -/
def coreOvers (s : State) (x : CoreRun) : List Over :=
  (coresOf x.g.clusterMask).filterMap (fun q => (coreOverrun s x q).map (fun k => ⟨k, physCore s q, 0xFF⟩))

/-- R79, R227: its streams. -/
def streamOvers (s : State) (x : CoreRun) : List Over :=
  ((List.range (streamCount x.g)).map (streamAt x.g)).filterMap (fun y =>
    if streamLate s x y then some ⟨2, 0xFF, streamPath s x y⟩ else none)

/-- R79, R276: a link on which a scheduled flit of the section was discarded, has not left, or is still being replayed. -/
def linkLate (s : State) (t : Sec) (l : Nat) : Bool :=
  let x := getLink s l
  let y := getSpace x t.val
  x.cut.getLsbD t.val || y.replay.isSome || y.queue.any (fun b => b.type != 3 && decide (b.frame ≤ frameOf s))

def linkOvers (s : State) (t : Sec) : List Over :=
  (List.range 36).filterMap (fun l => if linkLate s t l then some ⟨4, 0xFF, l⟩ else none)

/-- R307: the collectives of a section that overrun, for one command. -/
def collOvers (s : State) (xs : List CollRun) : List Over := xs.filterMap (fun x => (collOverrun s x).map (fun l => ⟨4, 0xFF, l⟩))

/-- R79: a micro-batch that should have begun and has not: none of its bundles has retired. -/
def startMissed (s : State) (t : Sec) : List Over :=
  match runningRun s t, s.images.get t with
  | some (_, r), some g =>
    if decide (r.mb < r.variants.length) && decide (r.start + framesIn g (r.variants.take r.mb) ≤ frameOf s) then
      (coresOf g.clusterMask).map (fun q => ⟨1, physCore s q, 0xFF⟩)
    else []
  | _, _ => []

/-- R79: the overruns of the running RUN. -/
def runOvers (s : State) (t : Sec) : List Over :=
  match sectionRun s t with
  | none => startMissed s t
  | some x => startMissed s t ++ coreOvers s x ++ streamOvers s x ++ linkOvers s t ++ collOvers s (runColls s t)

/-- R252, R258: how far the channels of a stack with the most work are from their end, after the granted frames: the work
that the budget leaves, and where it leaves none anywhere, what they needed (log entry 27). -/
def stackLeft (s : State) (t : Sec) (r : GroveRec) (stack : Nat) : Nat :=
  let left (k : Nat) : Nat := stackNeed s r k - budgetOf s t k * r.limit
  if (List.range 8).all (fun k => left k == 0) then stackNeed s r stack else left stack

/-- R258: a timed GROVE command whose last granted frame ends. -/
def groveOver (s : State) (t : Sec) (g : GroveJob) : Option Over :=
  let r := groveOf g.bits
  if g.started && r.limit != 0 && decide (g.start.getD 0 + r.limit ≤ frameOf s + 1) then
    let best := (List.range 8).foldl (fun (m : Nat × Nat) k =>
      let n := stackLeft s t r k; if m.2 < n then (k, n) else m) (0, 0)
    some ⟨3, 0xFF, 36 + best.1⟩
  else none

/-- R307, R407: a RESHARD whose frames end with work left. -/
def reshardOvers (s : State) (t : Sec) (c : Cmd) (r : ReshardJob) : List Over :=
  let ends := r.start + levelStart r.coll 1 == frameOf s + 1
  if r.started then linkOvers s t ++ collOvers s ((reshardColls s t).filter (fun x => x.ord == c.ord))
  else if ends then [⟨4, 0xFF, (collLinks r.coll).headD 0⟩] else []

/-- The overruns of a section's commands: each command with its first. -/
def sectionOvers (s : State) (t : Sec) : List (Cmd × Over) :=
  (getCmds s t).filterMap (fun c =>
    if c.stop == some .lost then none
    else match c.job with
      | .run r => if r.started && decide (frameOf s ≤ plannedLast s t r) then (lowest (runOvers s t)).map (fun o => (c, o)) else none
      | .grove g => (groveOver s t g).map (fun o => (c, o))
      | .reshard r => (lowest (reshardOvers s t c r)).map (fun o => (c, o))
      | _ => none)

/-- R81: an overrun joins a list in the order of R81. -/
def insertOver (x : Cmd × Over) : List (Cmd × Over) → List (Cmd × Over)
  | [] => [x]
  | y :: ys => if x.2.before y.2 then x :: y :: ys else y :: insertOver x ys

/-- R81: the overruns of a section's commands in the order of R81, the lowest recorded first. -/
def noteOvers (s : State) (t : Sec) : State :=
  ((sectionOvers s t).foldr insertOver []).foldl (fun s x =>
    let s := modCmd s t x.1.ord (fun c => setStop c (.overrun x.2.cause))
    capOvr s t (frameOf s) x.2.core x.2.cause x.2.path (ringIx x.1.pair)) s

/-- The command is to stop for an overrun. -/
def overruns (c : Cmd) : Bool := match c.stop with | some (.overrun _) => true | _ => false

/-- R401: a micro-batch whose last frame has passed the check of its guard band, whatever stop takes effect there. -/
def countMb (s : State) (t : Sec) : State :=
  match sectionRun s t with
  | some x => if !overruns x.cmd && mbLast x == frameOf s then modRun s t x.cmd.ord (fun r => { r with done := r.done + 1 }) else s
  | none => s

def clearCuts (s : State) : State :=
  (List.range 36).foldl (fun s l => if (getLink s l).cut == 0 then s else modLink s l (fun x => { x with cut := 0 })) s

/-- R62, R79: the guard band of the present frame begins. -/
def guardWork (s : State) : State :=
  match s.time.frame with
  | none => s
  | some n =>
    if s.time.guard then s
    else
      let s := endHoldover (modTime s (fun x => { x with ns := w64 (tickNs s (n + 1) - 200), frac := 0, guard := true }))
      let s := leaveDeparted s
      clearCuts (allSecs.foldl (fun s t => countMb (noteOvers s t) t) s)

/-- R79: GUARD_BAND. -/
def execGuardBand (s : State) : Res := .next (guardWork (begin s))

/-! ### Stops at the tick -/

/-- R308: the pending sends of a section's stopped RUN or RESHARD are discarded, but for the blocks that SEND has handed
over (R173). -/
def dropSends (s : State) (t : Sec) : State :=
  (List.range 36).foldl (fun s l => if (getSpace (getLink s l) t.val).queue.isEmpty then s
    else modLink s l (fun x => modSpace x t.val (fun y => { y with queue := y.queue.filter (fun b => b.type == 1) }))) s

/-- Table 14.10: the status and DETAIL of a stop. -/
def stopStatus : Stop → BitVec 8 × BitVec 8
  | .overrun k => (stOverrun, BitVec.ofNat 8 k)
  | .aborted => (stAborted, 0)
  | .drained => (stDrained, 0)
  | .lost => (stAborted, 0)

/-- R58, R80, R258, R384, R408: a command that is to stop stops at the tick that ends frame `last`. -/
def stopOne (s : State) (t : Sec) (last : Nat) (c : Cmd) : State :=
  match c.stop with
  | none => s
  | some x =>
    let (st, d) := stopStatus x
    match c.job with
    | .run r => dropSends (endRun (discardRun (partialSpills s t) t) t c r last st d) t
    | .grove g => stopGrove s t c g st d
    | .reshard r => dropSends (endReshard s t c r st d) t
    | _ => complete s t c st d 0

def stopSection (s : State) (t : Sec) (last : Nat) : State :=
  (getCmds s t).foldl (fun s c => match findCmd s t c.ord with | some c => stopOne s t last c | none => s) s

/-! ### Late starts -/

/-- R209, R330: a follow-on RUN read with nothing running counts as read when its residency completes; later follow-ons
move with it. -/
def rebase (s : State) (t : Sec) (n : Nat) : State :=
  match runsOf s t with
  | (c, r) :: _ =>
    if r.loose && !r.started && !residencyDone s c then
      let s := modRun s t c.ord (fun r => { r with start := max r.start (n + 2) })
      ((runsOf s t).drop 1).foldl (fun (a : State × Nat × Bool) x =>
        let (s, next, go) := a
        if go && x.2.follow then
          (modRun s t x.1.ord (fun r => { r with start := next }), next + runFrames s t x.2, true)
        else (s, next, false)) (s, (match (runsOf s t).head? with | some y => plannedLast s t y.2 + 1 | none => 0), true) |>.1
    else s
  | [] => s

/-- R490: a cluster that dozes. -/
def isDozing (s : State) (c : Nat) : Bool := s.power.dozeAt.any (fun e => e.1 == c)

/-- R490: every cluster of the section's image is awake. -/
def clustersAwake (s : State) (t : Sec) : Bool :=
  match s.images.get t with
  | some g => (List.range 16).all (fun c => !(g.clusterMask.getLsbD c && isDozing s c))
  | none => true

/-- R75, R209, R330, R377, R421, R490: at tick START − 1 a RUN that cannot start. -/
def runLate (s : State) (t : Sec) (c : Cmd) (r : RunJob) : Bool :=
  !residencyDone s c || !recallsDone s t c || !clustersAwake s t
    || (match r.refRec with | some a => digestsLate s c a | none => false)
    || (runsOf s t).any (fun x => decide (x.1.ord < c.ord) && decide (r.start ≤ plannedLast s t x.2))
    || (match rollOf s t c with | some f => decide (f ≤ plannedLast s t r) | none => false)

/-- R254, R377: at tick START − 1 a GROVE command that cannot start: the failing check of Table 8.7, or the cause. -/
def groveLate (s : State) (t : Sec) (c : Cmd) (g : GroveJob) (start : Nat) : Option Nat :=
  let earlier := (grovesOf s t).filter (fun x => decide (x.1.ord < c.ord))
  if !residencyDone s c || !recallsDone s t c then some 5
  else if earlier.any (fun x => match grantEnd x.2 with | some e => decide (start < e) | none => !g.follow) then some 6
  else none

/-- R255: the roll call that a GATED command waits for returns no later than the present tick. -/
def gateDue (s : State) (t : Sec) (step : Nat) : Bool :=
  match gatePend s t step with
  | some q => decide (rollFrame s t q (depthOf q.devices + 1) ≤ frameOf s)
  | none => false

/-- One admitted command at tick n. -/
def lateOne (s : State) (t : Sec) (n : Nat) (c : Cmd) : State :=
  match c.job with
  | .run r =>
    if !r.started && r.start == n + 1 && runLate s t c r then
      complete (capLate s t r.start (ringIx c.pair)) t c stOverrun 5 0
    else s
  | .grove g =>
    (match g.start with
    | none => s
    | some a =>
      if g.started || n + 1 < a then s
      else
        match g.gate with
        | some k => if a == n + 1 && gateDue s t k then s else refuseGate (markLate s t k) t c a stOverrun
        | none =>
          if a != n + 1 then s
          else match groveLate s t c g a with
            | some d => complete (capLate s t a (ringIx c.pair)) t c stOverrun (BitVec.ofNat 8 d) 0
            | none => s)
  | _ => s

def lateSection (s : State) (t : Sec) (n : Nat) : State :=
  let s := rebase s t n
  (getCmds s t).foldl (fun s c => match findCmd s t c.ord with | some c => lateOne s t n c | none => s) s

/-! ### The tick -/

/-- R283: the link that in-band time is taken from in the new frame. -/
def pickTimeLink (s : State) : State :=
  let ok (l : Nat) : Bool := linkState s l == lsActive && (getLink s l).timeOk
  let keep := match s.time.link with | some m => ok m.val | none => false
  let next := if s.time.src == 1 then none else if keep then s.time.link else allLinks.find? (fun l => ok l.val)
  let s := modTime s (fun x => { x with link := next })
  (List.range 36).foldl (fun s l =>
    let src := match next with | some m => m.val == l | none => false
    let x := getLink s l
    if !x.timeOk && x.timeSrc == src then s
    else modLink s l (fun x => { x with timeOk := false, timeSrc := src, timeDiff := x.timeDiff && !src })) s

/-- R290: the slot 0 that begins is the last in which a departed partner may be heard. -/
def markDeparted (s : State) : State :=
  (List.range 36).foldl (fun s l => if (getLink s l).departRx then modLink s l (fun x => { x with departWait := true }) else s) s

/-- R426, R542: a card drain goes on to the new slot 0; with no ACTIVE link the card departs at the tick. -/
def tickDrain (s : State) : State :=
  if s.ward.drain != .armed then s
  else if (lowestActive s).isNone then depart s
  else modWard s (fun w => { w with drain := .send })

/-- What a section does at tick n. -/
def tickSection (n : Nat) (s : State) (t : Sec) : State :=
  let s := stopSection s t (n - 1)
  let s := (getCmds s t).foldl (fun s c => match c.job with
    | .reshard r => if reshardOver s r then endReshard s t c r stOk 0 else s
    | _ => s) s
  pumpSection (lateSection s t n) t

/-- R408, R426: what the guard band that ends has still to do. -/
def endGuard (s : State) : State :=
  let s := guardWork s
  if s.time.frame.isNone then s
  else
    let s := if s.ward.drain == .guard then drainCard s else s
    allSecs.foldl (fun s t => finishDrains (drainTakes s t) t) s

/-- R56, R60, R66: the next tick. A HOLDOVER that ends before it is lost before it. -/
def tickWork (s : State) : State :=
  let s := endGuard s
  let n := nextTick s
  let s := endHoldover (modTime s (fun x => { x with ns := w64 (tickNs s n - 1), frac := 0xFFFFFFFF }))
  let s := modTime s (fun x => { x with ns := w64 (tickNs s n), frac := 0, frame := some n, guard := false })
  let s := { s with budget := .all budgetReset, slotsNow := s.slots }
  endHoldover (tickDrain (markDeparted (pickTimeLink (allSecs.foldl (tickSection n) s))))

end Sys2Proof.Machine
end

