-- ==== Sys2Proof/Machine/HostIf.lean ====
section
/-!
DEFINITION. The host interface: link training and loss, snoops and the host-memory cache, the window, its inbound buffer
and the back-invalidate directory.
-/
namespace Sys2Proof.Machine

/-! ### The link (R359-R362) -/

/-- R540: MEASURE is complete, so the host interface answers configuration requests. -/
def measured (s : State) : Bool :=
  match s.ward.stage with
  | .off => false | .present => false | .boot => false | .halted => false
  | _ => true

/-- R360: window and rings are available. -/
def windowUp (s : State) : Bool := s.hif.mode == 2 && s.ward.stage != .halted

/-- Table 13.2. -/
def modeOf (speed : BitVec 4) (width : BitVec 5) (cacheEn memEn : Bool) : BitVec 4 :=
  if cacheEn && memEn && ((speed == 6 && (width == 16 || width == 8)) || (speed == 5 && width == 16)) then 2 else 1

/-- R359, Table 13.4: what training can end in. -/
def trains (speed : BitVec 4) (width : BitVec 5) : Bool :=
  decide (1 ≤ speed.toNat ∧ speed.toNat ≤ 6) && [1, 2, 4, 8, 16].contains width.toNat

/-- R360: training of the host link completes. -/
def execHostLinkTraining (speed : BitVec 4) (width : BitVec 5) (cacheEn memEn : Bool) (s : State) : Res :=
  let s := begin s
  .next (if trains speed width then
      modHif s (fun h => { h with mode := modeOf speed width cacheEn memEn, speed := speed, width := width,
                                  cacheEn := cacheEn, memEn := memEn })
    else s)

/-- R368: the first configuration write after a fundamental reset sets HOST_RID; R540: none is accepted before MEASURE. -/
def execConfigurationWrite (rid : W16) (s : State) : Res :=
  let s := begin s
  .next (if measured s && !s.hif.ridSet then modHif s (fun h => { h with hostRid := rid, ridSet := true }) else s)

/-- R368: a CXL.io memory request from another requester than HOST_RID is refused, and logged. -/
def execCxlIoMemoryRequest (rid : W16) (posted : Bool) (s : State) : Res :=
  let s := begin s
  .next (if s.hif.ridSet && s.hif.hostRid == rid then s
    else
      let s := if posted then s else emit s .unsupported
      logError (emit s .aer) 0xC 1 0xF 0xF 0 0)

/-- R505: a BAR0 access that is not an aligned 4- or 8-byte access. -/
def execMisalignedAccess (addr : BitVec 25) (bytes : Nat) (_write : Bool) (s : State) : Res :=
  let s := begin s
  .next (if (bytes == 4 || bytes == 8) && addr.toNat % bytes == 0 then s else emit (emit s .abort) .aer)

/-- R361, R363: an HDM decoder is committed; with more than one way its commit fails. -/
def execHdmDecoderCommit (k : Fin 2) (base : W64) (ways : Nat) (s : State) : Res :=
  let s := begin s
  let x := if ways == 1 then some base.toNat else none
  .next (modHif s (fun h => if k = 0 then { h with hdm0 := x } else { h with hdm1 := x }))

/-- R362: HDM_OK. -/
def hdmOk (s : State) : Bool := s.hif.hdm0.isSome && s.hif.hdm1.isSome

/-! ### Snoops (R370-R372) -/

/-- A line that the device holds in the cache proper, or whose eviction the host has not answered. -/
def snoopState (s : State) (line : Nat) : Option (LineSt × BitVec 512) :=
  match cacheLine s line with
  | some x => some (x.st, x.data)
  | none => (s.hif.stale.find? (fun e => e.1 == line)).map (fun e => (.evicting true, e.2))

def setLineSt (s : State) (line : Nat) (st : LineSt) : State :=
  modHif s (fun h => { h with cache := h.cache.map (fun e => if e.1 == line then (e.1, { e.2 with st := st }) else e) })

/-- R371, R392: a doorbell line in S is invalidated: its pair is rung. -/
def ringBell (s : State) (line : Nat) : State :=
  allPairs.foldl (fun s p =>
    if (getRing s p).enable && (getRing s p).dbAddr.toNat / 64 == line then modRing s p (fun r => { r with rung := true })
    else s) s

/-- Table 13.9, SnpData. -/
def execSnpData (line : W64) (s : State) : Res :=
  let s := begin s
  let l := line.toNat / 64
  .next (if !windowUp s then s
    else match snoopState s l with
    | none => emit s (.snoop .iHitI none)
    | some (.s, _) => emit s (.snoop .sHitSE none)
    | some (.e, _) => emit (setLineSt s l .s) (.snoop .sHitSE none)
    | some (.m, x) => emit (setLineSt s l .s) (.snoop .sFwdM (some x))
    | some (.evicting _, x) => emit (setLineSt s l (.evicting true)) (.snoop .iFwdM (some x))
    | some (.cleanPending, _) => emit s (.snoop .iHitSE none))

/-- Table 13.9, SnpInv. -/
def execSnpInv (line : W64) (s : State) : Res :=
  let s := begin s
  let l := line.toNat / 64
  .next (if !windowUp s then s
    else match snoopState s l with
    | none => emit s (.snoop .iHitI none)
    | some (.s, _) => emit (ringBell (dropLine s l) l) (.snoop .iHitSE none)
    | some (.e, _) => emit (dropLine s l) (.snoop .iHitSE none)
    | some (.m, x) => emit (dropLine s l) (.snoop .iFwdM (some x))
    | some (.evicting _, x) => emit (setLineSt s l (.evicting true)) (.snoop .iFwdM (some x))
    | some (.cleanPending, _) => emit s (.snoop .iHitSE none))

/-- Table 13.9, SnpCur; on stepping A1 one that hits the eviction buffer is answered RspIFwdM and marks the line (R386). -/
def execSnpCur (line : W64) (s : State) : Res :=
  let s := begin s
  let l := line.toNat / 64
  .next (if !windowUp s then s
    else match snoopState s l with
    | none => emit s (.snoop .iHitI none)
    | some (.s, _) => emit s (.snoop .vHitV none)
    | some (.e, _) => emit s (.snoop .vHitV none)
    | some (.m, x) => emit s (.snoop .vFwdV (some x))
    | some (.evicting _, x) =>
      if isA1 s then emit (setLineSt s l (.evicting true)) (.snoop .iFwdM (some x)) else emit s (.snoop .vFwdV (some x))
    | some (.cleanPending, _) => emit s (.snoop .vHitV none))

/-- R372: the eviction of a line that a new RdOwn has overtaken is answered. -/
def dropStale (s : State) (line : Nat) : State :=
  modHif s (fun h => { h with stale := h.stale.eraseP (fun e => e.1 == line) })

/-- R372: GO_WritePull: the data leave, with Bogus = 1 when the line has been forwarded; the entry is freed. -/
def execGoWritePull (line : W64) (s : State) : Res :=
  let s := begin s
  let l := line.toNat / 64
  .next (if !windowUp s then s
    else match s.hif.stale.find? (fun e => e.1 == l) with
    | some e => emit (dropStale s l) (.pull (64 * l) true e.2)
    | none =>
      match cacheLine s l with
      | some ⟨.evicting f, x, _⟩ => emit (dropLine s l) (.pull (64 * l) f x)
      | some ⟨.cleanPending, _, _⟩ => dropLine s l
      | _ => s)

/-- R372: GO_WritePull_Drop: no data; the entry is freed. -/
def execGoWritePullDrop (line : W64) (s : State) : Res :=
  let s := begin s
  let l := line.toNat / 64
  .next (if !windowUp s then s
    else if s.hif.stale.any (fun e => e.1 == l) then dropStale s l
    else
      match cacheLine s l with
      | some ⟨.evicting _, _, _⟩ => dropLine s l
      | some ⟨.cleanPending, _, _⟩ => dropLine s l
      | _ => s)

/-! ### Window addresses (R363, R364) -/

/-- R363: the device address of a host physical address, in the line's first byte. -/
def windowAddr (s : State) (hpa : Nat) : Option Nat :=
  let a := hpa / 64 * 64
  let d0 : Option Nat := match s.hif.hdm0 with
    | some b => if b ≤ a ∧ a < b + canopyEnd then some (a - b) else none
    | none => none
  let d1 : Option Nat := match s.hif.hdm1 with
    | some b => if b ≤ a ∧ a < b + 0x20000000000 then some (a - b + underBase) else none
    | none => none
  d0.orElse (fun _ => d1)

/-- R363: the host physical address of a device line. -/
def hostAddr (s : State) (line : Nat) : Nat :=
  let a := 64 * line
  if a < canopyEnd then s.hif.hdm0.getD 0 + a else s.hif.hdm1.getD 0 + (a - underBase)

/-- Table 13.6: what a window access meets. -/
inductive Target where
  | dozes
  | hole (t : Option Sec)
  | frame (t : Option Sec)
  | orphan
  | own (t : Sec)
  deriving DecidableEq, Repr

def ownerOf (s : State) (b : Nat) : Option Sec := allSecs.find? (fun t => ownedBy s t b)

/-- R195, R364, R491. -/
def targetOf (s : State) (a : Nat) : Target :=
  match blockOf a with
  | none => .hole none
  | some b =>
    let o := ownerOf s b
    if dozing s (place s a) then .dozes
    else if holeByte s a || isBusy s b then .hole o
    else if blkUse (getBlk s b) then .frame o
    else match o with
      | some t => .own t
      | none => .orphan

/-- R195, R364: the record of a window access that is not served; a block without an owner goes to the warden's log. -/
def refuseWindow (s : State) (a : Nat) : Target → State
  | .dozes => s
  | .hole (some t) => capMem s t a 3 2
  | .frame (some t) => capHif s t a 2
  | .own t => capHif s t a 3
  | _ => logClass s 5 0xF 0xF 0 0

/-! ### Window reads -/

/-- R367: the bytes of completed window writes of a line that are not in memory yet, the latest last: from the inbound
buffer, and from the writes that wait for a page's move. -/
def overlays (s : State) (a : Nat) : List (List (Nat × Nat) × Bool) :=
  (s.tiers.held.filter (fun h => h.page == pageNo a)).map (fun h =>
    (h.data.filter (fun w => decide (a ≤ w.1 ∧ w.1 < a + 64)), h.poison)) ++
  (s.hif.inbound.filter (fun e => e.addr == a)).map (fun e =>
    (((List.range 64).filter (fun i => e.poison || e.enable.getLsbD i)).map (fun i =>
      (a + i, if e.poison then 255 else (e.data.toNat >>> (8 * i)) % 256)), e.poison))

/-- R193, R367: the 64 bytes of a line as a window read returns them, each with its poison. -/
def lineBytes (s : State) (a : Nat) : List (Nat × Bool) :=
  let ov := overlays s a
  let bad := isPoison s a
  (List.range 64).map (fun i =>
    ov.foldl (fun (x : Nat × Bool) o => match o.1.find? (fun w => w.1 == a + i) with
      | some w => (w.2, o.2 && holdsPoison s (place s a))
      | none => x) (rdDev s (a + i), bad))

/-- R193, R196, R364: a read that slot 0 serves, with the MetaValue that is granted; poison is recorded with SOURCE 0x2. -/
def serveNow (s : State) (t : Sec) (a : Nat) (m : Meta) : State :=
  let bs := lineBytes s a
  let data : BitVec 512 := BitVec.ofNat 512 (leNat (bs.map (·.1)))
  let poison := bs.any (·.2)
  emit (if poison then noteRead s t 2 a 64 else noteDecodes s a 64) (.memData data poison m)

/-- R366: a window read waits for the next slot 0 of its path. -/
def serveRead (s : State) (t : Sec) (a : Nat) (m : Meta) : State :=
  if inSlot0 s then serveNow s t a m else modHif s (fun h => { h with reads := h.reads ++ [(a, m)] })

/-- R193, R364: a read that is not served returns CXL data poison. -/
def poisonData (s : State) : State := emit s (.memData (BitVec.ofNat 512 (2 ^ 512 - 1)) true .i)

/-! ### The directory (R374-R379) -/

def dirEntry (s : State) (line : Nat) : Option DirEntry := s.hif.dir.find? (fun e => e.line == line)
def dirDrop (s : State) (line : Nat) : State := modHif s (fun h => { h with dir := h.dir.filter (fun e => e.line != line) })
def dirMod (s : State) (line : Nat) (f : DirEntry → DirEntry) : State :=
  modHif s (fun h => { h with dir := h.dir.map (fun e => if e.line == line then f e else e) })
def dirAdd (s : State) (line : Nat) (t : Sec) (excl : Bool) : State :=
  modHif s (fun h => { h with dir := h.dir ++ [⟨line, t, excl, false, false, false, false⟩] })

/-- HIF_DIR[s].ENTRIES and WAITING. -/
def entriesOf (s : State) (t : Sec) : Nat := (s.hif.dir.filter (fun e => e.sec == t)).length
def waitingOf (s : State) (t : Sec) : Nat := (s.hif.waiting.filter (fun w => w.sec == t)).length

/-- R374, R375, R386: there is room for one more entry of section t. -/
def dirRoom (s : State) (t : Sec) : Bool :=
  if isA1 s then decide (s.hif.dir.length < 2097152)
  else decide (entriesOf s t < 65536 * (getSect s t).quota.toNat ∧ s.hif.dir.length < 4194304)

/-- R376: with 4,096 requests of a section waiting, the device withholds CXL.mem request credits, and every host request
waits outside the card. -/
def noCredits (s : State) : Bool := allSecs.any (fun t => decide (4096 ≤ waitingOf s t))

/-- R374, R377: what a cached request of section t to block b may be given: none for a non-caching answer, else whether
exclusively. -/
def mayCache (s : State) (t : Sec) (b : Nat) (excl : Bool) : Option Bool :=
  if (!isA1 s && (getSect s t).quota == 0) || !(getSect s t).winRd then none
  else if (getCmds s t).any (fun c => c.writes.contains b) then none
  else if (getCmds s t).any (fun c => c.reads.contains b) then some false
  else some excl

/-- R376: the entries that may be recalled, earliest granted first; on stepping A1 one pool for the card (R386). -/
def recallable (s : State) (t : Sec) : List DirEntry :=
  s.hif.dir.filter (fun e => (isA1 s || e.sec == t) && !e.snp && !s.hif.due.any (fun d => d.1 == e.line))

/-- R375, R376: the oldest entry is to be recalled. -/
def recallOldest (s : State) (t : Sec) : State :=
  match recallable s t with
  | [] => s
  | e :: _ => modHif s (fun h => { h with due := h.due ++ [(e.line, e.sec, true)] })

/-- R379: a line of a grove region: at the moment of access it resolves to a plain canopy block. -/
def inGrove (s : State) (a : Nat) : Bool := decide (place s a < canopyEnd) && !holdsPoison s (place s a)

/-- R238, R374, R376, R379: a request for cached state in section t's own block, with the right to read; it waits where
a new entry needs quota, or the line's own recall is not complete. -/
def cachedRead (s : State) (t : Sec) (a : Nat) (excl : Bool) : State :=
  let line := a / 64
  if inGrove s a then poisonData (capGrove s t a 1 0xF)
  else match mayCache s t ((blockOf a).getD 0) excl with
  | none => serveRead s t a .i
  | some x =>
    let m : Meta := if x then .a else .s
    let waits : State := modHif s (fun h => { h with waiting := h.waiting ++ [⟨line, t, excl⟩] })
    match dirEntry s line with
    | some e => if e.snp then waits else serveRead (dirMod s line (fun e => { e with excl := e.excl || x })) t a m
    | none =>
      if dirRoom s t then serveRead (dirAdd s line t x) t a m else recallOldest waits t

/-- R374, R376: waiting requests of section t are answered in order, while there is room. -/
def grantWaiting : Nat → State → Sec → State
  | 0, s, _ => s
  | n + 1, s, t =>
    match s.hif.waiting.find? (fun w => isA1 s || w.sec == t) with
    | none => s
    | some w =>
      let free := (mayCache s w.sec ((blockOf (64 * w.line)).getD 0) w.excl).isNone
        || (match dirEntry s w.line with | some e => !e.snp | none => dirRoom s w.sec)
      if !free then s
      else
        let s := modHif s (fun h => { h with waiting := h.waiting.erase w })
        let s := if (getSect s w.sec).winRd then cachedRead s w.sec (64 * w.line) w.excl
          else poisonData (capHif s w.sec (64 * w.line) 3)
        grantWaiting n s t

def grantAll (s : State) (t : Sec) : State := grantWaiting s.hif.waiting.length s t

/-- R364, R374: a window read of the line at device address a. -/
def readLine (s : State) (a : Nat) (m : Meta) : State :=
  match targetOf s a with
  | .own t =>
    if !(getSect s t).winRd then poisonData (refuseWindow s a (.own t))
    else (match m with
      | .i => serveRead s t a .i
      | .s => cachedRead s t a false
      | .a => cachedRead s t a true)
  | x => poisonData (refuseWindow s a x)

/-- R366: slot 0 serves the window reads that wait, in their order, each as its line stands now. -/
def serveReads (s : State) : State :=
  s.hif.reads.foldl (fun s r => readLine s r.1 r.2) (modHif s (fun h => { h with reads := [] }))

/-- R366, R400, R403: what waited for slot 0 on the memory paths, and the loads whose earlier commands have completed. -/
def slotZeroWork (s : State) : State := resumeLoads (serveReads (allSecs.foldl finishInline s))

/-- R60: TICK; after a power failure the counter stands still (R443). -/
def execTick (s : State) : Res :=
  let s := begin s
  .next (if counterDead s then s else slotZeroWork (tickWork s))

/-- R364, R366, R374: MemRd. -/
def execMemRd (hpa : W64) (m : Meta) (s : State) : Res :=
  let s := begin s
  .next (if !windowUp s || noCredits s then s
    else match windowAddr s hpa.toNat with
    | none => s
    | some a => readLine s a m)

/-! ### Window writes (R364, R367, R374) -/

/-- R453: the section's write sum and count take in a line. -/
def countWrite (s : State) (t : Sec) (a : Nat) (data : BitVec 512) (enable : W64) : State :=
  let bs := (List.range 64).map (fun i => if enable.getLsbD i then (data.toNat >>> (8 * i)) % 256 else 0)
  let c := crc32c (byteList 8 a ++ bs ++ byteList 8 enable.toNat)
  modTrace s t (fun x => { x with wSum := x.wSum + w64 c, wCount := x.wCount + 1 })

/-- R378: an entry is free. -/
def dirFree (s : State) (e : DirEntry) : State := grantAll (dirDrop s e.line) e.sec

/-- Table 13.11, R378: the directory entry after a write; one whose BISnp crosses the write is freed when the BIRsp has
come too, and a request that the table does not list leaves it as it was. -/
def dirWrite (s : State) (line : Nat) (m : Meta) : State :=
  match dirEntry s line with
  | none => s
  | some e =>
    (match m with
    | .i => if e.snp && !e.rsp then dirMod s line (fun e => { e with wrote := true }) else dirFree s e
    | .s => dirMod s line (fun e => { e with excl := false })
    | .a => s)

/-- R450, R457, R460: the line lies in the section's log, reference or trace buffer, which the host does not write. -/
def inLogs (s : State) (t : Sec) (a : Nat) : Bool := (logRegions s t).any (fun r => overlap a 64 r.1 r.2)

/-- R211: on stepping A1 a write to a resident page of a read-only lower tier. -/
def abortsOnA1 (s : State) (a : Nat) : Bool := isA1 s && inReadOnlyFrame s a

/-- R367: a write that is applied joins the inbound buffer. -/
def bufferWrite (s : State) (t : Sec) (a : Nat) (data : BitVec 512) (enable : W64) (poison : Bool) : State :=
  let s := modHif s (fun h => { h with
    inbound := h.inbound ++ [⟨h.inNum, a, data, enable, poison⟩], inNum := h.inNum + 1 })
  let s := if poison then capHif s t a 4 else s
  countWrite s t a data enable

/-- R364, R367: a window write; with the buffer full the host's write waits outside the card. -/
def windowWrite (s : State) (hpa : W64) (m : Meta) (data : BitVec 512) (enable : W64) (poison : Bool) : State :=
  if !windowUp s || noCredits s then s
  else match windowAddr s hpa.toNat with
  | none => s
  | some a =>
    if 131072 ≤ s.hif.inbound.length then s
    else
      match targetOf s a with
      | .own t =>
        if !(getSect s t).winWr || inLogs s t a then emit (dirWrite (refuseWindow s a (.own t)) (a / 64) m) .cmp
        else if abortsOnA1 s a then emit s .abort
        else emit (dirWrite (bufferWrite s t a data enable poison) (a / 64) m) .cmp
      | x => emit (dirWrite (refuseWindow s a x) (a / 64) m) .cmp

/-- R367, R374: MemWr. -/
def execMemWr (hpa : W64) (m : Meta) (data : BitVec 512) (poison : Bool) (s : State) : Res :=
  .next (windowWrite (begin s) hpa m data (BitVec.ofNat 64 (2 ^ 64 - 1)) poison)

/-- R367, R374: MemWrPtl writes only its enabled bytes. -/
def execMemWrPtl (hpa : W64) (m : Meta) (data : BitVec 512) (enable : W64) (poison : Bool) (s : State) : Res :=
  .next (windowWrite (begin s) hpa m data enable poison)

/-- Table 13.11: MemInv. -/
def execMemInv (hpa : W64) (s : State) : Res :=
  let s := begin s
  .next (if !windowUp s || noCredits s then s
    else match windowAddr s hpa.toNat with
    | none => s
    | some a =>
      match dirEntry s (a / 64) with
      | none => emit s .cmp
      | some e => emit (dirFree s e) .cmp)

/-- R367: one line of the inbound buffer reaches memory. -/
def drainLine (s : State) (e : Inbound) : State :=
  let ws := ((List.range 64).filter (fun i => e.poison || e.enable.getLsbD i)).map (fun i =>
    (e.addr + i, (e.data.toNat >>> (8 * i)) % 256))
  landWrite s e.num ws e.poison

/-- The first `n` lines, in the order of arrival, whose tier is awake. -/
def drainLines (n : Nat) (s : State) : State :=
  let go := (s.hif.inbound.filter (fun e => !dozing s (place s e.addr))).take n
  let s := modHif s (fun h => { h with inbound := h.inbound.filter (fun e => !go.contains e) })
  go.foldl drainLine s

/-- R366, R367: slot 0 drains up to the given number of lines. -/
def execInboundBufferDrain (lines : Nat) (s : State) : Res :=
  let s := begin s
  .next (if inSlot0 s then drainLines lines s else s)

/-! ### Recalls (R373, R376-R378) -/

/-- R376: how many admission recalls and how many quota recalls of section t may still go out in this frame. -/
def recallShares (s : State) (t : Sec) (nA nQ : Nat) : Nat × Nat :=
  let p := s.time.period.toNat
  let b := s.budget.get t
  if isA1 s then
    let used := (allSecs.map (fun u => (s.budget.get u).admitRecalls + (s.budget.get u).quotaRecalls)).foldl (· + ·) 0
    let left := 8 * p - used
    let a := min nA left
    (a, min nQ (left - a))
  else
    let left := 4 * p - (b.admitRecalls + b.quotaRecalls)
    let a := min (min nA left) (max (2 * p - b.admitRecalls) (left - nQ))
    (a, min nQ (left - a))

/-- R376, R378: a BISnpInv leaves for a line that still has an entry. -/
def sendSnoop (s : State) (line : Nat) : State :=
  if (dirEntry s line).isSome then emit (dirMod s line (fun e => { e with snp := true })) (.bisnp (hostAddr s line)) else s

/-- R376: the recalls of section t that slot 0 of the frame carries. -/
def execBackInvalidateRecall (t : Sec) (s : State) : Res :=
  let s := begin s
  .next (if !inSlot0 s || !windowUp s then s
    else
      let s := modHif s (fun h => { h with due := h.due.filter (fun d => d.2.1 != t || h.dir.any (fun e => e.line == d.1 && !e.snp)) })
      let s := recallMoves s t
      let mine := s.hif.due.filter (fun d => d.2.1 == t)
      let a := mine.filter (fun d => !d.2.2)
      let q := mine.filter (fun d => d.2.2)
      let n := recallShares s t a.length q.length
      let go := a.take n.1 ++ q.take n.2
      let s := modHif s (fun h => { h with due := h.due.filter (fun d => !go.contains d) })
      let b := s.budget.get t
      let s := { s with budget := s.budget.set t { b with
        admitRecalls := b.admitRecalls + n.1, quotaRecalls := b.quotaRecalls + n.2 } }
      go.foldl (fun s d => sendSnoop s d.1) s)

/-- R376, R378: a BIRsp: the entry is freed and waiting requests are granted; with a MemWr of the line still on its way
(`crossing`) it stays until that has come. -/
def execBirsp (r : BirspIn) (s : State) : Res :=
  let s := begin s
  .next (if !windowUp s then s
    else match windowAddr s r.line.toNat with
    | none => s
    | some a =>
      match dirEntry s (a / 64) with
      | some e =>
        if !e.snp then s
        else if r.crossing && !e.wrote then dirMod s (a / 64) (fun e => { e with rsp := true })
        else dirFree s e
      | none => s)

/-- R378: a BIRsp is overdue; the device keeps waiting. -/
def execBirspOverdue (line : W64) (s : State) : Res :=
  let s := begin s
  .next (match windowAddr s line.toNat with
    | none => s
    | some a =>
      match dirEntry s (a / 64) with
      | some e =>
        if e.snp && !e.rsp && !e.overdue then capHif (dirMod s (a / 64) (fun e => { e with overdue := true })) e.sec a 5 else s
      | none => s)

/-! ### Link loss and reset (R384, R414) -/

/-- R485: a mailbox session closes, with its entry in the audit log. -/
def closeSession (s : State) : State :=
  match s.ward.session with
  | .none => s
  | .operator k => auditDevice (modWard s (fun w => { w with session := .none })) 4 (w64 k.val) 1 0
  | .installer => auditDevice (modWard s (fun w => { w with session := .none })) 4 0 2 0

/-- R434: an update or a re-shard of the section is in flight. -/
def inFlight (s : State) (t : Sec) : Option Cmd :=
  (getCmds s t).find? (fun c => match c.job with
    | .grove g => g.started && (groveOf g.bits).gated
    | .reshard r => r.started
    | _ => false)

/-- Table 13.14: one command at the loss of the host link. -/
def loseOne (s : State) (t : Sec) (c : Cmd) : State :=
  let gone := { c with stop := some Stop.lost }
  if isRunning c then modCmd s t c.ord (fun c => setStop c .lost)
  else
    match c.job with
    | .netDrain _ _ _ => s
    | .checkpoint k => completeOne (dropMoves (ckptStop s t k).1 c.ord) t gone stAborted 0 0
    | _ => completeOne (dropMoves s c.ord) t gone stAborted 0 0

/-- R413: records that have not reached host memory are lost. -/
def dropRecs (s : State) (t : Sec) : State :=
  let rs := s.recs.get t
  let s := rs.foldl (fun s r => modRing s r.pair (fun q => { q with outstanding := q.outstanding - 1 })) s
  let s := setCmds s t ((getCmds s t).map (fun c => match c.job with
    | .netDrain e w n => { c with job := .netDrain e (w.filter (fun o => !rs.any (fun r => r.ord == o))) n }
    | _ => c))
  { s with recs := s.recs.set t [] }

/-- R384, R434: one section at the loss of the host link. -/
def loseSection (s : State) (t : Sec) : State :=
  let s := match inFlight s t with
    | some c => capLoss s t (if isGroveOp c then some c.draw else none) c.id 3
    | none => s
  let s := (getCmds s t).foldl (fun s c => match findCmd s t c.ord with | some c => loseOne s t c | none => s) s
  finishDrains (dropRecs s t) t

/-- R414: a pair whose records can no longer be written. -/
def loseRing (s : State) (p : Pair) : State :=
  modRing s p (fun r =>
    if r.st == .active || r.st == .stopping || r.st == .error then
      { setRingSt r .lost with cause := 3, rung := false, irqDue := false }
    else r)

/-- R384: DL_Down, secondary bus reset or D3hot. -/
def hostLoss (s : State) : State :=
  let quiet := allSecs.all (fun t => (inFlight s t).isNone)
  let s := drainLines s.hif.inbound.length s
  let s := modHif s (fun h => { h with reads := [], cache := [], stale := [], dir := [], waiting := [], due := [] })
  let s := allSecs.foldl finishInline (allSecs.foldl loseSection s)
  let s := allPairs.foldl loseRing s
  let s := closeSession s
  if quiet then logError s 0xC 1 0xF 0xF 0 0 else s

/-- R362: the link is down. -/
def linkDown (s : State) : State :=
  modHif s (fun h => { h with mode := 0, speed := 0, width := 0, cacheEn := false, memEn := false })

/-- R384: DL_DOWN. -/
def execDlDown (s : State) : Res :=
  let s := begin s
  .next (if s.hif.mode == 0 then s else linkDown (hostLoss s))

/-- R384: secondary bus reset. -/
def execSecondaryBusReset (s : State) : Res := .next (linkDown (hostLoss (begin s)))

/-- R384: entry to D3hot. -/
def execD3hotEntry (s : State) : Res := .next (hostLoss (begin s))

/-- R412: the MSI-X vectors of a function after a fundamental reset. -/
def maskVectors (s : State) : State :=
  allPairs.foldl (fun s p => modRing s p (fun r => { r with msixMasked := true, msixPend := false })) s

/-- R540: PERST# resets the host interface alone. -/
def execPerst (s : State) : Res :=
  let s := linkDown (hostLoss (begin s))
  .next (maskVectors (modHif s (fun h => { h with hostRid := 0, ridSet := false, hdm0 := none, hdm1 := none })))

end Sys2Proof.Machine
end

