-- ==== Sys2Proof/Machine/Regs.lean ====
section
/-!
DEFINITION. BAR0 writes (R502-R509): the rules of the register classes, and the registers of the TIME, ERR, HIF, RING, FAB,
TRACE and PWR blocks.
-/
namespace Sys2Proof.Machine

/-! ### Classes (R482, R503) -/

/-- R503: the driver of section t writes. -/
def drives (v : View) (t : Sec) : Bool := v == .sect t

/-- R498: a section that is SCRUBBING refuses every write. -/
def isScrubbing (s : State) (t : Sec) : Bool := (getSect s t).st == .scrubbing

/-- R540: CORE has passed. -/
def coreUp (s : State) : Bool := s.ward.stage == .core || s.ward.stage == .links

def installerId (s : State) : W64 := match s.ward.installer with | some k => keyId k | none => 0

/-- R485, R486: an entry of a role's action, while there is room for one. -/
def auditRole (s : State) (role channel action result : Nat) (kid target old new : W64) : State :=
  if auditRoom s then auditPut s role channel action result kid target old new else s

/-- R482: a write to an installer register without an installer session. -/
def denyWrite (s : State) : State := modWard s (fun w => { w with noSession := true, denied := satInc w.denied })

/-- R468, R482, R485, R486: a write to a register that is the installer's: its audit entry, then its effect; none while the
warden does not run. `target` is the register's offset or the block, `word` what it holds, `ok` whether its own rules accept
the write, `yes` and `no` what it then does. -/
def installerWrite (s : State) (v : View) (target : Nat) (word : State → W64) (ok : Bool) (yes no : State → State) : State :=
  if v != .card || !s.ward.running then s
  else if s.ward.session != .installer then denyWrite s
  else if auditIsFull s then auditRole s 2 2 7 5 (installerId s) (w64 target) (word s) (word s)
  else
    let go := if ok then yes else no
    go (auditRole s 2 2 7 (if ok then 0 else Config.refusalReason.toNat) (installerId s) (w64 target) (word s) (word (go s)))

def noImage (s : State) (t : Sec) : Bool := (s.images.get t).isNone
def noImages (s : State) : Bool := allSecs.all (noImage s)

/-! ### TIME (R61, R516-R519) -/

/-- R519: TIME_BELL word 0. -/
def bellEpoch (s : State) (v : View) (data : W64) : State :=
  installerWrite s v 0x60030 (fun s => s.time.latch) true (fun s => modTime s (fun x => { x with latch := data })) id

/-- R61, R519: TIME_BELL word 1; on stepping A1 REFUSED reads 0 (R85). -/
def bellPeriod (s : State) (v : View) (data : W64) : State :=
  let p := bits data 0 7
  installerWrite s v 0x60038 (fun s => w64 (bellWord1 s)) (noImages s && decide (2 ≤ p ∧ p ≤ 100))
    (fun s => reframe (modTime s (fun x => { x with period := BitVec.ofNat 7 p, epoch := x.latch, bellRefused := false })))
    (fun s => modTime s (fun x => { x with latch := x.epoch, bellRefused := !isA1 s }))

def timeCtrlWord (s : State) : W64 :=
  w64 (s.time.hbPort.toNat * 2 ^ 48 + s.time.domain.toNat * 2 ^ 40 + s.time.src.toNat)

/-- R517: TIME_CTRL. -/
def timeCtrl (s : State) (v : View) (part : Part) (data : W64) : State :=
  let cur := timeCtrlWord s
  let x := mergePart part cur data
  installerWrite s v 0x60000 timeCtrlWord (bits x 0 2 != 3)
    (fun s =>
      let changed := bits x 0 2 != s.time.src.toNat || bits x 40 8 != s.time.domain.toNat
      let s := modTime s (fun t => { t with
        hbPort := x.extractLsb' 48 16, domain := x.extractLsb' 40 8, src := x.extractLsb' 0 2 })
      if changed then setLock s .free else s)
    id

/-- R516: TIME_LOCK.CHG is W1C. -/
def clearLockChg (s : State) (v : View) (data : W64) : State :=
  if v == .card && bit64 data 4 then modTime s (fun x => { x with chg := false }) else s

/-- R519: TIME_BELL_EPOCH_WRITE. -/
def execTimeBellEpochWrite (v : View) (data : W64) (s : State) : Res := .next (bellEpoch (begin s) v data)
/-- R61, R519: TIME_BELL_PERIOD_WRITE. -/
def execTimeBellPeriodWrite (v : View) (data : W64) (s : State) : Res := .next (bellPeriod (begin s) v data)
/-- R517: TIME_CTRL_WRITE. -/
def execTimeCtrlWrite (v : View) (part : Part) (data : W64) (s : State) : Res := .next (timeCtrl (begin s) v part data)

/-! ### ERR (R49, R520, R545) -/

/-- R49, R50: W1C clear of cumulative flags. -/
def clearNflag (s : State) (v : View) (t : Sec) (n : Nat) (mask : NumFlags) : State :=
  if !drives v t || isScrubbing s t || 556 ≤ n then s
  else { s with nflag := sset 0 s.nflag (nflagKey t n) (nflagClear (sget 0 s.nflag (nflagKey t n)) mask) }

/-- R545: a record register is cleared. -/
def clearSectRecord (r : Nat) (x : Sect) : Sect :=
  match r with
  | 0 => { x with errOvr := ovrReset, ovrCount := 0 }
  | 1 => { x with errXpnd := xpndReset }
  | 2 => { x with errMem := 0 }
  | 3 => { x with groveErr := 0 }
  | 4 => { x with hifErr := 0 }
  | 5 => { x with errStep := 0 }
  | 6 => { x with errLoss := 0 }
  | 8 => { x with rcRes := 0 }
  | _ => x

/-- R503, R545: VALID written as 1. -/
def clearRecord (s : State) (v : View) (r : Nat) (t : Sec) : State :=
  if r == 7 then (if v == .card then modWard s (fun w => { w with depart := 0 }) else s)
  else if !drives v t || isScrubbing s t then s
  else if r == 9 then modTrace s t (fun x => { x with div := divReset })
  else modSect s t (clearSectRecord r)

/-- R50: ERR_NFLAG_CLEAR. -/
def execErrNflagClear (v : View) (t : Sec) (n : Fin 556) (mask : BitVec 5) (s : State) : Res :=
  .next (clearNflag (begin s) v t n.val mask)

/-- R545: RECORD_CLEAR. -/
def execRecordClear (v : View) (r : BitVec 4) (t : Sec) (valid : Bool) (s : State) : Res :=
  let s := begin s
  .next (if valid then clearRecord s v r.toNat t else s)

/-! ### HIF (R365, R375) -/

def winctlWord (x : Sect) : W32 := w32 (b2n x.winRd + 2 * b2n x.winWr + 4 * b2n x.winRefused)

/-- R365: HIF_WINCTL. -/
def winctl (s : State) (v : View) (t : Sec) (data : W32) : State :=
  let x := getSect s t
  let rd := data.getLsbD 0
  let wr := data.getLsbD 1
  let clears := (x.winRd && !rd) || (x.winWr && !wr)
  installerWrite s v (0x10010 + 8 * t.val) (fun s => (winctlWord (getSect s t)).setWidth 64)
    (!isScrubbing s t && (!clears || entriesOf s t == 0))
    (fun s => grantAll (modSect s t (fun x => { x with winRd := rd, winWr := wr, winRefused := false })) t)
    (fun s => modSect s t (fun x => { x with winRefused := true }))

/-- R375: the sum of QUOTA over the other sections. -/
def otherQuota (s : State) (t : Sec) : Nat :=
  ((allSecs.filter (· != t)).map (fun u => (getSect s u).quota.toNat)).foldl (· + ·) 0

/-- R375: entries beyond the quota are recalled, oldest first. -/
def recallExcess (s : State) (t : Sec) : State :=
  let mine := s.hif.dir.filter (fun e => e.sec == t)
  let excess := mine.length - 65536 * (getSect s t).quota.toNat
  let go := (mine.take excess).filter (fun e => !e.snp && !s.hif.due.any (fun d => d.1 == e.line))
  modHif s (fun h => { h with due := h.due ++ go.map (fun e => (e.line, e.sec, true)) })

def dirWord (s : State) (t : Sec) : W64 :=
  w64 (entriesOf s t * 2 ^ 41 + waitingOf s t * 2 ^ 25 + b2n (getSect s t).quotaRefused * 128 + (getSect s t).quota.toNat)

/-- R375: HIF_DIR; on stepping A1 it ignores writes (R386). -/
def hifDir (s : State) (v : View) (t : Sec) (part : Part) (data : W64) : State :=
  if isA1 s then s
  else
    let x := mergePart part (w64 (getSect s t).quota.toNat) data
    let q := bits x 0 7
    installerWrite s v (0x10040 + 8 * t.val) (fun s => dirWord s t) (!isScrubbing s t && decide (otherQuota s t + q ≤ 64))
      (fun s => grantAll (recallExcess (modSect s t (fun x => { x with quota := BitVec.ofNat 7 q, quotaRefused := false })) t) t)
      (fun s => modSect s t (fun x => { x with quotaRefused := true }))

/-- R365: HIF_WINCTL_WRITE. -/
def execHifWinctlWrite (v : View) (t : Sec) (data : W32) (s : State) : Res := .next (winctl (begin s) v t data)
/-- R375: HIF_DIR_WRITE. -/
def execHifDirWrite (v : View) (t : Sec) (part : Part) (data : W64) (s : State) : Res :=
  .next (hifDir (begin s) v t part data)

/-! ### RING (R389, R390) -/

def ringFree (r : Ring) : Bool := r.st == .idle && !r.enable
def refuseRing (s : State) (p : Pair) : State := modRing s p (fun r => { r with refused := true })

/-- R389: RING_SQBASE (0), RING_CQBASE (1) and RING_DBADDR (2). -/
def ringAddr (s : State) (v : View) (p : Pair) (which : Nat) (part : Part) (data : W64) : State :=
  let r := getRing s p
  if !drives v (secOf p) then s
  else
    let cur := if which == 0 then r.sqBase else if which == 1 then r.cqBase else r.dbAddr
    let x := mergePart part cur data &&& 0x000FFFFFFFFFFFC0
    if isScrubbing s (secOf p) || !ringFree r || (which != 2 && bits x 6 6 != 0) then refuseRing s p
    else modRing s p (fun r =>
      let r := { r with refused := false }
      if which == 0 then { r with sqBase := x } else if which == 1 then { r with cqBase := x } else { r with dbAddr := x })

/-- R388: the structures of a pair: (first byte, bytes). -/
def ringParts (r : Ring) : List (Nat × Nat) :=
  [(r.sqBase.toNat, 64 * sqSlots r), (r.cqBase.toNat, 32 * cqSlots r), (r.dbAddr.toNat, 64)]

def ringsApart (xs ys : List (Nat × Nat)) : Bool := xs.all (fun x => ys.all (fun y => !overlap x.1 x.2 y.1 y.2))

def ownApart (r : Ring) : Bool :=
  match ringParts r with
  | [a, b, c] => !overlap a.1 a.2 b.1 b.2 && !overlap a.1 a.2 c.1 c.2 && !overlap b.1 b.2 c.1 c.2
  | _ => false

/-- R389: a write that sets ENABLE, judged on the registers as it would leave them. -/
def enableOk (s : State) (p : Pair) (r : Ring) : Bool :=
  r.st == .idle && s.hif.mode == 2 && decide (r.cqSize.toNat ≤ 10 ∧ r.sqSize.toNat ≤ 10)
    && (ringParts r).all (fun x => x.1 != 0 && (windowAddr s x.1).isNone)
    && ownApart r
    && allPairs.all (fun q => q == p || !(getRing s q).enable || ringsApart (ringParts r) (ringParts (getRing s q)))

/-- R390, R392: what a write of ENABLE does to the state; an enabled pair starts with both rings at their first entry. -/
def enableRing (r : Ring) : Ring :=
  { setRingSt r .active with
    enable := true, sqHead := 0, cqTail := 0, sqTail := 0, cqHead := 0, phase := true, rung := true, cause := 0, held := none
    irqDue := false }

def disableRing (r : Ring) : Ring :=
  let r := { r with enable := false }
  match r.st with
  | .active => setRingSt r (if r.outstanding == 0 then .idle else .stopping)
  | .error => setRingSt r (if r.outstanding == 0 then .idle else .stopping)
  | .lost => setRingSt r .idle
  | _ => r

/-- R389, R540: RING_CFG. -/
def ringCfg (s : State) (v : View) (p : Pair) (data : W32) : State :=
  let r := getRing s p
  let t := secOf p
  if !drives v t then s
  else
    let en := data.getLsbD 31
    let x := { r with irqEn := data.getLsbD 30, cqSize := data.extractLsb' 20 4, sqSize := data.extractLsb' 16 4, refused := false }
    let resized := x.cqSize != r.cqSize || x.sqSize != r.sqSize
    let sets := en && !r.enable
    if isScrubbing s t || (resized && !ringFree r) || (sets && !(coreUp s && enableOk s p x)) then refuseRing s p
    else modRing s p (fun _ => if sets then enableRing x else if en then x else disableRing x)

/-- Table 14.4: RING_STAT.CHG is W1C. -/
def clearRingChg (s : State) (v : View) (p : Pair) (data : W64) : State :=
  if drives v (secOf p) && bit64 data 0 then modRing s p (fun r => { r with chg := false }) else s

/-- R389: RING_ENABLE. -/
def execRingEnable (v : View) (p : Pair) (data : W32) (s : State) : Res := .next (ringCfg (begin s) v p data)
/-- R390: RING_DISABLE. -/
def execRingDisable (v : View) (p : Pair) (data : W32) (s : State) : Res := .next (ringCfg (begin s) v p data)

/-! ### FAB (R321, R514) -/

def lctlWord (s : State) : W64 :=
  w64 (s.lctlPhys.toNat * 2 ^ 47 + b2n s.lctlRefused * 2 ^ 46 + s.lctlEnable.toNat)

/-- R514: one link after an accepted write of FAB_LCTL. -/
def lctlLink (s : State) (was : Bool) (l : Nat) : State :=
  if linkEnabled s l then
    if linkState s l == lsDisabled && mayLeaveDisabled s && headerOnBit s (headerOf l) then startDetect s l else s
  else if was && linkState s l != lsOff then leaveLink s l lsDisabled 6
  else s

/-- FAB_LCTL's fields out of a written word. -/
def setLctl (s : State) (x : W64) : State :=
  { s with lctlPhys := x.extractLsb' 47 17, lctlEnable := x.extractLsb' 0 36, lctlRefused := false }

/-- R514: FAB_LCTL. -/
def fabLctl (s : State) (v : View) (part : Part) (data : W64) : State :=
  let cur : W64 := w64 (s.lctlPhys.toNat * 2 ^ 47 + s.lctlEnable.toNat)
  let x := mergePart part cur data
  let old := s.lctlEnable
  installerWrite s v 0x50800 lctlWord (x.extractLsb' 47 17 == s.lctlPhys || noImages s)
    (fun s => (List.range 36).foldl (fun s l => lctlLink s (old.getLsbD l) l) (setLctl s x))
    (fun s => { s with lctlRefused := true })

/-- R321: FAB_RCCFG. -/
def rccfg (s : State) (v : View) (t : Sec) (data : W32) : State :=
  if !drives v t then s
  else
    let h := (data.extractLsb' 12 4).toNat
    if isScrubbing s t || !noImage s t || !decide (1 ≤ h ∧ h ≤ 8) then modSect s t (fun x => { x with rcCfg := x.rcCfg ||| 1 })
    else modSect s t (fun x => { x with rcCfg := data &&& 0xFFFFF000 })

/-- R288: FAB_LSTAT.CHG is W1C. -/
def clearLinkChg (s : State) (v : View) (l : Nat) (data : W32) : State :=
  if v == .card && data.getLsbD 0 then modLink s l (fun x => { x with chg := false }) else s

/-- R514: FAB_LCTL_WRITE. -/
def execFabLctlWrite (v : View) (part : Part) (data : W64) (s : State) : Res := .next (fabLctl (begin s) v part data)
/-- R321: FAB_RCCFG_WRITE. -/
def execFabRccfgWrite (v : View) (t : Sec) (data : W32) (s : State) : Res := .next (rccfg (begin s) v t data)

/-! ### TRACE (R450, R457, R460) -/

/-- R450: a range lies in understorey blocks of the section. -/
def ownUnder (s : State) (t : Sec) (base n : Nat) : Bool :=
  match blocksOf base (base + n) with
  | none => false
  | some bs => bs.all (fun b => decide (8192 ≤ b) && ownedBy s t b && !blkUse (getBlk s b))

/-- R450: the region of a TRACE_RLCFG or TRACE_TCFG word is legal, apart from the region of the other word. -/
def sizedOk (s : State) (t : Sec) (x other : W64) : Bool :=
  let r := sizedRegion x
  decide (bits x 56 6 ≤ 14) && ownUnder s t r.1 r.2
    && !(bit64 other 63 && overlap r.1 r.2 (sizedRegion other).1 (sizedRegion other).2)

def refusedBit : W64 := 0x4000000000000000

/-- R450: TRACE_RLCFG. An accepted write takes the entries that still wait with it (log entry 36). -/
def rlcfg (s : State) (v : View) (t : Sec) (part : Part) (data : W64) : State :=
  if !drives v t then s
  else
    let old := (getTrace s t).rlcfg
    let x := mergePart part (old &&& ~~~ refusedBit) data &&& 0xBF00FFFFFFF00000
    if isScrubbing s t || !noImage s t || (bit64 x 63 && !sizedOk s t x (getTrace s t).tcfg) then
      modTrace s t (fun r => { r with rlcfg := r.rlcfg ||| refusedBit })
    else
      modTrace s t (fun r => if bit64 x 63 then { r with rlcfg := x, rlSeq := 0, rlOff := 0, chain := 0, logQ := [] }
        else { r with rlcfg := x, logQ := [] })

/-- R457: the reference that TRACE_RCCFG and TRACE_RCLEN would name; one of more entries than the understorey has lines lies
in no block of it. -/
def refOk (s : State) (t : Sec) (x : W64) (count : Nat) : Bool :=
  let base := bits x 6 42 * 64
  let n := refLength s.tiers.mem base count
  let tc := (getTrace s t).tcfg
  decide (64 * count ≤ 0x20000000000) && ownUnder s t base n && !(bit64 tc 63 && overlap base n (sizedRegion tc).1 (sizedRegion tc).2)

/-- R457: the completions of commands read before comparison was enabled match nothing. -/
def unkeyed (s : State) (t : Sec) : State :=
  let s := setCmds s t ((getCmds s t).map (fun c => { c with ringOrd := 2 ^ 64 }))
  { s with recs := s.recs.set t ((s.recs.get t).map (fun r => { r with ringOrd := 2 ^ 64 })) }

/-- R457: TRACE_RCCFG; on stepping A1 it ignores writes (R467). -/
def traceRccfg (s : State) (v : View) (t : Sec) (part : Part) (data : W64) : State :=
  if !drives v t || isA1 s then s
  else
    let old := (getTrace s t).rccfg
    let lag : W64 := old &&& 0x2000000000000000
    let x := mergePart part (old &&& 0x8000FFFFFFFFFFC0) data &&& 0x8000FFFFFFFFFFC0
    if isScrubbing s t || !noImage s t || (bit64 x 63 && !refOk s t x (getTrace s t).rclen.toNat) then
      modTrace s t (fun r => { r with rccfg := r.rccfg ||| refusedBit })
    else if bit64 x 63 && !bit64 old 63 then
      unkeyed (modTrace s t (fun r => { r with rccfg := x, ordinals := [], cmpQ := [] })) t
    else modTrace s t (fun r => { r with rccfg := x ||| lag })

/-- R457: TRACE_RCLEN (true) and TRACE_RCDELTA (false), under the rules of R450. -/
def traceRef (s : State) (v : View) (t : Sec) (len : Bool) (part : Part) (data : W64) : State :=
  if !drives v t || isA1 s then s
  else
    let r := getTrace s t
    let x := mergePart part (if len then r.rclen else r.rcdelta) data
    if isScrubbing s t || !noImage s t || (len && bit64 r.rccfg 63 && !refOk s t r.rccfg x.toNat) then
      modTrace s t (fun r => { r with rccfg := r.rccfg ||| refusedBit })
    else modTrace s t (fun r =>
      let r := { r with rccfg := r.rccfg &&& ~~~ refusedBit }
      if len then { r with rclen := x } else { r with rcdelta := x })

/-- Table 12.1: SECT_ROLE. -/
def roleWord (x : Sect) : W32 := w32 (x.role.toNat + 4 * b2n x.roleRefused)

/-- R460, R461: TRACE_TCFG; enabling writes the ENABLE record first. -/
def traceTcfg (s : State) (v : View) (t : Sec) (part : Part) (data : W64) : State :=
  if !drives v t then s
  else
    let old := (getTrace s t).tcfg
    let x := mergePart part (old &&& ~~~ refusedBit) data &&& 0xBF07FFFFFFF00000
    if isScrubbing s t || !noImage s t || (bit64 x 63 && !sizedOk s t x (getTrace s t).rlcfg) then
      modTrace s t (fun r => { r with tcfg := r.tcfg ||| refusedBit })
    else if bit64 x 63 then
      let s := modTrace s t (fun r => { r with
        tcfg := x, dropped := 0, written := 0, traceQ := [], gap := 0, seqs := [] })
      traceRec s t 0x3F 0 0 (w64 ((s.images.get t).map (·.jobId) |>.getD 0))
        ((roleWord (getSect s t)).setWidth 64)
    else modTrace s t (fun r => { r with tcfg := x })

/-- R450: TRACE_RLCFG_WRITE. -/
def execTraceRlcfgWrite (v : View) (t : Sec) (part : Part) (data : W64) (s : State) : Res :=
  .next (rlcfg (begin s) v t part data)
/-- R457: TRACE_RCCFG_WRITE. -/
def execTraceRccfgWrite (v : View) (t : Sec) (part : Part) (data : W64) (s : State) : Res :=
  .next (traceRccfg (begin s) v t part data)
/-- R460: TRACE_TCFG_WRITE. -/
def execTraceTcfgWrite (v : View) (t : Sec) (part : Part) (data : W64) (s : State) : Res :=
  .next (traceTcfg (begin s) v t part data)

/-! ### PWR (R489-R493) -/

/-- R88, R488: the switched domain of a logical cluster; none where the grade has no such cluster. -/
def clusterDomain (s : State) (c : Nat) : Option Nat :=
  if s.id.grade == 0x53 then
    if 14 ≤ c then none
    else
      let die := c / 7
      let site := (if die == 0 then s.id.site0 else s.id.site1).toNat
      let k := c % 7
      some (8 * die + (if k < site then k else k + 1))
  else if c < 16 then some c else none

def setDomain (s : State) (d : Nat) (on : Bool) : State :=
  modPower s (fun w => { w with on := if on then w.on ||| BitVec.ofNat 37 (2 ^ d) else w.on &&& ~~~ (BitVec.ofNat 37 (2 ^ d)) })

def setClusterDomain (s : State) (c : Nat) (on : Bool) : State :=
  match clusterDomain s c with | some d => setDomain s d on | none => s

/-- R489, R501: the domain of a cluster that is assigned to no section, or that its section dozes, switches off. -/
def sleepCluster (s : State) (c : Nat) : State :=
  match clusterDomain s c with
  | some d => modPower (setDomain s d false) (fun w => { w with
      dozeAt := sset 0 w.dozeAt c (frameOf s + 1), wakeDue := w.wakeDue &&& ~~~ (BitVec.ofNat 16 (2 ^ c)) })
  | none => s

/-- R489, R490: PWR_CDOZE; it does not exist on stepping A1 (R501). -/
def cdoze (s : State) (v : View) (t : Sec) (data : W32) : State :=
  if !drives v t || isA1 s then s
  else
    let x := getSect s t
    if isScrubbing s t then modSect s t (fun x => { x with cdozeRefused := true })
    else
      let want : W16 := data.setWidth 16 &&& x.clusters
      let added := want &&& ~~~ x.cdoze
      let no := added != 0 && (getCmds s t).any isRunOp
      let now := if no then want &&& x.cdoze else want
      requestWake (modSect s t (fun x => { x with cdoze := now, cdozeRefused := no })) (x.cdoze &&& ~~~ now)

def logsOff (s : State) : Bool := allSecs.all (fun t => !logOn s t && !traceOn s t)

/-- R491, R492: one tier dozes, or starts to wake. -/
def dozeTier (s : State) (bridge on : Bool) : State :=
  let was := if bridge then s.power.mdozeBridge else s.power.mdozeCanopy
  if was == on then s
  else
    let bit : BitVec 2 := if bridge then 2 else 1
    let doms := if bridge then [24, 25, 26, 27] else [16, 17, 18, 19, 20, 21, 22, 23]
    let s := if on then doms.foldl (fun s d => setDomain s d false) s else s
    modPower s (fun w => { w with
      mdozeBridge := if bridge then on else w.mdozeBridge
      mdozeCanopy := if bridge then w.mdozeCanopy else on
      waking := if on then w.waking &&& ~~~ bit else w.waking ||| bit })

def mdozeWord (s : State) : W64 :=
  w64 (b2n s.power.mdozeCanopy + 2 * b2n s.power.mdozeBridge + b2n s.power.mdozeRefused * 2 ^ 31)

/-- R491: PWR_MDOZE. -/
def mdoze (s : State) (v : View) (data : W32) : State :=
  let c := data.getLsbD 0
  let b := data.getLsbD 1
  let ok := (!(c && !s.power.mdozeCanopy) || noImages s) && (!(b && !s.power.mdozeBridge) || (noImages s && logsOff s))
  installerWrite s v 0x90008 mdozeWord ok
    (fun s => modPower (dozeTier (dozeTier s false c) true b) (fun w => { w with mdozeRefused := false }))
    (fun s => modPower s (fun w => { w with mdozeRefused := true }))

/-- R541: the device switches header domains on only after CORE has passed and in SERVICE. -/
def headersMayBeOn (s : State) : Bool := s.ward.stage == .links && s.ward.card == .service

/-- R493: one header after a write of PWR_HDR. -/
def hdrOne (data : BitVec 9) (s : State) (h : Nat) : State :=
  if data.getLsbD h then (if headersMayBeOn s && !headerOnBit s h then headerOn s h else s)
  else if headerOnBit s h then headerOff s h 6 else s

/-- R493: PWR_HDR. -/
def hdrWrite (s : State) (v : View) (data : W32) : State :=
  let x : BitVec 9 := data.setWidth 9
  installerWrite s v 0x9000C (fun s => s.power.hdr.setWidth 64) true
    (fun s => (List.range 9).foldl (hdrOne x) (modPower s (fun w => { w with hdr := x }))) id

/-- R489: PWR_CDOZE_WRITE. -/
def execPwrCdozeWrite (v : View) (t : Sec) (data : W32) (s : State) : Res := .next (cdoze (begin s) v t data)
/-- R491: PWR_MDOZE_WRITE. -/
def execPwrMdozeWrite (v : View) (data : W32) (s : State) : Res := .next (mdoze (begin s) v data)
/-- R493: PWR_HDR_WRITE. -/
def execPwrHdrWrite (v : View) (data : W32) (s : State) : Res := .next (hdrWrite (begin s) v data)

end Sys2Proof.Machine
end

