-- ==== Sys2Proof/Machine/Sect.lean ====
section
/-!
DEFINITION. The writes that give a section its resources (R494-R498): clusters, commons slices, slots, blocks, modes of
blocks, managed regions and the service role; scrubbing and release.
-/
namespace Sys2Proof.Machine

/-! ### Block fills (R187) -/

/-- R187, R367: a block changes and is zero-filled, after what the inbound buffer holds for it. -/
def startFill (s : State) (b : Nat) (x : Byte) : State :=
  let mine := s.hif.inbound.filter (fun e => blockOf e.addr == some b)
  let s := modHif s (fun h => { h with inbound := h.inbound.filter (fun e => blockOf e.addr != some b) })
  fillBlock (setBlk (setGblk (mine.foldl drainLine s) b 0) b (x ||| 4)) b

/-- R485, R498: a release ends with its last block fill. -/
def freeSection (s : State) (t : Sec) : State :=
  modSect (auditDevice s 9 (w64 t.val) 2 0) t (fun x => { x with st := .free, fills := [] })

/-- R187, R237: the fill of a block completes. -/
def execBlockFillComplete (b : Fin 40960) (s : State) : Res :=
  let s := begin s
  let k := b.val
  .next (if !isBusy s k then s
    else
      let s := setGblk (setBlk s k (getBlk s k &&& 0xFB)) k (getGblk s k &&& 0xFD)
      allSecs.foldl (fun s t =>
        let x := getSect s t
        if !x.fills.contains k then s
        else if x.fills.all (· == k) then freeSection s t
        else modSect s t (fun x => { x with fills := x.fills.filter (· != k) })) s)

/-- R498: the last fill of a release completes. -/
def execSectionScrubDone (t : Sec) (s : State) : Res :=
  let s := begin s
  .next (if !isScrubbing s t then s
    else
      let s := (getSect s t).fills.foldl (fun s b => setBlk s b (getBlk s b &&& 0xFB)) s
      freeSection s t)

/-! ### Scrubs (R495) -/

/-- R495, Table 17.7: what a cluster loses when it is scrubbed or dozes; a scrub also zeroes the program stores. -/
def zeroCluster (s : State) (c : Nat) (stores : Bool) : State :=
  (coresOf (BitVec.ofNat 16 (2 ^ c))).foldl (fun s q =>
    { s with
      slate := zeroRange s.slate (slateKey q 0) slateBytes
      acc := s.acc.filter (fun e => !(decide (262144 * q ≤ e.1 ∧ e.1 < 262144 * (q + 1))))
      store := if stores then s.store.filter (fun e => e.1 / 4096 != q) else s.store
      cores := sdel s.cores q }) s

/-- R485, R495: a cluster leaves section t: it is scrubbed, with its trace queues, and switched off (R489). -/
def leaveCluster (t : Sec) (s : State) (c : Nat) : State :=
  let s := zeroCluster (auditDevice s 11 (w64 c) (w64 t.val) 0) c true
  let mine := (coresOf (BitVec.ofNat 16 (2 ^ c))).map (physCore s)
  let s := modTrace s t (fun r => { r with traceQ := r.traceQ.filter (fun x =>
    !(x.srcKind == 1 && mine.contains x.srcIndex.toNat)) })
  let s := if s.ward.stage == .links || isDozing s c then sleepCluster s c else s
  modPower s (fun w => { w with scrubs := if h : c < 16 then w.scrubs ++ [.cluster ⟨c, h⟩] else w.scrubs })

/-- R485, R495: a commons slice leaves its section: bit 16 × die + k. -/
def leaveSlice (s : State) (b : Nat) : State :=
  let s := auditDevice s 11 (w64 (16 + b)) 0 0
  let s := { s with commons := zeroRange s.commons (slateBytes * b) slateBytes }
  if h : b / 16 < 2 then modPower s (fun w => { w with
    scrubs := w.scrubs ++ [.slice ⟨b / 16, h⟩ ⟨b % 16, Nat.mod_lt _ (by omega)⟩] })
  else s

/-- R495: the scrub of a cluster or slice completes. -/
def execClusterScrubComplete (x : Scrub) (s : State) : Res :=
  .next (modPower (begin s) (fun w => { w with scrubs := w.scrubs.filter (· != x) }))

/-- The set bits of a word. -/
def bitsOf (n : Nat) (x : W32) : List Nat := (List.range n).filter (fun k => x.getLsbD k)

/-! ### Pages of a region that begins or ends (R200, R207) -/

/-- The pages of a region. -/
def pagesOfRegion (x : W64) (g : Nat) : Bool := decide (mrgnBase x / pageBytes ≤ g ∧ g < (mrgnBase x + mrgnBytes x) / pageBytes)

/-- R200: none of the region's pages is resident. -/
def regionEmpty (s : State) (x : W64) : Bool := !s.tiers.pages.any (fun e => pagesOfRegion x e.1 && e.2.frame.isSome)

/-- R207: every page of a new region is understorey-bound and not resident; a region that ends takes its pending moves
along, and the writes that they held land. -/
def clearPages (s : State) (x : W64) : State :=
  let gone := s.tiers.moves.filter (fun m => pagesOfRegion x m.page)
  let s := { s with tiers := { s.tiers with
    pages := s.tiers.pages.filter (fun e => !pagesOfRegion x e.1)
    moves := s.tiers.moves.filter (fun m => !pagesOfRegion x m.page) } }
  gone.foldl (fun s m => releaseHeld s m.page) s

/-! ### SECT_CTL and SECT_COMMONS (R495, R498) -/

def secCode : SecSt → Nat
  | .free => 0 | .assigned => 1 | .scrubbing => 2

def ctlWord (x : Sect) : W64 := w64 (secCode x.st * 2 ^ 30 + b2n x.ctlRefused * 2 ^ 29 + x.clusters.toNat)

/-- R495: the clusters or slices `want` may replace `have_` in section t, where `other` gives what a section holds. -/
def mayHold (s : State) (t : Sec) (held want : W32) (other : Sec → W32) : Bool :=
  (allSecs.all (fun u => u == t || (want &&& ~~~ held) &&& other u == 0)) && (held &&& ~~~ want == 0 || noImage s t)

def refuseCtl (s : State) (t : Sec) : State := modSect s t (fun x => { x with ctlRefused := true })

def clustersOk (s : State) (t : Sec) (want : W16) : Bool :=
  mayHold s t ((getSect s t).clusters.setWidth 32) (want.setWidth 32) (fun u => (getSect s u).clusters.setWidth 32)
    && (s.id.grade != 0x53 || want &&& 0xC000 == 0)

/-- R489, R490, R495: the clusters of section t become `want`; a cluster that joins is to wake. -/
def setClusters (s : State) (t : Sec) (want : W16) : State :=
  let held := (getSect s t).clusters
  let s := (bitsOf 16 ((held &&& ~~~ want).setWidth 32)).foldl (leaveCluster t) s
  let s := requestWake s (want &&& ~~~ held)
  modSect s t (fun x => { x with
    clusters := want, cdoze := x.cdoze &&& want, ctlRefused := false
    st := if want == 0 then .free else .assigned })

/-- R498: what a release asks of a section. -/
def releaseOk (s : State) (t : Sec) : Bool :=
  noImage s t && (pairsOf t).all (fun p => (getRing s p).st == .idle) && !stepOpen (getSteps s t)

/-- R498: every register of a section at its reset value. -/
def resetSection (s : State) (t : Sec) : State :=
  let s := (pairsOf t).foldl (fun s p => modRing s p (fun r => { ringReset with msixMasked := r.msixMasked, msixPend := r.msixPend })) s
  { s with
    nflag := s.nflag.filter (fun e => e.1 / 556 != t.val)
    steps := s.steps.set t stepsReset
    trace := s.trace.set t traceReset
    loadPages := s.loadPages.set t []
    colls := s.colls.set t [] }

/-- R498: the slot entries of a section become IDLE. -/
def idleSlots (s : State) (t : Sec) : State :=
  { s with slots := s.slots.filter (fun e => !(e.2.extractLsb' 6 2 == 1 && (e.2.extractLsb' 4 2).toNat == t.val)) }

/-- R374, R498: the section's directory share returns to reset; what waits there finds no owner any longer. -/
def dropDirectory (s : State) (t : Sec) : State :=
  let ws := s.hif.waiting.filter (fun w => w.sec == t)
  let s := modHif s (fun h => { h with
    dir := h.dir.filter (fun e => e.sec != t), waiting := h.waiting.filter (fun w => w.sec != t)
    due := h.due.filter (fun d => d.2.1 != t) })
  ws.foldl (fun s w => poisonData (refuseWindow s (64 * w.line) .orphan)) s

/-- R485, R498: an accepted release. -/
def releaseSection (s : State) (t : Sec) : State :=
  let x := getSect s t
  let bs := ownedBlocks s t
  let s := (List.range 16).foldl (fun s i => let r := getMrgn s t i; if mrgnOn r then clearPages s r else s) s
  let s := (bitsOf 16 (x.clusters.setWidth 32)).foldl (leaveCluster t) s
  let s := (bitsOf 32 x.commons).foldl leaveSlice s
  let s := resetSection (idleSlots s t) t
  let s := bs.foldl (fun s b => startFill s b 0xE0) s
  let s := dropDirectory s t
  let s := { s with sect := s.sect.set t { sectReset with st := .scrubbing, fills := bs } }
  auditDevice s 9 (w64 t.val) 1 2

/-- R495, R498, R540: SECT_CTL. -/
def sectCtl (s : State) (v : View) (t : Sec) (data : W32) : State :=
  let x := getSect s t
  let want : W16 := data.setWidth 16
  let rel := data.getLsbD 28
  let ok := coreUp s && !isScrubbing s t && (if rel then want == x.clusters && releaseOk s t else clustersOk s t want)
  installerWrite s v (0xA0000 + 8 * t.val) (fun s => ctlWord (getSect s t)) ok
    (fun s => if rel then releaseSection s t else setClusters s t want) (fun s => refuseCtl s t)

/-- R495, R540: SECT_COMMONS. -/
def sectCommons (s : State) (v : View) (t : Sec) (data : W32) : State :=
  let held := (getSect s t).commons
  let ok := coreUp s && !isScrubbing s t && mayHold s t held data (fun u => (getSect s u).commons)
  installerWrite s v (0xA0020 + 8 * t.val) (fun s => (getSect s t).commons.setWidth 64) ok
    (fun s =>
      let s := (bitsOf 32 (held &&& ~~~ data)).foldl leaveSlice s
      modSect s t (fun x => { x with commons := data, ctlRefused := false }))
    (fun s => refuseCtl s t)

/-- R495: SECT_CTL_CLUSTERS_WRITE. -/
def execSectCtlClustersWrite (v : View) (t : Sec) (data : W32) (s : State) : Res := .next (sectCtl (begin s) v t data)
/-- R498: RELEASE. -/
def execRelease (v : View) (t : Sec) (data : W32) (s : State) : Res := .next (sectCtl (begin s) v t data)
/-- R495: SECT_COMMONS_WRITE. -/
def execSectCommonsWrite (v : View) (t : Sec) (data : W32) (s : State) : Res := .next (sectCommons (begin s) v t data)

/-! ### SECT_OWNCMD (R495, R523) -/

/-- R495: the five conditions on a block. -/
def blockFree (s : State) (b : Nat) : Bool :=
  let base := blockBase b
  !allSecs.any (fun t => loadedNames s t b
      || (List.range 16).any (fun i => let x := getMrgn s t i; mrgnOn x && overlap base blockBytes (mrgnBase x) (mrgnBytes x))
      || (logRegions s t).any (fun r => overlap base blockBytes r.1 r.2))
    && !blockHasPage s b && !isBusy s b

def ownFirst (x : W64) : Nat := bits x 48 16
def ownCount (x : W64) : Nat := bits x 32 16
def ownNew (x : W64) : Nat := bits x 29 3

def owncmdOk (s : State) (x : W64) : Bool :=
  coreUp s && decide (1 ≤ ownCount x ∧ ownFirst x + ownCount x ≤ 40960 ∧ (ownNew x ≤ 4 ∨ ownNew x = 7))
    && (List.range (ownCount x)).all (fun i => blockFree s (ownFirst x + i))

/-- R374: the directory entries of a block's lines, and the requests that wait for them, belong to its new owner; with no
section as owner they stay with the old one until they are freed (log entry 31). -/
def moveEntries (s : State) (b o : Nat) : State :=
  if h : o < 4 then
    let mine (line : Nat) : Bool := blockOf (64 * line) == some b
    modHif s (fun x => { x with
      dir := x.dir.map (fun e => if mine e.line then { e with sec := ⟨o, h⟩ } else e)
      waiting := x.waiting.map (fun w => if mine w.line then { w with sec := ⟨o, h⟩ } else w)
      due := x.due.map (fun d => if mine d.1 then (d.1, ⟨o, h⟩, d.2.2) else d) })
  else s

/-- R495: the blocks that change owner. -/
def changeOwner (s : State) (b o : Nat) : State :=
  if blkOwner (getBlk s b) == o then s else moveEntries (startFill s b (BitVec.ofNat 8 (o * 32))) b o

/-- R484, R495, R523: SECT_OWNCMD; its audit entry names the first block and that block's owner. -/
def owncmd (s : State) (v : View) (wide : Bool) (x : W64) : State :=
  if !wide then s
  else installerWrite s v (ownFirst x) (fun s => w64 (blkOwner (getBlk s (ownFirst x)))) (owncmdOk s x)
    (fun s => (List.range (ownCount x)).foldl (fun s i => changeOwner s (ownFirst x + i) (ownNew x)) { s with ownRefused := false })
    (fun s => { s with ownRefused := true })

/-- R495: SECT_OWNCMD. -/
def execSectOwncmd (v : View) (wide : Bool) (data : W64) (s : State) : Res := .next (owncmd (begin s) v wide data)

/-! ### Byte arrays (R507) -/

/-- The entries of a write to a byte array: (index, byte). -/
def arrayBytes (off : Nat) (wide : Bool) (data : W64) : List (Nat × Byte) :=
  (List.range (if wide then 8 else 4)).map (fun i => (off + i, data.extractLsb' (8 * i) 8))

/-- R507: the entries one at a time, in ascending order; true when one was refused. -/
def eachEntry (f : State → Nat × Byte → State × Bool) (s : State) (es : List (Nat × Byte)) : State × Bool :=
  es.foldl (fun x e => let y := f x.1 e; (y.1, x.2 || y.2)) (s, false)

/-- R66: the section that owns a slot entry, when it is owned, has no image. -/
def slotOwnerFree (s : State) (e : Byte) : Bool :=
  e.extractLsb' 6 2 != 1 || allSecs.all (fun t => t.val != (e.extractLsb' 4 2).toNat || noImage s t)

/-- R66, R522: one slot entry. -/
def slotOne (s : State) (e : Nat × Byte) : State × Bool :=
  let path := e.1 / 64
  let k := e.1 % 64
  if 49 ≤ path ∨ 50 ≤ k then (s, false)
  else
    let old := slotEntry s path k
    let new := e.2 &&& 0xF0
    if new == old &&& 0xF0 then (s, false)
    else if !coreUp s || k == 0 || !slotOwnerFree s old || !slotOwnerFree s new then (s, true)
    else ({ s with slots := sset 0 s.slots (path * 50 + k) new }, false)

/-- R507: the entries that a write of SECT_SLOT covers, as they read. -/
def slotWord (s : State) (off : Nat) (wide : Bool) : W64 :=
  w64 (leNat ((List.range (if wide then 8 else 4)).map (fun i =>
    if (off + i) % 64 < 50 then (slotEntry s ((off + i) / 64) ((off + i) % 64)).toNat else 0)))

/-- R66, R522: SECT_SLOT; on stepping A1 SLOT_REFUSED reads 0 (R85). -/
def slotWrite (s : State) (v : View) (off : Nat) (wide : Bool) (data : W64) : State :=
  let es := arrayBytes off wide data
  let bad := (eachEntry slotOne s es).2
  let go (s : State) : State := { (eachEntry slotOne s es).1 with slotRefused := bad && !isA1 s }
  installerWrite s v (0xA1000 + off) (fun s => slotWord s off wide) (!bad) go go

/-- R66: SECT_SLOT_WRITE. -/
def execSectSlotWrite (v : View) (off : BitVec 12) (wide : Bool) (data : W64) (s : State) : Res :=
  .next (slotWrite (begin s) v off.toNat wide data)

/-! ### MEM_BLKCFG and GROVE_BLKMODE (R187, R237) -/

/-- R187: one block entry, written through the view of section t; TYPE and USE of an understorey block read 0 and ignore
writes, and those of another owner's block read 0. -/
def blkcfgOne (t : Sec) (s : State) (e : Nat × Byte) : State × Bool :=
  let b := e.1
  if 8192 ≤ b then (s, false)
  else
    let mine := ownedBy s t b
    let old := if mine then getBlk s b &&& 0x18 else 0
    let new := e.2 &&& 0x18
    if new == old then (s, false)
    else if !mine || loadedNames s t b || blockHasPage s b || isBusy s b || isScrubbing s t then (s, true)
    else (startFill s b (getBlk s b &&& 0xE0 ||| new), false)

/-- R187: MEM_BLKCFG. -/
def blkcfg (s : State) (v : View) (off : Nat) (wide : Bool) (data : W64) : State :=
  match v with
  | .card => s
  | .sect t =>
    let x := eachEntry (blkcfgOne t) s (arrayBytes off wide data)
    modSect x.1 t (fun z => { z with cfgRefused := x.2 })

/-- R187: MEM_BLKCFG_WRITE. -/
def execMemBlkcfgWrite (v : View) (off : W16) (wide : Bool) (data : W64) (s : State) : Res :=
  .next (blkcfg (begin s) v off.toNat wide data)

/-- R237: an admitted GROVE command of the section names the block. -/
def groveNames (s : State) (t : Sec) (b : Nat) : Bool :=
  (getCmds s t).any (fun c => isGroveOp c && (c.writes.contains b || c.reads.contains b))

/-- R237: one entry of GROVE_BLKMODE. -/
def blkmodeOne (t : Sec) (s : State) (e : Nat × Byte) : State × Bool :=
  let b := e.1
  if 8192 ≤ b then (s, false)
  else
    let mine := ownedBy s t b
    let old := mine && isPinnedBlk s b
    let new := e.2.getLsbD 0
    if new == old then (s, false)
    else if !mine || blkType (getBlk s b) || blkUse (getBlk s b) || loadedNames s t b || groveNames s t b || isBusy s b
        || isScrubbing s t then (s, true)
    else
      let x := getBlk s b
      (setGblk (setBlk (startFill s b x) b x) b (if new then 3 else 2), false)

/-- R237: GROVE_BLKMODE. -/
def blkmode (s : State) (v : View) (off : Nat) (wide : Bool) (data : W64) : State :=
  match v with
  | .card => s
  | .sect t =>
    let x := eachEntry (blkmodeOne t) s (arrayBytes off wide data)
    modSect x.1 t (fun z => { z with pinRefused := x.2 })

/-- R237: GROVE_BLKMODE_WRITE. -/
def execGroveBlkmodeWrite (v : View) (off : BitVec 13) (wide : Bool) (data : W64) (s : State) : Res :=
  .next (blkmode (begin s) v off.toNat wide data)

/-! ### MEM_MRGN (R200) -/

/-- R200: a region that a write would enable, as region i of section t. -/
def mrgnOk (s : State) (t : Sec) (i : Nat) (x : W64) : Bool :=
  let lo := mrgnBase x
  let n := mrgnBytes x
  (mrgnMode x == 1 || mrgnMode x == 2) && n != 0 && ownUnder s t lo n
    && (List.range 16).all (fun j => let y := getMrgn s t j
        j == i || !mrgnOn y || !overlap lo n (mrgnBase y) (mrgnBytes y))
    && (match s.images.get t with
      | some g => deviceOk g (fun _ a b => decide (b < (lo : Nat) ∨ ((lo + n : Nat) : Int) ≤ a))
      | none => true)

/-- R199, R200: MEM_MRGN; on stepping A1 regions 8 to 15 ignore writes (R211). -/
def mrgnWrite (s : State) (v : View) (t : Sec) (i : Nat) (part : Part) (data : W64) : State :=
  if !drives v t || (isA1 s && 8 ≤ i) then s
  else
    let old := getMrgn s t i
    let x := mergePart part old data &&& 0xF000FFFFFFFFFFFF
    let ok := !isScrubbing s t && (if mrgnOn old then !mrgnOn x && regionEmpty s old else !mrgnOn x || mrgnOk s t i x)
    if !ok then modSect s t (fun z => { z with mrgnRefused := true })
    else
      let s := if mrgnOn old then clearPages s old else if mrgnOn x then clearPages s x else s
      modSect s t (fun z => { z with mrgn := sset 0 z.mrgn i x, mrgnRefused := false })

/-- R200: MEM_MRGN_WRITE. -/
def execMemMrgnWrite (v : View) (t : Sec) (i : Fin 16) (part : Part) (data : W64) (s : State) : Res :=
  .next (mrgnWrite (begin s) v t i.val part data)

/-! ### SECT_ROLE (R350) -/

/-- R328, R350: SECT_ROLE; a change into TRAIN ends the steps that SEED began; on stepping A1 REFUSED reads 0. -/
def sectRole (s : State) (v : View) (t : Sec) (data : W32) : State :=
  if !drives v t then s
  else if isScrubbing s t || !noImage s t || stepOpen (getSteps s t) || (getCmds s t).any isGroveOp then
    modSect s t (fun x => { x with roleRefused := !isA1 s })
  else
    let new : BitVec 2 := data.setWidth 2
    let s := if new == 0 && (getSect s t).role != 0 then
        modSteps s t (fun x => { x with seed := 0, seeded := false, next := none, last := none, latest := none })
      else s
    modSect s t (fun x => { x with role := new, roleRefused := false })

/-- R350: SECT_ROLE_WRITE. -/
def execSectRoleWrite (v : View) (t : Sec) (data : W32) (s : State) : Res := .next (sectRole (begin s) v t data)

end Sys2Proof.Machine
end

