-- ==== Sys2Proof/Machine/Warden.lean ====
section
/-!
DEFINITION. The warden's interfaces: the mailbox (R480, R524-R526), Redfish, keys, firmware packages, event delivery and
PLDM (R475-R487).
-/
namespace Sys2Proof.Machine

/-! ### Keys and rights (R478, R481) -/

/-- The key of an open session. -/
def sessionKey (s : State) : Option Key :=
  match s.ward.session with
  | .none => none
  | .operator k => operatorKey s k
  | .installer => s.ward.installer

/-- Table 17.6: ROLE. -/
def sessionRole (s : State) : Nat :=
  match s.ward.session with | .none => 0 | .operator _ => 1 | .installer => 2

def idOf (k : Option Key) : W64 := match k with | some k => keyId k | none => 0

/-- Table 18.21. -/
def setResult (s : State) (r : Nat) : State := modWard s (fun w => { w with result := BitVec.ofNat 5 r, busy := false })
def countDenied (s : State) : State := modWard s (fun w => { w with denied := satInc w.denied })

/-- R482, R525: a mailbox command needs the card view, a warden that runs from MEASURE on (R540), and no command under
way. -/
def mailbox (s : State) (v : View) (k : State → State) : State :=
  if v != .card || !measured s || !s.ward.running then s
  else if s.ward.busy then modWard s (fun w => { w with result := 3 })
  else k s

/-! ### Sessions (R480, R525) -/

/-- R525: CHALLENGE. -/
def challenge (s : State) (role : BitVec 2) : State :=
  if role == 1 || role == 2 then
    setResult (modWard { s with fresh := s.fresh + 1 } (fun w => { w with
      nonce := Config.nonce s.fresh, nonceRole := some role })) 0
  else setResult s 4

/-- R525: WMB_CTL CMD = CHALLENGE. -/
def execChallenge (v : View) (role : BitVec 2) (s : State) : Res :=
  .next (mailbox (begin s) v (fun s => challenge s role))

/-- R525: the signed message: nonce, serial number and role code. -/
def challengeBytes (s : State) (role : BitVec 2) : List Nat :=
  leBytes 48 s.ward.nonce.toNat ++ leBytes 8 s.id.serial.toNat ++ [role.toNat]

/-- R525: r and s of WMB_SIG. -/
def sigPart (s : State) (k : Nat) : Nat := beNat (((leBytes 96 s.ward.sig.toNat).drop (48 * k)).take 48)

def verifies (s : State) (role : BitVec 2) (k : Key) : Bool :=
  ecdsaVerify k.x.toNat k.y.toNat (sigPart s 0) (sigPart s 1) (challengeBytes s role)

/-- R525: the enrolled keys of a role in key-slot order, with the session that each opens. -/
def roleKeys (s : State) (role : BitVec 2) : List (Session × Key) :=
  if role == 2 then (match s.ward.installer with | some k => [(.installer, k)] | none => [])
  else (List.finRange 8).filterMap (fun i => (operatorKey s i).map (fun k => (Session.operator i, k)))

/-- R480, R485: a session opens; the one that was open closes. -/
def openSession (s : State) (x : Session) (k : Key) (role : Nat) : State :=
  let s := closeSession s
  modWard (auditRole s role 2 3 0 (keyId k) (match x with | .operator i => w64 i.val | _ => 0) 0 (w64 role))
    (fun w => { w with session := x })

/-- R525: SUBMIT; a nonce serves one SUBMIT. -/
def submit (s : State) : State :=
  match s.ward.nonceRole with
  | none => setResult s 6
  | some role =>
    let keys := roleKeys s role
    let found := keys.find? (fun e => verifies s role e.2)
    let s := modWard s (fun w => { w with nonceRole := none })
    if keys.isEmpty then setResult (countDenied s) 2
    else match found with
    | none => setResult (countDenied s) 1
    | some e => if auditRoom s then setResult (openSession s e.1 e.2 role.toNat) 0 else setResult s 5

/-- R525: WMB_CTL CMD = SUBMIT. -/
def execSubmit (v : View) (s : State) : Res := .next (mailbox (begin s) v submit)

/-- R480, R485, R525: CLOSE; the entry is the role's own. -/
def closeByRole (s : State) : State :=
  match s.ward.session with
  | .none => setResult (countDenied s) 4
  | x =>
    if !auditRoom s then setResult s 5
    else
      let s := auditRole s (sessionRole s) 2 4 0 (idOf (sessionKey s)) (match x with | .operator i => w64 i.val | _ => 0)
        (w64 (sessionRole s)) 0
      setResult (modWard s (fun w => { w with session := .none })) 0

/-- R525: WMB_CTL CMD = CLOSE. -/
def execClose (v : View) (s : State) : Res := .next (mailbox (begin s) v closeByRole)

/-- R480: 15 minutes without a request. -/
def execSessionTimeout (s : State) : Res := .next (closeSession (begin s))

/-! ### Drain and return to service (R424, R425, R525) -/

/-- R425: the card drains for class 0x12. -/
def operatorDrain (s : State) : State := suspect s 0x12 causeOperator 0

/-- R484: the audit entry of an action on the card's service state: ERR_CARD before and after. -/
def auditCard (s : State) (role channel action result : Nat) (kid : W64) (go : State → State) : State :=
  auditRole s role channel action result kid 0x74100 (w64 (errCardWord s)) (w64 (errCardWord (go s)))

/-- R485, R525: DRAIN needs a session of either role; the audit log's limit does not stop it (R486), a log without room for
its entry does. -/
def mailboxDrain (s : State) : State :=
  if s.ward.session == .none then setResult (countDenied s) 4
  else if !auditRoom s then setResult s 5
  else setResult (operatorDrain (auditCard s (sessionRole s) 2 10 0 (idOf (sessionKey s)) operatorDrain)) 0

/-- R525: WMB_CTL CMD = DRAIN. -/
def execMailboxDrain (v : View) (s : State) : Res := .next (mailbox (begin s) v mailboxDrain)

/-- R424: the card returns to SERVICE. -/
def returnToService (s : State) : State :=
  let s := setCard (modWard s (fun w => { w with sentryActed := false })) .service 0
  modWard s (fun w => { w with cause := 0, frame := 0, flashCause := 0, drain := .none })

/-- R424, R486, R525: RETURN needs an installer session. -/
def mailboxReturn (s : State) : State :=
  match s.ward.session with
  | .none => setResult (countDenied s) 4
  | .operator k => setResult (auditCard s 1 2 10 4 (idOf (operatorKey s k)) id) 4
  | .installer =>
    if auditIsFull s then setResult (auditCard s 2 2 10 5 (installerId s) id) 5
    else setResult (returnToService (auditCard s 2 2 10 0 (installerId s) returnToService)) 0

/-- R424: WMB_CTL CMD = RETURN. -/
def execMailboxReturn (v : View) (s : State) : Res := .next (mailbox (begin s) v mailboxReturn)

/-! ### The audit log's acknowledgement (R486, R526) -/

/-- R486: entries at or below AUDIT_ACK may be overwritten. -/
def setAck (s : State) (x : W64) : State :=
  let s := modWard s (fun w => { w with auditAck := x })
  modWard s (fun w => { w with auditFull := auditIsFull s })

def ackOk (s : State) (x : W64) : Bool := decide (s.ward.auditAck.toNat ≤ x.toNat ∧ x.toNat ≤ auditHead s)

/-- R485, R486: an acknowledgement with its entry, which a full log takes in where the acknowledgement gives room. -/
def ackDo (s : State) (x : W64) (entry : State → State) : State :=
  if auditRoom s then setAck (entry s) x else entry (setAck s x)

/-- R482, R526: AUDIT_ACK. -/
def ackWrite (s : State) (v : View) (part : Part) (data : W64) : State :=
  if v != .card || !s.ward.running then s
  else
    let x := mergePart part s.ward.auditAck data
    if s.ward.session != .installer then setResult (denyWrite s) 4
    else if !ackOk s x then
      setResult (auditRole s 2 2 7 4 (installerId s) 0xB0108 s.ward.auditAck s.ward.auditAck) 4
    else ackDo s x (fun u => auditRole u 2 2 7 0 (installerId s) 0xB0108 s.ward.auditAck x)

/-- R526: AUDIT_ACK_WRITE. -/
def execAuditAckWrite (v : View) (part : Part) (data : W64) (s : State) : Res := .next (ackWrite (begin s) v part data)

/-! ### Redfish (R475, R481, R486) -/

/-- The enrolled key of a client. -/
def clientKey (s : State) : Client → Option Key
  | .none => none
  | .operator k => operatorKey s k
  | .installer => s.ward.installer
  | .maker => some s.ward.maker

def clientRole : Client → Nat
  | .none => 0 | .operator _ => 1 | .installer => 2 | .maker => 3

/-- An entry of a Redfish action. -/
def auditRedfish (s : State) (who : Client) (action result : Nat) (target old new : W64) : State :=
  auditRole s (clientRole who) 1 action result (idOf (clientKey s who)) target old new

/-- R475, R485: an unauthenticated request. -/
def rejectClient (s : State) : State := emit (modWard s (fun w => { w with redfishFail := w.redfishFail + 1 })) (.http 403)

/-- Table 17.5. -/
def mayDo (s : State) (who : Client) (a : Action) : Bool :=
  let installer := who == .installer
  let maker := who == .maker
  match a with
  | .readStatus => true
  | .readRecords none => seesSection s who 0xF
  | .readRecords (some t) => seesSection s who t.val
  | .subscribe _ => true
  | .eventReceived => true
  | .returnToService => installer
  | .assignRelease => installer
  | .timeWindowFabric => installer
  | .switchDomains _ _ => installer
  | .readAudit => true
  | .readKeys => installer
  | .diagnostics => maker && s.ward.card == .departed && allSecs.all (fun t => (getSect s t).st != .assigned)

/-- Table 17.3: the warden serves the action; sections, TIME, HIF and FAB are set through BAR0 alone. -/
def isServed : Action → Bool
  | .assignRelease => false
  | .timeWindowFabric => false
  | _ => true

/-- R491, R493: domain power by Redfish: the rules of PWR_HDR and PWR_MDOZE. -/
def switchByRedfish (s : State) (headers : Bool) (value : W32) : State × Bool :=
  if headers then
    ((List.range 9).foldl (hdrOne (value.setWidth 9)) (modPower s (fun w => { w with hdr := value.setWidth 9 })), true)
  else
    let c := value.getLsbD 0
    let b := value.getLsbD 1
    if (!(c && !s.power.mdozeCanopy) || noImages s) && (!(b && !s.power.mdozeBridge) || (noImages s && logsOff s)) then
      (modPower (dozeTier (dozeTier s false c) true b) (fun w => { w with mdozeRefused := false }), true)
    else (modPower s (fun w => { w with mdozeRefused := true }), false)

/-- R476: the subscription of a client to the events. -/
def subscribe (s : State) (who : Client) (on : Bool) : State :=
  modWard s (fun w => { w with subs := w.subs.filter (· != who) ++ (if on then [who] else []) })

/-- R476: a subscriber has received the oldest event that is being sent to it; one that every subscriber has is done with. -/
def eventTaken (who : Client) : List Event → List Event
  | [] => []
  | e :: es =>
    if e.dests.contains who then
      let rest := e.dests.filter (· != who)
      if rest.isEmpty then es else { e with dests := rest } :: es
    else e :: eventTaken who es

/-- What an action does once its entry is in flash. -/
def doAction (s : State) (who : Client) : Action → State × Bool
  | .returnToService => (returnToService s, true)
  | .switchDomains h v => switchByRedfish s h v
  | .subscribe on => (subscribe s who on, true)
  | _ => (s, true)

/-- R484: TARGET of an action's audit entry, and what it holds: ERR_CARD, PWR_HDR or PWR_MDOZE. -/
def actionTarget : Action → W64
  | .returnToService => 0x74100
  | .switchDomains headers _ => if headers then 0x9000C else 0x90008
  | _ => 0

def actionWord (s : State) : Action → W64
  | .returnToService => w64 (errCardWord s)
  | .switchDomains headers _ => if headers then s.power.hdr.setWidth 64 else mdozeWord s
  | _ => 0

/-- Table 9.12a; on stepping A1 CAUSE and TIME_DIFF read 0 (R291). -/
def lstatWord (s : State) (l : Nat) : Nat :=
  let x := getLink s l
  x.st.toNat * 2 ^ 28 + (if isA1 s then 0 else x.cause.toNat * 2 ^ 24) + x.retrains % 2 ^ 8 * 2 ^ 16 + b2n x.bellDiff * 8
    + (if isA1 s then 0 else b2n x.timeDiff * 4) + b2n x.timeSrc * 2 + b2n x.chg

/-- R347, R469, Table 17.3: what the services Chassis, Assembly, Sensors and Fabric show. -/
def cardView (s : State) : CardView where
  id := s.id
  physId := s.lctlPhys
  card := w64 (errCardWord s)
  cables := (List.range 9).map (fun h =>
    (getHeader s h, (getHeader s h).cable.map (fun c => getWear s c.serial)))
  vin := s.power.vin
  rail := (List.range 40).map (sget 0 s.power.rail)
  temp := (List.range 16).map (sget 0 s.power.temp)
  links := (List.range 36).map (fun l => (lstatWord s l, (getLink s l).delay, (getLink s l).caps))
  roles := allSecs.map (fun t => (getSect s t).role)

/-- R475, R476, Table 17.3: the content that an action reads out. -/
def replyOf (s : State) : Action → Option Reply
  | .readStatus => some (.card (cardView s))
  | .readRecords t =>
    let k := match t with | some t => t.val | none => 0xF
    some (.records (s.ward.errlog.filter (fun e => e.sect.toNat == k)) (s.ward.logSvc.filter (fun e => e.sect.toNat == k)))
  | .readAudit => some (.audit s.ward.audit)
  | .readKeys => some (.keys s.ward.installer
      ((List.finRange 8).filterMap (fun k => (operatorKey s k).map (fun x => (k.val, x)))))
  | _ => none

def reply (s : State) (a : Action) : State := match replyOf s a with | some r => emit s (.redfish r) | none => s

/-- R486: reading the audit log goes on when it is full. -/
def goesOnFull : Action → Bool
  | .readAudit => true
  | _ => false

/-- R475, R481, R485, R486: a Redfish request of an enrolled client. -/
def redfish (s : State) (who : Client) (a : Action) : State :=
  if !s.ward.running || !measured s then s
  else if (clientKey s who).isNone then rejectClient s
  else if !mayDo s who a then emit (auditRedfish s who 8 Config.refusalReason.toNat (actionTarget a) (actionWord s a)
      (actionWord s a)) (.http 403)
  else if a == .eventReceived then modWard s (fun w => { w with events := eventTaken who w.events })
  else if !isServed a then emit (auditRedfish s who 8 Config.refusalReason.toNat 0 0 0) (.http (Config.httpRefusal 0))
  else if !auditRoom s || (auditIsFull s && !goesOnFull a) then
    emit (auditRedfish s who 8 5 (actionTarget a) (actionWord s a) (actionWord s a)) (.http (Config.httpRefusal 1))
  else
    let ok := (doAction s who a).2
    let s := (doAction (auditRedfish s who 8 (if ok then 0 else Config.refusalReason.toNat) (actionTarget a) (actionWord s a)
      (actionWord (doAction s who a).1 a)) who a).1
    emit (reply s a) (.http (if ok then 200 else Config.httpRefusal 2))

/-- R475: REDFISH_REQUEST. -/
def execRedfishRequest (who : Client) (a : Action) (s : State) : Res := .next (redfish (begin s) who a)

/-- R425, R481, R486: the Redfish drain action. -/
def execRedfishDrain (who : Client) (s : State) : Res :=
  let s := begin s
  .next (if !s.ward.running || !measured s then s
    else if (clientKey s who).isNone then rejectClient s
    else if who == .maker then
      emit (auditCard s (clientRole who) 1 8 Config.refusalReason.toNat (idOf (clientKey s who)) id) (.http 403)
    else if !auditRoom s then emit s (.http (Config.httpRefusal 1))
    else emit (operatorDrain (auditCard s (clientRole who) 1 8 0 (idOf (clientKey s who)) operatorDrain)) (.http 200))

/-- R486: an acknowledgement of an export, within the bounds of R526. -/
def execExportAcknowledgement (who : Client) (seq : W64) (s : State) : Res :=
  let s := begin s
  .next (if !s.ward.running || !measured s then s
    else if (clientKey s who).isNone then rejectClient s
    else if who != .installer then emit (auditRedfish s who 8 Config.refusalReason.toNat 0xB0108 s.ward.auditAck
        s.ward.auditAck) (.http 403)
    else if !ackOk s seq then
      emit (auditRedfish s who 8 4 0xB0108 s.ward.auditAck s.ward.auditAck) (.http (Config.httpRefusal 2))
    else emit (ackDo s seq (fun u => auditRedfish u who 8 0 0xB0108 s.ward.auditAck seq)) (.http 200))

/-! ### Key enrolment (R479) -/

/-- The number of a request, which Config.enrolMessage is applied to. -/
def enrolCode : Enrol → Nat
  | .installerKey x y => 4 * (x.toNat * 2 ^ 384 + y.toNat)
  | .operatorKey k x y m => 4 * (((x.toNat * 2 ^ 384 + y.toNat) * 16 + m.toNat) * 8 + k.val) + 1
  | .revoke k => 4 * k.val + 2

/-- R479: the key that must have signed a request. -/
def enrolSigner (s : State) (byMaker : Bool) : Enrol → Option (Key × Nat)
  | .installerKey _ _ =>
    (match s.ward.installer with
    | some k => if byMaker then none else some (k, 2)
    | none => if byMaker then some (s.ward.maker, 3) else none)
  | _ => if byMaker then none else s.ward.installer.map (fun k => (k, 2))

/-- R479: a key that is no longer enrolled loses its session. -/
def dropSession (s : State) (x : Session) : State := if s.ward.session == x then closeSession s else s

def setOperator (s : State) (k : Fin 8) (x : Option Key) : State :=
  modWard (subscribe (dropSession s (.operator k)) (.operator k) false) (fun w => { w with
    operators := sset none w.operators k.val x })

/-- R479: the request's effect. -/
def enrol (s : State) : Enrol → State
  | .installerKey x y => modWard (subscribe (dropSession s .installer) .installer false) (fun w => { w with installer := some ⟨x, y, 0⟩ })
  | .operatorKey k x y m => setOperator s k (some ⟨x, y, m⟩)
  | .revoke k => setOperator s k none

def enrolSlot : Enrol → Nat
  | .installerKey _ _ => 8
  | .operatorKey k _ _ _ => k.val
  | .revoke k => k.val

/-- R484: the KEY_ID of the key that a request's slot holds. -/
def slotKeyId (s : State) : Enrol → W64
  | .installerKey _ _ => installerId s
  | .operatorKey k _ _ _ => idOf (operatorKey s k)
  | .revoke k => idOf (operatorKey s k)

/-- R479, R485, R486: KEY_ENROLMENT. -/
def execKeyEnrolment (byMaker : Bool) (r sig : BitVec 384) (e : Enrol) (s : State) : Res :=
  let s := begin s
  .next (if !s.ward.running || !measured s then s
    else match enrolSigner s byMaker e with
    | none => rejectClient s
    | some (k, role) =>
      if !ecdsaVerify k.x.toNat k.y.toNat r.toNat sig.toNat (Config.enrolMessage (enrolCode e)) then rejectClient s
      else if auditIsFull s then
        emit (auditRole s role 1 5 5 (keyId k) (w64 (enrolSlot e)) (slotKeyId s e) (slotKeyId s e)) (.http (Config.httpRefusal 1))
      else emit (enrol (auditRole s role 1 5 0 (keyId k) (w64 (enrolSlot e)) (slotKeyId s e) (slotKeyId (enrol s e) e)) e)
        (.http 200))

/-! ### Firmware (R487) -/

/-- R487: the maker's signature over the package verifies. -/
def packageSigned (s : State) (p : Package) : Bool :=
  ecdsaVerify s.ward.maker.x.toNat s.ward.maker.y.toNat p.r.toNat p.s.toNat (p.bytes.map (·.toNat))

/-- R487: FIRMWARE_STAGE; the version and whether the card's part number is named are what the warden reads in the package,
which has no layout in the manual (log entry 35). -/
def execFirmwareStage (who : Client) (version : BitVec 6) (namesCard : Bool) (package : Package) (s : State) : Res :=
  let s := begin s
  .next (if !s.ward.running || !measured s then s
    else if (clientKey s who).isNone then rejectClient s
    else
      let ok := namesCard && packageSigned s package && decide (s.id.minSvn.toNat ≤ version.toNat)
      let v : BitVec 8 := version.setWidth 8
      let old : W64 := s.id.stagedSvn.setWidth 64
      let no := auditRedfish s who 6 Config.refusalReason.toNat 0 old old
      if who != .installer then emit no (.http 403)
      else if auditIsFull s then
        emit (auditRedfish s who 6 5 0 old old) (.http (Config.httpRefusal 1))
      else if !ok then emit no (.http (Config.httpRefusal 2))
      else
        let s := auditRedfish s who 6 0 0 old (v.setWidth 64)
        emit (modWard { s with id := { s.id with stagedSvn := v, otherSvn := v } } (fun w => { w with staged := some v })) (.http 200))

/-! ### Events and PLDM (R476, R477) -/

/-- R476: the oldest event that is still being sent is given up, and remains in the LogService. -/
def execEventRetryExpiry (s : State) : Res :=
  let s := begin s
  .next (match s.ward.events with
    | [] => s
    | e :: es => modWard s (fun w => { w with events := es, logSvc := w.logSvc ++ [e] }))

/-- R477: the readings of Table 17.1 as PLDM sensors: 0 the input, 1-40 the rails, 41-56 the temperatures, 57-92 the delays of
the links (log entry 10). -/
def pldmSensor (s : State) (k : Nat) : W64 :=
  if k == 0 then s.power.vin.setWidth 64
  else if k ≤ 40 then (sget 0 s.power.rail (k - 1)).setWidth 64
  else if k ≤ 56 then (sget 0 s.power.temp (k - 41)).setWidth 64
  else if k ≤ 92 then (getLink s (k - 57)).delay.setWidth 64
  else Config.pldmAnswer (k + 2)

/-- R477: PLDM is read-only and is not authenticated. -/
def execPldmRequest (q : Pldm) (s : State) : Res :=
  let s := begin s
  .next (if !s.ward.running then s
    else match q with
    | .discovery => emit s (.pldm (Config.pldmAnswer 0))
    | .fru => emit s (.pldm (Config.pldmAnswer 1))
    | .sensor k => emit s (.pldm (pldmSensor s k))
    | .cardState => emit s (.pldm (w64 (cardCode s.ward.card * 16 + s.ward.cause.toNat)))
    | .set => emit s .pldmRefused)

end Sys2Proof.Machine
end

