-- ==== Sys2Proof/Machine/Power.lean ====
section
/-!
DEFINITION. Power domains (R464, R488-R492), the assembly (R84) and the stages of start-up (R538-R543).
-/
namespace Sys2Proof.Machine

/-! ### Clusters (R464, R489, R490) -/

/-- The section that a cluster belongs to. -/
def clusterOwner (s : State) (c : Nat) : Option Sec := allSecs.find? (fun t => (getSect s t).clusters.getLsbD c)

def clusterCores (s : State) (c : Nat) : List Nat := (coresOf (BitVec.ofNat 16 (2 ^ c))).filter (fun q => physCore s q != 0xFF)

/-- Table 16.13: DOZE, whose ARG0 is its own SEQ. -/
def dozeRecord (t : Sec) (s : State) (q : Nat) : State :=
  let p := physCore s q
  traceCore s t 0x30 p ((sget 0 (getTrace s t).seqs (65536 + p)).setWidth 64) (w64 (frameOf s))

/-- R464: a core's trace unit has written out its queue. -/
def queueOut (s : State) (t : Sec) (q : Nat) : Bool :=
  !(getTrace s t).traceQ.any (fun x => x.srcKind == 1 && x.srcIndex.toNat == physCore s q)

/-- R464, R489: a cluster whose doze its section has asked for switches off, once its cores have written out their trace
queues and their DOZE records; what Table 17.7 calls lost is lost. -/
def execClusterDoze (c : Fin 16) (s : State) : Res :=
  let s := begin s
  .next (match clusterOwner s c.val with
    | none => s
    | some t =>
      if !(getSect s t).cdoze.getLsbD c.val || isDozing s c.val || !(clusterCores s c.val).all (queueOut s t) then s
      else sleepCluster (zeroCluster ((clusterCores s c.val).foldl (dozeRecord t) s) c.val false) c.val)

/-- R461, R464, R467: a core's WAKE record, its first after the doze in frame `at_`; on stepping A1 its SEQ counter has restarted
and ARG0 is 0. -/
def wakeRecord (t : Sec) (at_ : Nat) (s : State) (q : Nat) : State :=
  let p := physCore s q
  if isA1 s then traceCore (modTrace s t (fun r => { r with seqs := sset 0 r.seqs (65536 + p) 0 })) t 0x31 p 0 (w64 at_)
  else traceCore s t 0x31 p (w64 (frameOf s - at_)) (w64 at_)

/-- R490, R495: a cluster that is to wake, and whose scrub is over, comes on at a tick; its slates read 0. -/
def execClusterWake (c : Fin 16) (s : State) : Res :=
  let s := begin s
  .next (if !isDozing s c.val || !s.power.wakeDue.getLsbD c.val || s.power.scrubs.contains (.cluster c) then s
    else
      let at_ := sget 0 s.power.dozeAt c.val - 1
      let mask : W16 := BitVec.ofNat 16 (2 ^ c.val)
      let s := modPower (setClusterDomain s c.val true) (fun w => { w with
        dozeAt := sdel w.dozeAt c.val, wakeDue := w.wakeDue &&& ~~~ mask })
      match clusterOwner s c.val with
      | none => s
      | some t => (clusterCores s c.val).foldl (wakeRecord t at_)
          (modSect s t (fun x => { x with cdoze := x.cdoze &&& ~~~ mask })))

/-- R492: a tier's wake is complete. -/
def execTierWakeComplete (bridge : Bool) (s : State) : Res :=
  let s := begin s
  let k := if bridge then 1 else 0
  .next (if !s.power.waking.getLsbD k then s
    else
      let s := modPower s (fun w => { w with waking := w.waking &&& ~~~ (BitVec.ofNat 2 (2 ^ k)) })
      (if bridge then [24, 25, 26, 27] else [16, 17, 18, 19, 20, 21, 22, 23]).foldl (fun s d => setDomain s d true) s)

/-! ### The assembly (R84) -/

/-- A RUN runs in some section. -/
def anyRun (s : State) : Bool := allSecs.any (fun t => (getCmds s t).any (fun c => isRunOp c && isRunning c))

/-- R489: clusters of no section switch off, once start-up has reached LINKS. -/
def sleepUnassigned (s : State) : State :=
  if s.ward.stage != .links then s
  else (List.range 16).foldl (fun s c => if (clusterOwner s c).isNone then sleepCluster s c else s) s

/-- R84: the logical cores that have not arrived: those of a dozing cluster, and those with a bundle in flight. -/
def absentCores (s : State) : List Nat :=
  (List.range s.id.cmap.length).filter (fun q => isDozing s (q / 8) || !(getCore s q).flight.isEmpty)

/-- R60: system time is that of the tick at which the frame in progress began. -/
def atTick (s : State) : Bool :=
  match s.time.frame with
  | none => false
  | some n => !s.time.guard && s.time.ns.toNat == tickNs s n && s.time.frac == 0

/-- R84, R490: an assembly is requested; dozing clusters, those of no section among them, are to wake. -/
def execAssembly (s : State) : Res :=
  let s := begin s
  .next (requestWake (modPower s (fun w => { w with assembly := true })) 0xFFFF)

/-- R84: the first tick after the last core has arrived; it waits for running RUNs and for clusters that doze. -/
def execAssemblyComplete (s : State) : Res :=
  let s := begin s
  .next (if s.power.assembly && !anyRun s && (absentCores s).isEmpty && atTick s then
      sleepUnassigned (modPower s (fun w => { w with assembly := false }))
    else s)

/-- R84: the physical cores that had not arrived, lowest first. -/
def lateCores (s : State) : List W64 :=
  match absentCores s with
  | [] => [Config.lateCore]
  | qs => ((List.range 256).filter (fun p => qs.any (fun q => physCore s q == p))).map w64

/-- Table 15.2, class 0x0E: the lowest physical core that had not arrived. -/
def notArrived (s : State) : W64 := (lateCores s).headD 0

/-- R84, R425, R539: an assembly that has not completed in time fails: the warden records the missing cores, the card is suspect,
and a start-up that was in CORE ends. One that waits for a running RUN has no arrival yet, and does not fail. -/
def execAssemblyTimeout (s : State) : Res :=
  let s := begin s
  .next (if s.power.assembly && !anyRun s then
      let x := lateCores s
      let s := suspect (modPower s (fun w => { w with assembly := false })) 0xE causeAssembly (x.headD 0)
      sleepUnassigned (modWard s (fun w => { w with
        lateCores := x, stage := if w.stage == .memory then .failed else w.stage }))
    else s)

/-! ### Start-up -/

/-- R442, R468, R509, R538: power comes on: every register at its reset value; kept are what is fused, what lies in the
warden's flash, the physical ID, the wear records and what is plugged in. -/
def powerOn (s : State) : State :=
  let w := s.ward
  { State.reset with
    id := s.id
    lctlPhys := s.lctlPhys
    wear := s.wear
    headers := s.headers.map (fun e => (e.1, { headerReset with present := e.2.present }))
    ward := { wardenReset with
      flashCard := w.flashCard, flashCause := w.flashCause, maker := w.maker, installer := w.installer
      operators := w.operators, auditAck := w.auditAck, audit := w.audit, auditFull := w.auditFull
      flashRec := w.flashRec, staged := w.staged }
    fresh := s.fresh
    seq := s.seq
    pending := s.pending }

/-- R538: PRESENT is made, and the input has stayed at or above 40 V for 10 ms. -/
def execPresent (heldMs : Nat) (s : State) : Res :=
  let s := begin s
  .next (if heldMs < 10 || !(s.ward.stage == .off || s.ward.stage == .halted) then s
    else modWard (powerOn s) (fun w => { w with stage := .present }))

/-- R487: the staged bank is activated at a card reset. -/
def activate (s : State) : State :=
  match s.ward.staged with
  | none => s
  | some v => modWard { s with id := { s.id with
      bank := !s.id.bank, otherSvn := s.id.activeSvn, activeSvn := v, stagedSvn := 0xFF } } (fun w => { w with staged := none })

/-- R487: the other bank runs. -/
def swapBanks (s : State) : State :=
  { s with id := { s.id with bank := !s.id.bank, activeSvn := s.id.otherSvn, otherSvn := s.id.activeSvn } }

/-- R485, R487, R539: BOOT: the warden runs, the time counter starts at 0. -/
def execBoot (activeOk otherOk : Bool) (s : State) : Res :=
  let s := begin s
  .next (if s.ward.stage != .present then s
    else if !activeOk && !otherOk then modWard s (fun w => { w with stage := .failed })
    else
      let before := w64 s.id.activeSvn.toNat
      let fresh := s.ward.staged.isSome
      let s := activate s
      let s := if activeOk then s else swapBanks s
      let s := modWard { s with time := timeReset } (fun w => { w with stage := .boot, running := true })
      if fresh || !activeOk then auditDevice s 6 (w64 (b2n s.id.bank)) before (w64 s.id.activeSvn.toNat) else s)

/-- R424, R539: MEASURE: ERR_CARD as flash has it, and the first readings. -/
def execMeasure (mv inlet outlet : W16) (s : State) : Res :=
  let s := begin s
  .next (if s.ward.stage != .boot then s
    else
      let s := modPower s (fun w => { w with vin := mv, temp := sset 0 (sset 0 w.temp 14 inlet) 15 outlet })
      let s := modWard s (fun w => { w with card := w.flashCard, cause := w.flashCause, stage := .measure })
      let hot (k : Nat) (x : W16) : Bool := x == 0x8000 || decide (tempLimit k < x.toInt)
      if mv.toNat < 38000 || 66000 < mv.toNat then powerFails s
      else if 60000 < mv.toNat || hot 14 inlet || hot 15 outlet then limitReached s
      else s)

/-- R542: a stage that fails: SUSPECT, and no further stage. -/
def stageFails (s : State) : State := modWard (suspect s 0xE causeSelftest 0) (fun w => { w with stage := .failed })

/-- R539: MEMORY: the memory domains are on and every granule holds zeros with valid check bytes. -/
def execMemory (ok : Bool) (s : State) : Res :=
  let s := begin s
  .next (if s.ward.stage != .measure then s
    else
      let s := modPower s (fun w => { w with on := w.on ||| 0xFFF0000 })
      let s := { s with tiers := { s.tiers with mem := [], poison := [], upset := [] } }
      if ok then modWard s (fun w => { w with stage := .memory }) else stageFails s)

/-- R88, R488: the domains of the enabled clusters. -/
def clustersOn (s : State) : State := (List.range 16).foldl (fun s c => setClusterDomain s c true) s

/-- R487, R539, R542, R543: CORE: on success the fused minimum rises; a card restored as SUSPECT departs at the next
tick. -/
def execCore (answersOk : Bool) (s : State) : Res :=
  let s := begin s
  .next (if s.ward.stage != .memory then s
    else
      let s := clustersOn s
      if !answersOk then stageFails s
      else
        let s := { s with id := { s.id with
          minSvn := if s.id.minSvn.toNat < s.id.activeSvn.toNat then s.id.activeSvn else s.id.minSvn } }
        modWard s (fun w => { w with
          stage := .core
          drain := if w.card == .suspect && w.drain == .none then .armed else w.drain }))

/-- R539, R541: LINKS: unassigned clusters off, headers on as PWR_HDR gives, each link in DETECT. -/
def execLinks (s : State) : Res :=
  let s := begin s
  .next (if s.ward.stage != .core || s.ward.card != .service then s
    else
      let s := sleepUnassigned (modWard s (fun w => { w with stage := .links }))
      (List.range 9).foldl (fun s h => if s.power.hdr.getLsbD h then headerOn s h else s) s)

end Sys2Proof.Machine
end

