-- ==== Sys2Proof/Machine/Trace.lean ====
section
/-!
DEFINITION. The replay log (R450-R456), its comparison (R457-R459) and the trace buffer (R460-R465), as slot 0 writes them.
-/
namespace Sys2Proof.Machine

/-! ### The log -/

/-- R451: bytes 0x00-0x0F of an entry's header. -/
def entryHead (kind lines ring seq : Nat) : List Nat := [kind, lines, ring, 0, 0, 0, 0, 0] ++ byteList 8 seq

/-- R451, R454: one entry written at the log's present end; after one that ends the log the next lies at offset 0. -/
def putEntry (s : State) (t : Sec) (kind ring : Nat) (payload : List (BitVec 512)) : State :=
  let r := getTrace s t
  let head := entryHead kind payload.length ring r.rlSeq
  let body := payload.flatMap (fun w => leBytes 64 w.toNat)
  let chain := shaNum (be384 r.chain ++ head ++ body)
  let s := wrDev s ((sizedRegion r.rlcfg).1 + r.rlOff) (head ++ be384 chain ++ body)
  let next := r.rlOff + 64 * (1 + payload.length)
  modTrace s t (fun r => { r with
    rlSeq := r.rlSeq + 1, rlOff := if next == (sizedRegion r.rlcfg).2 then 0 else next, chain := chain })

/-- R452: an entry of that many bytes does not fit before the end of the log. -/
def needsPad (s : State) (t : Sec) (bytes : Nat) : Bool :=
  decide ((sizedRegion (getTrace s t).rlcfg).2 < (getTrace s t).rlOff + bytes)

/-- R452: room for an entry before the end of the log: a PAD entry and zeros, and then offset 0. -/
def padLog (s : State) (t : Sec) (bytes : Nat) : State :=
  if !needsPad s t bytes then s
  else
    let region := sizedRegion (getTrace s t).rlcfg
    let o := (getTrace s t).rlOff + 64
    let s := wrDev (putEntry s t 0 0xFF []) (region.1 + o) (List.replicate (region.2 - o) 0)
    modTrace s t (fun r => { r with rlOff := 0 })

/-- R455: queued entries, at most 256 KiB a frame with the PAD entries among them. -/
def writeLog : Nat → State → Sec → State
  | 0, s, _ => s
  | n + 1, s, t =>
    match (getTrace s t).logQ with
    | [] => s
    | e :: es =>
      let b := s.budget.get t
      let cost := entryBytes e + (if needsPad s t (entryBytes e) then 64 else 0)
      if 262144 < b.logBytes + cost then s
      else
        let s := modTrace (padLog s t (entryBytes e)) t (fun r => { r with logQ := es })
        let s := putEntry s t e.kind.toNat e.ring.toNat e.payload
        writeLog n { s with budget := s.budget.set t { b with logBytes := b.logBytes + cost } } t

/-- R455: LOG_ENTRY_WRITE. -/
def execLogEntryWrite (t : Sec) (s : State) : Res :=
  let s := begin s
  .next (if inSlot0 s then writeLog (getTrace s t).logQ.length s t else s)

/-! ### The comparison -/

/-- An entry of the reference: its place, kind, lines and ring. -/
structure RefEntry where
  addr : Nat
  kind : Nat
  lines : Nat
  ring : Nat
  deriving DecidableEq, Repr

def refEntry (s : State) (a : Nat) : RefEntry := ⟨a, rdDev s a, rdDev s (a + 1) % 16, rdDev s (a + 2)⟩

/-- R457: what the scan of the reference has met: descriptors of each ring, FENCEs and loads, and the descriptors whose
completion is still to come (ring, ordinal, CMD_ID). -/
structure Scan where
  counts : Sparse Nat
  opened : List (Nat × Nat × Nat)
  deriving DecidableEq, Repr

/-- R457: the key of a reference entry (none for a completion whose descriptor the reference does not hold), and the scan
after it. -/
def refKey (s : State) (x : Scan) (e : RefEntry) : Option Nat × Scan :=
  let id (off : Nat) : Nat := rdDev s (e.addr + 64 + off) + 256 * rdDev s (e.addr + 64 + off + 1)
  let count (k : Nat) : Nat × Scan :=
    let n := sget 0 x.counts k
    (n, { x with counts := sset 0 x.counts k (n + 1) })
  match e.kind with
  | 1 =>
    let (n, y) := count (e.ring % 16)
    (some n, { y with opened := y.opened ++ [(e.ring, n, id 2)] })
  | 2 =>
    (match x.opened.find? (fun o => o.1 == e.ring && o.2.2 == id 0) with
    | some o => (some o.2.1, { x with opened := x.opened.erase o })
    | none => (none, x))
  | 3 => let (n, y) := count 16; (some n, y)
  | 4 => let (n, y) := count 17; (some n, y)
  | 5 => (some (leNat (rdDevBytes s (e.addr + 64) 8)), x)
  | _ => (none, x)

/-- R457: the first reference entry of the same kind and key. -/
def findRef (s : State) (q : LogEntry) : Nat → Nat → Scan → Option RefEntry
  | 0, _, _ => none
  | n + 1, a, x =>
    let e := refEntry s a
    let (k, y) := refKey s x e
    if e.kind == q.kind.toNat && e.ring == q.ring.toNat && k == some q.ordinal then some e
    else findRef s q n (a + 64 * (1 + e.lines)) y

/-- R458: the frame fields of an entry: byte offsets in its payload. -/
def frameFields (kind : Nat) (p : List Nat) : List Nat :=
  let op := p.headD 0
  match kind with
  | 1 =>
    if op == 1 then [0x30]
    else if op == 4 then [0x08, 0x30]
    else if op == 5 then [0x30, 0x40 + 0x58]
    else if op == 0x0B || op == 0x0C then [0x08]
    else []
  | 2 =>
    let op := p.getD 2 0
    if op == 4 then [0x08, 0x10] else if op == 5 || op == 0x0C then [0x08] else []
  | _ => []

/-- R458: DELTA is subtracted from a frame field that is not 0. -/
def shiftField (delta : W64) (p : List Nat) (off : Nat) : List Nat :=
  let v := leNat ((p.drop off).take 8)
  if v == 0 || p.length < off + 8 then p
  else p.take off ++ leBytes 8 (w64 v - delta).toNat ++ p.drop (off + 8)

/-- Table 16.6: byte i of the payload is compared. -/
def isCompared (kind op i : Nat) : Bool :=
  match kind with
  | 2 =>
    let brief := [2, 6, 7, 0xB, 0xD, 0xE].contains op
    i == 2 || i < 2 || i == 6 || (!brief && (i == 3 || i == 4 || i == 5 || i == 7 || (16 ≤ i && i < 32)))
      || ((op == 4 || op == 5 || op == 0xC) && (8 ≤ i && i < 16))
  | 3 => decide (i < 16)
  | _ => true

/-- The offset in the entry of the first compared byte that differs. -/
def firstDiff (s : State) (t : Sec) (q : LogEntry) (e : RefEntry) : Option Nat :=
  let p := q.payload.flatMap (fun w => leBytes 64 w.toNat)
  let k := q.kind.toNat
  let mine := (frameFields k p).foldl (shiftField (getTrace s t).rcdelta) p
  let ref := rdDevBytes s (e.addr + 64) (64 * e.lines)
  let op := if k == 2 then p.getD 2 0 else 0
  ((List.range (max mine.length ref.length)).find? (fun i => isCompared k op i && mine[i]? != ref[i]?)).map (· + 64)

/-- R459: a divergence. -/
def recordDiv (s : State) (t : Sec) (q : LogEntry) (off : Nat) : State :=
  let x := (getTrace s t).div
  if bit64 x 0 then modTrace s t (fun r => { r with div := putBits x 6 8 (min (bits x 6 8 + 1) 0xFF) })
  else
    let w := w64 ((q.ordinal % 2 ^ 32) * 2 ^ 32 + (q.kind.toNat % 16) * 2 ^ 28 + (q.ring.toNat % 16) * 2 ^ 24 + off * 2 ^ 14 + 1)
    raiseEvent (modTrace s t (fun r => { r with div := w })) evReplayDivergence t.val 1 (.word w)

/-- R457: one entry of the replay. -/
def compareOne (s : State) (t : Sec) (q : LogEntry) : State :=
  let r := getTrace s t
  match findRef s q r.rclen.toNat (bits r.rccfg 6 42 * 64) ⟨[], []⟩ with
  | none => s
  | some e => match firstDiff s t q e with
    | none => s
    | some off => recordDiv s t q off

/-- R457-R459: REPLAY_COMPARISON; 65,536 entries behind, it stops with LAG. -/
def execReplayComparison (t : Sec) (s : State) : Res :=
  let s := begin s
  let r := getTrace s t
  .next (if !cmpOn s t || bit64 r.rccfg 61 then s
    else if 65536 ≤ r.cmpQ.length then modTrace s t (fun r => { r with rccfg := r.rccfg ||| 0x2000000000000000, cmpQ := [] })
    else r.cmpQ.foldl (fun s q => compareOne s t q) (modTrace s t (fun r => { r with cmpQ := [] })))

/-! ### The trace buffer -/

/-- Table 16.12. -/
def traceBytes (x : TraceRec) : List Nat :=
  byteList 8 x.ns.toNat ++ byteList 2 x.frac.toNat ++ [x.event.toNat, x.srcKind.toNat] ++ byteList 2 x.srcIndex.toNat
    ++ byteList 2 x.seq.toNat ++ byteList 8 x.arg0.toNat ++ byteList 8 x.arg1.toNat

/-- R460: NEXT and WRAPPED of TRACE_TSTAT. -/
def traceNext (r : Trace) : Nat := r.written % (sizedRegion r.tcfg).2
def traceWrapped (r : Trace) : Bool := decide ((sizedRegion r.tcfg).2 < r.written)

/-- R460: one record reaches the buffer. -/
def putTrace (s : State) (t : Sec) (x : TraceRec) : State :=
  let r := getTrace s t
  modTrace (wrDev s ((sizedRegion r.tcfg).1 + traceNext r) (traceBytes x)) t (fun r => { r with written := r.written + 32 })

def flushTrace (s : State) (t : Sec) : State :=
  let q := (getTrace s t).traceQ
  q.foldl (fun s x => putTrace s t x) (modTrace s t (fun r => { r with traceQ := [] }))

/-- R463: the queues are written out; a DROPPED record follows what they had lost. -/
def writeTrace (s : State) (t : Sec) : State :=
  let s := flushTrace s t
  let lost := (getTrace s t).gap
  if lost == 0 then s
  else
    let s := traceRec (modTrace s t (fun r => { r with gap := 0 })) t 0x34 0 0 (w64 lost) (w64 (frameNow s))
    flushTrace s t

/-- R463: TRACE_RECORD_WRITE. -/
def execTraceRecordWrite (t : Sec) (s : State) : Res :=
  let s := begin s
  .next (if inSlot0 s then writeTrace s t else s)

end Sys2Proof.Machine
end

