-- ==== Sys2Proof/Machine/RegMap.lean ====
section
/-!
DEFINITION. The register map: a BAR0 write by its address (R502-R508).
-/
namespace Sys2Proof.Machine

/-- R502: the view that a BAR0 address lies in, with the offset within it; none where the address is reserved. -/
def viewOf (a : Nat) : Option (View × Nat) :=
  if a < 0xC0000 then some (.card, a)
  else if a < 0x1000000 then none
  else
    let r := (a - 0x1000000) % 0x400000
    if h : (a - 0x1000000) / 0x400000 < 4 then
      if r < 0xC0000 then some (.sect ⟨(a - 0x1000000) / 0x400000, h⟩, r) else none
    else none

/-- The instance number of an array of registers from `base`, `step` bytes apart, with `n` instances; none where the offset
is not the first byte of one. -/
def instOf (off base step n : Nat) : Option Nat :=
  if base ≤ off ∧ (off - base) % step = 0 ∧ (off - base) / step < n then some ((off - base) / step) else none

/-- The section of an instance number. -/
def secAt (k : Nat) : Sec := ⟨k % 4, Nat.mod_lt _ (by omega)⟩

/-- The first of a list of registers that an offset names. -/
def firstSome {α : Type} : List (Option α) → Option α
  | [] => none
  | some a :: _ => some a
  | none :: l => firstSome l

/-- R506: the W1C bits of a written half or whole; the other half of the write carries 0. -/
def onesOf (part : Part) (data : W64) : W64 := mergePart part 0 data

/-- R545: VALID of a record register. -/
def validWrite (r : Nat) (s : State) (v : View) (t : Sec) (data : W64) : State :=
  if bit64 data 0 then clearRecord s v r t else s

/-- R8, R524: WMB_CTL: CMD, and ROLE with CHALLENGE; other bits are ignored, and a reserved CMD names no command. -/
def wmbCtl (s : State) (v : View) (data : W32) : State :=
  let cmd := (data.extractLsb' 28 4).toNat
  let role : BitVec 2 := data.extractLsb' 26 2
  if cmd == 1 then mailbox s v (fun s => challenge s role)
  else if cmd == 2 then mailbox s v submit
  else if cmd == 3 then mailbox s v closeByRole
  else if cmd == 4 then mailbox s v mailboxDrain
  else if cmd == 5 then mailbox s v mailboxReturn
  else s

/-- Table 18.20: WMB_STATUS.NO_SESSION is W1C. -/
def wmbStatus (s : State) (v : View) (data : W32) : State :=
  if v == .card && data.getLsbD 0 then modWard s (fun w => { w with noSession := false }) else s

/-- R524, R525: WMB_SIG[i]: a half that is not written carries 0, since the register is write-only. -/
def wmbSig (s : State) (v : View) (i : Nat) (part : Part) (data : W64) : State :=
  if v != .card then s
  else modWard s (fun w =>
    let keep : BitVec 768 := w.sig &&& ~~~ ((BitVec.ofNat 768 0xFFFFFFFFFFFFFFFF) <<< (64 * i))
    { w with sig := keep ||| ((onesOf part data).setWidth 768) <<< (64 * i) })

/-- R506, R519: TIME_BELL word 0 by halves: the half that is not written is what the holding latch holds (log entry 22). -/
def bellEpochPart (s : State) (v : View) (part : Part) (data : W64) : State := bellEpoch s v (mergePart part s.time.latch data)

/-- R506, R519: TIME_BELL word 1 by halves: the half that is not written carries the period in force (log entry 22). -/
def bellPeriodPart (s : State) (v : View) (part : Part) (data : W64) : State :=
  bellPeriod s v (mergePart part (w64 s.time.period.toNat) data)

/-- Table 15.6: ERR_CARD.CHG is W1C. -/
def errCardWrite (s : State) (v : View) (data : W64) : State :=
  if v == .card && bit64 data 0 then modWard s (fun w => { w with chg := false }) else s

/-- R511: a 64-bit register of a ring pair. -/
def ring64 (off : Nat) : Option (State → View → Part → W64 → State) :=
  if 0x20000 ≤ off ∧ off < 0x21000 then
    let p : Pair := ⟨(off - 0x20000) / 64 % 64, Nat.mod_lt _ (by omega)⟩
    match off % 64 with
    | 0 => some (fun s v part d => ringAddr s v p 0 part d)
    | 8 => some (fun s v part d => ringAddr s v p 1 part d)
    | 16 => some (fun s v part d => ringAddr s v p 2 part d)
    | 32 => some (fun s v part d => clearRingChg s v p (onesOf part d))
    | _ => none
  else none

/-- R520: a 64-bit register of a section's TRACE block. -/
def trace64 (off : Nat) : Option (State → View → Part → W64 → State) :=
  if 0x80000 ≤ off ∧ off < 0x80400 then
    let t := secAt ((off - 0x80000) / 0x100)
    match off % 0x100 with
    | 0 => some (fun s v part d => rlcfg s v t part d)
    | 0x40 => some (fun s v part d => traceRccfg s v t part d)
    | 0x48 => some (fun s v part d => traceRef s v t true part d)
    | 0x50 => some (fun s v part d => traceRef s v t false part d)
    | 0x58 => some (fun s v part d => validWrite 9 s v t (onesOf part d))
    | 0x60 => some (fun s v part d => traceTcfg s v t part d)
    | _ => none
  else none

/-- The per-section record registers of 64 bits: first offset and number of R545. -/
def recordRegs : List (Nat × Nat) :=
  [(0x10080, 4), (0x42100, 3), (0x50A00, 8), (0x74000, 0), (0x74060, 2), (0x74080, 5), (0x740A0, 6)]

/-- The 64-bit register whose first byte an offset names, as the effect of a write of it. -/
def reg64 (off : Nat) : Option (State → View → Part → W64 → State) :=
  firstSome ([ring64 off, trace64 off,
    (instOf off 0x10040 8 4).map (fun k s v part d => hifDir s v (secAt k) part d),
    (instOf off 0x3A000 8 64).map (fun k s v part d => mrgnWrite s v (secAt (k / 16)) (k % 16) part d),
    (instOf off 0x50800 8 1).map (fun _ s v part d => fabLctl s v part d),
    (instOf off 0x60000 8 1).map (fun _ s v part d => timeCtrl s v part d),
    (instOf off 0x60008 8 1).map (fun _ s v part d => clearLockChg s v (onesOf part d)),
    (instOf off 0x60030 8 1).map (fun _ s v part d => bellEpochPart s v part d),
    (instOf off 0x60038 8 1).map (fun _ s v part d => bellPeriodPart s v part d),
    (instOf off 0x74100 8 1).map (fun _ s v part d => errCardWrite s v (onesOf part d)),
    (instOf off 0x74108 8 1).map (fun _ s v part d => validWrite 7 s v 0 (onesOf part d)),
    (instOf off 0xA0080 8 1).map (fun _ s v part d => owncmd s v (part == .whole) d),
    (instOf off 0xB0040 8 12).map (fun i s v part d => wmbSig s v i part d),
    (instOf off 0xB0108 8 1).map (fun _ s v part d => ackWrite s v part d)]
    ++ recordRegs.map (fun e =>
      (instOf off e.1 8 4).map (fun k s v part d => validWrite e.2 s v (secAt k) (onesOf part d))))

/-- The 32-bit register at an offset, as the effect of a write of it. -/
def reg32 (off : Nat) : Option (State → View → W32 → State) :=
  firstSome [
    (instOf off 0x10010 8 4).map (fun k s v d => winctl s v (secAt k) d),
    (if 0x20000 ≤ off ∧ off < 0x21000 ∧ off % 64 = 24 then
      some (fun s v d => ringCfg s v ⟨(off - 0x20000) / 64 % 64, Nat.mod_lt _ (by omega)⟩ d) else none),
    (instOf off 0x50000 4 36).map (fun k s v d => clearLinkChg s v k d),
    (instOf off 0x50900 8 4).map (fun k s v d => rccfg s v (secAt k) d),
    (if 0x70000 ≤ off ∧ off < 0x74000 ∧ off % 4 = 0 then
      some (fun s v d => clearNflag s v (secAt ((off - 0x70000) / 0x1000)) (off % 0x1000 / 4) (d.setWidth 5)) else none),
    (instOf off 0x74040 8 4).map (fun k s v d => validWrite 1 s v (secAt k) (d.setWidth 64)),
    (instOf off 0x90008 4 1).map (fun _ s v d => mdoze s v d),
    (instOf off 0x9000C 4 1).map (fun _ s v d => hdrWrite s v d),
    (instOf off 0x90020 4 4).map (fun k s v d => cdoze s v (secAt k) d),
    (instOf off 0xA0000 8 4).map (fun k s v d => sectCtl s v (secAt k) d),
    (instOf off 0xA0020 8 4).map (fun k s v d => sectCommons s v (secAt k) d),
    (instOf off 0xA0040 8 4).map (fun k s v d => sectRole s v (secAt k) d),
    (instOf off 0xB0000 4 1).map (fun _ s v d => wmbCtl s v d),
    (instOf off 0xB0004 4 1).map (fun _ s v d => wmbStatus s v d)]

/-- R506: a 4-byte access; a reserved or read-only offset ignores it (R505, R503). -/
def write4 (s : State) (v : View) (off : Nat) (data : W32) : State :=
  match reg32 off with
  | some f => f s v data
  | none =>
    match reg64 off with
    | some f => f s v .low (data.setWidth 64)
    | none => if off % 8 == 4 then (match reg64 (off - 4) with | some f => f s v .high (data.setWidth 64) | none => s) else s

/-- R506: an 8-byte access: a 64-bit register as one, else two 4-byte accesses, the lower address first. -/
def write8 (s : State) (v : View) (off : Nat) (data : W64) : State :=
  match reg64 off with
  | some f => f s v .whole data
  | none => write4 (write4 s v off (data.setWidth 32)) v (off + 4) ((data >>> 32).setWidth 32)

/-- R505-R507: a write at an offset of a view. -/
def viewWrite (s : State) (v : View) (off : Nat) (wide : Bool) (data : W64) : State :=
  if 0x30000 ≤ off ∧ off < 0x3A000 then blkcfg s v (off - 0x30000) wide data
  else if 0x40000 ≤ off ∧ off < 0x42000 then blkmode s v (off - 0x40000) wide data
  else if 0xA1000 ≤ off ∧ off < 0xA1C40 then slotWrite s v (off - 0xA1000) wide data
  else if wide then write8 s v off data
  else write4 s v off (data.setWidth 32)

/-- R502-R509: REGISTER_WRITE. -/
def execRegisterWrite (addr : BitVec 25) (wide : Bool) (data : W64) (s : State) : Res :=
  let s := begin s
  let a := addr.toNat
  .next (if a % (if wide then 8 else 4) != 0 then emit (emit s .abort) .aer
    else match viewOf a with
    | some x => viewWrite s x.1 x.2 wide data
    | none => s)

end Sys2Proof.Machine
end

