-- ==== Sys2Proof/Machine/Dispatch.lean ====
section
/-!
DEFINITION. What each command does: one arm for each row of the table of operations and events.
-/
namespace Sys2Proof.Machine

def exec (i : Instr) (s : State) : Host.Outcome State Fault Refusal :=
  match i with
  | .nop p d => Sys2Proof.Machine.execNop p d s
  | .fence p d => Sys2Proof.Machine.execFence p d s
  | .fenceCompletion p => Sys2Proof.Machine.execFenceCompletion p s
  | .loadImage p d => Sys2Proof.Machine.execLoadImage p d s
  | .unloadImage p d => Sys2Proof.Machine.execUnloadImage p d s
  | .run p d => Sys2Proof.Machine.execRun p d s
  | .repeatRun p d => Sys2Proof.Machine.execRepeatRun p d s
  | .runStart t => Sys2Proof.Machine.execRunStart t s
  | .microBatchStart t => Sys2Proof.Machine.execMicroBatchStart t s
  | .runCompletion t => Sys2Proof.Machine.execRunCompletion t s
  | .grove p d => Sys2Proof.Machine.execGrove p d s
  | .groveStart t => Sys2Proof.Machine.execGroveStart t s
  | .groveCompletion t => Sys2Proof.Machine.execGroveCompletion t s
  | .migrate p d => Sys2Proof.Machine.execMigrate p d s
  | .preferCanopy p d => Sys2Proof.Machine.execPreferCanopy p d s
  | .preferUnder p d => Sys2Proof.Machine.execPreferUnder p d s
  | .pin p d => Sys2Proof.Machine.execPin p d s
  | .unpin p d => Sys2Proof.Machine.execUnpin p d s
  | .willneed p d => Sys2Proof.Machine.execWillneed p d s
  | .cold p d => Sys2Proof.Machine.execCold p d s
  | .checkpoint p d => Sys2Proof.Machine.execCheckpoint p d s
  | .checkpointCopyStart t => Sys2Proof.Machine.execCheckpointCopyStart t s
  | .trancheDigestWrite t => Sys2Proof.Machine.execTrancheDigestWrite t s
  | .inlineWrite p d => Sys2Proof.Machine.execInlineWrite p d s
  | .seed p d => Sys2Proof.Machine.execSeed p d s
  | .timeMark p d => Sys2Proof.Machine.execTimeMark p d s
  | .timeMarkAtFrame t => Sys2Proof.Machine.execTimeMarkAtFrame t s
  | .reshard p d => Sys2Proof.Machine.execReshard p d s
  | .reshardStart t => Sys2Proof.Machine.execReshardStart t s
  | .drain p d => Sys2Proof.Machine.execDrain p d s
  | .drainTakesEffect t => Sys2Proof.Machine.execDrainTakesEffect t s
  | .queryStep p d => Sys2Proof.Machine.execQueryStep p d s
  | .queryPage p d => Sys2Proof.Machine.execQueryPage p d s
  | .queryLoad p d => Sys2Proof.Machine.execQueryLoad p d s
  | .reservedOpcode p op d => Sys2Proof.Machine.execReservedOpcode p op d s
  | .doorbellReread p sqTail cqHead => Sys2Proof.Machine.execDoorbellReread p sqTail cqHead s
  | .completionRecordWrite t => Sys2Proof.Machine.execCompletionRecordWrite t s
  | .snpData line => Sys2Proof.Machine.execSnpData line s
  | .snpInv line => Sys2Proof.Machine.execSnpInv line s
  | .snpCur line => Sys2Proof.Machine.execSnpCur line s
  | .goWritePull line => Sys2Proof.Machine.execGoWritePull line s
  | .goWritePullDrop line => Sys2Proof.Machine.execGoWritePullDrop line s
  | .memRd hpa m => Sys2Proof.Machine.execMemRd hpa m s
  | .memWr hpa m data poison => Sys2Proof.Machine.execMemWr hpa m data poison s
  | .memWrPtl hpa m data enable poison => Sys2Proof.Machine.execMemWrPtl hpa m data enable poison s
  | .memInv hpa => Sys2Proof.Machine.execMemInv hpa s
  | .inboundBufferDrain lines => Sys2Proof.Machine.execInboundBufferDrain lines s
  | .backInvalidateRecall t => Sys2Proof.Machine.execBackInvalidateRecall t s
  | .birsp r => Sys2Proof.Machine.execBirsp r s
  | .birspOverdue line => Sys2Proof.Machine.execBirspOverdue line s
  | .configurationWrite rid => Sys2Proof.Machine.execConfigurationWrite rid s
  | .cxlIoMemoryRequest rid posted => Sys2Proof.Machine.execCxlIoMemoryRequest rid posted s
  | .hostLinkTraining speed width cacheEn memEn => Sys2Proof.Machine.execHostLinkTraining speed width cacheEn memEn s
  | .dlDown => Sys2Proof.Machine.execDlDown s
  | .secondaryBusReset => Sys2Proof.Machine.execSecondaryBusReset s
  | .d3hotEntry => Sys2Proof.Machine.execD3hotEntry s
  | .perst => Sys2Proof.Machine.execPerst s
  | .hdmDecoderCommit k base ways => Sys2Proof.Machine.execHdmDecoderCommit k base ways s
  | .msixUnmask p => Sys2Proof.Machine.execMsixUnmask p s
  | .misalignedAccess addr bytes write => Sys2Proof.Machine.execMisalignedAccess addr bytes write s
  | .registerWrite addr wide data => Sys2Proof.Machine.execRegisterWrite addr wide data s
  | .timeNowRead ns frac => Sys2Proof.Machine.execTimeNowRead ns frac s
  | .timeBellEpochWrite v data => Sys2Proof.Machine.execTimeBellEpochWrite v data s
  | .timeBellPeriodWrite v data => Sys2Proof.Machine.execTimeBellPeriodWrite v data s
  | .timeCtrlWrite v part data => Sys2Proof.Machine.execTimeCtrlWrite v part data s
  | .errNflagClear v t n mask => Sys2Proof.Machine.execErrNflagClear v t n mask s
  | .recordClear v r t valid => Sys2Proof.Machine.execRecordClear v r t valid s
  | .sectCtlClustersWrite v t data => Sys2Proof.Machine.execSectCtlClustersWrite v t data s
  | .release v t data => Sys2Proof.Machine.execRelease v t data s
  | .sectionScrubDone t => Sys2Proof.Machine.execSectionScrubDone t s
  | .sectCommonsWrite v t data => Sys2Proof.Machine.execSectCommonsWrite v t data s
  | .sectOwncmd v wide data => Sys2Proof.Machine.execSectOwncmd v wide data s
  | .sectSlotWrite v off wide data => Sys2Proof.Machine.execSectSlotWrite v off wide data s
  | .memBlkcfgWrite v off wide data => Sys2Proof.Machine.execMemBlkcfgWrite v off wide data s
  | .blockFillComplete b => Sys2Proof.Machine.execBlockFillComplete b s
  | .groveBlkmodeWrite v off wide data => Sys2Proof.Machine.execGroveBlkmodeWrite v off wide data s
  | .memMrgnWrite v t j part data => Sys2Proof.Machine.execMemMrgnWrite v t j part data s
  | .sectRoleWrite v t data => Sys2Proof.Machine.execSectRoleWrite v t data s
  | .fabLctlWrite v part data => Sys2Proof.Machine.execFabLctlWrite v part data s
  | .fabRccfgWrite v t data => Sys2Proof.Machine.execFabRccfgWrite v t data s
  | .hifWinctlWrite v t data => Sys2Proof.Machine.execHifWinctlWrite v t data s
  | .hifDirWrite v t part data => Sys2Proof.Machine.execHifDirWrite v t part data s
  | .ringEnable v p data => Sys2Proof.Machine.execRingEnable v p data s
  | .ringDisable v p data => Sys2Proof.Machine.execRingDisable v p data s
  | .traceRlcfgWrite v t part data => Sys2Proof.Machine.execTraceRlcfgWrite v t part data s
  | .traceRccfgWrite v t part data => Sys2Proof.Machine.execTraceRccfgWrite v t part data s
  | .traceTcfgWrite v t part data => Sys2Proof.Machine.execTraceTcfgWrite v t part data s
  | .pwrCdozeWrite v t data => Sys2Proof.Machine.execPwrCdozeWrite v t data s
  | .pwrMdozeWrite v data => Sys2Proof.Machine.execPwrMdozeWrite v data s
  | .pwrHdrWrite v data => Sys2Proof.Machine.execPwrHdrWrite v data s
  | .auditAckWrite v part data => Sys2Proof.Machine.execAuditAckWrite v part data s
  | .challenge v role => Sys2Proof.Machine.execChallenge v role s
  | .submit v => Sys2Proof.Machine.execSubmit v s
  | .close v => Sys2Proof.Machine.execClose v s
  | .mailboxDrain v => Sys2Proof.Machine.execMailboxDrain v s
  | .mailboxReturn v => Sys2Proof.Machine.execMailboxReturn v s
  | .sessionTimeout => Sys2Proof.Machine.execSessionTimeout s
  | .clusterScrubComplete t => Sys2Proof.Machine.execClusterScrubComplete t s
  | .tick => Sys2Proof.Machine.execTick s
  | .guardBand => Sys2Proof.Machine.execGuardBand s
  | .syncMessage gm domain offset => Sys2Proof.Machine.execSyncMessage gm domain offset s
  | .syncTimeout => Sys2Proof.Machine.execSyncTimeout s
  | .holdoverLimit => Sys2Proof.Machine.execHoldoverLimit s
  | .bundleIssue core => Sys2Proof.Machine.execBundleIssue core s
  | .bundleRetire core k => Sys2Proof.Machine.execBundleRetire core k s
  | .arrangementSwitch core => Sys2Proof.Machine.execArrangementSwitch core s
  | .chunkRequest core stream => Sys2Proof.Machine.execChunkRequest core stream s
  | .chunkFilled core stream => Sys2Proof.Machine.execChunkFilled core stream s
  | .linkUnitSend l => Sys2Proof.Machine.execLinkUnitSend l s
  | .flitSend l slot => Sys2Proof.Machine.execFlitSend l slot s
  | .linkUnit l u => Sys2Proof.Machine.execLinkUnit l u s
  | .dataFlit l f => Sys2Proof.Machine.execDataFlit l f s
  | .tokenFlit l f => Sys2Proof.Machine.execTokenFlit l f s
  | .collFlit l f => Sys2Proof.Machine.execCollFlit l f s
  | .rollcallFlit l f => Sys2Proof.Machine.execRollcallFlit l f s
  | .timeFlit l f arrivalNs arrivalFrac => Sys2Proof.Machine.execTimeFlit l f arrivalNs arrivalFrac s
  | .mgmtFlit l f => Sys2Proof.Machine.execMgmtFlit l f s
  | .drainFlit l f => Sys2Proof.Machine.execDrainFlit l f s
  | .departFlit l f => Sys2Proof.Machine.execDepartFlit l f s
  | .corruptedFlit l => Sys2Proof.Machine.execCorruptedFlit l s
  | .replayTimeout l space => Sys2Proof.Machine.execReplayTimeout l space s
  | .fecLockLoss e => Sys2Proof.Machine.execFecLockLoss e s
  | .presenceChange h present => Sys2Proof.Machine.execPresenceChange h present s
  | .phyTraining l => Sys2Proof.Machine.execPhyTraining l s
  | .delayMeasurement l => Sys2Proof.Machine.execDelayMeasurement l s
  | .linkStateLimit l => Sys2Proof.Machine.execLinkStateLimit l s
  | .cableDelayUpdate l => Sys2Proof.Machine.execCableDelayUpdate l s
  | .headerOvercurrent e => Sys2Proof.Machine.execHeaderOvercurrent e s
  | .powerOnHour h => Sys2Proof.Machine.execPowerOnHour h s
  | .rollcallContribution t => Sys2Proof.Machine.execRollcallContribution t s
  | .rollcallLevelSend t => Sys2Proof.Machine.execRollcallLevelSend t s
  | .rollcallCombine t => Sys2Proof.Machine.execRollcallCombine t s
  | .rollcallResultSend t => Sys2Proof.Machine.execRollcallResultSend t s
  | .rollcallResult t => Sys2Proof.Machine.execRollcallResult t s
  | .rollcallReturn t => Sys2Proof.Machine.execRollcallReturn t s
  | .pageSwitch page => Sys2Proof.Machine.execPageSwitch page s
  | .patrolScrub granule r => Sys2Proof.Machine.execPatrolScrub granule r s
  | .sramUncorrectable e => Sys2Proof.Machine.execSramUncorrectable e s
  | .logEntryWrite t => Sys2Proof.Machine.execLogEntryWrite t s
  | .replayComparison t => Sys2Proof.Machine.execReplayComparison t s
  | .traceRecordWrite t => Sys2Proof.Machine.execTraceRecordWrite t s
  | .clusterDoze c => Sys2Proof.Machine.execClusterDoze c s
  | .clusterWake c => Sys2Proof.Machine.execClusterWake c s
  | .tierWakeComplete bridge => Sys2Proof.Machine.execTierWakeComplete bridge s
  | .assembly => Sys2Proof.Machine.execAssembly s
  | .assemblyComplete => Sys2Proof.Machine.execAssemblyComplete s
  | .assemblyTimeout => Sys2Proof.Machine.execAssemblyTimeout s
  | .cardDrain => Sys2Proof.Machine.execCardDrain s
  | .departSend => Sys2Proof.Machine.execDepartSend s
  | .sentryKick word => Sys2Proof.Machine.execSentryKick word s
  | .sentryDeadline => Sys2Proof.Machine.execSentryDeadline s
  | .heartbeat data => Sys2Proof.Machine.execHeartbeat data s
  | .powerFailure => Sys2Proof.Machine.execPowerFailure s
  | .holdUpEnd => Sys2Proof.Machine.execHoldUpEnd s
  | .inputOvervoltage mv => Sys2Proof.Machine.execInputOvervoltage mv s
  | .railOvercurrent k amps => Sys2Proof.Machine.execRailOvercurrent k amps s
  | .thermalLimit k reading => Sys2Proof.Machine.execThermalLimit k reading s
  | .redfishRequest who a => Sys2Proof.Machine.execRedfishRequest who a s
  | .redfishDrain who => Sys2Proof.Machine.execRedfishDrain who s
  | .exportAcknowledgement who seq => Sys2Proof.Machine.execExportAcknowledgement who seq s
  | .keyEnrolment byMaker r sig e => Sys2Proof.Machine.execKeyEnrolment byMaker r sig e s
  | .firmwareStage who version namesCard package => Sys2Proof.Machine.execFirmwareStage who version namesCard package s
  | .eventRetryExpiry => Sys2Proof.Machine.execEventRetryExpiry s
  | .pldmRequest q => Sys2Proof.Machine.execPldmRequest q s
  | .present heldMs => Sys2Proof.Machine.execPresent heldMs s
  | .boot activeOk otherOk => Sys2Proof.Machine.execBoot activeOk otherOk s
  | .measure mv inlet outlet => Sys2Proof.Machine.execMeasure mv inlet outlet s
  | .memory ok => Sys2Proof.Machine.execMemory ok s
  | .core answersOk => Sys2Proof.Machine.execCore answersOk s
  | .links => Sys2Proof.Machine.execLinks s
  | .cmisIdentityRead h c => Sys2Proof.Machine.execCmisIdentityRead h c s

end Sys2Proof.Machine
end

