-- ==== Sys2Proof/WellFormed.lean ====
section
/-!
DEFINITION. Which commands are well formed: what the manual says of the form of an access, a descriptor, a flit or an event,
apart from what the card checks itself.
-/
namespace Sys2Proof

/-- R394, R397: a descriptor comes with the INLINE[2:0] follow-on slots that the device reads with it. -/
def Desc.wf (d : Desc) : Bool := d.follow.length == (d.inline.extractLsb' 0 3).toNat

/-- R506: a 4-byte write carries 4 bytes. -/
def narrowOk (wide : Bool) (data : W64) : Bool := wide || decide (data.toNat < 2 ^ 32)

def Part.wf (part : Part) (data : W64) : Bool := narrowOk (part == .whole) data

/-- R505, R507: an access to a byte array of `n` entries is aligned and lies in it. -/
def arrayOk (n off : Nat) (wide : Bool) (data : W64) : Bool :=
  off % (if wide then 8 else 4) == 0 && decide (off < n) && narrowOk wide data

/-- R266: LEN is at most 240 bytes, and there are five sequence spaces. -/
def Flit.wf (f : Flit) : Bool :=
  decide (f.len.toNat ≤ 240) && decide (f.space.toNat < 5)

/-- R417: the word lies in its store. -/
def SramSite.wf : SramSite → Bool
  | .slate _ line _ => decide (line < 49152)
  | .commons _ line _ => decide (line < 49152)
  | .accumulator _ _ _ _ => true
  | .blockStore _ _ _ _ => true
  | .programStore _ => true
  | .replayBuffer _ => true

/-- R185, R194: a granule has four sectors of 64 bytes. -/
def ScrubFind.wf : ScrubFind → Bool
  | .corrected n => decide (1 ≤ n ∧ n ≤ 4)
  | .clean => true
  | .uncorrectable => true

/-- R398, R399: an opcode of no command. -/
def isReservedOp (op : BitVec 8) : Bool := op == 0 || decide (0x0F ≤ op.toNat)

/-- R359: what a link may train to. -/
def trainOk (speed : BitVec 4) (width : BitVec 5) : Bool :=
  decide (1 ≤ speed.toNat ∧ speed.toNat ≤ 6) && [1, 2, 4, 8, 16].contains width.toNat

/-- A command has the form that the manual gives it. -/
def wellFormed : Instr → Bool
  | .nop _ d => d.wf
  | .fence _ d => d.wf
  | .fenceCompletion _ => true
  | .loadImage _ d => d.wf
  | .unloadImage _ d => d.wf
  | .run _ d => d.wf
  | .repeatRun _ d => d.wf
  | .runStart _ => true
  | .microBatchStart _ => true
  | .runCompletion _ => true
  | .grove _ d => d.wf
  | .groveStart _ => true
  | .groveCompletion _ => true
  | .migrate _ d => d.wf
  | .preferCanopy _ d => d.wf
  | .preferUnder _ d => d.wf
  | .pin _ d => d.wf
  | .unpin _ d => d.wf
  | .willneed _ d => d.wf
  | .cold _ d => d.wf
  | .checkpoint _ d => d.wf
  | .checkpointCopyStart _ => true
  | .trancheDigestWrite _ => true
  | .inlineWrite _ d => d.wf
  | .seed _ d => d.wf
  | .timeMark _ d => d.wf
  | .timeMarkAtFrame _ => true
  | .reshard _ d => d.wf
  | .reshardStart _ => true
  | .drain _ d => d.wf
  | .drainTakesEffect _ => true
  | .queryStep _ d => d.wf
  | .queryPage _ d => d.wf
  | .queryLoad _ d => d.wf
  | .reservedOpcode _ op d => isReservedOp op && d.wf
  | .doorbellReread _ _ _ => true
  | .completionRecordWrite _ => true
  | .snpData line => line.toNat % 64 == 0
  | .snpInv line => line.toNat % 64 == 0
  | .snpCur line => line.toNat % 64 == 0
  | .goWritePull line => line.toNat % 64 == 0
  | .goWritePullDrop line => line.toNat % 64 == 0
  | .memRd hpa _ => hpa.toNat % 64 == 0
  | .memWr hpa _ _ _ => hpa.toNat % 64 == 0
  | .memWrPtl hpa _ _ _ _ => hpa.toNat % 64 == 0
  | .memInv hpa => hpa.toNat % 64 == 0
  | .inboundBufferDrain _ => true
  | .backInvalidateRecall _ => true
  | .birsp r => r.line.toNat % 64 == 0
  | .birspOverdue line => line.toNat % 64 == 0
  | .configurationWrite _ => true
  | .cxlIoMemoryRequest _ _ => true
  | .hostLinkTraining speed width _ _ => trainOk speed width
  | .dlDown => true
  | .secondaryBusReset => true
  | .d3hotEntry => true
  | .perst => true
  | .hdmDecoderCommit _ _ ways => decide (1 ≤ ways)
  | .msixUnmask _ => true
  | .misalignedAccess addr bytes _ => !((bytes == 4 || bytes == 8) && addr.toNat % bytes == 0)
  | .registerWrite addr wide data => addr.toNat % (if wide then 8 else 4) == 0 && narrowOk wide data
  | .timeNowRead _ _ => true
  | .timeBellEpochWrite _ _ => true
  | .timeBellPeriodWrite _ _ => true
  | .timeCtrlWrite _ part data => part.wf data
  | .errNflagClear _ _ _ _ => true
  | .recordClear _ r _ _ => decide (r.toNat < 10)
  | .sectCtlClustersWrite _ _ _ => true
  | .release _ _ data => data.getLsbD 28
  | .sectionScrubDone _ => true
  | .sectCommonsWrite _ _ _ => true
  | .sectOwncmd _ wide data => narrowOk wide data
  | .sectSlotWrite _ off wide data => arrayOk 0xC40 off.toNat wide data
  | .memBlkcfgWrite _ off wide data => arrayOk 40960 off.toNat wide data
  | .blockFillComplete _ => true
  | .groveBlkmodeWrite _ off wide data => arrayOk 8192 off.toNat wide data
  | .memMrgnWrite _ _ _ part data => part.wf data
  | .sectRoleWrite _ _ _ => true
  | .fabLctlWrite _ part data => part.wf data
  | .fabRccfgWrite _ _ _ => true
  | .hifWinctlWrite _ _ _ => true
  | .hifDirWrite _ _ part data => part.wf data
  | .ringEnable _ _ data => data.getLsbD 31
  | .ringDisable _ _ data => !data.getLsbD 31
  | .traceRlcfgWrite _ _ part data => part.wf data
  | .traceRccfgWrite _ _ part data => part.wf data
  | .traceTcfgWrite _ _ part data => part.wf data
  | .pwrCdozeWrite _ _ _ => true
  | .pwrMdozeWrite _ _ => true
  | .pwrHdrWrite _ _ => true
  | .auditAckWrite _ part data => part.wf data
  | .challenge _ _ => true
  | .submit _ => true
  | .close _ => true
  | .mailboxDrain _ => true
  | .mailboxReturn _ => true
  | .sessionTimeout => true
  | .clusterScrubComplete _ => true
  | .tick => true
  | .guardBand => true
  | .syncMessage _ _ _ => true
  | .syncTimeout => true
  | .holdoverLimit => true
  | .bundleIssue _ => true
  | .bundleRetire _ _ => true
  | .arrangementSwitch _ => true
  | .chunkRequest _ _ => true
  | .chunkFilled _ _ => true
  | .linkUnitSend _ => true
  | .flitSend _ _ => true
  | .linkUnit _ _ => true
  | .dataFlit _ f => f.wf
  | .tokenFlit _ f => f.wf
  | .collFlit _ f => f.wf
  | .rollcallFlit _ f => f.wf
  | .timeFlit _ f _ _ => f.wf
  | .mgmtFlit _ f => f.wf
  | .drainFlit _ f => f.wf
  | .departFlit _ f => f.wf
  | .corruptedFlit _ => true
  | .replayTimeout _ _ => true
  | .fecLockLoss _ => true
  | .presenceChange _ _ => true
  | .phyTraining _ => true
  | .delayMeasurement _ => true
  | .linkStateLimit _ => true
  | .cableDelayUpdate _ => true
  | .headerOvercurrent _ => true
  | .powerOnHour _ => true
  | .rollcallContribution _ => true
  | .rollcallLevelSend _ => true
  | .rollcallCombine _ => true
  | .rollcallResultSend _ => true
  | .rollcallResult _ => true
  | .rollcallReturn _ => true
  | .pageSwitch page => page.toNat % 0x200000 == 0
  | .patrolScrub _ r => r.wf
  | .sramUncorrectable e => e.site.wf
  | .logEntryWrite _ => true
  | .replayComparison _ => true
  | .traceRecordWrite _ => true
  | .clusterDoze _ => true
  | .clusterWake _ => true
  | .tierWakeComplete _ => true
  | .assembly => true
  | .assemblyComplete => true
  | .assemblyTimeout => true
  | .cardDrain => true
  | .departSend => true
  | .sentryKick _ => true
  | .sentryDeadline => true
  | .heartbeat _ => true
  | .powerFailure => true
  | .holdUpEnd => true
  | .inputOvervoltage _ => true
  | .railOvercurrent _ _ => true
  | .thermalLimit _ _ => true
  | .redfishRequest _ _ => true
  | .redfishDrain _ => true
  | .exportAcknowledgement _ _ => true
  | .keyEnrolment _ _ _ _ => true
  | .firmwareStage _ _ _ _ => true
  | .eventRetryExpiry => true
  | .pldmRequest _ => true
  | .present _ => true
  | .boot _ _ => true
  | .measure _ _ _ => true
  | .memory _ => true
  | .core _ => true
  | .links => true
  | .cmisIdentityRead _ _ => true

end Sys2Proof
end

