-- ==== Sys2Proof/Safety.lean ====
section
/-!
DEFINITION. What claims about the card are stated with: the canonical form of its memories, the rules on what is fused, the
pieces of the state, and what a command leaves unchanged.
-/
namespace Sys2Proof

/-- The canonical form of a byte memory: addresses strictly rising, and no entry that reads as an unlisted byte does. -/
def Memory.wf (m : Memory) : Bool := Machine.swf 0 m

end Sys2Proof

namespace Sys2Proof.Machine

/-- Device memory, the slates and the commons are in canonical form. -/
def memoriesOk (s : State) : Bool := Memory.wf s.tiers.mem && Memory.wf s.slate && Memory.wf s.commons

/-- R88, R89: the core map gives at most 128 logical cores a physical core each, of 132, and no two the same. -/
def coreMapOk (id : Ident) : Bool :=
  decide (id.cmap.length ≤ 128) && id.cmap.all (fun p => decide (p.toNat < 132)) && decide id.cmap.Nodup

/-- The pieces of the state: every field but the queue. -/
inductive Piece where
  | id | time | sect | slots | slotsNow | slotRefused | ownRefused | nflag | rings | cmds | recs | steps | images | loadPages | cores
  | store | slate | commons | acc | colls | tiers | links | lctlPhys | lctlEnable | lctlRefused | headers | wear | hif | ward
  | power | trace | budget | out | fresh | seq
  deriving DecidableEq, Repr

/-- A piece is the same in two states. -/
def Piece.same (s t : State) : Piece → Prop
  | .id => t.id = s.id
  | .time => t.time = s.time
  | .sect => t.sect = s.sect
  | .slots => t.slots = s.slots
  | .slotsNow => t.slotsNow = s.slotsNow
  | .slotRefused => t.slotRefused = s.slotRefused
  | .ownRefused => t.ownRefused = s.ownRefused
  | .nflag => t.nflag = s.nflag
  | .rings => t.rings = s.rings
  | .cmds => t.cmds = s.cmds
  | .recs => t.recs = s.recs
  | .steps => t.steps = s.steps
  | .images => t.images = s.images
  | .loadPages => t.loadPages = s.loadPages
  | .cores => t.cores = s.cores
  | .store => t.store = s.store
  | .slate => t.slate = s.slate
  | .commons => t.commons = s.commons
  | .acc => t.acc = s.acc
  | .colls => t.colls = s.colls
  | .tiers => t.tiers = s.tiers
  | .links => t.links = s.links
  | .lctlPhys => t.lctlPhys = s.lctlPhys
  | .lctlEnable => t.lctlEnable = s.lctlEnable
  | .lctlRefused => t.lctlRefused = s.lctlRefused
  | .headers => t.headers = s.headers
  | .wear => t.wear = s.wear
  | .hif => t.hif = s.hif
  | .ward => t.ward = s.ward
  | .power => t.power = s.power
  | .trace => t.trace = s.trace
  | .budget => t.budget = s.budget
  | .out => t.out = s.out
  | .fresh => t.fresh = s.fresh
  | .seq => t.seq = s.seq

/-- Nothing but the given pieces changes; the queue does not change either. -/
def Frame (changed : List Piece) (s t : State) : Prop :=
  t.pending = s.pending ∧ ∀ p : Piece, p ∉ changed → p.same s t

/-- Every byte of device memory reads in `t` as in `s`, but for those in `stored`. -/
def MemFrame (stored : Nat → Prop) (s t : State) : Prop :=
  ∀ a : Nat, ¬ stored a → rd8 t.tiers.mem a = rd8 s.tiers.mem a

/-- The command answers a next state. -/
def Completes (c : Instr) (s : State) : Prop := ∃ t, exec c s = .next t

/-- The command answers the next state `t`. -/
def Gives (c : Instr) (s t : State) : Prop := exec c s = .next t

/-- R394, R427: the device reads the descriptor, in a card that has not departed. -/
def readsNow (s : State) (p : Pair) (d : Desc) : Bool := canRead s p d && s.ward.card != .departed

/-- R410: the record of a command that completes in frame TIME_FRAME as it is read, with no numeric flag. -/
def readRec (s : State) (p : Pair) (op : BitVec 8) (d : Desc) (status detail : BitVec 8) (result : BitVec 128) : Rec where
  ord := s.seq
  ringOrd := nextOrdinal s (secOf p) (ringIx p)
  pair := p
  id := d.cmdId
  op := op
  irq := d.flags.getLsbD 0
  status := status
  flagsum := 0
  detail := detail
  frame := w64 (frameNow s)
  result := result
  tick := false

/-- The command makes one completion record of the section of its pair, `r`, and changes nothing but the given pieces. -/
def Records (c : Instr) (s : State) (r : Rec) (changed : List Piece) : Prop :=
  ∃ t, Gives c s t ∧ t.recs.get (secOf r.pair) = s.recs.get (secOf r.pair) ++ [r] ∧ Frame changed s t

/-- A command of section t is in flight: its read order and what it has to do. -/
def InFlight (s : State) (t : Sec) (ord : Nat) (job : Job) : Prop := ∃ c ∈ getCmds s t, c.ord = ord ∧ c.job = job

/-- The command leaves a command in flight, and changes nothing but the given pieces. -/
def Admits (c : Instr) (s : State) (t : Sec) (ord : Nat) (job : Job) (changed : List Piece) : Prop :=
  ∃ u, Gives c s u ∧ InFlight u t ord job ∧ Frame changed s u

/-- The command answers a next state that has the property `Q`, and changes nothing but the given pieces. -/
def Effects (c : Instr) (s : State) (changed : List Piece) (Q : State → Prop) : Prop :=
  ∃ t, Gives c s t ∧ Q t ∧ Frame changed s t

/-- R397, R398: the pair, opcode and descriptor of a ring command that the device is about to read, and whether the descriptor
has the form of its opcode (R399). -/
def ringForm (s : State) : Instr → Option (Pair × BitVec 8 × Desc × Bool)
  | .nop p d => some (p, 1, d, headerOk d 0 && d.fields == 0 && stepForm s (secOf p) d)
  | .fence p d => some (p, 2, d, headerOk d 0 && noStep d && d.fields == 0)
  | .loadImage p d => some (p, 3, d, loadForm d)
  | .unloadImage p d => some (p, 3, d, loadForm d)
  | .run p d => some (p, 4, d, runForm s (secOf p) d)
  | .repeatRun p d => some (p, 4, d, runForm s (secOf p) d)
  | .grove p d => some (p, 5, d, groveForm s (secOf p) d)
  | .migrate p d => some (p, 6, d, migrateForm d && decide (pgKind d ≤ 1))
  | .preferCanopy p d => some (p, 7, d, hintForm s d)
  | .preferUnder p d => some (p, 7, d, hintForm s d)
  | .pin p d => some (p, 7, d, hintForm s d)
  | .unpin p d => some (p, 7, d, hintForm s d)
  | .willneed p d => some (p, 7, d, hintForm s d)
  | .cold p d => some (p, 7, d, hintForm s d)
  | .checkpoint p d => some (p, 8, d, ckForm d)
  | .inlineWrite p d => some (p, 9, d, inlineForm s d)
  | .seed p d => some (p, 0x0A, d, headerOk d 0 && noStep d && onlyFields d [(8, 8), (0x10, 8)])
  | .timeMark p d => some (p, 0x0B, d, headerOk d 0 && noStep d && onlyFields d [(8, 8)])
  | .reshard p d => some (p, 0x0C, d, rsForm d)
  | .drain p d => some (p, 0x0D, d, headerOk d 0 && noStep d && d.fields == 0)
  | .queryStep p d => some (p, 0x0E, d, queryForm s (secOf p) d)
  | .queryPage p d => some (p, 0x0E, d, queryForm s (secOf p) d)
  | .queryLoad p d => some (p, 0x0E, d, queryForm s (secOf p) d)
  | .reservedOpcode p op d => if op == 0 || decide (0x0F ≤ op.toNat) then some (p, op, d, false) else none
  | _ => none

/-- The command is a descriptor of pair p with opcode op that the device reads now, in the form of its opcode. -/
def Reads (c : Instr) (s : State) (p : Pair) (op : BitVec 8) (d : Desc) : Prop :=
  ringForm s c = some (p, op, d, true) ∧ readsNow s p d = true

end Sys2Proof.Machine
end

