-- ==== Sys2Proof/Certificates/Slice0/Obligations.lean ====
section
/-!
DEFINITION. The statements about the model, one definition each.
-/

open Sys2Proof Sys2Proof.Machine

/-- When the queue is not empty, a step is exec of the command at its front, on the state with the rest of the queue.
The queue is the model's own form of what arrives (log entry 1). -/
def Obligations.StepRunsFrontCommand : Prop :=
  ∀ (c : Instr) (q : List Instr) (s : State), s.pending = c :: q → step s = exec c { s with pending := q }

/-- A step with an empty queue leaves the whole state as it is. This is the model's choice (log entry 1). -/
def Obligations.EmptyQueueIdles : Prop :=
  ∀ s : State, s.pending = [] → step s = .next s

/-- Every command, in every state, answers a next state: none ends in a fault or a refusal. -/
def Obligations.EveryCommandAnswersNext : Prop :=
  ∀ (c : Instr) (s : State), ∃ t, exec c s = .next t

/-- Whatever a command does, the queue of waiting commands and the assignment of physical cores to logical cores,
which R88 fixes at manufacture, are the same in the next state. -/
def Obligations.CommandsLeaveQueueAndCoreMap : Prop :=
  ∀ (c : Instr) (s t : State), exec c s = .next t → t.pending = s.pending ∧ t.id.cmap = s.id.cmap

/-- From every state whose three memories are in canonical form (addresses strictly rising, no entry that reads as an
unlisted byte does), a step answers a state whose memories are. Canonical form is the model's own (log entry 5). -/
def Obligations.MemoriesStayCanonical : Prop :=
  ∀ s t : State, memoriesOk s = true → step s = .next t → memoriesOk t = true

/-- From every state whose core map gives at most 128 logical cores a physical core of 132 each, no two the same, a
step answers a state whose core map does so too. -/
def Obligations.CoreMapStaysLegal : Prop :=
  ∀ s t : State, coreMapOk s.id = true → step s = .next t → coreMapOk t.id = true

/-- The state right after reset has its memories in canonical form and a legal core map. The contents of both at reset
are the model's choice (log entries 3, 5 and 6). -/
def Obligations.ResetMeetsInvariants : Prop :=
  memoriesOk State.reset = true ∧ coreMapOk State.reset.id = true

/-- After reset system time is FREE at 0 with PERIOD 12 and EPOCH 0; every section is FREE with no clusters, QUOTA 16
and HOPS 1, and its overrun, malformed-block and divergence records read the values of chapter 18; every ring pair is
IDLE and not enabled; no image is loaded; every block has no owner; every link is OFF and every physical ID and link
enable bit is 1; no job seed is set. -/
def Obligations.ResetRegisters : Prop :=
  State.reset.time.lock = .free ∧ State.reset.time.ns = 0 ∧ State.reset.time.period = 12 ∧ State.reset.time.epoch = 0 ∧
  (∀ t : Sec, (getSect State.reset t).st = .free ∧ (getSect State.reset t).clusters = 0 ∧
    (getSect State.reset t).quota = 16 ∧ (getSect State.reset t).rcCfg = 0x1000 ∧
    (getSect State.reset t).errOvr = 0xFF0FF000 ∧ (getSect State.reset t).errXpnd = 0xFF000000 ∧
    (getTrace State.reset t).div = 0x0F000000 ∧ State.reset.images.get t = none ∧
    (getSteps State.reset t).seeded = false) ∧
  (∀ p : Pair, (getRing State.reset p).st = .idle ∧ (getRing State.reset p).enable = false) ∧
  (∀ b : Nat, getBlk State.reset b = 0xE0) ∧ (∀ l : Nat, (getLink State.reset l).st = 0) ∧
  State.reset.lctlPhys = 0x1FFFF ∧ State.reset.lctlEnable = 0xFFFFFFFFF

/-- The loaded images of the four sections are the same after every command but LOAD_IMAGE, its unload form, the power-on
of PRESENT, and the tick, at which a LOAD_IMAGE that waited for an earlier command of its pair goes on (R400; that it goes
on at a tick is the model's choice, log entry 32). -/
def Obligations.OnlyLoadsChangeImages : Prop :=
  ∀ (c : Instr) (s t : State), exec c s = .next t →
    match c with
    | .loadImage _ _ => True
    | .unloadImage _ _ => True
    | .tick => True
    | .present _ => True
    | _ => t.images = s.images

/-- System time, its lock, the bell's period and epoch and the frame number are the same after every command but the
tick and the guard band, a sync message, a TIME flit, a sync timeout, the holdover limit, a read of TIME_NOW, the
writes of the TIME block, the stages PRESENT and BOOT of start-up, and a power failure, which an input above 66 V and the
first readings of MEASURE also bring. -/
def Obligations.OnlyTimeCommandsChangeTime : Prop :=
  ∀ (c : Instr) (s t : State), exec c s = .next t →
    match c with
    | .tick => True
    | .guardBand => True
    | .syncMessage _ _ _ => True
    | .timeFlit _ _ _ _ => True
    | .syncTimeout => True
    | .holdoverLimit => True
    | .timeNowRead _ _ => True
    | .timeBellEpochWrite _ _ => True
    | .timeBellPeriodWrite _ _ => True
    | .timeCtrlWrite _ _ _ => True
    | .registerWrite _ _ _ => True
    | .present _ => True
    | .boot _ _ => True
    | .powerFailure => True
    | .inputOvervoltage _ => True
    | .measure _ _ _ => True
    | _ => t.time = s.time

/-- The fused identity and firmware versions change only when firmware is staged and in the stages BOOT and CORE; the
physical ID only by FAB_LCTL; the slot tables as they are written only by SECT_SLOT, by LOAD_IMAGE (also at the tick at
which a waiting one goes on, log entry 32) and its unload form, by a release, and at power-on; the table that traffic
follows only at a tick and at power-on (R66); and what is known of the cable headers only by a presence change, an identity
read, an hour of power (the wear counters in the EEPROM, R286), whatever can switch a header off, and at power-on. -/
def Obligations.OnlyFirmwareChangesIdentity : Prop :=
  ∀ (c : Instr) (s t : State), exec c s = .next t →
    (match c with
    | .firmwareStage _ _ _ _ => True
    | .boot _ _ => True
    | .core _ => True
    | _ => t.id = s.id) ∧
    (match c with
    | .fabLctlWrite _ _ _ => True
    | .registerWrite _ _ _ => True
    | _ => t.lctlPhys = s.lctlPhys) ∧
    (match c with
    | .sectSlotWrite _ _ _ _ => True
    | .loadImage _ _ => True
    | .unloadImage _ _ => True
    | .sectCtlClustersWrite _ _ _ => True
    | .release _ _ _ => True
    | .registerWrite _ _ _ => True
    | .tick => True
    | .present _ => True
    | _ => t.slots = s.slots) ∧
    (match c with
    | .tick => t.slotsNow = if counterDead s then s.slotsNow else s.slots
    | .present _ => True
    | _ => t.slotsNow = s.slotsNow) ∧
    (match c with
    | .presenceChange _ _ => True
    | .cmisIdentityRead _ _ => True
    | .powerOnHour _ => True
    | .headerOvercurrent _ => True
    | .pwrHdrWrite _ _ => True
    | .registerWrite _ _ _ => True
    | .redfishRequest _ _ => True
    | .present _ => True
    | _ => t.headers = s.headers)

/-- Every descriptor that the device reads in a card that has not departed, and that breaks a check of R399 (a
reserved opcode among them), makes one record with status BAD_DESCRIPTOR, DETAIL 0 and RESULT 0, and nothing of what
the command would act on changes. -/
def Obligations.DescriptorsOutOfFormAreBad : Prop :=
  (∀ (c : Instr) (s : State) (p : Pair) (op : BitVec 8) (d : Desc), ringForm s c = some (p, op, d, false) →
    readsNow s p d = true →
    Records c s (readRec s p op d stBad 0 0) [.rings, .cmds, .colls, .recs, .steps, .trace, .out, .seq]) ∧
  (∀ (s : State) (p : Pair) (op : BitVec 8) (d : Desc), (op = 0 ∨ 15 ≤ op.toNat) → readsNow s p d = true →
    Records (.reservedOpcode p op d) s (readRec s p op d stBad 0 0)
      [.rings, .cmds, .colls, .recs, .steps, .trace, .out, .seq])

/-- In a card that has departed, a descriptor with any opcode but DRAIN and QUERY makes one record with status DRAINED
and RESULT 0, whatever its form (R427), and has no other effect. -/
def Obligations.DepartedCardAnswersDrained : Prop :=
  ∀ (c : Instr) (s : State) (p : Pair) (op : BitVec 8) (d : Desc) (b : Bool), ringForm s c = some (p, op, d, b) →
    canRead s p d = true → s.ward.card = .departed → op ≠ 0x0D → op ≠ 0x0E →
    Records c s (readRec s p op d stDrained 0 0) [.rings, .cmds, .colls, .recs, .steps, .trace, .out, .seq]

/-- The device reads a descriptor only from an ACTIVE pair over a trained host link, for a section that owns a slot on
path 48 in the slot table that this frame's traffic follows (R66), when no command holds the ring, when it and its
follow-on slots lie before SQ_TAIL, when OUTSTANDING is below 255 and, with the unconsumed records, below CQ size − 1,
and (R455) while the section's log queue is not over its limit. Otherwise a ring command changes nothing; reading
takes INLINE[2:0] + 1 slots by RdCurr in ring order, with a wrap to slot 0, and raises OUTSTANDING by 1. -/
def Obligations.UnreadDescriptorsChangeNothing : Prop :=
  (∀ (c : Instr) (s : State) (p : Pair) (op : BitVec 8) (d : Desc) (b : Bool), ringForm s c = some (p, op, d, b) →
    canRead s p d = false → exec c s = .next (begin s)) ∧
  (∀ (s : State) (p : Pair) (d : Desc), canRead s p d = true ↔
    ((getRing s p).st = .active ∧ s.hif.mode = 2 ∧ s.ward.stage ≠ .halted ∧ s.ward.stage ≠ .failed ∧
      (getRing s p).held = none ∧ (∃ k, k < 50 ∧ mayUse s (secOf p) 48 k = true) ∧ logFull s (secOf p) = false ∧
      inlineOf d + 1 ≤ sqAvail (getRing s p) ∧ (getRing s p).outstanding < 255 ∧
      (getRing s p).outstanding + cqHeld (getRing s p) < cqSlots (getRing s p) - 1 ∧ d.follow.length = inlineOf d)) ∧
  (∀ (s : State) (p : Pair) (op : BitVec 8) (d : Desc),
    (getRing (readDesc s p op d) p).sqHead = ((getRing s p).sqHead + inlineOf d + 1) % sqSlots (getRing s p) ∧
    (getRing (readDesc s p op d) p).outstanding = (getRing s p).outstanding + 1 ∧
    (readDesc s p op d).out = s.out ++ (List.range (inlineOf d + 1)).map (fun i =>
      .d2h .rdCurr ((getRing s p).sqBase.toNat + 64 * (((getRing s p).sqHead + i) % sqSlots (getRing s p)))))

/-- A NOP in form that carries no step, or is read by an INFER section, makes a record with status OK. One that
carries a step in a TRAIN section completes BAD_DESCRIPTOR or ABORTED where R329 says so; otherwise it completes OK,
opens its step or joins it, and its FORCE_SKIP and agreement word enter the step (R331, R332). -/
def Obligations.NopAnswersOk : Prop :=
  ∀ (s : State) (p : Pair) (d : Desc), Reads (.nop p d) s p 1 d →
    (stCarry d = false ∨ isTrain s (secOf p) = false → Records (.nop p d) s (readRec s p 1 d stOk 0 0) [.rings, .cmds,
      .recs, .colls, .trace, .out, .seq]) ∧
    (stCarry d = true → isTrain s (secOf p) = true →
      match stepVerdict s (secOf p) d with
      | .bad => Records (.nop p d) s (readRec s p 1 d stBad 0 0) [.rings, .cmds, .recs, .steps, .colls, .trace, .out,
        .seq]
      | .late _ => Records (.nop p d) s (readRec s p 1 d stAborted 0 0) [.rings, .cmds, .recs, .steps, .colls, .trace,
        .out, .seq]
      | .joins => Records (.nop p d) s (readRec s p 1 d stOk 0 0) [.rings, .cmds, .recs, .steps, .colls, .trace, .out,
        .seq] ∧
          Effects (.nop p d) s [.rings, .cmds, .recs, .steps, .colls, .trace, .out, .seq] (fun t => (getSteps t (secOf
            p)).last = (getSteps s (secOf p)).last ∧
            ∀ q ∈ (getSteps s (secOf p)).pend, q.step = stIndex d → q.closed = false →
              ∃ q' ∈ (getSteps t (secOf p)).pend, q'.step = stIndex d ∧ q'.roll = q.roll ∧
                q'.forced = (q.forced || stForce d) ∧ q'.word = if stVote d then some (stWord d) else q.word)
      | .opens => Records (.nop p d) s (readRec s p 1 d stOk 0 0) [.rings, .cmds, .recs, .steps, .colls, .trace, .out,
        .seq] ∧
          Effects (.nop p d) s [.rings, .cmds, .recs, .steps, .colls, .trace, .out, .seq] (fun t => (getSteps t (secOf
            p)).last = some (stIndex d, stRoll d) ∧
            ∃ q ∈ (getSteps t (secOf p)).pend, q.step = stIndex d ∧ q.roll = stRoll d ∧ q.closed = false ∧
              q.forced = stForce d ∧ q.word = (if stVote d then some (stWord d) else none) ∧
              q.fifth = decide (4 ≤ (getSteps s (secOf p)).pend.length)))

/-- A QUERY in form answers OK, in a departed card too: KIND 1 with the next step index expected, the number of
pending steps and the role; KIND 2 with the page's canopy frame or 0 and its bound and pinned bits; KIND 3 with the
RUNs and the GROVE commands that are admitted and not complete, and whether an image is loaded (R409). -/
def Obligations.QueriesAnswerTheSectionsState : Prop :=
  ∀ (s : State) (p : Pair) (d : Desc) (c : Instr), c ∈ [.queryStep p d, .queryPage p d, .queryLoad p d] →
    ringForm s c = some (p, 0x0E, d, true) → canRead s p d = true →
    (ff d 8 1 = 1 → Records c s (readRec s p 0x0E d stOk 0 (resultOf [(0, 8, nextStepOf (getSteps s (secOf p))),
      (8, 1, (getSteps s (secOf p)).pend.length), (9, 1, (getSect s (secOf p)).role.toNat)])) [.rings, .cmds, .recs,
        .colls, .trace, .out, .seq]) ∧
    (ff d 8 1 = 2 → Records c s (readRec s p 0x0E d stOk 0
      (resultOf [(0, 8, (getPage s (pageNo (ff d 0x10 8))).frame.getD 0),
        (8, 1, b2n (getPage s (pageNo (ff d 0x10 8))).bound + 2 * b2n (getPage s (pageNo (ff d 0x10 8))).pinned)]))
      [.rings, .cmds, .recs, .colls, .trace, .out, .seq]) ∧
    (ff d 8 1 = 3 → Records c s (readRec s p 0x0E d stOk 0
      (resultOf [(0, 2, ((getCmds s (secOf p)).filter isRunOp).length),
        (2, 2, ((getCmds s (secOf p)).filter isGroveOp).length), (4, 1, b2n (s.images.get (secOf p)).isSome)]))
      [.rings, .cmds, .recs, .colls, .trace, .out, .seq])

/-- With no open step, no admitted RUN or GROVE command and an image loaded, a SEED answers OK and sets the job seed;
in a TRAIN section NEXT_STEP becomes the step expected and no step counts as opened. Otherwise it answers ABORTED and
changes no step state (R405, R347). -/
def Obligations.SeedStartsAStepSequence : Prop :=
  ∀ (s : State) (p : Pair) (d : Desc), Reads (.seed p d) s p 0x0A d →
    (stepOpen (getSteps s (secOf p)) = false → busyWork s (secOf p) = false → (s.images.get (secOf p)).isSome = true →
      Records (.seed p d) s (readRec s p 0x0A d stOk 0 0) [.rings, .cmds, .recs, .steps, .colls, .trace, .out, .seq] ∧
      Effects (.seed p d) s [.rings, .cmds, .recs, .steps, .colls, .trace, .out, .seq] (fun t => getSteps t (secOf p) =
        if isTrain s (secOf p) then { getSteps s (secOf p) with
          seed := w64 (ff d 8 8), seeded := true, next := some (ff d 0x10 8), last := none, outcomes := [] }
        else { getSteps s (secOf p) with seed := w64 (ff d 8 8), seeded := true })) ∧
    (stepOpen (getSteps s (secOf p)) = true ∨ busyWork s (secOf p) = true ∨ s.images.get (secOf p) = none →
      Records (.seed p d) s (readRec s p 0x0A d stAborted 0 0) [.rings, .cmds, .recs, .colls, .trace, .out, .seq])

/-- With system time LOCKED or in HOLDOVER, a TIME_MARK with AT_FRAME 0 or a frame whose tick has passed answers OK
with system time, its fraction and TIME_LOCK.STATE; in another state of the lock it answers ABORTED. With a later
AT_FRAME it waits in flight, and answers in the same way when the frame comes (R406); its record then stands in ring order
among those of its ring that completed at the same tick (R411). -/
def Obligations.TimeMarksAnswerSystemTime : Prop :=
  (∀ (s : State) (p : Pair) (d : Desc), Reads (.timeMark p d) s p 0x0B d →
    (ff d 8 8 = 0 ∨ (s.time.frame.isSome = true ∧ ff d 8 8 ≤ frameOf s) →
      (timeGood s = true → Records (.timeMark p d) s (readRec s p 0x0B d stOk 0 (resultOf [(0, 8, s.time.ns.toNat),
        (8, 4, s.time.frac.toNat), (0xC, 1, lockCode s.time.lock)])) [.rings, .cmds, .recs, .colls, .trace, .out, .seq]) ∧
      (timeGood s = false → Records (.timeMark p d) s (readRec s p 0x0B d stAborted 0 0) [.rings, .cmds, .recs, .colls,
        .trace, .out, .seq])) ∧
    (ff d 8 8 ≠ 0 → (s.time.frame = none ∨ frameOf s < ff d 8 8) →
      Admits (.timeMark p d) s (secOf p) s.seq (.timeMark (ff d 8 8)) [.rings, .cmds, .colls, .trace, .out, .seq])) ∧
  (∀ (s : State) (t : Sec) (c : Cmd),
    (getCmds s t).find? (fun c => match c.job with
      | .timeMark f => s.time.frame.isSome && decide (f ≤ frameOf s) | _ => false) = some c → c.stop ≠ some .lost →
    Effects (.timeMarkAtFrame t) s [.rings, .cmds, .recs, .steps, .colls, .trace, .out] (fun u => u.recs.get t = insertRec
      (if timeGood s then recordOf s c stOk 0 (resultOf [(0, 8, s.time.ns.toNat), (8, 4, s.time.frac.toNat),
        (0xC, 1, lockCode s.time.lock)]) else recordOf s c stAborted 0 0) (s.recs.get t)))

/-- An INLINE_WRITE outside the section's reach (or, on stepping A1, with a byte resident from a read-only region) answers
ACCESS_DENIED, one that touches a hole BAD_DESCRIPTOR (R403). Otherwise, in slot 0 and with no page of the range being
copied or asleep, it answers OK; every byte that stands in no poisoned granule reads as the descriptor's byte at its present
place, when the places are apart; and every byte of device memory outside the places and homes of its range is unchanged.
Outside slot 0, or with a page that is being copied, it waits in flight with all its bytes and holds the ring (R205, R366,
R403; that it then lands at a tick or a page's switch is the model's choice, log entry 21). -/
def Obligations.InlineWriteStoresItsBytes : Prop :=
  ∀ (s : State) (p : Pair) (d : Desc), Reads (.inlineWrite p d) s p 9 d →
    let a := ff d 8 8
    let n := ff d 0x10 2
    (reach s (secOf p) false a (a + n) = false ∨ (isA1 s = true ∧ ∃ i, i < n ∧ inReadOnlyFrame s (a + i) = true) →
      Records (.inlineWrite p d) s (readRec s p 9 d stDenied 0 0) [.rings, .cmds, .recs, .colls, .trace, .out, .seq]) ∧
    (reach s (secOf p) false a (a + n) = true → ¬ (isA1 s = true ∧ ∃ i, i < n ∧ inReadOnlyFrame s (a + i) = true) →
      (touchesHole s a (a + n) = true →
        Records (.inlineWrite p d) s (readRec s p 9 d stBad 0 0) [.rings, .cmds, .recs, .colls, .trace, .out, .seq]) ∧
      (touchesHole s a (a + n) = false →
        (inSlot0 s = false ∨ (∃ i, i < n ∧ (pageMoving s (a + i) = true ∨ dozing s (place s (a + i)) = true)) →
          Effects (.inlineWrite p d) s [.rings, .cmds, .trace, .out, .seq] (fun t => InFlight t (secOf p) s.seq
            (.inlineWrite (((followBytes d).take n).mapIdx (fun i b => (a + i, b)))) ∧
            (getRing t p).held = some s.seq)) ∧
        (inSlot0 s = true → (∀ i, i < n → pageMoving s (a + i) = false ∧ dozing s (place s (a + i)) = false) →
          Records (.inlineWrite p d) s (readRec s p 9 d stOk 0 0) [.rings, .cmds, .recs, .colls, .tiers, .ward, .trace,
            .out, .seq] ∧
          Effects (.inlineWrite p d) s [.rings, .cmds, .recs, .colls, .tiers, .ward, .trace, .out, .seq] (fun t =>
            MemFrame (fun x => ∃ i, i < n ∧ (x = place s (a + i) ∨ x = a + i)) s t ∧
            ((∀ i j, i < n → j < n → (place s (a + i) = place s (a + j) → i = j) ∧ (place s (a + i) = a + j → i = j)) →
              ∀ i, i < n → isPoison s (a + i) = false →
                rd8 t.tiers.mem (place s (a + i)) = (followBytes d).getD i 0)))))

/-- A FENCE takes the number of window writes completed, with their sum and count, which start again at 0, waits in
flight and holds its ring (R382, R453). When every one of those writes is in device memory, its completion event
answers OK and frees the ring. -/
def Obligations.FenceWaitsForWindowWrites : Prop :=
  (∀ (s : State) (p : Pair) (d : Desc), Reads (.fence p d) s p 2 d →
    Effects (.fence p d) s [.rings, .cmds, .colls, .trace, .out, .seq] (fun t =>
      InFlight t (secOf p) s.seq (.fence s.hif.inNum (getTrace s (secOf p)).wSum (getTrace s (secOf p)).wCount) ∧
      (getRing t p).held = some s.seq ∧ (getTrace t (secOf p)).wSum = 0 ∧ (getTrace t (secOf p)).wCount = 0)) ∧
  (∀ (s : State) (p : Pair) (c : Cmd),
    (getCmds s (secOf p)).find? (fun c => c.pair == p && (match c.job with
      | .fence n _ _ => fenceMet s n | _ => false)) = some c → c.stop ≠ some .lost →
    Effects (.fenceCompletion p) s [.rings, .cmds, .recs, .steps, .colls, .trace, .out] (fun u =>
      u.recs.get (secOf p) = s.recs.get (secOf p) ++ [recordOf s c stOk 0 0] ∧
      ((getRing s p).held = some c.ord → (getRing u p).held = none)))

/-- A DRAIN read before the guard band waits in flight and holds its ring; one read in the guard band with nothing
else in flight answers OK with 0 commands. At the guard band every DRAIN of the section takes effect: a command that
has not started is no longer in flight and has a record with status DRAINED, and a started RUN, GROVE or RESHARD is
marked to stop (R408). -/
def Obligations.DrainEndsWhatTheSectionHasInFlight : Prop :=
  (∀ (s : State) (p : Pair) (d : Desc), ringForm s (.drain p d) = some (p, 0x0D, d, true) → canRead s p d = true →
    (s.time.guard = false → Effects (.drain p d) s [.rings, .cmds, .trace, .out, .seq] (fun t =>
      InFlight t (secOf p) s.seq (.drain false 0 []) ∧ (getRing t p).held = some s.seq)) ∧
    (s.time.guard = true → getCmds s (secOf p) = [] → Records (.drain p d) s (readRec s p 0x0D d stOk 0 0) [.sect,
      .rings, .cmds, .recs, .steps, .colls, .tiers, .links, .ward, .trace, .out, .fresh, .seq])) ∧
  (∀ (s : State) (t : Sec), s.time.guard = true →
    (∃ c ∈ getCmds s t, (∃ n w, c.job = .drain false n w) ∨ (∃ w f, c.job = .netDrain false w f)) →
    Effects (.drainTakesEffect t) s [.sect, .rings, .cmds, .recs, .steps, .colls, .tiers, .links, .ward, .trace, .out,
      .fresh] (fun u =>
      (∀ c ∈ getCmds u t, (∀ n w, c.job ≠ .drain false n w) ∧ (∀ w f, c.job ≠ .netDrain false w f)) ∧
      (∀ c ∈ getCmds s t, (∀ x ∈ getCmds s t, x.ord = c.ord → x = c) → isDrain c = false →
        (isRunning c = false → (∀ x ∈ getCmds u t, x.ord ≠ c.ord) ∧ (c.stop ≠ some .lost →
          ∃ r ∈ u.recs.get t, r.ord = c.ord ∧ r.id = c.id ∧ r.status = stDrained)) ∧
        (isRunning c = true → ∃ x ∈ getCmds u t, x.ord = c.ord ∧ x.job = c.job ∧
          x.stop = some (strongerStop c.stop .drained)))))

/-- In slot 0 the line of a rung pair is read again, once a frame; the re-read takes each of SQ_TAIL and CQ_HEAD that is
below its ring's size (log entry 32); a value at or above its ring's size puts an ACTIVE pair into ERROR with CAUSE 1 or 2
(R373, R392, R393). In a slot 0 that begins at or after its completion the oldest record of a section is written at CQ_TAIL
with the pair's PHASE while the frame's budget of 4 × PERIOD records lasts, the completion ring has room and its line is
owned or within the frame's 2 × PERIOD lines; with no other record
of the pair waiting, CQ_TAIL advances and PHASE flips where it wraps, LAST_CMD is its CMD_ID and OUTSTANDING falls by
1 (R410, R411). A vector that is unmasked sends the message it held (R412). -/
def Obligations.DoorbellsRecordsAndVectors : Prop :=
  (∀ (s : State) (p : Pair) (tail head : W32), (getRing s p).rung = true → hostUp s = true →
    inSlot0 s = true → wasReread s p = false → ((getRing s p).st = .active ∨ (getRing s p).st = .stopping ∨ (getRing s p).st = .error) →
    Effects (.doorbellReread p tail head) s [.rings, .hif, .budget, .out] (fun t => (getRing t p).rung = false ∧
      wasReread t p = true ∧
      (getRing t p).sqTail = (if tail.toNat < sqSlots (getRing s p) then tail.toNat else (getRing s p).sqTail) ∧
      (getRing t p).cqHead = (if head.toNat < cqSlots (getRing s p) then head.toNat else (getRing s p).cqHead) ∧
      (tail.toNat < sqSlots (getRing s p) → head.toNat < cqSlots (getRing s p) →
        (getRing t p).st = (getRing s p).st) ∧
      (¬ (tail.toNat < sqSlots (getRing s p) ∧ head.toNat < cqSlots (getRing s p)) →
        (getRing s p).st = .active → (getRing t p).st = .error ∧
          (getRing t p).cause = if tail.toNat < sqSlots (getRing s p) then 2 else 1))) ∧
  (∀ (s : State) (t : Sec) (r : Rec) (rs : List Rec), hostUp s = true → inSlot0 s = true → s.recs.get t = r :: rs →
    (s.budget.get t).recs < 4 * s.time.period.toNat → canRecord s r = true →
    (∀ c ∈ getCmds s t, c.stop ≠ some .lost) →
    Effects (.completionRecordWrite t) s [.rings, .cmds, .recs, .steps, .colls, .links, .hif, .trace, .budget, .out,
      .fresh] (fun u =>
      Out.record r.pair ((getRing s r.pair).cqBase.toNat + 32 * (getRing s r.pair).cqTail)
        (recordBits r (getRing s r.pair).phase) ∈ u.out ∧
      ((∀ x ∈ rs, x.pair ≠ r.pair) → (getRing u r.pair).lastCmd = r.id ∧
        (getRing u r.pair).outstanding = (getRing s r.pair).outstanding - 1 ∧
        (getRing u r.pair).cqTail = (if (getRing s r.pair).cqTail + 1 = cqSlots (getRing s r.pair) then 0
          else (getRing s r.pair).cqTail + 1) ∧
        (getRing u r.pair).phase = ((getRing s r.pair).phase !=
          decide ((getRing s r.pair).cqTail + 1 = cqSlots (getRing s r.pair)))))) ∧
  (∀ (s : State) (p : Pair), Effects (.msixUnmask p) s [.rings, .out] (fun t => (getRing t p).msixMasked = false ∧
    (getRing t p).msixPend = false ∧ t.out = if (getRing s p).msixPend then [.msix p] else []))

/-- With no earlier command of its pair in flight, and no RUN or GROVE command of the section admitted, a LOAD_IMAGE
whose address or length is out of order answers BAD_DESCRIPTOR or ACCESS_DENIED with DETAIL 0; one whose image fails a
check of Table 2.7 answers that check's status with its number in DETAIL; otherwise the image that the bytes hold
becomes the section's image and RESULT is its JOB_ID. With ADDR and BYTES 0 it unloads the image, unless a step is
open. With a RUN or GROVE command admitted it answers ABORTED. Behind an earlier command of its pair it waits and
holds the ring (R71, R400), to go on at a tick (the model's choice, log entry 32). -/
def Obligations.ImagesLoadAndUnload : Prop :=
  ∀ (s : State) (p : Pair) (d : Desc) (c : Instr), c ∈ [.loadImage p d, .unloadImage p d] → Reads c s p 3 d →
    ((∃ x ∈ getCmds s (secOf p), x.pair = p ∧ x.ord < s.seq) →
      Effects c s [.rings, .cmds, .trace, .out, .seq] (fun u => InFlight u (secOf p) s.seq (.load d) ∧
        (getRing u p).held = some s.seq)) ∧
    ((∀ x ∈ getCmds s (secOf p), x.pair = p → s.seq ≤ x.ord) →
      (busyWork s (secOf p) = true → Records c s (readRec s p 3 d stAborted 0 0) [.nflag, .rings, .cmds, .recs, .steps,
        .loadPages, .colls, .power, .trace, .out, .seq]) ∧
      (busyWork s (secOf p) = false → loadAddr d = 0 → loadBytes d = 0 →
        (stepOpen (getSteps s (secOf p)) = true →
          Records c s (readRec s p 3 d stAborted 0 0) [.nflag, .rings, .cmds, .recs, .steps, .loadPages, .colls,
            .power, .trace, .out, .seq]) ∧
        (stepOpen (getSteps s (secOf p)) = false → Records c s (readRec s p 3 d stOk 0 0) [.sect, .slots, .nflag, .rings,
          .cmds, .recs, .steps, .images, .loadPages, .store, .colls, .power, .trace, .out, .seq] ∧
          Effects c s [.sect, .slots, .nflag, .rings, .cmds, .recs, .steps, .images, .loadPages, .store, .colls, .power,
            .trace, .out, .seq] (fun u => u.images.get (secOf p) = none))) ∧
      (busyWork s (secOf p) = false → ¬ (loadAddr d = 0 ∧ loadBytes d = 0) →
        match loadCheck0 s (secOf p) d with
        | some st => Records c s (readRec s p 3 d st 0 0) [.nflag, .rings, .cmds, .recs, .steps, .loadPages, .colls,
          .power, .trace, .out, .seq]
        | none =>
          match loadCheck s (secOf p) d (imageOf (imageBytes s (loadAddr d) (loadBytes d)) (loadBytes d)) with
          | some (n, st) =>
            Records c s (readRec s p 3 d st (BitVec.ofNat 8 n) 0) [.nflag, .rings, .cmds, .recs, .steps, .loadPages,
              .colls, .power, .trace, .out, .seq]
          | none =>
            Records c s (readRec s p 3 d stOk 0 (resultOf [(0, 8,
              (imageOf (imageBytes s (loadAddr d) (loadBytes d)) (loadBytes d)).jobId)])) [.sect, .slots, .nflag, .rings,
                .cmds, .recs, .steps, .images, .loadPages, .store, .colls, .power, .trace, .out, .seq] ∧
            Effects c s [.sect, .slots, .nflag, .rings, .cmds, .recs, .steps, .images, .loadPages, .store, .colls, .power,
              .trace, .out, .seq] (fun u =>
              u.images.get (secOf p) = some (imageOf (imageBytes s (loadAddr d) (loadBytes d)) (loadBytes d)))))

/-- A RUN whose step fields are in order answers BAD_DESCRIPTOR without an image, NO_VARIANT when a length fits no
variant, the status of its reference record when that breaks a rule, ABORTED while system time is not LOCKED or in
HOLDOVER, and OVERRUN with DETAIL 5 when its start frame is too early or its last frame reaches the roll call of its
step. Otherwise it is admitted with its variants and start frame; only where it names a canopy-bound page may it
answer QUOTA instead (R72 to R75, R208, R330, R420). -/
def Obligations.RunsAreAdmittedOrRefused : Prop :=
  ∀ (s : State) (p : Pair) (d : Desc) (c : Instr), c ∈ [.run p d, .repeatRun p d] → Reads c s p 4 d →
    (stCarry d = false ∨ isTrain s (secOf p) = false ∨ stepVerdict s (secOf p) d = .joins ∨
      stepVerdict s (secOf p) d = .opens) →
    let t := secOf p
    let L : List Piece := [.sect, .rings, .cmds, .recs, .steps, .colls, .tiers, .hif, .ward, .power, .trace, .out, .seq]
    match s.images.get t with
    | none => Records c s (readRec s p 4 d stBad 0 0) L
    | some g =>
      match (runLens d).mapM (variantFor g) with
      | none => Records c s (readRec s p 4 d stNoVariant 0 0) L
      | some vs =>
        match (if runRepeat d then refCheck s t (runRef d) else none) with
        | some st => Records c s (readRec s p 4 d st 0 0) L
        | none =>
          (timeGood s = false → Records c s (readRec s p 4 d stAborted 0 0) L) ∧
          (timeGood s = true →
            (startFits s t (startOf s t d) = false ∨ (stCarry d = true ∧ isTrain s t = true ∧
                stRoll d ≤ startOf s t d + framesIn g vs - 1) →
              Records c s (readRec s p 4 d stOverrun 5 0) L) ∧
            (startFits s t (startOf s t d) = true → (stCarry d = true → isTrain s t = true →
                startOf s t d + framesIn g vs - 1 < stRoll d) →
              let job : Job := .run ⟨runLens d, vs, startOf s t d, runStartFrame d == 0, false, 0, 0, 0,
                if runRepeat d then some (runRef d) else none,
                if runRepeat d then (refRanges s (runRef d)).map (rangeCrc s) else [],
                runStartFrame d == 0 && (runsOf s t).isEmpty⟩
              (Admits c s t s.seq job L ∨ Records c s (readRec s p 4 d stQuota 0 0) L) ∧
              ((∀ g ∈ runPages s t vs, (getPage s g).bound = false) → Admits c s t s.seq job L)))

/-- At its start tick, with no RUN of the section running and system time LOCKED or in HOLDOVER, an admitted RUN
starts: the cores of the image's clusters hold nothing of earlier work, and on stepping B0 their accumulators read 0;
without a good lock it completes ABORTED. After its planned last frame, when nothing has stopped it, a RUN answers OK
with its first frame, frames and micro-batches; a repeat RUN answers REPEAT_CONFIRMED when every range has its old
digest and the numeric flags agree, else REPEAT_DIVERGED (R58, R76, R103, R421). -/
def Obligations.RunsStartAndComplete : Prop :=
  (∀ (s : State) (t : Sec) (c : Cmd) (r : RunJob), dueRun s t = some (c, r) → runningRun s t = none →
    (timeGood s = true → Effects (.runStart t) s [.cmds, .cores, .acc, .trace, .out] (fun u =>
      InFlight u t c.ord (.run { r with started := true, mbFirst := r.start }) ∧
      ∀ g, s.images.get t = some g → ∀ q ∈ coresOf g.clusterMask, getCore u q = coreReset ∧
        (isA1 s = false → ∀ e ∈ u.acc, e.1 / (2048 * 128) ≠ q))) ∧
    (timeGood s = false → c.stop ≠ some .lost → Effects (.runStart t) s [.rings, .cmds, .recs, .steps, .cores, .acc,
      .colls, .trace, .out] (fun u =>
      recordOf s c stAborted 0 0 ∈ u.recs.get t))) ∧
  (∀ (s : State) (t : Sec) (c : Cmd) (r : RunJob), runningRun s t = some (c, r) → c.stop = none →
    s.time.frame.isSome = true → plannedLast s t r < frameOf s →
    Effects (.runCompletion t) s [.rings, .cmds, .recs, .steps, .cores, .colls, .tiers, .ward, .trace, .out] (fun u =>
      match r.refRec with
      | none => recordOf s c stOk 0 (runResult r (plannedLast s t r)) ∈ u.recs.get t
      | some a =>
        if (∀ x ∈ r.crcs.zip (refRanges s a), rangeCrc s x.2 = x.1) ∧
            flagsum c.copies &&& 0xC = BitVec.ofNat 16 (leNat (rdDevBytes s (a + 2) 2)) &&& 0xC
        then recordOf s c stConfirmed 0 (runResult r (plannedLast s t r)) ∈ u.recs.get t
        else recordOf s c stDiverged 0 (runResult r (plannedLast s t r)) ∈ u.recs.get t))

/-- At the first tick of the next micro-batch of a running RUN, every core of the image stands at the entry of its
stage with no bundle in flight (R110, R114). A bundle that can issue joins the bundles in flight with the channels it
consumes and produces, and the core ends at an end marker; one that belongs after the last frame stops the stage
(R114, R115). A bundle in flight that can retire leaves (R115). A core whose next bundle needs the other arrangement,
with no pass in its pipeline that has still to write a row, switches, and its weight registers hold nothing valid (R101). -/
def Obligations.MicroBatchesAndStagesRun : Prop :=
  (∀ (s : State) (t : Sec) (c : Cmd) (r : RunJob) (g : Image), runningRun s t = some (c, r) → s.images.get t = some g →
    c.stop = none → r.mb < r.variants.length → r.start + framesIn g (r.variants.take r.mb) ≤ frameOf s →
    s.time.guard = false →
    Effects (.microBatchStart t) s [.sect, .nflag, .cmds, .cores, .colls, .tiers, .links, .ward, .trace, .out] (fun u
      => ∀ q ∈ imageCores g,
      let st := stageAt g (r.variants.getD r.mb 0) q
      (getCore u q).active = (st.length != 0) ∧ (getCore u q).ended = false ∧ (getCore u q).stopped = false ∧
      (getCore u q).pc = st.entry ∧ (getCore u q).limit = st.entry + st.length ∧
      (getCore u q).len = r.lens.getD r.mb 0 ∧
      (getCore u q).cursor = r.start + framesIn g (r.variants.take r.mb) ∧ (getCore u q).flight = [])) ∧
  (∀ (s : State) (q : Fin 128) (x : CoreRun), coreRun s q.val = some x →
    (holdOf s x q.val = .go → Effects (.bundleIssue q) s [.sect, .nflag, .cmds, .cores, .slate, .commons, .acc, .colls,
      .tiers, .links, .ward, .trace, .out] (fun u =>
      let b := bundleAt s q.val (getCore s q.val).pc
      (getCore u q.val).ended = (bMarker b == 2) ∧
      (getCore u q.val).flight.getLast? = some ⟨(getCore s q.val).issued, (getCore s q.val).pc, maskBits (consumeBits b), maskBits (produceBits b),
        (streamActions b).filterMap (fun sa => if 2 ≤ sa.2 then some sa.1 else none)⟩)) ∧
    (holdOf s x q.val = .past → Effects (.bundleIssue q) s [.cores, .out] (fun u =>
      getCore u q.val = { getCore s q.val with stopped := true })) ∧
    (∀ (k : Nat) (f : Flight), (getCore s q.val).flight[k]? = some f → s.time.guard = false →
      canRetire (getCore s q.val) f = true →
      Effects (.bundleRetire q k) s [.cores, .slate, .commons, .tiers, .links, .out] (fun u =>
        (getCore u q.val).flight = (getCore s q.val).flight.eraseIdx k)) ∧
    (holdOf s x q.val = .arrange → (∀ f ∈ (getCore s q.val).flight, passRuns s q.val f = false) →
      Effects (.arrangementSwitch q) s [.cores, .out] (fun u =>
        getCore u q.val = { getCore s q.val with wide := !(getCore s q.val).wide, tile := none })))

/-- In a running micro-batch outside the guard band, a stream that may request its next chunk does so when no request of
its engine goes before: a lower class, an LC stream's being 0, then the earlier deadline, the lower core, stream number and
address (R220 to R223); one that another goes before changes nothing. The oldest requested chunk, once it is copied, counts
as filled in every core that the stream delivers to (R217, R225). -/
def Obligations.StreamsRequestAndFillChunks : Prop :=
  ∀ (s : State) (q : Fin 128) (n : Fin 256) (x : CoreRun) (y : Stream), coreRun s q.val = some x →
    streamOf x q.val n.val = some y → y.core = q.val → s.time.guard = false →
    (s.time.frame.isSome = true → canRequest s x y = true → mayPick (engineReqs s x q.val) (chunkReq s y) = true →
      Effects (.chunkRequest q n) s [.cores, .out] (fun u => getStream u q.val n.val =
        { getStream s q.val n.val with requested := (getStream s q.val n.val).requested + 1 })) ∧
    ((∃ z ∈ engineReqs s x q.val, z.cls < (chunkReq s y).cls ∨
        (0 < z.cls ∧ z.cls = (chunkReq s y).cls ∧ z.before (chunkReq s y) = true)) →
      exec (.chunkRequest q n) s = .next (begin s)) ∧
    (chunkReq s y).cls = (if y.lc = true then 0 else 1) ∧
    (chunkReq s y).deadline = y.firstNeed + (getStream s y.core y.number).requested * y.period ∧
    ((getStream s q.val n.val).filled < (getStream s q.val n.val).requested →
      Effects (.chunkFilled q n) s [.sect, .nflag, .cmds, .cores, .slate, .commons, .tiers, .ward, .out] (fun u => ∀ p
        ∈ streamMembers y, getStream u p n.val =
        { getStream s p n.val with filled := (getStream s p n.val).filled + 1 }))

/-- A GROVE command whose step fields are in order answers the status of the first check of Table 8.7 that fails, with
its number in DETAIL, and ABORTED with DETAIL 0 where a GATED command meets a valid ERR_LOSS or the lock is lost.
Otherwise, when no page it names is canopy-bound and those that its units must reach are resident, it is admitted with
its start, its need of frames and its gate; one whose step has returned with an outcome that does not let it start makes
its record with DETAIL 8. Whatever its pages, it is in flight or has its record (R253 to R255, R435). -/
def Obligations.GroveCommandsAreChecked : Prop :=
  ∀ (s : State) (p : Pair) (d : Desc), Reads (.grove p d) s p 5 d →
    let t := secOf p
    let r := groveOf (groveBits d)
    let L : List Piece := [.sect, .rings, .cmds, .recs, .steps, .colls, .tiers, .hif, .ward, .trace, .out, .seq]
    (r.gated = true ∨ stCarry d = false ∨ isTrain s t = false ∨ stepVerdict s t d = .joins ∨
      stepVerdict s t d = .opens) →
    Effects (.grove p d) s L (fun u => (∃ j, InFlight u t s.seq (.grove j)) ∨ ∃ x ∈ u.recs.get t, x.ord = s.seq) ∧
    (if groveCheck1 r (isA1 s) = false then Records (.grove p d) s (readRec s p 5 d stBad 1 0) L
     else if r.gated = true ∧ isA1 s = false ∧ bit64 (getSect s t).errLoss 0 = true then
      Records (.grove p d) s (readRec s p 5 d stAborted 0 0) L
     else if groveCheck2 s t r = false then Records (.grove p d) s (readRec s p 5 d stDenied 2 0) L
     else if (groveCheck3 s t r).isSome = true then Records (.grove p d) s (readRec s p 5 d stBad 3 0) L
     else if (groveCheck4 s r).isSome = true then Records (.grove p d) s (readRec s p 5 d stBad 4 0) L
     else (∀ g ∈ grovePages s t r, (getPage s g).bound = false) →
          (∀ g ∈ grovePagesPlaced s t r, (getPage s g).frame.isSome = true) →
          (timeGood s = false → Records (.grove p d) s (readRec s p 5 d stAborted 0 0) L) ∧
          (timeGood s = true →
            let x := groveStartOf s t r
            let late := r.limit ≠ 0 ∧ r.gated = false ∧ stCarry d = true ∧ isTrain s t = true ∧
              ∃ a, x.1 = some a ∧ stRoll d ≤ a + r.limit - 1
            (x.2.2 = false ∨ late → Records (.grove p d) s (readRec s p 5 d stOverrun 6 0) L) ∧
            (x.2.2 = true → ¬ late →
              match groveFrames s t r with
              | .inr _ => Records (.grove p d) s (readRec s p 5 d stOverrun 7 0) L
              | .inl f =>
                let job (gate : Option Nat) : Job :=
                  .grove ⟨groveBits d, x.1, r.startFrame == 0, x.2.1, nextTick s, f, gate, none, false⟩
                (r.gated = false → Admits (.grove p d) s t s.seq (job none) L) ∧
                (r.gated = true → (∀ c ∈ getCmds s t, c.ord ≠ s.seq ∧
                    ∀ j, c.job = .grove j → j.gate ≠ some (stIndex d)) →
                  match (getSteps s t).outcomes.find? (fun e => e.1 == stIndex d) with
                  | none => Admits (.grove p d) s t s.seq (job (some (stIndex d))) L
                  | some (_, v) =>
                    match gateStatus s v with
                    | none => Admits (.grove p d) s t s.seq (job none) L
                    | some st => Effects (.grove p d) s L (fun u => ∃ y ∈ u.recs.get t, y.ord = s.seq ∧
                        y.id = d.cmdId ∧ y.status = st ∧ y.detail = 8)))))

/-- From its start tick on, with its gate open, its pages resident, its recalls complete and no GROVE command of the section
running, an admitted GROVE command starts in the present frame, with the work that the operands standing then give, when
system time is LOCKED or in HOLDOVER, and completes ABORTED when it is not (R58, R232, R254, R377). In the last frame of its
need it completes OK with its result and F; every byte of device memory but those that it writes is unchanged (R243,
R254, R257). -/
def Obligations.GroveCommandsStartAndComplete : Prop :=
  (∀ (s : State) (t : Sec) (c : Cmd) (g : GroveJob), dueGrove s t = some (c, g) → runningGrove s t = none →
    (timeGood s = true → Effects (.groveStart t) s [.nflag, .cmds, .trace, .out] (fun u =>
      InFlight u t c.ord (.grove { g with
        start := some (frameOf s), started := true, work := some (workOf s t c g) }))) ∧
    (timeGood s = false → c.stop ≠ some .lost → Effects (.groveStart t) s [.rings, .cmds, .recs, .steps, .colls, .trace,
      .out] (fun u => recordOf s c stAborted 0 0 ∈ u.recs.get t))) ∧
  (∀ (s : State) (t : Sec) (c : Cmd) (g : GroveJob) (w : GroveWork), runningGrove s t = some (c, g) →
    g.work = some w → c.stop = none → g.start.getD 0 + g.need ≤ frameOf s + 1 →
    (∀ x ∈ getCmds s t, x.ord = c.ord → x = c) →
    Effects (.groveCompletion t) s [.nflag, .rings, .cmds, .recs, .steps, .colls, .tiers, .ward, .trace, .out] (fun u =>
      (∃ r ∈ u.recs.get t, r.ord = c.ord ∧ r.id = c.id ∧ r.pair = c.pair ∧ r.status = stOk ∧ r.result = groveResult g w) ∧
      MemFrame (fun x => (∃ e ∈ w.items, ∃ q ∈ e.writes, x = place s q.1) ∨
        (w.count ≠ none ∧ ∃ i, i < 4 ∧ x = place s (opndOf (groveOf g.bits) 4 + i)) ∨
        (∃ i, i < w.area.length ∧ x = place s ((groveOf g.bits).result + i))) s u))

/-- A MIGRATE or HINT whose pages break a rule answers BAD_DESCRIPTOR or ACCESS_DENIED. A MIGRATE whose pages all
stand in the tier asked for answers OK with 0 pages; one to the understorey with a page in the canopy is in flight
with a page on its way; otherwise it is in flight or answers QUOTA. PREFER_CANOPY sets the bound bit of its pages;
PREFER_UNDER clears it, and its resident pages are on their way out; UNPIN clears the pin; COLD makes pages in the
pool the oldest; each answers OK and changes no other page. PIN answers OK and pins the pages that are resident when
none of them is moving or in the pool; otherwise it waits in flight for them, or answers QUOTA. WILLNEED answers OK
when every bound page is resident (R207, R210, R402). -/
def Obligations.MigratesAndHintsActOnTheirPages : Prop :=
  (∀ (s : State) (p : Pair) (d : Desc), Reads (.migrate p d) s p 6 d →
    match pageCheck s (secOf p) d true with
    | some st => Records (.migrate p d) s (readRec s p 6 d st 0 0) [.rings, .cmds, .recs, .colls, .trace, .out, .seq]
    | none =>
      ((∀ g ∈ pgList d, inTier s (pgKind d == 1) g = true ∧ ∀ m ∈ s.tiers.moves, m.page ≠ g) →
        Records (.migrate p d) s (readRec s p 6 d stOk 0 0) [.rings, .cmds, .recs, .steps, .colls, .tiers, .hif,
          .trace, .out, .seq]) ∧
      (pgKind d = 0 → (∃ g ∈ pgList d, inTier s false g = false) →
        Effects (.migrate p d) s [.rings, .cmds, .recs, .steps, .colls, .tiers, .hif, .trace, .out, .seq] (fun u =>
          InFlight u (secOf p) s.seq (.migrate (pgList d) false 0) ∧ ∃ m ∈ u.tiers.moves, m.page ∈ pgList d)) ∧
      Effects (.migrate p d) s [.rings, .cmds, .recs, .steps, .colls, .tiers, .hif, .trace, .out, .seq] (fun u =>
        InFlight u (secOf p) s.seq (.migrate (pgList d) (pgKind d == 1) 0) ∨
        u.recs.get (secOf p) = s.recs.get (secOf p) ++ [readRec s p 6 d stOk 0 0] ∨
        u.recs.get (secOf p) = s.recs.get (secOf p) ++ [readRec s p 6 d stQuota 0 0])) ∧
  (∀ (s : State) (p : Pair) (d : Desc) (c : Instr), c ∈ [.preferCanopy p d, .preferUnder p d, .pin p d, .unpin p d,
      .willneed p d, .cold p d] → Reads c s p 7 d →
    match pageCheck s (secOf p) d (pgKind d == 5) with
    | some st => Records c s (readRec s p 7 d st 0 0) [.rings, .cmds, .recs, .colls, .trace, .out, .seq]
    | none =>
      ((pgKind d = 1 ∨ pgKind d = 2 ∨ pgKind d = 4 ∨ pgKind d = 6) →
        Records c s (readRec s p 7 d stOk 0 0) [.rings, .cmds, .recs, .colls, .tiers, .hif, .trace, .out, .seq] ∧
        Effects c s [.rings, .cmds, .recs, .colls, .tiers, .hif, .trace, .out, .seq] (fun u => (∀ g, g ∉ pgList d →
          getPage u g = getPage s g) ∧ ∀ g ∈ pgList d,
          getPage u g = { getPage s g with
            bound := if pgKind d = 1 then true else if pgKind d = 2 then false else (getPage s g).bound
            pinned := if pgKind d = 4 then false else (getPage s g).pinned
            age := if pgKind d = 6 ∧ inPool s g = true then 0 else frameOf s } ∧
          (pgKind d = 2 → (getPage s g).frame.isSome = true → ∃ m ∈ u.tiers.moves, m.page = g))) ∧
      (pgKind d = 3 → (∀ g ∈ pgList d, inPool s g = false ∧ ∀ m ∈ s.tiers.moves, m.page ≠ g) →
        Records c s (readRec s p 7 d stOk 0 0) [.rings, .cmds, .recs, .colls, .tiers, .hif, .trace, .out, .seq] ∧
        Effects c s [.rings, .cmds, .recs, .colls, .tiers, .hif, .trace, .out, .seq] (fun u => ∀ g ∈ pgList d,
          (getPage u g).pinned = ((getPage s g).pinned || (getPage s g).frame.isSome))) ∧
      (pgKind d = 3 → Effects c s [.rings, .cmds, .recs, .colls, .tiers, .hif, .trace, .out, .seq] (fun u => InFlight u
        (secOf p) s.seq (.pin ((pgList d).filter (fun g => (getPage s g).frame.isSome))) ∨
        u.recs.get (secOf p) = s.recs.get (secOf p) ++ [readRec s p 7 d stOk 0 0] ∨
        u.recs.get (secOf p) = s.recs.get (secOf p) ++ [readRec s p 7 d stQuota 0 0])) ∧
      (pgKind d = 5 → (∀ g ∈ pgList d, (getPage s g).bound = true → (getPage s g).frame.isSome = true) →
        Records c s (readRec s p 7 d stOk 0 0) [.rings, .cmds, .recs, .colls, .tiers, .hif, .trace, .out, .seq]))

/-- A CHECKPOINT whose ranges break a rule answers ACCESS_DENIED or BAD_DESCRIPTOR; otherwise it is admitted, or
answers QUOTA where it names canopy-bound pages (R404). When every RUN and GROVE command read before it has completed
and its pages and recalls are settled, its copy starts (R437). When the copy is done it answers OK with the bytes
copied, and of device memory only the granules of its destinations and the 64 bytes of its digest may differ (R404,
R436). -/
def Obligations.CheckpointsCopyTheirRanges : Prop :=
  (∀ (s : State) (p : Pair) (d : Desc), Reads (.checkpoint p d) s p 8 d →
    match ckCheck s (secOf p) d with
    | some st => Records (.checkpoint p d) s (readRec s p 8 d st 0 0) [.rings, .cmds, .recs, .colls, .trace, .out, .seq]
    | none =>
      let pages := (((ckList d).flatMap (fun r => pagesIn s (secOf p) r.1 (r.1 + r.2.2) ++
        pagesIn s (secOf p) r.2.1 (r.2.1 + r.2.2))) ++ pagesIn s (secOf p) (ckDigest d) (ckDigest d + 64)).eraseDups
      let job : Job := .checkpoint ⟨ckTranche d, ckList d, ckDigest d, false, 0, 0⟩
      (Admits (.checkpoint p d) s (secOf p) s.seq job [.rings, .cmds, .recs, .colls, .tiers, .hif, .trace, .out, .seq] ∨
        Records (.checkpoint p d) s (readRec s p 8 d stQuota 0 0) [.rings, .cmds, .recs, .colls, .tiers, .hif, .trace,
          .out, .seq]) ∧
      ((∀ g ∈ pages, (getPage s g).bound = false) → Admits (.checkpoint p d) s (secOf p) s.seq job [.rings, .cmds,
        .recs, .colls, .tiers, .hif, .trace, .out, .seq])) ∧
  (∀ (s : State) (t : Sec) (c : Cmd) (k : CkptJob),
    (getCmds s t).find? (fun c => match c.job with | .checkpoint k => !k.started | _ => false) = some c →
    c.job = .checkpoint k → workBefore s t c = false → residencyDone s c = true → recallsDone s t c = true →
    Effects (.checkpointCopyStart t) s [.cmds, .tiers, .out] (fun u =>
      InFlight u t c.ord (.checkpoint { k with
        started := true, startFrame := frameNow s, nextStep := nextStepOf (getSteps s t) }) ∧
      MemFrame (fun x => ∃ i, i < 64 ∧ x = place s (k.digest + i)) s u)) ∧
  (∀ (s : State) (t : Sec) (c : Cmd) (k : CkptJob),
    (getCmds s t).find? (fun c => match c.job with | .checkpoint k => k.started | _ => false) = some c →
    c.job = .checkpoint k → c.stop ≠ some .lost →
    Effects (.trancheDigestWrite t) s [.sect, .rings, .cmds, .recs, .steps, .colls, .tiers, .ward, .trace, .out] (fun u =>
      u.recs.get t = s.recs.get t ++
        [recordOf s c stOk 0 (resultOf [(0, 8, (k.ranges.map (fun r => r.2.2)).foldl (· + ·) 0)])] ∧
      MemFrame (fun x => (∃ g ∈ ckptGranules k, x / 256 = place s g.2 / 256 ∨
        (place s g.2 ≤ x ∧ x < place s g.2 + 256)) ∨ ∃ i, i < 64 ∧ x = place s (k.digest + i)) s u))

/-- With no MIGRATE in flight, a move that no command, recall, target or dozing tier blocks gives its page the target
frame, or none when it goes home, and no write waits for the page any longer (R205, R206). Patrol scrub of a granule
that can hold poison advances the scrub position; corrected sectors are counted on the granule's stack or bridge, one
for a canopy granule, and an uncorrectable one poisons the granule (R193, R194). -/
def Obligations.PagesSwitchAndAreScrubbed : Prop :=
  (∀ (s : State) (page : W64) (m : PageMove), s.tiers.moves.find? (fun m => m.page == pageNo page.toNat) = some m →
    moveBlocked s m = false → moveRecalled s m = true → targetFree s m = true → canopyDozing s = false →
    bridgeDozing s = false → (∀ t, ∀ c ∈ getCmds s t, isMigrate c = false) →
    Effects (.pageSwitch page) s [.sect, .rings, .cmds, .recs, .steps, .colls, .tiers, .hif, .ward, .trace, .out] (fun
      u => (getPage u (pageNo page.toNat)).frame = m.target ∧
      ∀ h ∈ u.tiers.held, h.page ≠ pageNo page.toNat)) ∧
  (∀ (s : State) (g : BitVec 40) (r : ScrubFind), holdsPoison s (g.toNat * 256) = true →
    (blockOf (g.toNat * 256)).isSome = true → dozing s (g.toNat * 256) = false →
    Effects (.patrolScrub g r) s [.sect, .tiers, .ward, .out] (fun u => u.tiers.scrubPos = g.toNat ∧
      match r with
      | .clean => u.tiers.ce = s.tiers.ce ∧ u.tiers.poison = s.tiers.poison
      | .corrected n => u.tiers.poison = s.tiers.poison ∧ sget 0 u.tiers.ce (tierIndex (g.toNat * 256)) =
          BitVec.ofNat 32 (min (2 ^ 32 - 1) ((sget 0 s.tiers.ce (tierIndex (g.toNat * 256))).toNat +
            if g.toNat * 256 < canopyEnd then min n 1 else n))
      | .uncorrectable => sget false u.tiers.poison g.toNat = true ∧ u.tiers.mem = s.tiers.mem))

/-- A RESHARD answers BAD_DESCRIPTOR without an image, ABORTED while a step is open, a GATED command is admitted or a
GROVE command runs, the status of a collective entry that breaks a rule, and OVERRUN with DETAIL 5 when its start
frame is too early; otherwise it is admitted, or answers QUOTA where its tensors name canopy-bound pages (R343, R407).
At its start frame, with its pages and recalls settled, it starts, and the section's collectives do what they can
(R305, R407). -/
def Obligations.ReshardsAreAdmittedAndStart : Prop :=
  (∀ (s : State) (p : Pair) (d : Desc), Reads (.reshard p d) s p 0x0C d →
    let t := secOf p
    let L : List Piece := [.sect, .rings, .cmds, .recs, .colls, .tiers, .hif, .ward, .trace, .out, .seq]
    match s.images.get t with
    | none => Records (.reshard p d) s (readRec s p 0x0C d stBad 0 0) L
    | some g =>
      (rsAllowed s t = false → Records (.reshard p d) s (readRec s p 0x0C d stAborted 0 0) L) ∧
      (rsAllowed s t = true →
        match rsCheck s t g (rsColl d) with
        | some st => Records (.reshard p d) s (readRec s p 0x0C d st 0 0) L
        | none =>
          (startFits s t (rsStart d) = false → Records (.reshard p d) s (readRec s p 0x0C d stOverrun 5 0) L) ∧
          (startFits s t (rsStart d) = true →
            let job : Job := .reshard ⟨rsColl d, rsMembers s (rsColl d), rsMoves s (rsColl d), rsStart d, false⟩
            (Admits (.reshard p d) s t s.seq job L ∨ Records (.reshard p d) s (readRec s p 0x0C d stQuota 0 0) L) ∧
            ((∀ r ∈ rsReads g (rsColl d) ++ rsWrites g (rsColl d), ∀ k ∈ pagesIn s t r.1 (r.1 + r.2),
              (getPage s k).bound = false) → Admits (.reshard p d) s t s.seq job L)))) ∧
  (∀ (s : State) (t : Sec) (c : Cmd) (r : ReshardJob), dueReshard s t = some (c, r) → residencyDone s c = true →
    recallsDone s t c = true →
    ∃ v, InFlight v t c.ord (.reshard { r with started := true }) ∧ Frame [.cmds, .out] s v ∧
      Gives (.reshardStart t) s (pumpSection v t))

/-- A tick sets TIME_FRAME to the next frame, tick 0 being the first, system time to EPOCH + n × PERIOD with fraction
0, and the frame's budget of cache and record work anew, outside the guard band; a HOLDOVER whose limit has come by then has
ended in FREE, and the lock is else as it was (R56, R60). After a power failure the counter stands still (R443). Within a
frame, the guard band begins at 200 ns before the next tick; before tick 0 there is none. -/
def Obligations.TicksAndGuardBands : Prop :=
  (∀ s : State, counterDead s = false → Effects .tick s [.time, .sect, .slots, .slotsNow, .nflag, .rings, .cmds, .recs,
    .steps, .images, .loadPages, .cores, .store, .slate, .commons, .colls, .tiers, .links, .hif, .ward, .power, .trace,
    .budget, .out, .fresh] (fun u => u.time.frame = some (nextTick s) ∧ u.time.guard = false ∧
    u.time.ns = w64 (tickNs s (nextTick s)) ∧ u.time.frac = 0 ∧ u.budget = .all budgetReset ∧
    (tickNs s (nextTick s) < 2 ^ 64 → u.time.lock =
      if s.time.lock = .holdover ∧ holdoverEnd s ≤ tickNs s (nextTick s) then .free else s.time.lock))) ∧
  (∀ s : State, counterDead s = true → exec .tick s = .next (begin s)) ∧
  (∀ (s : State) (n : Nat), s.time.frame = some n → s.time.guard = false →
    Effects .guardBand s [.time, .sect, .cmds, .links, .ward, .trace, .out] (fun u => u.time.guard = true ∧ u.time.ns =
      w64 (tickNs s (n + 1) - 200) ∧
      u.time.frac = 0 ∧ u.time.frame = some n)) ∧
  (∀ s : State, s.time.frame = none → exec .guardBand s = .next (begin s)) ∧
  (∀ (s : State) (n : Nat), tickNs s n = s.time.epoch.toNat + n * (s.time.period.toNat * 1000)) ∧
  (∀ s : State, s.time.frame = none → nextTick s = 0) ∧
  (∀ (s : State) (n : Nat), s.time.frame = some n → nextTick s = n + 1)

/-- A sync message of the domain on the source in use takes a FREE card to ACQUIRING with its grandmaster and offset.
Of another grandmaster it changes no time. The sixteenth in-bound message in a row without a gap locks an ACQUIRING or
holdover card; an offset out of bound takes a LOCKED or holdover card to FREE. Four intervals without a message take
ACQUIRING to FREE and LOCKED to HOLDOVER. HOLDOVER leads to FREE when |o| + t × 1 ns/s passes 12.5 ns or t reaches 10 s; the
event of that limit acts where it comes before the next event of the bell, and takes system time there. A loss of the lock
marks every started GROVE command and every running RUN to stop (R54 to R58, Table 2.1). -/
def Obligations.TimeLockFollowsItsMessages : Prop :=
  (∀ (s : State) (gm : W64) (off : W32), s.ward.running = true → counterDead s = false →
    (s.time.src = 1 ∨ (s.time.src = 0 ∧ s.time.link = none)) →
    (s.time.lock = .free → Effects (.syncMessage gm s.time.domain off) s [.time, .cmds, .ward, .trace, .out] (fun u =>
      u.time.lock = .acquiring ∧ u.time.gm = gm ∧ u.time.offset = off)) ∧
    (s.time.lock ≠ .free → s.time.gm ≠ gm → exec (.syncMessage gm s.time.domain off) s = .next (begin s)) ∧
    (s.time.lock = .acquiring ∨ s.time.lock = .holdover → s.time.gm = gm → -160 ≤ off.toInt → off.toInt ≤ 160 →
      s.time.ns.toNat ≤ s.time.since + 4 * 125000000 → 15 ≤ s.time.inBound →
      Effects (.syncMessage gm s.time.domain off) s [.time, .cmds, .ward, .trace, .out] (fun u => u.time.lock = .locked
        ∧ u.time.chg = true ∧
        u.time.offset = off)) ∧
    (s.time.lock = .locked ∨ s.time.lock = .holdover → s.time.gm = gm → (off.toInt < -160 ∨ 160 < off.toInt) →
      Effects (.syncMessage gm s.time.domain off) s [.time, .cmds, .ward, .trace, .out] (fun u => u.time.lock = .free ∧
        u.time.gm = 0))) ∧
  (∀ s : State, s.time.lock = .acquiring ∨ s.time.lock = .locked → Effects .syncTimeout s [.time, .cmds, .ward, .trace,
    .out] (fun u =>
    u.time.lock = if s.time.lock = .acquiring then .free else .holdover)) ∧
  (∀ s : State, holdoverEnd s =
    s.time.holdSince + min 10000000000 ((200 - s.time.holdOffset.toInt.natAbs) * 62500000)) ∧
  (∀ s : State, s.time.lock ≠ .holdover ∨ bellNs s ≤ holdoverEnd s → exec .holdoverLimit s = .next (begin s)) ∧
  (∀ s : State, s.time.lock = .holdover → holdoverEnd s < bellNs s →
    Effects .holdoverLimit s [.time, .cmds, .ward, .trace, .out] (fun u =>
    u.time.lock = .free ∧ u.time.ns = w64 (max s.time.ns.toNat (holdoverEnd s)) ∧
    ∀ t, ∀ c ∈ getCmds s t, stopsOnLoss s t c = true →
      { c with stop := some (strongerStop c.stop .aborted) } ∈ getCmds u t))

/-- PHY or RETRAIN over, a link exchanges capabilities with no failed PHY counted; DELAY ends ACTIVE with the cable
delay of its samples, or DISABLED with cause 5 where they spread by more than 64; the time limits of DETECT, CAPS and
DELAY lead to DISABLED with causes 1, 4 and 5, a failed PHY to DETECT, and the eighth in a row to DISABLED with cause 2. An
ACTIVE link retrains on a loss of lock (cause 8), which counts the codewords lost, or the eighth replay timeout of a space
(cause 9). A corrupted flit is counted. On stepping A1 CAUSE reads 0 (R268, R274, R276, R279, R281, R288, R291). -/
def Obligations.LinksTrainAndFail : Prop :=
  ∀ (s : State) (l : Link), let x := getLink s l.val
    let cause (k : BitVec 4) : BitVec 4 := if isA1 s then 0 else k
    (x.st = lsPhy ∨ x.st = lsRetrain → Effects (.phyTraining l) s [.links, .out] (fun u =>
      (getLink u l.val).st = lsCaps ∧ (getLink u l.val).phyFails = 0 ∧ (getLink u l.val).capsOk = false)) ∧
    (x.st = lsDelay → 1024 ≤ x.samples.length → spread x.samples ≤ 64 →
      Effects (.delayMeasurement l) s [.links, .out] (fun u => (getLink u l.val).st = lsActive ∧
        (getLink u l.val).delay = delayWord x.samples ∧ (getLink u l.val).spaces = List.replicate 5 spaceReset)) ∧
    (x.st = lsDelay → 1024 ≤ x.samples.length → 64 < spread x.samples →
      Effects (.delayMeasurement l) s [.links, .out] (fun u => (getLink u l.val).st = lsDisabled ∧
        (getLink u l.val).cause = cause 5)) ∧
    (x.st = lsActive → x.samples.length = 1024 → isA1 s = false →
      Effects (.cableDelayUpdate l) s [.links, .out] (fun u => getLink u l.val = { x with delay := delayWord x.samples
        })) ∧
    (x.st = lsDetect ∨ x.st = lsCaps ∨ x.st = lsDelay → Effects (.linkStateLimit l) s [.links, .out] (fun u =>
      (getLink u l.val).st = lsDisabled ∧
      (getLink u l.val).cause = cause (if x.st = lsDetect then 1 else if x.st = lsCaps then 4 else 5))) ∧
    (x.st = lsPhy ∨ x.st = lsRetrain → Effects (.linkStateLimit l) s [.links, .out] (fun u =>
      if 7 ≤ x.phyFails then (getLink u l.val).st = lsDisabled ∧ (getLink u l.val).cause = cause 2 ∧
        (getLink u l.val).phyFails = 0
      else (getLink u l.val).st = lsDetect ∧ (getLink u l.val).phyFails = x.phyFails + 1)) ∧
    (∀ lost : Nat, x.st = lsActive → Effects (.fecLockLoss ⟨l, lost⟩) s [.links, .wear, .out] (fun u =>
      (getLink u l.val).st = lsRetrain ∧ (getLink u l.val).cause = cause 8 ∧
      (getLink u l.val).retrains = (if x.retrains < 255 then x.retrains + 1 else 255) ∧
      sget 0 (getLink u l.val).lcnt 1 = BitVec.ofNat 32 (min (2 ^ 32 - 1) ((sget 0 x.lcnt 1).toNat + lost)))) ∧
    (∀ (k : Fin 5) (y : Space), x.st = lsActive → x.spaces[k.val]? = some y → y.out ≠ [] →
      Effects (.replayTimeout l k) s [.links, .wear, .out] (fun u =>
        sget 0 (getLink u l.val).lcnt 4 = satInc (sget 0 x.lcnt 4) ∧
        (y.timeouts < 7 → (getLink u l.val).spaces[k.val]? =
          some { y with replay := some 0, timeouts := y.timeouts + 1 }) ∧
        (7 ≤ y.timeouts → (getLink u l.val).st = lsRetrain ∧ (getLink u l.val).cause = cause 9))) ∧
    (sendsUnits x.st = true → Effects (.corruptedFlit l) s [.links, .ward, .out] (fun u =>
      sget 0 (getLink u l.val).lcnt 2 = satInc (sget 0 x.lcnt 2)))

/-- A change of presence is noted with no assembly read; a header that is on then starts its links in DETECT, the DISABLED
ones while the card is in service, or takes its ACTIVE links to DETECT with cause 1 (R279). In DETECT the reading of an
assembly qualifies it when its identity is valid and names the card, and sets it to high power: its enabled links go to PHY,
else its links to DISABLED with cause 1; the wear record takes the larger of its counters and the assembly's, a new assembly
counts a mating, and the EEPROM is given the record; on stepping A1 the record's own counters stand and nothing is written
back (R285, R286, R291). An hour of header power counts for the assembly (R286, R287); ten milliseconds above the power class
of the assembly's record switch the header off and its links OFF with cause 0xB (R285). That an assembly's first reading is
the moment it counts a mating, and that a link which may not train goes to DISABLED, are the model's choices (log entry 37).
-/
def Obligations.HeadersReadTheirAssemblies : Prop :=
  (∀ (s : State) (h : Fin 9) (b : Bool), (getHeader s h.val).present ≠ b →
    Effects (.presenceChange h b) s [.links, .headers, .out] (fun u => getHeader u h.val = ⟨b, false, false, none, 0⟩ ∧
      (headerOnBit s h.val = true → ∀ l ∈ linksOf h.val,
        (b = false → linkState s l = lsActive → linkState u l = lsDetect ∧
          (getLink u l).cause = if isA1 s then 0 else 1) ∧
        (b = true → (linkState s l = lsDetect ∨ (linkState s l = lsDisabled ∧ mayLeaveDisabled s = true)) →
          linkState u l = lsDetect)))) ∧
  (∀ (s : State) (h : Fin 9) (c : CableRec), (getHeader s h.val).present = true → headerOnBit s h.val = true →
    (∃ l ∈ linksOf h.val, linkState s l = lsDetect) →
    Effects (.cmisIdentityRead h c) s [.links, .headers, .wear, .ward, .out] (fun u =>
      let ok := c.valid && c.namesCard
      let w := getWear u c.serial
      let both (own its : Nat) : Nat := if isA1 s then own else max own its
      (getHeader u h.val).qualified = ok ∧ (getHeader u h.val).highPower = ok ∧
      (getHeader u h.val).cable = some (if isA1 s then c else { c with
        poh := w.poh, matings := w.matings, retrains := w.retrains, uncorrectable := w.uncorrectable
        maxTemp := w.maxTemp }) ∧
      (∀ l ∈ linksOf h.val, linkState s l = lsDetect →
        linkState u l = (if ok = true ∧ linkEnabled s l = true then lsPhy else lsDisabled) ∧
        (ok = false → (getLink u l).cause = if isA1 s then 0 else 1)) ∧
      w.poh = both (getWear s c.serial).poh c.poh ∧
      w.matings = both (getWear s c.serial).matings c.matings + (if (getHeader s h.val).cable.isNone then 1 else 0) ∧
      w.retrains = both (getWear s c.serial).retrains c.retrains ∧
      w.uncorrectable = both (getWear s c.serial).uncorrectable c.uncorrectable)) ∧
  (∀ (s : State) (h : Fin 9) (c : CableRec), (getHeader s h.val).cable = some c → headerOnBit s h.val = true →
    Effects (.powerOnHour h) s [.headers, .wear, .ward, .out] (fun u =>
      (getWear u c.serial).poh = (getWear s c.serial).poh + 1 ∧
      ∃ x, (getHeader u h.val).cable = some x ∧
        x.poh = if isA1 s then c.poh else (getWear s c.serial).poh + 1)) ∧
  (∀ (s : State) (h : Fin 9) (c : CableRec) (draw : Nat), (getHeader s h.val).cable = some c →
    headerOnBit s h.val = true →
    (c.powerMw < draw → Effects (.headerOvercurrent ⟨h, draw⟩) s [.headers, .links, .power, .out] (fun u =>
      headerOnBit u h.val = false ∧ ∀ l ∈ linksOf h.val, linkState u l = lsOff ∧
        (getLink u l).cause = if isA1 s then 0 else 0xB)) ∧
    (draw ≤ c.powerMw → Effects (.headerOvercurrent ⟨h, draw⟩) s [.headers, .out] (fun u =>
      getHeader u h.val = { getHeader s h.val with drawMw := draw })))

/-- In CAPS, DELAY, ACTIVE and RETRAIN a link sends the 256 bytes of a link unit with its cycle number, the last one that it
heard and the time since, its acknowledgements and STATE, and then asks for no resend again (R269, R270). At a position of
the section or of control, an ACTIVE link first resends what a replay still holds, then sends the first flit that may leave
with the next sequence number and keeps it until it is acknowledged, while fewer than 1,024 are outstanding and, for a
section, outside the guard band; else an idle flit (R265, R266, R271, R274, R277). A position of a later slot finds a
departed partner's link gone to DETECT with cause 7 (R290). An intact unit gives its ACK words to the five spaces, retrains
the link on STATE RETRAIN and stops section flits on STATE DEPART (R273, R276, R290). -/
def Obligations.LinkUnitsAndFlitsAreSent : Prop :=
  (∀ (s : State) (l : Link), let x := getLink s l.val
    sendsUnits x.st = true → Effects (.linkUnitSend l) s [.links, .out] (fun u =>
      u.out = [.unit l (linkUnitOf x.cycle x.echo.toNat (time16 s - x.echoAt) (ackWords x) (unitState x))] ∧
      (getLink u l.val).cycle = (if x.st = lsDelay ∨ x.st = lsActive then x.cycle + 1 else x.cycle) ∧
      ∀ y ∈ (getLink u l.val).spaces, y.reqDue = false)) ∧
  (∀ (s : State) (l : Link) (slot : Fin 50), let x := getLink s l.val
    (slot.val ≠ 0 → x.departWait = true → Effects (.flitSend l slot) s [.links, .out] (fun u =>
      (getLink u l.val).st = lsDetect ∧ (getLink u l.val).cause = if isA1 s then 0 else 7)) ∧
    (x.st = lsActive → (slot.val = 0 ∨ ∀ k, k < 36 → (getLink s k).departWait = false) →
      (slotSpace s l.val slot.val = none → Effects (.flitSend l slot) s [.out] (fun u => u.out = [.unit l idleUnit])) ∧
      (∀ (k : Nat) (y : Space), slotSpace s l.val slot.val = some k → x.spaces[k]? = some y →
        (k ≠ 4 → x.departTx = false ∧ x.departRx = false) →
        (∀ (i seq : Nat) (b : Body), y.replay = some i → (k = 4 → x.departTx = false) → y.out[i]? = some (seq, b) →
          Effects (.flitSend l slot) s [.links, .out] (fun u =>
            u.out = [.unit l (flitUnit (flitOf s x k seq b) b.type)] ∧
            (getLink u l.val).spaces[k]? =
              some { y with replay := if i + 1 < y.out.length then some (i + 1) else none })) ∧
        (∀ (b : Body) (rest : List Body), y.replay = none → y.out.length < 1024 → (k ≠ 4 → s.time.guard = false) →
          pickQueued x k = some (b, rest) →
          Effects (.flitSend l slot) s
            (if b.type = 3 ∧ b.tag.getLsbD 15 = true then [.nflag, .cmds, .colls, .tiers, .links, .ward, .out]
              else [.links, .out]) (fun u =>
            u.out.head? = some (.unit l (flitUnit (flitOf s x k y.next b) b.type)) ∧
            (getLink u l.val).spaces[k]? = some { y with
              queue := rest, next := (y.next + 1) % 4096, out := y.out ++ [(y.next, b)] })) ∧
        (y.replay = none → pickQueued x k = none →
          Effects (.flitSend l slot) s [.out] (fun u => u.out = [.unit l idleUnit]))))) ∧
  (∀ (s : State) (l : Link) (v : Unit256), let x := getLink s l.val
    v.intact = true →
    (x.st = lsCaps ∨ x.st = lsDelay ∨ x.st = lsActive → v.state ≠ 3 →
      Effects (.linkUnit l v) s [.links, .wear, .ward, .out] (fun u =>
      (getLink u l.val).echo = v.cycle ∧ (getLink u l.val).st = x.st ∧
      (x.st = lsActive → v.state = 2 → (getLink u l.val).departRx = true) ∧
      (x.st = lsActive → ∀ (k : Nat) (y : Space), k < 5 → x.spaces[k]? = some y → ackWord v k / 4096 % 2 = 0 →
        (getLink u l.val).spaces[k]? = some (ackSpace y (ackWord v k % 4096))))) ∧
    (x.st = lsActive → v.state = 3 → Effects (.linkUnit l v) s [.links, .wear, .ward, .out] (fun u =>
      (getLink u l.val).st = lsRetrain ∧ (getLink u l.val).cause = if isA1 s then 0 else 3)))

/-- On an ACTIVE link, a flit of a type that fits its space and is no DEPART of a partner already leaving: with the
sequence number expected, the space expects the next and acknowledges it, and a resend that is still to be asked for
stays so; up to 1,023 beyond, the space asks for a resend once; up to 3,071 beyond, the link retrains with cause 0xA;
else, a duplicate, nothing but the flit's own ACK and LATE counts (R267, R272, R275). A flit whose type does not fit
its space is counted and discarded. -/
def Obligations.FlitsAreTakenInOrder : Prop :=
  ∀ (s : State) (l : Link) (f : Flit) (c : Instr) (type : Nat) (y : Space), let x := getLink s l.val
    ((c = .dataFlit l f ∧ type = 1) ∨ (c = .tokenFlit l f ∧ type = 2) ∨ (c = .collFlit l f ∧ type = 3) ∨
      (c = .rollcallFlit l f ∧ type = 0xA) ∨ (∃ ns frac, c = .timeFlit l f ns frac ∧ type = 0xB) ∨
      (c = .mgmtFlit l f ∧ type = 0xC) ∨ (c = .drainFlit l f ∧ type = 9) ∨
      (c = .departFlit l f ∧ type = 8 ∧ x.departRx = false)) →
    x.st = lsActive → x.spaces[f.space.toNat]? = some y →
    (typeFits type f.space.toNat = false → Effects c s [.links, .ward, .out] (fun u =>
      getLink u l.val = { x with lcnt := sset 0 x.lcnt 2 (satInc (sget 0 x.lcnt 2)) })) ∧
    (typeFits type f.space.toNat = true →
      let y' := ackSpace y f.ack.toNat
      let d := (f.seq.toNat + 4096 - y.expect) % 4096
      (d = 0 → Effects c s [.nflag, .cmds, .recs, .rings, .steps, .colls, .cores, .slate, .commons, .tiers, .sect, .links,
          .time, .ward, .trace, .wear, .seq, .fresh, .out] (fun u => ∃ z, (getLink u l.val).spaces[f.space.toNat]? =
            some z ∧
        z.expect = (y.expect + 1) % 4096 ∧ z.ack = f.seq.toNat ∧ z.reqDue = y.reqDue ∧ z.reqSet = false)) ∧
      (0 < d → d < 1024 → Effects c s [.links, .ward, .out] (fun u => (getLink u l.val).spaces[f.space.toNat]? =
        some (if y.reqSet then y' else { y' with reqDue := true, reqSet := true }))) ∧
      (1024 ≤ d → d < 3072 → Effects c s [.links, .wear, .ward, .out] (fun u => (getLink u l.val).st = lsRetrain ∧
        (getLink u l.val).cause = if isA1 s then 0 else 0xA)) ∧
      (3072 ≤ d → Effects c s [.links, .out] (fun u => (getLink u l.val).spaces[f.space.toNat]? = some y')))

/-- On an ACTIVE link, a section flit that is expected and not late is delivered. DATA puts its bytes into the slate
of the core it names, when that core is the section's (R267); TOKEN makes a tile valid or a buffer free in a channel
in use of a core that a RUN of the section uses, up to the channel's depth (R111); a COLL flit of the card itself is
dropped, and one that no collective of the section expects is counted (R293, R308). Which core, channel or place a
flit names is free (log entry 18). -/
def Obligations.SectionFlitsAreDelivered : Prop :=
  ∀ (s : State) (l : Link) (f : Flit) (y : Space), let x := getLink s l.val
    x.st = lsActive → x.spaces[f.space.toNat]? = some y → f.space.toNat < 4 → f.seq.toNat = y.expect →
    f.late = false →
    (coreSec s (Config.dataPlace f.tag f.payload).1.val = some (spaceSec f) →
      Effects (.dataFlit l f) s [.slate, .commons, .tiers, .links, .wear, .ward, .out] (fun u => ∀ i, i < f.len.toNat →
        i < 240 →
        (Config.dataPlace f.tag f.payload).2.val + i < slateBytes →
        rd8 u.slate (slateKey (Config.dataPlace f.tag f.payload).1.val ((Config.dataPlace f.tag f.payload).2.val + i)) =
          (f.payload.toNat >>> (8 * i)) % 256)) ∧
    (∀ z : CoreRun, coreRun s (Config.tokenOf f.tag f.payload).1.val = some z → z.sec = spaceSec f →
      Effects (.tokenFlit l f) s [.cores, .links, .wear, .ward, .out] (fun u =>
        let q := (Config.tokenOf f.tag f.payload).1.val
        let e := (Config.tokenOf f.tag f.payload).2.val
        let d := chanDef z.g z.v q (decide (8 ≤ e)) (e % 8)
        let up (c : Chan) : Chan := if d.used = true ∧ c.count < d.depth then { c with count := c.count + 1 } else c
        (getCore u q).inCh = (if e < 8 then modChan (getCore s q).inCh e up else (getCore s q).inCh) ∧
        (getCore u q).outCh = (if e < 8 then (getCore s q).outCh else modChan (getCore s q).outCh (e - 8) up))) ∧
    ((∃ g, s.images.get (spaceSec f) = some g ∧ f.src.toNat = g.logicalId) →
      Effects (.collFlit l f) s [.links, .out] (fun u => (getLink u l.val).cdisc = x.cdisc)) ∧
    ((∀ g, s.images.get (spaceSec f) = some g → f.src.toNat ≠ g.logicalId) →
      (∀ c ∈ sectionColls s (spaceSec f), c.id = f.tag.toNat % 4096 → expects c (collLevelOf f) (collBlock f) = false) →
      Effects (.collFlit l f) s [.links, .out] (fun u =>
        (getLink u l.val).cdisc = if isA1 s then x.cdisc else satInc x.cdisc)) ∧
    (∀ c : CollRun, (∀ g, s.images.get (spaceSec f) = some g → f.src.toNat ≠ g.logicalId) →
      (sectionColls s (spaceSec f)).find? (fun c => c.id == f.tag.toNat % 4096 &&
        expects c (collLevelOf f) (collBlock f)) = some c → c.sec = spaceSec f →
      recvAt s c (collKey c.id (collLevelOf f) (collBlock f)) = none →
      let k := collKey c.id (collLevelOf f) (collBlock f)
      let a := joinPiece ((((getColl s c.sec c.ord).asm.find? (fun e => e.1 == k)).map (·.2)).getD
        ⟨collElen f, [], [], false⟩) f
      a.got.length < (a.elen + 223) / 224 →
      Effects (.collFlit l f) s [.links, .colls, .out] (fun u =>
        ((getColl u c.sec c.ord).asm.find? (fun e => e.1 == k)).map (·.2) = some a))

/-- On an ACTIVE link, a control flit that is expected and not late is delivered. A roll-call flit of another card is
kept before its guard band: a result by a card other than rank 0 that holds none, and a child's value by the parent
that has still to combine its level, once (R293, R319). A TIME flit of the grandmaster in use gives the link an offset
(R283). A DRAIN request acts, once for its originator and frame, on each section of its group with an image; a report
is logged (R429). A DEPART flit is recorded in ERR_DEPART, and its link goes to DETECT when the partner had announced
it (R430, R290). In CAPS, the partner's capability block leads to DELAY, or to DISABLED where it does not fit (R280).
-/
def Obligations.ControlFlitsAreDelivered : Prop :=
  (∀ (s : State) (l : Link) (f : Flit) (y : Space), let x := getLink s l.val
    x.st = lsActive → x.spaces[4]? = some y → f.space = 4 → f.seq.toNat = y.expect →
    f.late = false →
    (∀ q : Pend, (getSteps s (tagSec f)).pend.find? (fun q => q.step == fieldAt f 0 8) = some q →
      let past (n : Nat) := guardCame s (rollFrame s (tagSec f) q n + hopsOf s (tagSec f))
      f.src.toNat ≠ q.logicalId →
      (fieldAt f 8 1 / 2 % 2 = 1 → q.logicalId ≠ 0 → q.taken = false → q.result = none → past (depthOf q.devices) =
        false →
        Effects (.rollcallFlit l f) s [.steps, .links, .wear, .ward, .out] (fun u =>
          { q with result := some (voteIn f) } ∈ (getSteps u (tagSec f)).pend)) ∧
      (fieldAt f 8 1 / 2 % 2 = 0 → fieldAt f 9 1 < depthOf q.devices → q.level ≤ fieldAt f 9 1 →
        combinesAt q.logicalId (fieldAt f 9 1) = true → past (fieldAt f 9 1) = false → (∀ e ∈ q.kept, ¬ (e.1 = fieldAt
          f 9 1 ∧ e.2.1 = f.src.toNat)) →
        Effects (.rollcallFlit l f) s [.steps, .links, .wear, .ward, .out] (fun u =>
          { q with kept := q.kept ++ [(fieldAt f 9 1, f.src.toNat, voteIn f)] } ∈ (getSteps u (tagSec f)).pend))) ∧
    (∀ (ns : W64) (frac : W32), fieldAt f 0x16 1 = 1 → s.ward.running = true →
      (s.time.lock = .free ∨ w64 (fieldAt f 0xC 8) = s.time.gm) →
      Effects (.timeFlit l f ns frac) s [.time, .cmds, .links, .wear, .ward, .trace, .out] (fun u => (getLink u
        l.val).timeOk = true ∧
        (getLink u l.val).timeOffset = ((ns.toNat * 16 + frac.toNat / 2 ^ 28 : Nat) : Int) - x.delay.toNat -
          ((fieldAt f 0 8 * 16 + fieldAt f 8 4 / 2 ^ 28 : Nat) : Int))) ∧
    (fieldAt f 0 1 = 1 → isA1 s = false → (fieldAt f 1 1, fieldAt f 8 8) ∉ s.ward.drainCopies → s.time.guard = false →
      Effects (.drainFlit l f) s [.sect, .rings, .cmds, .recs, .steps, .colls, .tiers, .links, .wear, .ward, .trace,
        .out, .fresh, .seq] (fun u =>
        (fieldAt f 1 1, fieldAt f 8 8) ∈ u.ward.drainCopies ∧
        ∀ t, (getSect s t).rcCfg.extractLsb' 16 16 = f.dest → (s.images.get t).isSome = true →
          ∃ c ∈ getCmds u t, c.job = .netDrain false [] 0)) ∧
    (fieldAt f 0 1 = 1 → (isA1 s = true ∨ (fieldAt f 1 1, fieldAt f 8 8) ∈ s.ward.drainCopies) →
      Effects (.drainFlit l f) s [.links, .out] (fun u => u.cmds = s.cmds)) ∧
    Effects (.departFlit l f) s [.links, .wear, .ward, .trace, .out] (fun u => bit64 u.ward.depart 0 = true ∧
      (bit64 s.ward.depart 0 = false → bits u.ward.depart 47 17 = fieldAt f 0 4 % 2 ^ 17 ∧
        bits u.ward.depart 43 4 = fieldAt f 4 1 % 16) ∧
      (x.departRx = true → (getLink u l.val).st = lsDetect ∧ (getLink u l.val).cause = if isA1 s then 0 else 7))) ∧
  (∀ (s : State) (l : Link) (f : Flit), (getLink s l.val).st = lsCaps → f.space = 4 → f.tag = 1 →
    Effects (.mgmtFlit l f) s [.links, .out] (fun u => (getLink u l.val).caps = f.payload ∧
      if fieldAt f 2 1 = 1 then (getLink u l.val).st = lsDisabled ∧
        (getLink u l.val).cause = if isA1 s then 0 else 3
      else if fieldAt f 2 1 ≠ 2 ∨ fieldAt f 3 1 ≠ 5 ∨ fieldAt f 4 2 < 1024 ∨ fieldAt f 0xE 1 % 16 ≠ 15 then
        (getLink u l.val).st = lsDisabled ∧ (getLink u l.val).cause = if isA1 s then 0 else 4
      else (getLink u l.val).st = lsDelay ∧ (getLink u l.val).capsOk = true ∧ (getLink u l.val).samples = [] ∧
        (getLink u l.val).bellDiff = (decide (fieldAt f 0x10 4 ≠ s.time.period.toNat) ||
          decide (fieldAt f 0x14 8 ≠ s.time.epoch.toNat))))

/-- With one step pending: at its roll-call frame an open step closes with the causes found and the card's own value
(R331); a card that sends at its level is marked as having sent and, but for a step that it opened too late, sends its value
(R319, R329), and one that combines adds its children's values at the guard band of the level's last frame (R319, R320);
rank 0 makes its value, checked for the number of cards, the result (R319); at the guard band of the result's last frame the
result is taken, and noted as lost when none came; and at the frame after the last a step leaves, and its outcome, none when
lost, is the section's (R333, R334). In a TRAIN section it is then in FAB_RCRES, FAB_RCAND and FAB_RCOR (R321); in a service
role they keep what they hold (R347; log entry 39). -/
def Obligations.RollCallsContributeCombineAndReturn : Prop :=
  ∀ (s : State) (t : Sec) (q : Pend), (getSteps s t).pend = [q] →
    (q.closed = false → s.time.frame.isSome = true → q.roll ≤ frameOf s →
      Effects (.rollcallContribution t) s [.steps, .tiers, .ward, .out] (fun u => (getSteps u t).pend =
        [{ q with closed := true, causes := causesOf s t q, value := some (ownVote s q (causesOf s t q)),
                  ownWord := if q.word.isSome then (ownVote s q (causesOf s t q)).orW else 0 }])) ∧
    (∀ v, q.value = some v → q.level < depthOf q.devices → digitAt q.logicalId q.level ≠ 0 →
      slotZeroOf s (rollFrame s t q q.level) = true →
      Effects (.rollcallLevelSend t) s [.steps, .links, .out] (fun u =>
        (getSteps u t).pend = [{ q with level := sentMark }] ∧
        ∀ l, q.silent = false → firstActive s (digitAt q.logicalId q.level - 1) = some l → ∀ y, (getLink s l).spaces[4]? = some y →
          (getLink u l).spaces[4]? = some { y with queue := y.queue ++ [voteBody s t q v q.level
            (q.logicalId - digitAt q.logicalId q.level * 16 ^ q.level) false] })) ∧
    (∀ v, q.value = some v → q.level < depthOf q.devices → combinesAt q.logicalId q.level = true →
      guardCame s (rollFrame s t q q.level + hopsOf s t) = true →
      Effects (.rollcallCombine t) s [.steps, .out] (fun u => (getSteps u t).pend =
        [{ q with value := some (combineVotes q v), level := q.level + 1 }])) ∧
    (∀ v, q.value = some v → q.logicalId = 0 → q.level = depthOf q.devices → q.result = none →
      slotZeroOf s (rollFrame s t q (depthOf q.devices)) = true →
      Effects (.rollcallResultSend t) s [.steps, .links, .out] (fun u => (getSteps u t).pend =
        [{ q with result := some (checkCards q v) }])) ∧
    (q.taken = false → guardCame s (rollFrame s t q (depthOf q.devices) + hopsOf s t) = true →
      Effects (.rollcallResult t) s [.steps, .out] (fun u => (getSteps u t).pend =
        [{ q with taken := true, lost := q.result.isNone }])) ∧
    (s.time.frame.isSome = true → rollFrame s t q (depthOf q.devices + 1) ≤ frameOf s →
      let v := if q.lost || !q.taken then none else q.result
      Effects (.rollcallReturn t) s [.sect, .rings, .cmds, .recs, .steps, .colls, .ward, .trace, .out] (fun u =>
        (getSteps u t).pend = [] ∧
        (getSteps u t).outcomes = (getSteps s t).outcomes ++ [(q.step, v)] ∧
        (isTrain s t = false → (getSect u t).rcRes = (getSect s t).rcRes ∧ (getSect u t).rcAnd = (getSect s t).rcAnd ∧
          (getSect u t).rcOr = (getSect s t).rcOr) ∧
        (isTrain s t = true → bits (getSect u t).rcRes 32 32 = q.step % 2 ^ 32 ∧ bit64 (getSect u t).rcRes 0 = true ∧
          (v = none → (getSect u t).rcAnd = 0 ∧ (getSect u t).rcOr = 0 ∧ bit64 (getSect u t).rcRes 1 = true ∧
            bit64 (getSect u t).rcRes 2 = true ∧ bit64 (getSect u t).rcRes 4 = !isA1 s) ∧
          (∀ w, v = some w → (getSect u t).rcAnd = w.andW ∧ (getSect u t).rcOr = w.orW ∧
            bit64 (getSect u t).rcRes 1 = w.bit ∧ bit64 (getSect u t).rcRes 2 = w.missing))))

/-- In the guard band after a severity 3 cause the card drains: every ACTIVE link then announces the departure; in
slot 0 of the next frame the card departs and its ACTIVE links are DISABLED with cause 7 (R290, R426). The first kick
arms the sentry; a wrong self-check word, or 40 µs without a kick, makes it act: a card in service becomes SUSPECT
with cause SENTRY and drains at once, unless it was draining already (R428, R472, R473). While it has not acted it
answers heartbeats of a card in service (R474). -/
def Obligations.CardsDrainAndDepart : Prop :=
  (∀ s : State, s.ward.drain = .guard → s.time.guard = true → Effects .cardDrain s [.sect, .rings, .cmds, .recs,
    .steps, .colls, .tiers, .links, .ward, .trace, .out, .fresh] (fun u =>
    u.ward.drain = .armed ∧ u.ward.card = s.ward.card ∧
    ∀ l : Link, linkState s l.val = lsActive → (getLink u l.val).departTx = true)) ∧
  (∀ s : State, s.ward.drain = .send → s.time.guard = false → Effects .departSend s [.links, .ward, .out] (fun u =>
    u.ward.card = .departed ∧ u.ward.drain = .none ∧
    ∀ l : Link, linkState s l.val = lsActive → linkState u l.val = lsDisabled ∧
      (getLink u l.val).cause = if isA1 s then 0 else 7)) ∧
  (∀ (s : State) (word : W64), s.ward.running = true →
    (word = Config.selfCheck → Effects (.sentryKick word) s [.ward, .out] (fun u => u.ward = { s.ward with sentryArmed
      := true })) ∧
    (word ≠ Config.selfCheck → Effects (.sentryKick word) s [.sect, .rings, .cmds, .recs, .steps, .colls, .tiers,
      .links, .ward, .trace, .out, .fresh] (fun u => u.ward.sentryArmed = true ∧
      u.ward.sentryActed = true ∧ (s.ward.sentryActed = false → s.ward.card = .service →
        u.ward.card = .suspect ∧ u.ward.cause = causeSentry ∧ u.ward.flashCard = s.ward.flashCard ∧
        (s.ward.drain ≠ .armed → s.ward.drain ≠ .send → u.ward.drain = .armed))))) ∧
  (∀ s : State, s.ward.sentryArmed = true → Effects .sentryDeadline s [.sect, .rings, .cmds, .recs, .steps, .colls,
    .tiers, .links, .ward, .trace, .out, .fresh] (fun u =>
    u.ward.running = false ∧ u.ward.sentryActed = true ∧ (s.ward.sentryActed = false → s.ward.card = .service →
      u.ward.card = .suspect ∧ u.ward.cause = causeSentry))) ∧
  (∀ (s : State) (data : BitVec 128), s.ward.card = .service → s.ward.sentryArmed = true → s.ward.sentryActed = false →
    Effects (.heartbeat data) s [.out] (fun u =>
      u.out = [.heartbeat (data.setWidth 64) (BitVec.ofNat 4 (cardCode s.ward.card)) s.ward.cause])) ∧
  (∀ (s : State) (data : BitVec 128), (s.ward.card ≠ .service ∨ s.ward.sentryActed = true) →
    exec (.heartbeat data) s = .next (begin s))

/-- At a power failure every command and waiting record is gone, device memory and SRAM are empty, ACTIVE pairs are
LOST, every switched domain is off, the time counter stands, no drain goes on, and a card in service is SUSPECT with
cause POWER (R442, R443). At the end of the hold-up the warden stops and the links are without power, and with its
energy charged it has written its records to flash (R443, R444). Each reading of input, rail or temperature is kept;
one above its limit makes a card in service SUSPECT with cause THERMAL, to be drained, and more than 66 V is a power
failure (R470, R533, R534, R537). -/
def Obligations.PowerFailsAndLimitsDrain : Prop :=
  (∀ s : State, s.ward.stage ≠ .halted → s.ward.stage ≠ .off → Effects .powerFailure s [.time, .rings, .cmds, .recs,
    .cores, .store, .slate, .commons, .acc, .colls, .tiers, .links, .hif, .ward, .power, .out] (fun u =>
    u.ward.stage = .halted ∧ u.ward.drain = .none ∧ counterDead u = true ∧ u.time.frame = none ∧ u.time.lock = .free ∧
    u.time.ns = s.time.ns ∧ u.power.on = 0 ∧ u.tiers.mem = [] ∧ u.slate = [] ∧ u.commons = [] ∧
    u.hif = hifReset ∧ (∀ t, getCmds u t = [] ∧ u.recs.get t = []) ∧
    (∀ p, (getRing s p).st = .active → (getRing u p).st = .lost) ∧
    (s.ward.card = .service → u.ward.card = .suspect ∧ u.ward.cause = causePower))) ∧
  (∀ s : State, s.ward.stage = .halted → Effects .holdUpEnd s [.links, .ward, .fresh, .out] (fun u => u.ward.running = false ∧
    (∀ l, linkState u l = lsOff) ∧
    (s.ward.running = true → 150000000 ≤ s.time.ns.toNat → ∃ f, u.ward.flashRec = some f ∧
      f.errs = s.ward.errlog.drop (s.ward.errlog.length - 256) ∧
      ∀ t, f.steps.get t = (getSteps s t).latest ∧
        f.tails.get t = if bit64 (getTrace s t).rlcfg 63 then some (w64 (getTrace s t).rlSeq, (getTrace s t).chain)
          else none))) ∧
  (∀ (s : State) (mv : W16),
    (mv.toNat ≤ 60000 → Effects (.inputOvervoltage mv) s [.power, .out] (fun u => u.power = { s.power with vin := mv })) ∧
    (60000 < mv.toNat → mv.toNat ≤ 66000 → s.ward.running = true → Effects (.inputOvervoltage mv) s [.ward, .power, .out]
      (fun u => u.power = { s.power with vin := mv } ∧ (s.ward.card = .service → u.ward.card = .suspect ∧
        u.ward.cause = causeThermal ∧ u.ward.drain = .guard))) ∧
    (66000 < mv.toNat → s.ward.stage ≠ .halted → s.ward.stage ≠ .off →
      Effects (.inputOvervoltage mv) s [.time, .rings, .cmds, .recs, .cores, .store, .slate, .commons, .acc, .colls, .tiers,
        .links, .hif, .ward, .power, .out] (fun u => u.ward.stage = .halted ∧ u.power.on = 0))) ∧
  (∀ (s : State) (k : Fin 41) (amps : W16), Effects (.railOvercurrent k amps) s [.ward, .power, .out] (fun u =>
    (k.val < 40 → sget 0 u.power.rail k.val = amps) ∧ (k.val = 40 → u.power = s.power) ∧ (10 * amps.toNat ≤ railLimit
      k.val → u.ward = s.ward) ∧
    (railLimit k.val < 10 * amps.toNat → s.ward.running = true → s.ward.card = .service →
      u.ward.card = .suspect ∧ u.ward.cause = causeThermal ∧ u.ward.drain = .guard))) ∧
  (∀ (s : State) (k : Fin 16) (r : W16), Effects (.thermalLimit k r) s [.ward, .power, .out] (fun u =>
    sget 0 u.power.temp k.val = r ∧ (r ≠ 0x8000 → r.toInt ≤ tempLimit k.val → u.ward = s.ward) ∧
    ((r = 0x8000 ∨ tempLimit k.val < r.toInt) → s.ward.running = true → s.ward.card = .service →
      u.ward.card = .suspect ∧ u.ward.cause = causeThermal ∧ u.ward.drain = .guard)))

/-- A slate, commons or accumulator word that cannot be corrected reads as ones and no other byte of its memory
changes; a program-store word stops the core's stage program; a replay-buffer word retrains its ACTIVE link with cause
0xA (log entry 37); a word of a block store becomes ones in the block that it held (R417). A word that the code corrects
changes nothing but the logs, where it has class 0x01 (R417, R418). -/
def Obligations.SramErrorsReadAsOnes : Prop :=
  ∀ s : State,
    (∀ (q : Fin 128) (line : Nat) (n : Fin 556), 64 * line < slateBytes →
      Effects (.sramUncorrectable ⟨.slate q line n, false⟩) s [.nflag, .cmds, .slate, .ward, .out] (fun u => ∀ a,
        rd8 u.slate a = if slateKey q.val (64 * line) ≤ a ∧ a < slateKey q.val (64 * line) + 64 then 255
          else rd8 s.slate a)) ∧
    (∀ (k : Fin 32) (line : Nat) (n : Fin 556), 64 * line < slateBytes →
      Effects (.sramUncorrectable ⟨.commons k line n, false⟩) s [.nflag, .cmds, .commons, .ward, .out] (fun u => ∀ a,
        rd8 u.commons a = if slateBytes * k.val + 64 * line ≤ a ∧ a < slateBytes * k.val + 64 * line + 64 then 255
          else rd8 s.commons a)) ∧
    (∀ (q : Fin 128) (row : Fin 2048) (col : Fin 128) (n : Fin 556),
      Effects (.sramUncorrectable ⟨.accumulator q row col n, false⟩) s [.nflag, .cmds, .acc, .ward, .out]
        (fun u => ∀ a, sget 0 u.acc a = if (q.val * 2048 + row.val) * 128 + col.val / 16 * 16 ≤ a ∧
          a < (q.val * 2048 + row.val) * 128 + col.val / 16 * 16 + 16 then 0xFFFFFFFF else sget 0 s.acc a)) ∧
    (∀ q : Fin 128, Effects (.sramUncorrectable ⟨.programStore q, false⟩) s [.cores, .out] (fun u =>
      getCore u q.val = { getCore s q.val with stopped := true })) ∧
    (∀ l : Link, linkState s l.val = lsActive →
      Effects (.sramUncorrectable ⟨.replayBuffer l, false⟩) s [.links, .wear, .out] (fun u =>
        linkState u l.val = lsRetrain ∧ (getLink u l.val).cause = if isA1 s then 0 else 0xA)) ∧
    (∀ (l : Link) (coll b : Nat) (line : Fin 16), let ones : BitVec 8192 := BitVec.ofNat 8192 ((2 ^ 512 - 1) * 2 ^ (512 * line.val))
      Effects (.sramUncorrectable ⟨.blockStore l coll b line, false⟩) s
      [.nflag, .cmds, .colls, .ward, .out] (fun u => ∀ t x, s.colls.get t = [x] →
        (∃ e ∈ x.acc, e.1 = collKey coll 0 b) → (∀ t', t'.val < t.val → s.colls.get t' = []) →
        ∃ y, u.colls.get t = [y] ∧ y.ord = x.ord ∧
          ∀ e ∈ y.acc, e.1 = collKey coll 0 b → e.2.2 &&& ones = ones)) ∧
    (∀ site : SramSite, Effects (.sramUncorrectable ⟨site, true⟩) s [.ward, .out] (fun u =>
      s.ward.running = true → s.ward.errlog = [] → ∃ e, u.ward.errlog = [e] ∧ e.cls = 1 ∧ e.frame = w64 (frameNow s)))

/-- A training to a legal speed and width sets the link's mode, which is FULL only with both protocols at x8 or more
of Gen6 or x16 of Gen5 (R360); any other training changes nothing. The first configuration write after MEASURE sets
HOST_RID, a later one does not (R368, R540). A CXL.io memory request of another requester is answered by an error and
logged. A BAR0 access that is no aligned 4- or 8-byte access is aborted (R505). A decoder is committed for one way,
and not for more (R361). -/
def Obligations.HostLinkTrainsAndIsConfigured : Prop :=
  (∀ (s : State) (sp : BitVec 4) (w : BitVec 5) (ce me : Bool),
    (trains sp w = true → Effects (.hostLinkTraining sp w ce me) s [.hif, .out] (fun u => u.hif = { s.hif with
      mode := if ce = true ∧ me = true ∧ ((sp = 6 ∧ (w = 16 ∨ w = 8)) ∨ (sp = 5 ∧ w = 16)) then 2 else 1
      speed := sp, width := w, cacheEn := ce, memEn := me })) ∧
    (trains sp w = false → exec (.hostLinkTraining sp w ce me) s = .next (begin s))) ∧
  (∀ (s : State) (rid : W16),
    (measured s = true → s.hif.ridSet = false → Effects (.configurationWrite rid) s [.hif, .out] (fun u =>
      u.hif = { s.hif with hostRid := rid, ridSet := true })) ∧
    (measured s = false ∨ s.hif.ridSet = true → exec (.configurationWrite rid) s = .next (begin s))) ∧
  (∀ (s : State) (rid : W16) (posted : Bool),
    (s.hif.ridSet = true ∧ s.hif.hostRid = rid → exec (.cxlIoMemoryRequest rid posted) s = .next (begin s)) ∧
    (¬ (s.hif.ridSet = true ∧ s.hif.hostRid = rid) → Effects (.cxlIoMemoryRequest rid posted) s [.ward, .out] (fun u =>
      .aer ∈ u.out ∧ (posted = false → .unsupported ∈ u.out) ∧ (posted = true → .unsupported ∉ u.out)))) ∧
  (∀ (s : State) (addr : BitVec 25) (n : Nat) (wr : Bool),
    ((n = 4 ∨ n = 8) ∧ addr.toNat % n = 0 → exec (.misalignedAccess addr n wr) s = .next (begin s)) ∧
    (¬ ((n = 4 ∨ n = 8) ∧ addr.toNat % n = 0) → Effects (.misalignedAccess addr n wr) s [.out] (fun u =>
      u.out = [.abort, .aer]))) ∧
  (∀ (s : State) (k : Fin 2) (base : W64) (ways : Nat), Effects (.hdmDecoderCommit k base ways) s [.hif, .out] (fun u =>
    u.hif = if k = 0 then { s.hif with hdm0 := if ways = 1 then some base.toNat else none }
      else { s.hif with hdm1 := if ways = 1 then some base.toNat else none }))

/-- DL_DOWN on a link that is up, a secondary bus reset, D3hot and PERST# leave no cached line, no directory entry and
no waiting request; every ACTIVE, STOPPING or ERROR pair is LOST with CAUSE 3; no mailbox session stays open; a
command that has not started is no longer in flight, and a started RUN, GROVE or RESHARD is marked to stop without a
record (R384, R413, R414). All but D3hot leave the link down; PERST# also clears HOST_RID and the decoders and masks
every vector (R412, R540). -/
def Obligations.HostLinkLossStopsTheWork : Prop :=
  ∀ (s : State) (c : Instr), (c = .dlDown ∧ s.hif.mode ≠ 0) ∨ c = .secondaryBusReset ∨ c = .d3hotEntry ∨ c = .perst →
    Effects c s [.sect, .rings, .cmds, .recs, .steps, .colls, .tiers, .links, .hif, .ward, .trace, .out, .fresh] (fun u =>
      u.hif.cache = [] ∧ u.hif.stale = [] ∧ u.hif.dir = [] ∧ u.hif.waiting = [] ∧ u.hif.reads = [] ∧ u.hif.due = [] ∧
      u.ward.session = .none ∧
      (∀ p, (getRing s p).st = .active ∨ (getRing s p).st = .stopping ∨ (getRing s p).st = .error →
        (getRing u p).st = .lost ∧ (getRing u p).cause = 3 ∧ (getRing u p).rung = false) ∧
      (∀ t, ∀ d ∈ getCmds s t, (∀ x ∈ getCmds s t, x.ord = d.ord → x = d) →
        (isRunning d = false → (∀ w e f, d.job ≠ .netDrain e w f) → ∀ x ∈ getCmds u t, x.ord ≠ d.ord) ∧
        (isRunning d = true → ∃ x ∈ getCmds u t, x.ord = d.ord ∧ x.stop = some .lost)) ∧
      u.hif.mode = (if c = .d3hotEntry then s.hif.mode else 0) ∧
      (c = .perst → u.hif.ridSet = false ∧ u.hif.hostRid = 0 ∧ u.hif.hdm0 = none ∧ u.hif.hdm1 = none ∧
        ∀ p, (getRing u p).msixMasked = true ∧ (getRing u p).msixPend = false))

/-- While the window is up: SnpData leaves an E or M line in S and forwards a modified one; SnpInv drops S, E and M
lines, rings the pairs whose doorbell the line is, and forwards a modified one; SnpCur changes nothing, but on
stepping A1 it takes a line from the eviction buffer; a line being evicted is forwarded once and then written back as
Bogus. GO_WritePull sends the evicted line and frees its entry; GO_WritePull_Drop frees it with no data (R370 to R372,
R386). -/
def Obligations.SnoopsAndEvictionsAnswer : Prop :=
  (∀ (s : State) (a : W64), windowUp s = true →
    (Effects (.snpData a) s [.hif, .out] (fun u =>
      match snoopState s (a.toNat / 64) with
      | none => u.out = [.snoop .iHitI none] ∧ u.hif = s.hif
      | some (.s, _) => u.out = [.snoop .sHitSE none] ∧ u.hif = s.hif
      | some (.e, x) => u.out = [.snoop .sHitSE none] ∧ snoopState u (a.toNat / 64) = some (.s, x)
      | some (.m, x) => u.out = [.snoop .sFwdM (some x)] ∧ snoopState u (a.toNat / 64) = some (.s, x)
      | some (.evicting _, x) => u.out = [.snoop .iFwdM (some x)] ∧
          snoopState u (a.toNat / 64) = some (.evicting true, x)
      | some (.cleanPending, _) => u.out = [.snoop .iHitSE none] ∧ u.hif = s.hif)) ∧
    (Effects (.snpInv a) s [.hif, .rings, .out] (fun u =>
      match snoopState s (a.toNat / 64) with
      | none => u.out = [.snoop .iHitI none] ∧ u.hif = s.hif
      | some (.s, _) => u.out = [.snoop .iHitSE none] ∧ cacheLine u (a.toNat / 64) = none ∧
          ∀ p, (getRing s p).enable = true → (getRing s p).dbAddr.toNat / 64 = a.toNat / 64 → (getRing u p).rung = true
      | some (.e, _) => u.out = [.snoop .iHitSE none] ∧ cacheLine u (a.toNat / 64) = none
      | some (.m, x) => u.out = [.snoop .iFwdM (some x)] ∧ cacheLine u (a.toNat / 64) = none
      | some (.evicting _, x) => u.out = [.snoop .iFwdM (some x)] ∧
          snoopState u (a.toNat / 64) = some (.evicting true, x)
      | some (.cleanPending, _) => u.out = [.snoop .iHitSE none] ∧ u.hif = s.hif)) ∧
    (Effects (.snpCur a) s [.hif, .out] (fun u =>
      match snoopState s (a.toNat / 64) with
      | none => u.out = [.snoop .iHitI none] ∧ u.hif = s.hif
      | some (.m, x) => u.out = [.snoop .vFwdV (some x)] ∧ u.hif = s.hif
      | some (.evicting _, x) =>
        if isA1 s then u.out = [.snoop .iFwdM (some x)] ∧ snoopState u (a.toNat / 64) = some (.evicting true, x)
        else u.out = [.snoop .vFwdV (some x)] ∧ u.hif = s.hif
      | some (_, _) => u.out = [.snoop .vHitV none] ∧ u.hif = s.hif))) ∧
  (∀ (s : State) (a : W64) (f : Bool) (x : BitVec 512) (n : Nat), windowUp s = true →
    (∀ e ∈ s.hif.stale, e.1 ≠ a.toNat / 64) → cacheLine s (a.toNat / 64) = some ⟨.evicting f, x, n⟩ →
    Effects (.goWritePull a) s [.hif, .out] (fun u => u.out = [.pull (64 * (a.toNat / 64)) f x] ∧
      cacheLine u (a.toNat / 64) = none) ∧
    Effects (.goWritePullDrop a) s [.hif, .out] (fun u => u.out = [] ∧ cacheLine u (a.toNat / 64) = none)) ∧
  (∀ (s : State) (a : W64) (e : Nat × BitVec 512), windowUp s = true →
    s.hif.stale.find? (fun e => e.1 == a.toNat / 64) = some e →
    Effects (.goWritePull a) s [.hif, .out] (fun u => u.out = [.pull (64 * (a.toNat / 64)) true e.2] ∧
      u.hif.stale.length + 1 = s.hif.stale.length ∧ u.hif.cache = s.hif.cache) ∧
    Effects (.goWritePullDrop a) s [.hif, .out] (fun u => u.out = [] ∧
      u.hif.stale.length + 1 = s.hif.stale.length ∧ u.hif.cache = s.hif.cache))

/-- While the device gives request credits: a read of a section's own block with the right to read, in slot 0, answers the
line's bytes as they are after every completed window write, with no cached state for MetaValue I, and outside slot 0 waits
for it (R366); cached state is given only where a rule allows it, in a directory entry that is new or was there, and a
request without room waits (R364, R374, R376). A line of a grove region answers poison to a cached request (R238). A read
that is not served answers poison. A write with the right to write joins the inbound buffer and is counted; every write
completes, and one that is not allowed is discarded (R364, R367, R453); on stepping A1 one to a resident page of a read-only
lower tier is aborted (R211). In slot 0 the drain moves lines, oldest first, from the buffer to memory, and changes no other
byte (R366, R367). MemInv frees the line's entry (Table 13.11). Without credits a request changes nothing (R376). -/
def Obligations.WindowRequestsAreServed : Prop :=
  (∀ (s : State) (hpa : W64) (a : Nat), windowUp s = true → noCredits s = false → windowAddr s hpa.toNat = some a →
    let bs := lineBytes s a
    let data : BitVec 512 := BitVec.ofNat 512 (leNat (bs.map (·.1)))
    (∀ t, targetOf s a = .own t → (getSect s t).winRd = true →
      (inSlot0 s = true → Effects (.memRd hpa .i) s [.sect, .tiers, .ward, .out] (fun u =>
        .memData data (bs.any (·.2)) .i ∈ u.out)) ∧
      (inSlot0 s = false → Effects (.memRd hpa .i) s [.hif, .out] (fun u =>
        u.out = [] ∧ u.hif = { s.hif with reads := s.hif.reads ++ [(a, .i)] })) ∧
      (∀ m : Meta, m ≠ .i →
        (inGrove s a = true → Effects (.memRd hpa m) s [.sect, .out] (fun u =>
          .memData (BitVec.ofNat 512 (2 ^ 512 - 1)) true .i ∈ u.out)) ∧
        (inGrove s a = false →
          (mayCache s t ((blockOf a).getD 0) (m == .a) = none →
            (inSlot0 s = true → Effects (.memRd hpa m) s [.sect, .tiers, .ward, .out] (fun u =>
              .memData data (bs.any (·.2)) .i ∈ u.out)) ∧
            (inSlot0 s = false → Effects (.memRd hpa m) s [.hif, .out] (fun u =>
              u.out = [] ∧ u.hif = { s.hif with reads := s.hif.reads ++ [(a, .i)] }))) ∧
          (∀ x, mayCache s t ((blockOf a).getD 0) (m == .a) = some x → dirEntry s (a / 64) = none →
            let granted : Meta := if x then .a else .s
            let dir := s.hif.dir ++ [⟨a / 64, t, x, false, false, false, false⟩]
            (dirRoom s t = true →
              (inSlot0 s = true → Effects (.memRd hpa m) s [.sect, .tiers, .hif, .ward, .out] (fun u =>
                .memData data (bs.any (·.2)) granted ∈ u.out ∧ u.hif = { s.hif with dir := dir })) ∧
              (inSlot0 s = false → Effects (.memRd hpa m) s [.hif, .out] (fun u =>
                u.out = [] ∧ u.hif = { s.hif with dir := dir, reads := s.hif.reads ++ [(a, granted)] }))) ∧
            (dirRoom s t = false → Effects (.memRd hpa m) s [.hif, .out] (fun u =>
              u.out = [] ∧ u.hif.waiting = s.hif.waiting ++ [⟨a / 64, t, m == .a⟩])))))) ∧
    ((∀ t, targetOf s a = .own t → (getSect s t).winRd = false) → ∀ m : Meta,
      Effects (.memRd hpa m) s [.sect, .ward, .out] (fun u =>
        .memData (BitVec.ofNat 512 (2 ^ 512 - 1)) true .i ∈ u.out)) ∧
    Effects (.memInv hpa) s [.sect, .tiers, .hif, .ward, .out] (fun u => .cmp ∈ u.out ∧
      (s.hif.waiting = [] → dirEntry u (a / 64) = none))) ∧
  (∀ (s : State) (hpa : W64) (a : Nat) (m : Meta) (data : BitVec 512) (en : W64) (poison : Bool) (c : Instr),
    windowUp s = true → noCredits s = false → windowAddr s hpa.toNat = some a → s.hif.inbound.length < 131072 →
    (c = .memWrPtl hpa m data en poison ∨ (c = .memWr hpa m data poison ∧ en = BitVec.ofNat 64 (2 ^ 64 - 1))) →
    (∀ t, targetOf s a = .own t → (getSect s t).winWr = true → inLogs s t a = false →
      (abortsOnA1 s a = false → Effects c s [.sect, .tiers, .hif, .ward, .trace, .out] (fun u => .cmp ∈ u.out ∧
        u.hif.inbound = s.hif.inbound ++ [⟨s.hif.inNum, a, data, en, poison⟩] ∧ u.hif.inNum = s.hif.inNum + 1 ∧
        (getTrace u t).wCount = (getTrace s t).wCount + 1)) ∧
      (abortsOnA1 s a = true → Effects c s [.out] (fun u => u.out = [.abort]))) ∧
    ((∀ t, targetOf s a = .own t → (getSect s t).winWr = false ∨ inLogs s t a = true) →
      Effects c s [.sect, .tiers, .hif, .ward, .out] (fun u => .cmp ∈ u.out ∧ u.hif.inbound = s.hif.inbound ∧
        u.hif.inNum = s.hif.inNum))) ∧
  (∀ (s : State) (hpa : W64) (m : Meta) (data : BitVec 512) (en : W64) (poison : Bool) (c : Instr),
    c ∈ [.memRd hpa m, .memInv hpa, .memWr hpa m data poison, .memWrPtl hpa m data en poison] → noCredits s = true →
    exec c s = .next (begin s)) ∧
  (∀ (s : State) (n : Nat), inSlot0 s = false → exec (.inboundBufferDrain n) s = .next (begin s)) ∧
  (∀ (s : State) (n : Nat), inSlot0 s = true → let go := (s.hif.inbound.filter (fun e => !dozing s (place s e.addr))).take n
    Effects (.inboundBufferDrain n) s [.tiers, .hif, .ward, .out] (fun u =>
      u.hif.inbound = s.hif.inbound.filter (fun e => !go.contains e) ∧
      MemFrame (fun x => ∃ e ∈ go, ∃ i, i < 64 ∧ (x = place s (e.addr + i) ∨ x = e.addr + i)) s u ∧
      ∀ e : Inbound, go = [e] → e.poison = false → e.addr % 64 = 0 → isPoison s e.addr = false →
        pageMoving s e.addr = false → (∀ i, i < 64 → inReadOnlyFrame s (e.addr + i) = false) →
        ∀ i, i < 64 → e.enable.getLsbD i = true →
          rd8 u.tiers.mem (place s (e.addr + i)) = (e.data.toNat >>> (8 * i)) % 256))

/-- In slot 0 a recall that is due, for an entry with no snoop unanswered and within the frame's share, leaves as a BISnpInv
and marks the entry (R376). Its BIRsp frees the entry, and with a MemWr of the line still on its way that write does; before
the BIRsp the write alone does not (R378). A BIRsp that is overdue is recorded once in HIF_ERR with KIND 5, which stepping A1
does not record, and the device keeps waiting (R378, R386). -/
def Obligations.RecallsGoOutAndComplete : Prop :=
  (∀ (s : State) (t : Sec) (line : Nat) (q : Bool) (e : DirEntry), inSlot0 s = true → windowUp s = true →
    s.hif.due = [(line, t, q)] → (∀ m ∈ s.tiers.moves, m.sec ≠ t) → dirEntry s line = some e → e.snp = false →
    recallShares s t (if q then 0 else 1) (if q then 1 else 0) = (if q then 0 else 1, if q then 1 else 0) →
    Effects (.backInvalidateRecall t) s [.hif, .budget, .out] (fun u => u.hif.due = [] ∧
      u.out = [.bisnp (hostAddr s line)] ∧ dirEntry u line = some { e with snp := true })) ∧
  (∀ (s : State) (hpa : W64) (a : Nat) (e : DirEntry) (crossing : Bool), windowUp s = true →
    windowAddr s hpa.toNat = some a → dirEntry s (a / 64) = some e →
    (e.snp = true → crossing = true → e.wrote = false → Effects (.birsp ⟨hpa, crossing⟩) s [.hif, .out] (fun u =>
      dirEntry u (a / 64) = some { e with rsp := true })) ∧
    (e.snp = true → crossing = false ∨ e.wrote = true →
      Effects (.birsp ⟨hpa, crossing⟩) s [.sect, .tiers, .hif, .ward, .out] (fun u =>
        s.hif.waiting = [] → dirEntry u (a / 64) = none)) ∧
    (e.snp = false → exec (.birsp ⟨hpa, crossing⟩) s = .next (begin s)) ∧
    (∀ (data : BitVec 512) (t : Sec), noCredits s = false → s.hif.inbound.length < 131072 → targetOf s a = .own t →
      (getSect s t).winWr = true → inLogs s t a = false → abortsOnA1 s a = false →
      Effects (.memWr hpa .i data false) s [.sect, .tiers, .hif, .ward, .trace, .out] (fun u =>
        (e.snp = true → e.rsp = false → dirEntry u (a / 64) = some { e with wrote := true }) ∧
        (e.snp = false ∨ e.rsp = true → s.hif.waiting = [] → dirEntry u (a / 64) = none)))) ∧
  (∀ (s : State) (hpa : W64) (a : Nat) (e : DirEntry), windowAddr s hpa.toNat = some a → dirEntry s (a / 64) = some e →
    e.snp = true → e.rsp = false → e.overdue = false → Effects (.birspOverdue hpa) s [.hif, .sect, .out] (fun u =>
      dirEntry u (a / 64) = some { e with overdue := true } ∧
      (isA1 s = false → (getSect u e.sec).hifErr = recWord (getSect s e.sec).hifErr (a / 256) 5 0) ∧
      (isA1 s = true → (getSect u e.sec).hifErr = (getSect s e.sec).hifErr)))

/-- Through its section's view, RING_CFG enables an idle pair that meets R389: it is ACTIVE and rung, with both rings
at their start and PHASE 1; clearing ENABLE stops an ACTIVE or ERROR pair, at once where nothing is outstanding, and
frees a LOST one; a write that R389 refuses sets REFUSED alone (R389, R390, R392). An accepted write of TRACE_RLCFG,
TRACE_RCCFG or TRACE_TCFG holds from then on, and one that enables starts the log, the comparison or the trace anew; that
one of TRACE_RLCFG leaves no entry waiting is the model's choice (log entry 36); one with an image loaded or a region out of
order sets REFUSED (R450, R457, R460). Through another view none of them
has an effect (R503). -/
def Obligations.DriversSetRingsAndTraces : Prop :=
  (∀ (s : State) (p : Pair) (data : W32) (c : Instr), let v : View := .sect (secOf p)
    c ∈ [.ringEnable v p data, .ringDisable v p data] → isScrubbing s (secOf p) = false →
    let r := getRing s p
    let x := { r with
      irqEn := data.getLsbD 30, cqSize := data.extractLsb' 20 4, sqSize := data.extractLsb' 16 4, refused := false }
    (data.getLsbD 31 = true → r.enable = false → coreUp s = true → enableOk s p x = true →
      Effects c s [.rings, .out] (fun u => (getRing u p).st = .active ∧ (getRing u p).enable = true ∧
        (getRing u p).rung = true ∧ (getRing u p).phase = true ∧ (getRing u p).sqHead = 0 ∧ (getRing u p).cqTail = 0 ∧
        (getRing u p).refused = false ∧ (getRing u p).sqSize = data.extractLsb' 16 4 ∧
        (getRing u p).cqSize = data.extractLsb' 20 4 ∧ (getRing u p).irqEn = data.getLsbD 30)) ∧
    (data.getLsbD 31 = true → r.enable = false → (coreUp s = false ∨ enableOk s p x = false) →
      Effects c s [.rings, .out] (fun u => getRing u p = { r with refused := true })) ∧
    (data.getLsbD 31 = false → ((x.cqSize = r.cqSize ∧ x.sqSize = r.sqSize) ∨ ringFree r = true) →
      Effects c s [.rings, .out] (fun u => (getRing u p).enable = false ∧ (getRing u p).refused = false ∧
        (getRing u p).st = (match r.st with
          | .active => if r.outstanding = 0 then .idle else .stopping
          | .error => if r.outstanding = 0 then .idle else .stopping
          | .lost => .idle
          | st => st))) ∧
    (¬ (x.cqSize = r.cqSize ∧ x.sqSize = r.sqSize) → ringFree r = false →
      Effects c s [.rings, .out] (fun u => getRing u p = { r with refused := true }))) ∧
  (∀ (s : State) (t : Sec) (part : Part) (data : W64), isScrubbing s t = false →
    let r := getTrace s t
    let rl := mergePart part (r.rlcfg &&& ~~~ refusedBit) data &&& 0xBF00FFFFFFF00000
    let rc := mergePart part (r.rccfg &&& 0x8000FFFFFFFFFFC0) data &&& 0x8000FFFFFFFFFFC0
    let tc := mergePart part (r.tcfg &&& ~~~ refusedBit) data &&& 0xBF07FFFFFFF00000
    (noImage s t = true → (bit64 rl 63 = false ∨ sizedOk s t rl r.tcfg = true) →
      Effects (.traceRlcfgWrite (.sect t) t part data) s [.trace, .out] (fun u => (getTrace u t).rlcfg = rl ∧
        (getTrace u t).logQ = [] ∧
        (bit64 rl 63 = true → (getTrace u t).rlSeq = 0 ∧ (getTrace u t).rlOff = 0 ∧ (getTrace u t).chain = 0))) ∧
    (noImage s t = true → isA1 s = false → (bit64 rc 63 = false ∨ refOk s t rc r.rclen.toNat = true) →
      Effects (.traceRccfgWrite (.sect t) t part data) s [.cmds, .recs, .trace, .out] (fun u =>
        (getTrace u t).rccfg &&& ~~~ 0x2000000000000000 = rc ∧
        (bit64 rc 63 = true → bit64 r.rccfg 63 = false → (getTrace u t).rccfg = rc ∧ (getTrace u t).cmpQ = [] ∧
          (getTrace u t).ordinals = []))) ∧
    (noImage s t = true → (bit64 tc 63 = false ∨ sizedOk s t tc r.rlcfg = true) →
      Effects (.traceTcfgWrite (.sect t) t part data) s [.trace, .out] (fun u => (getTrace u t).tcfg = tc ∧
        (bit64 tc 63 = true → (getTrace u t).written = 0 ∧ (getTrace u t).dropped = 0 ∧
          ∃ e, (getTrace u t).traceQ = [e] ∧ e.event = 0x3F ∧ e.ns = s.time.ns))) ∧
    (noImage s t = false → Effects (.traceRlcfgWrite (.sect t) t part data) s [.trace, .out] (fun u =>
      getTrace u t = { r with rlcfg := r.rlcfg ||| refusedBit }))) ∧
  (∀ (s : State) (v : View) (p : Pair) (t : Sec) (part : Part) (d : W32) (data : W64) (c : Instr),
    ((c = .ringEnable v p d ∨ c = .ringDisable v p d) ∧ v ≠ .sect (secOf p)) ∨
    ((c = .traceRlcfgWrite v t part data ∨ c = .traceRccfgWrite v t part data ∨ c = .traceTcfgWrite v t part data ∨
      c = .fabRccfgWrite v t d ∨ c = .sectRoleWrite v t d ∨ c = .pwrCdozeWrite v t d) ∧ v ≠ .sect t) →
    exec c s = .next (begin s))

/-- In an installer session with room in the audit log and the warden running: SECT_CTL gives a section the clusters
it may hold, and what leaves is scrubbed; a release of a quiet section leaves it SCRUBBING with its registers reset,
no slot, no block and its blocks being filled, and the end of the fills frees it; SECT_COMMONS gives slices,
SECT_OWNCMD blocks, and SECT_SLOT slots; a write that a rule refuses sets REFUSED (R66, R495, R498). The section's
driver sets its role with no image loaded, no open step and no GROVE command; a change into TRAIN ends the steps that
SEED began (R350). -/
def Obligations.SectionsTakeAndGiveUpResources : Prop :=
  (∀ (s : State), s.ward.running = true → s.ward.session = .installer → auditIsFull s = false →
    (∀ (t : Sec) (data : W32) (c : Instr), c ∈ [.sectCtlClustersWrite .card t data, .release .card t data] →
      let want : W16 := data.setWidth 16
      (data.getLsbD 28 = false → coreUp s = true → isScrubbing s t = false → clustersOk s t want = true →
        Effects c s [.sect, .slots, .nflag, .rings, .steps, .loadPages, .cores, .store, .slate, .commons, .acc, .colls,
          .tiers, .hif, .ward, .power, .trace, .out] (fun u => (getSect u t).clusters = want ∧ (getSect u t).ctlRefused
            = false ∧
          (getSect u t).st = (if want = 0 then .free else .assigned) ∧
          ∀ k : Fin 16, (getSect s t).clusters.getLsbD k.val = true → want.getLsbD k.val = false →
            .cluster k ∈ u.power.scrubs)) ∧
      (data.getLsbD 28 = true → coreUp s = true → isScrubbing s t = false → want = (getSect s t).clusters →
        releaseOk s t = true →
        Effects c s [.sect, .slots, .nflag, .rings, .steps, .loadPages, .cores, .store, .slate, .commons, .acc, .colls,
          .tiers, .hif, .ward, .power, .trace, .out] (fun u =>
          getSect u t = { sectReset with st := .scrubbing, fills := ownedBlocks s t } ∧
          (∀ path k, ownsSlot u t path k = false) ∧ (∀ b ∈ ownedBlocks s t, ownedBy u t b = false) ∧
          getSteps u t = stepsReset ∧ getTrace u t = traceReset ∧
          (∀ p, secOf p = t → (getRing u p).enable = false ∧ (getRing u p).sqBase = 0))) ∧
      ((coreUp s = false ∨ isScrubbing s t = true) → Effects c s [.sect, .ward, .out] (fun u =>
        getSect u t = { getSect s t with ctlRefused := true }))) ∧
    (∀ (t : Sec) (data : W32), coreUp s = true → isScrubbing s t = false →
      mayHold s t (getSect s t).commons data (fun u => (getSect s u).commons) = true →
      Effects (.sectCommonsWrite .card t data) s [.sect, .commons, .ward, .power, .out] (fun u => (getSect u t).commons
        = data)) ∧
    (∀ x : W64, (owncmdOk s x = true → Effects (.sectOwncmd .card true x) s [.ownRefused, .tiers, .hif, .ward, .out]
      (fun u => u.ownRefused = false ∧
        ∀ b, ownFirst x ≤ b → b < ownFirst x + ownCount x → blkOwner (getBlk u b) = ownNew x)) ∧
      (owncmdOk s x = false → Effects (.sectOwncmd .card true x) s [.ownRefused, .ward, .out] (fun u =>
        u.ownRefused = true))) ∧
    (∀ (off : BitVec 12) (wide : Bool) (data : W64),
      (eachEntry slotOne s (arrayBytes off.toNat wide data)).2 = false →
      Effects (.sectSlotWrite .card off wide data) s [.slots, .slotRefused, .ward, .out] (fun u => u.slotRefused = false ∧
        ∀ i, i < (if wide then 8 else 4) → (off.toNat + i) / 64 < 49 → (off.toNat + i) % 64 < 50 →
          slotEntry u ((off.toNat + i) / 64) ((off.toNat + i) % 64) &&& 0xF0 = data.extractLsb' (8 * i) 8 &&& 0xF0))) ∧
  (∀ (s : State) (t : Sec), isScrubbing s t = true → Effects (.sectionScrubDone t) s [.sect, .tiers, .ward, .out] (fun u =>
    (getSect u t).st = .free ∧ (getSect u t).fills = [])) ∧
  (∀ (s : State) (t : Sec) (data : W32), isScrubbing s t = false →
    (noImage s t = true → stepOpen (getSteps s t) = false → (getCmds s t).any isGroveOp = false →
      Effects (.sectRoleWrite (.sect t) t data) s [.sect, .steps, .out] (fun u => (getSect u t).role = data.setWidth 2 ∧
        (getSect u t).roleRefused = false ∧ (data.setWidth 2 = (0 : BitVec 2) → (getSect s t).role ≠ 0 →
          (getSteps u t).seeded = false ∧ (getSteps u t).next = none ∧ (getSteps u t).last = none))) ∧
    (noImage s t = false ∨ stepOpen (getSteps s t) = true ∨ (getCmds s t).any isGroveOp = true →
      Effects (.sectRoleWrite (.sect t) t data) s [.sect, .out] (fun u => (getSect u t).role = (getSect s t).role ∧
        (getSect u t).roleRefused = !isA1 s)))

/-- Through its section's view, a byte of MEM_BLKCFG that changes TYPE or USE of an own canopy block that no image
names, no page occupies and no fill holds takes effect, and the block is being filled; with no window write buffered
it reads zeros. A byte of GROVE_BLKMODE does so for the mode of a plain block in no use. An own block that a rule
protects keeps its setting, and REFUSED is set (R187, R237). The end of a fill leaves the block not busy, and frees a
section whose release waited for it alone (R498). An accepted write of MEM_MRGN holds; enabling a region leaves none
of its pages bound, pinned or resident (R200, R207). -/
def Obligations.BlocksAndRegionsAreConfigured : Prop :=
  (∀ (s : State) (t : Sec) (off : W16) (wide : Bool) (data : W64) (b : Nat), off.toNat ≤ b →
    b < off.toNat + (if wide then 8 else 4) → b < 8192 → ownedBy s t b = true →
    let new := data.extractLsb' (8 * (b - off.toNat)) 8 &&& 0x18
    new ≠ getBlk s b &&& 0x18 →
    (loadedNames s t b = false → blockHasPage s b = false → isBusy s b = false → isScrubbing s t = false →
      Effects (.memBlkcfgWrite (.sect t) off wide data) s [.sect, .tiers, .hif, .ward, .out] (fun u =>
        getBlk u b = ((getBlk s b &&& 0xE0) ||| new) ||| 4 ∧
        (s.hif.inbound = [] → ∀ a, blockOf a = some b → rd8 u.tiers.mem a = 0))) ∧
    (loadedNames s t b = true ∨ blockHasPage s b = true ∨ isBusy s b = true ∨ isScrubbing s t = true →
      Effects (.memBlkcfgWrite (.sect t) off wide data) s [.sect, .tiers, .hif, .ward, .out] (fun u => getBlk u b = getBlk s b ∧
        (getSect u t).cfgRefused = true))) ∧
  (∀ (s : State) (t : Sec) (off : BitVec 13) (wide : Bool) (data : W64) (b : Nat), off.toNat ≤ b →
    b < off.toNat + (if wide then 8 else 4) → b < 8192 → ownedBy s t b = true →
    let new := (data.extractLsb' (8 * (b - off.toNat)) 8).getLsbD 0
    new ≠ isPinnedBlk s b →
    (blkType (getBlk s b) = false → blkUse (getBlk s b) = false → loadedNames s t b = false → groveNames s t b = false →
      isBusy s b = false → isScrubbing s t = false →
      Effects (.groveBlkmodeWrite (.sect t) off wide data) s [.sect, .tiers, .hif, .ward, .out] (fun u => isPinnedBlk u b = new ∧
        gblkBusy u b = true ∧ getBlk u b = getBlk s b)) ∧
    (blkType (getBlk s b) = true ∨ blkUse (getBlk s b) = true ∨ loadedNames s t b = true ∨ groveNames s t b = true ∨
      isBusy s b = true ∨ isScrubbing s t = true →
      Effects (.groveBlkmodeWrite (.sect t) off wide data) s [.sect, .tiers, .hif, .ward, .out] (fun u =>
        getGblk u b = getGblk s b ∧ (getSect u t).pinRefused = true))) ∧
  (∀ (s : State) (b : Fin 40960), isBusy s b.val = true → Effects (.blockFillComplete b) s [.sect, .tiers, .ward, .out] (fun u =>
    isBusy u b.val = false ∧ blkOwner (getBlk u b.val) = blkOwner (getBlk s b.val) ∧
    isPinnedBlk u b.val = isPinnedBlk s b.val ∧
    ∀ t, b.val ∈ (getSect s t).fills → (∀ x ∈ (getSect s t).fills, x = b.val) → (getSect u t).st = .free)) ∧
  (∀ (s : State) (t : Sec) (i : Fin 16) (part : Part) (data : W64), isScrubbing s t = false →
    ¬ (isA1 s = true ∧ 8 ≤ i.val) →
    let old := getMrgn s t i.val
    let x := mergePart part old data &&& 0xF000FFFFFFFFFFFF
    let ok := if mrgnOn old then !mrgnOn x && regionEmpty s old else !mrgnOn x || mrgnOk s t i.val x
    (ok = true → Effects (.memMrgnWrite (.sect t) t i part data) s [.sect, .tiers, .ward, .out] (fun u => getMrgn u t i.val = x ∧
      (getSect u t).mrgnRefused = false ∧
      (mrgnOn x = true → ∀ g, mrgnBase x / pageBytes ≤ g → g < (mrgnBase x + mrgnBytes x) / pageBytes →
        getPage u g = pageReset))) ∧
    (ok = false → Effects (.memMrgnWrite (.sect t) t i part data) s [.sect, .out] (fun u =>
      getMrgn u t i.val = old ∧ (getSect u t).mrgnRefused = true)))

/-- In an installer session with room in the audit log and the warden running: FAB_LCTL sets the physical ID, which
changes only with no image loaded, and the link enables (R514); HIF_WINCTL sets a section's window rights, which are
withdrawn only with no directory entry (R365); HIF_DIR sets a quota within the card's 64 (R375); PWR_MDOZE dozes a
tier with no image loaded and starts waking one (R491, R492); PWR_HDR sets the headers (R493). AUDIT_ACK moves up to
an entry that exists (R526). A section's driver sets FAB_RCCFG with no image loaded and 1 to 8 hops (R321), and
PWR_CDOZE, where no doze begins while a RUN is admitted (R489). -/
def Obligations.LinkWindowAndPowerRegistersTakeEffect : Prop :=
  (∀ (s : State), s.ward.running = true → s.ward.session = .installer → auditIsFull s = false →
    (∀ (part : Part) (data : W64),
      let x := mergePart part (w64 (s.lctlPhys.toNat * 2 ^ 47 + s.lctlEnable.toNat)) data
      (x.extractLsb' 47 17 = s.lctlPhys ∨ noImages s = true → Effects (.fabLctlWrite .card part data) s [.links,
        .lctlPhys, .lctlEnable, .lctlRefused, .ward, .out]
        (fun u => u.lctlPhys = x.extractLsb' 47 17 ∧ u.lctlEnable = x.extractLsb' 0 36 ∧ u.lctlRefused = false ∧
          ∀ l : Link, s.lctlEnable.getLsbD l.val = true → x.getLsbD l.val = false → linkState s l.val ≠ lsOff →
            linkState u l.val = lsDisabled)) ∧
      (x.extractLsb' 47 17 ≠ s.lctlPhys → noImages s = false →
        Effects (.fabLctlWrite .card part data) s [.lctlRefused, .ward, .out] (fun u => u.lctlRefused = true))) ∧
    (∀ (t : Sec) (data : W32), isScrubbing s t = false →
      let clears := ((getSect s t).winRd && !data.getLsbD 0) || ((getSect s t).winWr && !data.getLsbD 1)
      (clears = false ∨ entriesOf s t = 0 → Effects (.hifWinctlWrite .card t data) s [.sect, .tiers, .hif, .ward, .out] (fun u =>
        (getSect u t).winRd = data.getLsbD 0 ∧ (getSect u t).winWr = data.getLsbD 1 ∧ (getSect u t).winRefused = false)) ∧
      (clears = true → entriesOf s t ≠ 0 → Effects (.hifWinctlWrite .card t data) s [.sect, .ward, .out] (fun u =>
        getSect u t = { getSect s t with winRefused := true }))) ∧
    (∀ (t : Sec) (part : Part) (data : W64), isScrubbing s t = false → isA1 s = false →
      let q := bits (mergePart part (w64 (getSect s t).quota.toNat) data) 0 7
      (otherQuota s t + q ≤ 64 → Effects (.hifDirWrite .card t part data) s [.sect, .tiers, .hif, .ward, .out] (fun u =>
        (getSect u t).quota.toNat = q ∧ (getSect u t).quotaRefused = false)) ∧
      (64 < otherQuota s t + q → Effects (.hifDirWrite .card t part data) s [.sect, .ward, .out] (fun u =>
        getSect u t = { getSect s t with quotaRefused := true }))) ∧
    (∀ data : W32,
      (noImages s = true → logsOff s = true → Effects (.pwrMdozeWrite .card data) s [.power, .ward, .out] (fun u =>
        u.power.mdozeCanopy = data.getLsbD 0 ∧ u.power.mdozeBridge = data.getLsbD 1 ∧ u.power.mdozeRefused = false ∧
        (s.power.mdozeCanopy = true → data.getLsbD 0 = false → u.power.waking.getLsbD 0 = true))) ∧
      (noImages s = false → data.getLsbD 0 = true → s.power.mdozeCanopy = false →
        Effects (.pwrMdozeWrite .card data) s [.power, .ward, .out] (fun u =>
          u.power = { s.power with mdozeRefused := true })) ∧
      Effects (.pwrHdrWrite .card data) s [.links, .headers, .ward, .power, .out] (fun u => ∀ h : Fin 9, data.getLsbD h.val =
        false →
        headerOnBit u h.val = false))) ∧
  (∀ (s : State) (part : Part) (data : W64), s.ward.running = true → s.ward.session = .installer →
    let x := mergePart part s.ward.auditAck data
    (ackOk s x = true → Effects (.auditAckWrite .card part data) s [.ward, .out] (fun u => u.ward.auditAck = x)) ∧
    (ackOk s x = false → Effects (.auditAckWrite .card part data) s [.ward, .out] (fun u =>
      u.ward.auditAck = s.ward.auditAck ∧ u.ward.result = 4))) ∧
  (∀ (s : State) (t : Sec) (data : W32), isScrubbing s t = false →
    (noImage s t = true → 1 ≤ (data.extractLsb' 12 4).toNat → (data.extractLsb' 12 4).toNat ≤ 8 →
      Effects (.fabRccfgWrite (.sect t) t data) s [.sect, .out] (fun u => (getSect u t).rcCfg = data &&& 0xFFFFF000)) ∧
    (noImage s t = false ∨ (data.extractLsb' 12 4).toNat = 0 ∨ 8 < (data.extractLsb' 12 4).toNat →
      Effects (.fabRccfgWrite (.sect t) t data) s [.sect, .out] (fun u =>
        (getSect u t).rcCfg = (getSect s t).rcCfg ||| 1)) ∧
    (isA1 s = false → Effects (.pwrCdozeWrite (.sect t) t data) s [.sect, .power, .out] (fun u =>
      let want : W16 := data.setWidth 16 &&& (getSect s t).clusters
      let no := decide (want &&& ~~~ (getSect s t).cdoze ≠ 0) && (getCmds s t).any isRunOp
      (getSect u t).cdozeRefused = no ∧
      (getSect u t).cdoze = if no then want &&& (getSect s t).cdoze else want)))

/-- In an installer session with room in the audit log and the warden running, a write of EPOCH goes into the holding
latch; a write of PERIOD with no section's image loaded and 2 to 100 µs puts both into force at once, with the frame
that they give; any other write of PERIOD leaves both unchanged and on stepping B0 sets REFUSED. After reset the
period is 12 µs and the epoch 0. What other cards carry is not checked: no command reads another card's bell but a
MGMT flit, which sets BELL_DIFF alone. -/
def Obligations.BellChangesOnlyWithoutImages : Prop :=
  (∀ (s : State) (data : W64), s.ward.running = true → s.ward.session = .installer → auditIsFull s = false →
    Effects (.timeBellEpochWrite .card data) s [.time, .ward, .out] (fun u => u.time = { s.time with latch := data }) ∧
    (noImages s = true → 2 ≤ bits data 0 7 → bits data 0 7 ≤ 100 →
      Effects (.timeBellPeriodWrite .card data) s [.time, .ward, .out] (fun u => u.time.period.toNat = bits data 0 7 ∧
        u.time.epoch = s.time.latch ∧ u.time.bellRefused = false ∧ u.time.frame = frameAt u ∧
        u.time.guard = guardAt u ∧ u.time.ns = s.time.ns ∧ u.time.lock = s.time.lock)) ∧
    (isA1 s = false → (noImages s = false ∨ bits data 0 7 < 2 ∨ 100 < bits data 0 7) →
      Effects (.timeBellPeriodWrite .card data) s [.time, .ward, .out] (fun u => u.time.period = s.time.period ∧
        u.time.epoch = s.time.epoch ∧ u.time.bellRefused = true ∧ u.time.frame = s.time.frame))) ∧
  State.reset.time.period = 12 ∧ State.reset.time.epoch = 0

/-- Through the section's view (the card view for ERR_DEPART), writing 1 to VALID of each of the ten record registers
returns every field of it to its reset value; writing 0 changes nothing (R545). W1C bits of ERR_NFLAG clear the flags
named (R49, R50). In an installer session TIME_CTRL sets source, domain and port, and a change of source or domain
leads to FREE (R517). A read of TIME_NOW latches the fraction and answers the time (R518), which a read does not carry past
the next event of the bell, nor at all after a power failure (log entry 7, R443). A register of the installer's without a
session is not written: NO_SESSION is set and the write is counted (R482); once the warden has stopped, no such write has an
effect (R468). A BAR0 write at a
register's address does what that register's command does; one that is not aligned is aborted (R505, R506). -/
def Obligations.RecordsClearAndRegistersMap : Prop :=
  (∀ (s : State) (v : View) (r : BitVec 4) (t : Sec), exec (.recordClear v r t false) s = .next (begin s)) ∧
  (∀ (s : State) (t : Sec) (r : BitVec 4), isScrubbing s t = false → r.toNat < 10 → r ≠ 7 →
    Effects (.recordClear (.sect t) r t true) s [.sect, .trace, .out] (fun u =>
      let x := getSect s t
      let y := getSect u t
      y = (if r = 0 then { x with errOvr := 0xFF0FF000, ovrCount := 0 } else if r = 1 then { x with errXpnd :=
        0xFF000000 }
        else if r = 2 then { x with errMem := 0 } else if r = 3 then { x with groveErr := 0 }
        else if r = 4 then { x with hifErr := 0 } else if r = 5 then { x with errStep := 0 }
        else if r = 6 then { x with errLoss := 0 } else if r = 8 then { x with rcRes := 0 } else x) ∧
      (getTrace u t).div = if r = 9 then 0x0F000000 else (getTrace s t).div)) ∧
  (∀ (s : State) (t : Sec), Effects (.recordClear .card 7 t true) s [.ward, .out] (fun u =>
    u.ward = { s.ward with depart := 0 })) ∧
  (∀ (s : State) (t : Sec) (n : Fin 556) (mask : BitVec 5), isScrubbing s t = false →
    Effects (.errNflagClear (.sect t) t n mask) s [.nflag, .out] (fun u => sget 0 u.nflag (nflagKey t n.val) =
      nflagClear (sget 0 s.nflag (nflagKey t n.val)) mask)) ∧
  (∀ (s : State) (part : Part) (data : W64), s.ward.running = true → s.ward.session = .installer →
    auditIsFull s = false →
    let x := mergePart part (timeCtrlWord s) data
    bits x 0 2 ≠ 3 → Effects (.timeCtrlWrite .card part data) s [.time, .cmds, .ward, .trace, .out] (fun u =>
      u.time.src = x.extractLsb' 0 2 ∧ u.time.domain = x.extractLsb' 40 8 ∧ u.time.hbPort = x.extractLsb' 48 16 ∧
      (x.extractLsb' 0 2 ≠ s.time.src ∨ x.extractLsb' 40 8 ≠ s.time.domain → u.time.lock = .free) ∧
      (x.extractLsb' 0 2 = s.time.src → x.extractLsb' 40 8 = s.time.domain → u.time.lock = s.time.lock))) ∧
  (∀ (s : State) (ns : W64) (frac : W32),
    let x := s.time.ns.toNat * 2 ^ 32 + s.time.frac.toNat + ns.toNat * 2 ^ 32 + frac.toNat
    Effects (.timeNowRead ns frac) s
      (if s.time.lock = .holdover then [.time, .cmds, .ward, .trace, .out] else [.time, .out]) (fun u =>
    u.out.getLast? = some (.time u.time.ns u.time.frac) ∧ u.time.fracLatch = u.time.frac ∧ u.time.frame = s.time.frame ∧
    (x / 2 ^ 32 < bellNs s → counterDead s = false → u.time.ns = w64 (x / 2 ^ 32) ∧ u.time.frac = w32 (x % 2 ^ 32)) ∧
    (bellNs s ≤ x / 2 ^ 32 ∨ counterDead s = true → u.time.ns = s.time.ns ∧ u.time.frac = s.time.frac))) ∧
  (∀ (s : State) (t : Sec) (d : W32) (x : W64) (part : Part) (wide : Bool) (o : BitVec 12) (c : Instr),
    c ∈ [.timeBellEpochWrite .card x, .timeBellPeriodWrite .card x, .timeCtrlWrite .card part x,
      .sectCtlClustersWrite .card t d, .release .card t d, .sectCommonsWrite .card t d, .sectOwncmd .card true x,
      .sectSlotWrite .card o wide x, .fabLctlWrite .card part x, .hifWinctlWrite .card t d, .pwrMdozeWrite .card d,
      .pwrHdrWrite .card d] →
    (s.ward.running = true → s.ward.session ≠ .installer → Effects c s [.ward, .out] (fun u =>
      u.ward = { s.ward with noSession := true, denied := satInc s.ward.denied })) ∧
    (s.ward.running = false → exec c s = .next (begin s))) ∧
  (∀ (s : State) (v : View) (t : Sec) (p : Pair) (d : W32) (x : W64),
    let base : Nat := match v with | .card => 0 | .sect u => 0x1000000 + 0x400000 * u.val
    let at4 (off : Nat) : Instr := .registerWrite (BitVec.ofNat 25 (base + off)) false (d.setWidth 64)
    let at8 (off : Nat) : Instr := .registerWrite (BitVec.ofNat 25 (base + off)) true x
    exec (at4 (0xA0000 + 8 * t.val)) s = exec (.sectCtlClustersWrite v t d) s ∧
    exec (at4 (0xA0020 + 8 * t.val)) s = exec (.sectCommonsWrite v t d) s ∧
    exec (at4 (0xA0040 + 8 * t.val)) s = exec (.sectRoleWrite v t d) s ∧
    exec (at4 (0x10010 + 8 * t.val)) s = exec (.hifWinctlWrite v t d) s ∧
    exec (at4 (0x20018 + 64 * p.val)) s = exec (.ringEnable v p d) s ∧
    exec (at4 (0x50900 + 8 * t.val)) s = exec (.fabRccfgWrite v t d) s ∧
    exec (at4 0x90008) s = exec (.pwrMdozeWrite v d) s ∧
    exec (at8 0xA0080) s = exec (.sectOwncmd v true x) s ∧
    exec (at8 0x50800) s = exec (.fabLctlWrite v .whole x) s ∧
    exec (at8 0x60038) s = exec (.timeBellPeriodWrite v x) s ∧
    exec (at8 (0x80000 + 0x100 * t.val)) s = exec (.traceRlcfgWrite v t .whole x) s) ∧
  (∀ (s : State) (t : Sec) (n : Fin 556) (mask : BitVec 5), isScrubbing s t = false →
    Effects (.registerWrite (BitVec.ofNat 25 (0x1070000 + 0x401000 * t.val + 4 * n.val)) false (mask.setWidth 64)) s
      [.nflag, .out] (fun u => sget 0 u.nflag (nflagKey t n.val) = nflagClear (sget 0 s.nflag (nflagKey t n.val)) mask)) ∧
  (∀ (s : State) (a : BitVec 25) (wide : Bool) (x : W64), a.toNat % (if wide then 8 else 4) ≠ 0 →
    Effects (.registerWrite a wide x) s [.out] (fun u => u.out = [.abort, .aer]))

/-- From MEASURE on, through the card view and with no mailbox command under way: CHALLENGE makes a nonce for the role
that it names; SUBMIT spends it, and opens the session of the first enrolled key that verifies the signature, or
answers NO_KEY, BAD_SIG or NO_NONCE; CLOSE ends an open session; DRAIN with a session makes a card in service suspect,
also where the audit log refuses further role actions; RETURN with an installer session and room in the log returns the card
to service (R424, R480, R486, R525). Where not even the entries kept for the device have room, SUBMIT, CLOSE and DRAIN answer
LOG_FULL, which is the model's choice (log entry 35). 15 minutes without a request end a session. Through a section's view,
before MEASURE or with the warden halted nothing happens; while a command is under way the answer is BUSY. -/
def Obligations.WardenSessionsOpenAndAct : Prop :=
  (∀ s : State, measured s = true → s.ward.running = true → s.ward.busy = false →
    (∀ role : BitVec 2,
      (role = 1 ∨ role = 2 → Effects (.challenge .card role) s [.ward, .fresh, .out] (fun u =>
        u.ward = { s.ward with nonce := Config.nonce s.fresh, nonceRole := some role, result := 0 } ∧
        u.fresh = s.fresh + 1)) ∧
      (¬ (role = 1 ∨ role = 2) → Effects (.challenge .card role) s [.ward, .out] (fun u =>
        u.ward = { s.ward with result := 4 }))) ∧
    Effects (.submit .card) s [.ward, .out] (fun u => u.ward.nonceRole = none ∧ u.ward.card = s.ward.card ∧
      match s.ward.nonceRole with
      | none => u.ward = { s.ward with result := 6 }
      | some role =>
        if roleKeys s role = [] then u.ward = { s.ward with nonceRole := none, denied := satInc s.ward.denied, result
          := 2 }
        else match (roleKeys s role).find? (fun e => verifies s role e.2) with
          | none => u.ward = { s.ward with nonceRole := none, denied := satInc s.ward.denied, result := 1 }
          | some e =>
            if auditRoom s then u.ward.session = e.1 ∧ u.ward.result = 0 ∧ u.ward.denied = s.ward.denied
            else u.ward = { s.ward with nonceRole := none, result := 5 }) ∧
    (s.ward.session = .none → Effects (.close .card) s [.ward, .out] (fun u =>
      u.ward = { s.ward with denied := satInc s.ward.denied, result := 4 })) ∧
    (s.ward.session ≠ .none → Effects (.close .card) s [.ward, .out] (fun u =>
      if auditRoom s then u.ward.session = .none ∧ u.ward.result = 0 ∧ u.ward.card = s.ward.card
      else u.ward = { s.ward with result := 5 })) ∧
    (s.ward.session ≠ .none → auditRoom s = false → Effects (.mailboxDrain .card) s [.ward, .out] (fun u =>
      u.ward = { s.ward with result := 5 })) ∧
    (s.ward.session = .none → Effects (.mailboxDrain .card) s [.ward, .out] (fun u =>
      u.ward = { s.ward with denied := satInc s.ward.denied, result := 4 })) ∧
    (s.ward.session ≠ .none → auditRoom s = true → Effects (.mailboxDrain .card) s [.ward, .out] (fun u =>
      u.ward.result = 0 ∧
      u.ward.session = s.ward.session ∧ (s.ward.card ≠ .service → u.ward.card = s.ward.card) ∧
      (s.ward.card = .service → u.ward.card = .suspect ∧ u.ward.cause = causeOperator ∧ u.ward.drain = .guard))) ∧
    Effects (.mailboxReturn .card) s [.ward, .out] (fun u => u.ward.session = s.ward.session ∧
      match s.ward.session with
      | .none => u.ward = { s.ward with denied := satInc s.ward.denied, result := 4 }
      | .operator _ => u.ward.result = 4 ∧ u.ward.card = s.ward.card
      | .installer =>
        if auditIsFull s then u.ward.result = 5 ∧ u.ward.card = s.ward.card
        else u.ward.result = 0 ∧ u.ward.card = .service ∧ u.ward.cause = 0 ∧ u.ward.frame = 0 ∧ u.ward.drain = .none)) ∧
  (∀ s : State, Effects .sessionTimeout s [.ward, .out] (fun u => u.ward.session = .none ∧ u.ward.card = s.ward.card ∧
    (s.ward.session = .none → u.ward = s.ward))) ∧
  (∀ (s : State) (v : View) (role : BitVec 2) (c : Instr),
    c ∈ [.challenge v role, .submit v, .close v, .mailboxDrain v, .mailboxReturn v] →
    (v ≠ .card ∨ measured s = false ∨ s.ward.running = false → exec c s = .next (begin s)) ∧
    (v = .card → measured s = true → s.ward.running = true → s.ward.busy = true →
      Effects c s [.ward, .out] (fun u => u.ward = { s.ward with result := 3 })))

/-- From MEASURE on: a client whose key is not enrolled is answered 403 and counted, whatever it asks for; one whose role may
not do an action changes nothing but the logs; a permitted action that the warden serves, with room in the audit log, is
answered 200; a status read then shows the readings of Table 17.1 and ERR_CARD, a subscription is taken or ended, and the
return to service, the drain and the acknowledgement of an export take effect (R425, R469, R475, R476, R481, R486). A key
request that the right key has signed enrols, replaces or revokes; one that it has not signed changes no key (R479). A
package for this card that the maker has signed, with a version no lower than the minimum, is staged by the installer
(R487). An event is no longer sent to a subscriber that has received it, and one given up after 60 s stays in the log
service (R476). PLDM reads the card's state and its sensors and refuses to set (R477). The codes of the statement that are
not 403, the numbers of the PLDM sensors and what the warden reads in a package are the model's choices (log entries 10,
35 and 42). -/
def Obligations.RedfishKeysFirmwareAndEvents : Prop :=
  (∀ s : State, s.ward.running = true → measured s = true →
    (∀ (who : Client) (a : Action) (seq : W64) (ver : BitVec 6) (names : Bool) (package : Package)
      (c : Instr), c ∈ [.redfishRequest who a, .redfishDrain who, .exportAcknowledgement who seq, .firmwareStage who ver
        names package] →
      clientKey s who = none → Effects c s [.ward, .out] (fun u => u.out = [.http 403] ∧
        u.ward = { s.ward with redfishFail := s.ward.redfishFail + 1 })) ∧
    (∀ (who : Client) (a : Action), clientKey s who ≠ none →
      (mayDo s who a = false → Effects (.redfishRequest who a) s [.ward, .out] (fun u =>
        u.out.getLast? = some (.http 403) ∧ u.ward.card = s.ward.card ∧ u.ward.session = s.ward.session)) ∧
      (mayDo s who a = true → isServed a = true → auditRoom s = true → (auditIsFull s = false ∨ a = .readAudit) →
        (∀ h x, a ≠ .switchDomains h x) → a ≠ .eventReceived → Effects (.redfishRequest who a) s [.ward, .out] (fun u =>
          u.out.getLast? = some (.http 200) ∧
          (a = .readStatus → .redfish (.card (cardView s)) ∈ u.out) ∧
          (∀ on, a = .subscribe on → (who ∈ u.ward.subs ↔ on = true)) ∧
          (a = .returnToService → u.ward.card = .service ∧ u.ward.cause = 0 ∧ u.ward.drain = .none) ∧
          (a ≠ .returnToService → u.ward.card = s.ward.card)))) ∧
    (∀ (who : Client) (before after : List Event) (e : Event), clientKey s who ≠ none →
      s.ward.events = before ++ e :: after → (∀ x ∈ before, who ∉ x.dests) → who ∈ e.dests →
      Effects (.redfishRequest who .eventReceived) s [.ward, .out] (fun u => u.ward = { s.ward with events :=
        before ++ (if ∃ x ∈ e.dests, x ≠ who then { e with dests := e.dests.filter (· != who) } :: after else after) })) ∧
    (∀ x : W32, s.ward.installer ≠ none → auditIsFull s = false →
      Effects (.redfishRequest .installer (.switchDomains true x)) s [.links, .headers, .ward, .power, .out] (fun u =>
        u.out.getLast? = some (.http 200) ∧ ∀ h : Fin 9, x.getLsbD h.val = false → headerOnBit u h.val = false)) ∧
    (∀ who : Client, clientKey s who ≠ none → who ≠ .maker →
      (auditRoom s = true → Effects (.redfishDrain who) s [.ward, .out] (fun u =>
        u.out.getLast? = some (.http 200) ∧ (s.ward.card ≠ .service → u.ward.card = s.ward.card) ∧
        (s.ward.card = .service → u.ward.card = .suspect ∧ u.ward.cause = causeOperator ∧ u.ward.drain = .guard))) ∧
      (auditRoom s = false → Effects (.redfishDrain who) s [.out] (fun u =>
        u.out = [.http (Config.httpRefusal 1)]))) ∧
    (∀ (who : Client) (seq : W64), clientKey s who ≠ none → Effects (.exportAcknowledgement who seq) s [.ward, .out]
      (fun u => u.ward.auditAck = if who = .installer ∧ ackOk s seq = true then seq else s.ward.auditAck)) ∧
    (∀ (m : Bool) (r sig : BitVec 384) (e : Enrol),
      (enrolSigner s m e = none → Effects (.keyEnrolment m r sig e) s [.ward, .out] (fun u => u.out = [.http 403] ∧
        u.ward = { s.ward with redfishFail := s.ward.redfishFail + 1 })) ∧
      (∀ k role, enrolSigner s m e = some (k, role) → auditIsFull s = false →
        Effects (.keyEnrolment m r sig e) s [.ward, .out] (fun u =>
          if ecdsaVerify k.x.toNat k.y.toNat r.toNat sig.toNat (Config.enrolMessage (enrolCode e)) then
            match e with
            | .installerKey x y => u.ward.installer = some ⟨x, y, 0⟩ ∧ u.ward.operators = s.ward.operators ∧
                u.ward.session = (if s.ward.session = .installer then .none else s.ward.session)
            | .operatorKey i x y mask => operatorKey u i = some ⟨x, y, mask⟩ ∧ u.ward.installer = s.ward.installer ∧
                (∀ j, j ≠ i → operatorKey u j = operatorKey s j) ∧
                u.ward.session = (if s.ward.session = .operator i then .none else s.ward.session)
            | .revoke i => operatorKey u i = none ∧ u.ward.installer = s.ward.installer ∧
                (∀ j, j ≠ i → operatorKey u j = operatorKey s j) ∧
                u.ward.session = (if s.ward.session = .operator i then .none else s.ward.session)
          else u.ward = { s.ward with redfishFail := s.ward.redfishFail + 1 } ∧ u.out = [.http 403]))) ∧
    (∀ (ver : BitVec 6) (names : Bool) (package : Package), s.ward.installer ≠ none →
      auditIsFull s = false →
      Effects (.firmwareStage .installer ver names package) s [.id, .ward, .out] (fun u =>
        if packageSigned s package = true ∧ names = true ∧ s.id.minSvn.toNat ≤ ver.toNat then
          u.ward.staged = some (ver.setWidth 8) ∧ u.id.stagedSvn = ver.setWidth 8 ∧ u.id.activeSvn = s.id.activeSvn ∧
          u.id.minSvn = s.id.minSvn ∧ u.id.bank = s.id.bank
        else u.id = s.id ∧ u.ward.staged = s.ward.staged))) ∧
  (∀ s : State, Effects .eventRetryExpiry s [.ward, .out] (fun u =>
    match s.ward.events with
    | [] => u.ward = s.ward
    | e :: es => u.ward = { s.ward with events := es, logSvc := s.ward.logSvc ++ [e] })) ∧
  (∀ s : State, s.ward.running = true →
    Effects (.pldmRequest .cardState) s [.out] (fun u =>
      u.out = [.pldm (BitVec.ofNat 64 (cardCode s.ward.card * 16 + s.ward.cause.toNat))]) ∧
    (∀ x : BitVec 64, ∀ k, (k = 0 ∧ x = s.power.vin.setWidth 64) ∨
        (∃ i, i < 40 ∧ k = 1 + i ∧ x = (sget 0 s.power.rail i).setWidth 64) ∨
        (∃ i, i < 16 ∧ k = 41 + i ∧ x = (sget 0 s.power.temp i).setWidth 64) ∨
        (∃ i, i < 36 ∧ k = 57 + i ∧ x = (getLink s i).delay.setWidth 64) →
      Effects (.pldmRequest (.sensor k)) s [.out] (fun u => u.out = [.pldm x])) ∧
    Effects (.pldmRequest .set) s [.out] (fun u => u.out = [.pldmRefused]))

/-- PRESENT held for 10 ms leaves the registers at their reset values and keeps identity, keys, audit log, card state
in flash, physical ID and wear. BOOT starts the warden and the time counter, and takes the bank that verifies; a
staged package becomes active. MEASURE restores the card's state from flash and takes the first readings: an input
outside 38 to 66 V is a power failure. MEMORY leaves all memory zero; CORE raises the minimum version, and lets a
suspect card drain; LINKS turns the links of the headers in use to DETECT and switches off clusters that no section holds. A
stage that fails leaves the card suspect and goes no further (R487, R538, R539, R541, R542, R543). An assembly wakes every
dozing cluster; it completes at a tick, with no RUN running and no core away, after which unassigned clusters doze again; one
that times out records the cores that had not arrived and makes the card suspect, and one that waits for a running RUN does
not time out (R84, R425, R489, R490). Which core is recorded where none is away is free (log entry 10). -/
def Obligations.StartUpPassesItsStages : Prop :=
  (∀ (s : State) (ms : Nat), (s.ward.stage = .off ∨ s.ward.stage = .halted) →
    (10 ≤ ms → Effects (.present ms) s [.time, .sect, .slots, .slotsNow, .slotRefused, .ownRefused, .nflag, .rings, .cmds, .recs,
      .steps, .images, .loadPages, .cores, .store, .slate, .commons, .acc, .colls, .tiers, .links, .lctlEnable,
        .lctlRefused, .headers, .hif, .ward, .power, .trace, .budget, .out] (fun u => u.ward.stage = .present ∧
          u.ward.running = false ∧
      u.time = State.reset.time ∧ u.sect = State.reset.sect ∧ u.rings = [] ∧ u.cmds = State.reset.cmds ∧
      u.images = State.reset.images ∧ u.slots = [] ∧ u.slotsNow = [] ∧ u.tiers = State.reset.tiers ∧ u.hif = State.reset.hif ∧
      u.power = State.reset.power ∧ u.links = [] ∧ u.trace = State.reset.trace ∧ u.steps = State.reset.steps ∧
      u.ward.maker = s.ward.maker ∧ u.ward.installer = s.ward.installer ∧ u.ward.operators = s.ward.operators ∧
      u.ward.audit = s.ward.audit ∧ u.ward.auditAck = s.ward.auditAck ∧ u.ward.flashCard = s.ward.flashCard ∧
      u.ward.flashCause = s.ward.flashCause ∧ u.ward.staged = s.ward.staged ∧ u.ward.session = .none)) ∧
    (ms < 10 → exec (.present ms) s = .next (begin s))) ∧
  (∀ s : State, s.ward.stage = .present →
    (s.ward.staged = none → Effects (.boot true false) s [.time, .ward, .out] (fun u => u.ward.stage = .boot ∧
      u.ward.running = true ∧ u.time = State.reset.time)) ∧
    (∀ v, s.ward.staged = some v → Effects (.boot true true) s [.id, .time, .ward, .out] (fun u =>
      u.ward.stage = .boot ∧ u.ward.running = true ∧ u.ward.staged = none ∧ u.id.activeSvn = v ∧ u.id.stagedSvn = 0xFF ∧
      u.id.otherSvn = s.id.activeSvn ∧ u.id.bank = !s.id.bank)) ∧
    (s.ward.staged = none → Effects (.boot false true) s [.id, .time, .ward, .out] (fun u => u.ward.stage = .boot ∧
      u.ward.running = true ∧ u.id = { s.id with
        bank := !s.id.bank, activeSvn := s.id.otherSvn, otherSvn := s.id.activeSvn })) ∧
    Effects (.boot false false) s [.ward, .out] (fun u => u.ward = { s.ward with stage := .failed })) ∧
  (∀ (s : State) (mv inlet outlet : W16), s.ward.stage = .boot →
    let hot : Prop := inlet = 0x8000 ∨ tempLimit 14 < inlet.toInt ∨ outlet = 0x8000 ∨ tempLimit 15 < outlet.toInt
    (38000 ≤ mv.toNat → mv.toNat ≤ 60000 → ¬ hot → Effects (.measure mv inlet outlet) s [.ward, .power, .out] (fun u =>
      u.ward = { s.ward with card := s.ward.flashCard, cause := s.ward.flashCause, stage := .measure } ∧
      u.power.vin = mv ∧ sget 0 u.power.temp 14 = inlet ∧ sget 0 u.power.temp 15 = outlet)) ∧
    (38000 ≤ mv.toNat → mv.toNat ≤ 66000 → (60000 < mv.toNat ∨ hot) → s.ward.running = true →
      Effects (.measure mv inlet outlet) s [.ward, .power, .out] (fun u => u.ward.stage = .measure ∧
        (s.ward.flashCard = .service → u.ward.card = .suspect ∧ u.ward.cause = causeThermal ∧ u.ward.drain = .guard) ∧
        (s.ward.flashCard ≠ .service → u.ward.card = s.ward.flashCard ∧ u.ward.cause = s.ward.flashCause))) ∧
    (mv.toNat < 38000 ∨ 66000 < mv.toNat → Effects (.measure mv inlet outlet) s [.time, .rings, .cmds, .recs, .cores, .store,
      .slate, .commons, .acc, .colls, .tiers, .links, .hif, .ward, .power, .out] (fun u =>
      u.ward.stage = .halted ∧ u.power.on = 0))) ∧
  (∀ (s : State) (ok : Bool), s.ward.stage = .measure → Effects (.memory ok) s [.tiers, .ward, .power, .out] (fun u =>
    (∀ a, rd8 u.tiers.mem a = 0) ∧ u.tiers.poison = [] ∧ u.tiers.blk = s.tiers.blk ∧
    (∀ d, 16 ≤ d → d < 28 → u.power.on.getLsbD d = true) ∧
    (ok = true → u.ward = { s.ward with stage := .memory }) ∧
    (ok = false → u.ward.stage = .failed ∧
      (s.ward.card = .service → u.ward.card = .suspect ∧ u.ward.cause = causeSelftest)))) ∧
  (∀ s : State, s.ward.stage = .memory →
    Effects (.core true) s [.id, .ward, .power, .out] (fun u =>
      u.id = { s.id with minSvn := if s.id.minSvn.toNat < s.id.activeSvn.toNat then s.id.activeSvn else s.id.minSvn } ∧
      u.ward.stage = .core ∧ u.ward.drain = (if s.ward.card = .suspect ∧ s.ward.drain = .none then .armed else
        s.ward.drain) ∧
      ∀ k d, clusterDomain s k = some d → k < 16 → u.power.on.getLsbD d = true) ∧
    Effects (.core false) s [.ward, .power, .out] (fun u => u.ward.stage = .failed ∧
      (s.ward.card = .service → u.ward.card = .suspect ∧ u.ward.cause = causeSelftest))) ∧
  (∀ s : State,
    (s.ward.stage = .core → s.ward.card = .service → Effects .links s [.links, .ward, .power, .out] (fun u =>
      u.ward = { s.ward with stage := .links } ∧
      (∀ l : Link, s.power.hdr.getLsbD (headerOf l.val) = true → headerOnBit u (headerOf l.val) = true ∧
        linkState u l.val = lsDetect) ∧
      ∀ k d, clusterDomain s k = some d → k < 16 → clusterOwner s k = none → u.power.on.getLsbD d = false)) ∧
    (s.ward.stage ≠ .core ∨ s.ward.card ≠ .service → exec .links s = .next (begin s))) ∧
  (∀ s : State, Effects .assembly s [.sect, .power, .out] (fun u => u.power.assembly = true ∧
    (∀ k : Fin 16, isDozing s k.val = true → u.power.wakeDue.getLsbD k.val = true) ∧
    ∀ t, getSect u t = { getSect s t with cdoze := (getSect s t).cdoze &&& dozeMask s })) ∧
  (∀ s : State, s.power.assembly = true →
    (anyRun s = false → absentCores s = [] → atTick s = true → Effects .assemblyComplete s [.power, .out] (fun u =>
      u.power.assembly = false ∧ (s.ward.stage ≠ .links → u.power = { s.power with assembly := false }) ∧
      (s.ward.stage = .links → ∀ k d, k < 16 → clusterDomain s k = some d → clusterOwner s k = none →
        u.power.on.getLsbD d = false ∧ isDozing u k = true))) ∧
    (anyRun s = true ∨ absentCores s ≠ [] ∨ atTick s = false → exec .assemblyComplete s = .next (begin s)) ∧
    (anyRun s = true → exec .assemblyTimeout s = .next (begin s)) ∧
    (anyRun s = false → Effects .assemblyTimeout s [.ward, .power, .out] (fun u => u.power.assembly = false ∧
      u.ward.lateCores = lateCores s ∧ u.ward.stage = (if s.ward.stage = .memory then .failed else s.ward.stage) ∧
      (s.ward.card = .service → u.ward.card = .suspect ∧ u.ward.cause = causeAssembly ∧ u.ward.drain = .guard))))

/-- A cluster that its section has asked to doze, with its cores' trace queues written out, switches off and loses slates,
accumulators and stage state, but no program store (R464, R489, Table 17.7); one that is to wake, with no scrub pending,
comes on, and its CDOZE bit is 0 where a section holds it (R490, R495). A waking tier is awake
with its domains on (R492). A finished scrub is pending no longer (R495). With no page resident and no granule
poisoned, slot 0 writes the oldest log entry, with its sequence number and chain value, at the end of the log, while
256 KiB a frame and the space before the region's end last (R451, R452, R455), and the trace records as 32 bytes each
(R460, R463). The comparison takes one entry: no difference leaves TRACE_DIV, a first difference is recorded there,
and 65,536 waiting entries stop it (R457, R459). -/
def Obligations.DozeWakeScrubAndLogs : Prop :=
  (∀ (s : State) (c : Fin 16) (t : Sec) (d : Nat), clusterOwner s c.val = some t →
    (getSect s t).cdoze.getLsbD c.val = true → isDozing s c.val = false → clusterDomain s c.val = some d →
    ((∃ q ∈ clusterCores s c.val, queueOut s t q = false) → exec (.clusterDoze c) s = .next (begin s)) ∧
    ((∀ q ∈ clusterCores s c.val, queueOut s t q = true) →
      Effects (.clusterDoze c) s [.cores, .slate, .acc, .power, .trace, .out] (fun u =>
      isDozing u c.val = true ∧ u.power.on.getLsbD d = false ∧
      ∀ q, q ∈ coresOf (BitVec.ofNat 16 (2 ^ c.val)) → getCore u q = coreReset ∧
        (∀ a, slateKey q 0 ≤ a → a < slateKey (q + 1) 0 → rd8 u.slate a = 0) ∧
        ∀ a, 262144 * q ≤ a → a < 262144 * (q + 1) → sget 0 u.acc a = 0))) ∧
  (∀ (s : State) (c : Fin 16), isDozing s c.val = true → s.power.wakeDue.getLsbD c.val = true →
    (.cluster c ∈ s.power.scrubs → exec (.clusterWake c) s = .next (begin s)) ∧
    (.cluster c ∉ s.power.scrubs → clusterOwner s c.val = none → Effects (.clusterWake c) s [.power, .out] (fun u =>
      isDozing u c.val = false ∧ u.power.wakeDue.getLsbD c.val = false ∧
      ∀ d, clusterDomain s c.val = some d → d < 37 → u.power.on.getLsbD d = true))) ∧
  (∀ (s : State) (c : Fin 16) (t : Sec), clusterOwner s c.val = some t → isDozing s c.val = true →
    s.power.wakeDue.getLsbD c.val = true → .cluster c ∉ s.power.scrubs →
    Effects (.clusterWake c) s [.sect, .power, .trace, .out] (fun u =>
      isDozing u c.val = false ∧ u.power.wakeDue.getLsbD c.val = false ∧ (getSect u t).cdoze.getLsbD c.val = false ∧
      (∀ d, clusterDomain s c.val = some d → d < 37 → u.power.on.getLsbD d = true) ∧
      ∀ v, v ≠ t → getSect u v = getSect s v)) ∧
  (∀ (s : State) (bridge : Bool), s.power.waking.getLsbD (if bridge then 1 else 0) = true →
    Effects (.tierWakeComplete bridge) s [.power, .out] (fun u =>
      u.power.waking.getLsbD (if bridge then 1 else 0) = false ∧
      u.power.waking.getLsbD (if bridge then 0 else 1) = s.power.waking.getLsbD (if bridge then 0 else 1) ∧
      ∀ d, (if bridge then 24 else 16) ≤ d → d < (if bridge then 28 else 24) → u.power.on.getLsbD d = true)) ∧
  (∀ (s : State) (x : Scrub), Effects (.clusterScrubComplete x) s [.power, .out] (fun u =>
    ∀ y, y ∈ u.power.scrubs ↔ y ∈ s.power.scrubs ∧ y ≠ x)) ∧
  (∀ (s : State) (t : Sec), inSlot0 s = false → exec (.logEntryWrite t) s = .next (begin s) ∧
    exec (.traceRecordWrite t) s = .next (begin s)) ∧
  (∀ (s : State) (t : Sec) (e : LogEntry), inSlot0 s = true → (getTrace s t).logQ = [e] → s.tiers.pages = [] →
    s.tiers.poison = [] →
    let r := getTrace s t
    let base := (sizedRegion r.rlcfg).1
    let head := entryHead e.kind.toNat e.payload.length e.ring.toNat r.rlSeq
    let body := e.payload.flatMap (fun w => leBytes 64 w.toNat)
    let chain := shaNum (be384 r.chain ++ head ++ body)
    (r.rlOff + entryBytes e ≤ (sizedRegion r.rlcfg).2 → (s.budget.get t).logBytes + entryBytes e ≤ 262144 →
      Effects (.logEntryWrite t) s [.tiers, .trace, .budget, .out] (fun u =>
        getTrace u t = { r with
          rlSeq := r.rlSeq + 1, chain := chain, logQ := []
          rlOff := if r.rlOff + entryBytes e = (sizedRegion r.rlcfg).2 then 0 else r.rlOff + entryBytes e } ∧
        (∀ i, i < entryBytes e → rd8 u.tiers.mem (base + r.rlOff + i) =
          (head ++ be384 chain ++ body).getD i 0 % 256) ∧
        MemFrame (fun a => base + r.rlOff ≤ a ∧ a < base + r.rlOff + entryBytes e) s u)) ∧
    (262144 < (s.budget.get t).logBytes + entryBytes e → exec (.logEntryWrite t) s = .next (begin s))) ∧
  (∀ (s : State) (t : Sec), cmpOn s t = true → bit64 (getTrace s t).rccfg 61 = false →
    let r := getTrace s t
    (65536 ≤ r.cmpQ.length → Effects (.replayComparison t) s [.trace, .out] (fun u =>
      bit64 (getTrace u t).rccfg 61 = true ∧ (getTrace u t).cmpQ = [] ∧ (getTrace u t).div = r.div)) ∧
    (∀ q, r.cmpQ = [q] →
      Effects (.replayComparison t) s [.ward, .trace, .out] (fun u => (getTrace u t).cmpQ = [] ∧
        match (findRef s q r.rclen.toNat (bits r.rccfg 6 42 * 64) ⟨[], []⟩).bind (firstDiff s t q) with
        | none => (getTrace u t).div = r.div
        | some off => off < 1024 → bit64 r.div 0 = false → bit64 (getTrace u t).div 0 = true ∧
            bits (getTrace u t).div 28 4 = q.kind.toNat % 16 ∧ bits (getTrace u t).div 24 4 = q.ring.toNat % 16 ∧
            bits (getTrace u t).div 32 32 = q.ordinal % 2 ^ 32 ∧ bits (getTrace u t).div 14 10 = off))) ∧
  (∀ (s : State) (t : Sec) (x : TraceRec), inSlot0 s = true → (getTrace s t).traceQ = [x] → (getTrace s t).gap = 0 →
    s.tiers.pages = [] → s.tiers.poison = [] →
    let r := getTrace s t
    let at_ := (sizedRegion r.tcfg).1 + r.written % (sizedRegion r.tcfg).2
    r.written % 32 = 0 → Effects (.traceRecordWrite t) s [.tiers, .trace, .out] (fun u =>
      getTrace u t = { r with written := r.written + 32, traceQ := [] } ∧
      (∀ i, i < 32 → rd8 u.tiers.mem (at_ + i) = (traceBytes x).getD i 0) ∧
      MemFrame (fun a => at_ ≤ a ∧ a < at_ + 32) s u))
end

