-- ==== Sys2Proof/Laws/Sparse.lean ====
section
/-!
SUPPORT. Sparse tables and byte memories: every operation keeps the canonical form; a read after a write.
-/
namespace Sys2Proof.Machine

variable {α : Type}

@[simp] theorem sget_nil (d : α) (k : Nat) : sget d [] k = d := rfl

theorem sget_cons (d : α) (k : Nat) (v : α) (m : Sparse α) (a : Nat) :
    sget d ((k, v) :: m) a = if a = k then v else sget d m a := by
  simp only [sget, beq_iff_eq]

theorem sget_sdel (d : α) (m : Sparse α) (k a : Nat) : sget d (sdel m k) a = if a = k then d else sget d m a := by
  induction m with
  | nil => simp [sdel]
  | cons e m ih =>
    obtain ⟨j, v⟩ := e
    by_cases h : k = j
    · subst h
      simp only [sdel, beq_self_eq_true, if_true, ih, sget_cons]
      split <;> rfl
    · by_cases ha : a = k <;> by_cases hj : a = j <;> simp_all [sdel, sget_cons]

/-- A key that is not listed reads the default. -/
theorem sget_of_lt (d : α) (m : Sparse α) (k : Nat) (h : ∀ e ∈ m, k < e.1) : sget d m k = d := by
  induction m with
  | nil => rfl
  | cons e m ih =>
    obtain ⟨j, v⟩ := e
    have hj : k < j := h (j, v) (by simp)
    simp only [sget_cons]
    rw [if_neg (by omega)]
    exact ih (fun e he => h e (by simp [he]))

theorem sget_sins (d : α) (m : Sparse α) (k : Nat) (x : α) (hk : ∀ e ∈ m, e.1 ≠ k) (a : Nat) :
    sget d (sins m k x) a = if a = k then x else sget d m a := by
  induction m with
  | nil => simp [sins, sget_cons]
  | cons e m ih =>
    obtain ⟨j, v⟩ := e
    have hj : j ≠ k := hk (j, v) (by simp)
    have := ih (fun e he => hk e (by simp [he]))
    by_cases h : k < j
    · simp [sins, h, sget_cons]
    · simp only [sins, h, if_false, sget_cons, this]
      split
      · rename_i h2; rw [if_neg (by omega)]
      · rfl

theorem mem_sdel (m : Sparse α) (k : Nat) (e : Nat × α) : e ∈ sdel m k ↔ e ∈ m ∧ e.1 ≠ k := by
  induction m with
  | nil => simp [sdel]
  | cons x m ih =>
    obtain ⟨j, v⟩ := x
    by_cases h : k = j
    · subst h
      simp only [sdel, beq_self_eq_true, if_true, ih, List.mem_cons]
      constructor
      · exact fun h => ⟨Or.inr h.1, h.2⟩
      · rintro ⟨rfl | h, h2⟩
        · exact absurd rfl h2
        · exact ⟨h, h2⟩
    · simp only [sdel, beq_iff_eq, h, if_false, List.mem_cons, ih]
      constructor
      · rintro (rfl | h')
        · exact ⟨Or.inl rfl, fun h2 => h h2.symm⟩
        · exact ⟨Or.inr h'.1, h'.2⟩
      · rintro ⟨rfl | h', h2⟩
        · exact Or.inl rfl
        · exact Or.inr ⟨h', h2⟩

theorem mem_sins (m : Sparse α) (k : Nat) (x : α) (e : Nat × α) : e ∈ sins m k x ↔ e = (k, x) ∨ e ∈ m := by
  induction m with
  | nil => simp [sins]
  | cons y m ih =>
    obtain ⟨j, v⟩ := y
    by_cases h : k < j
    · simp [sins, h]
    · simp only [sins, h, if_false, List.mem_cons, ih]; tauto

/-- A read after a write of a table. -/
@[simp] theorem sget_sset [DecidableEq α] (d : α) (m : Sparse α) (k : Nat) (x : α) (a : Nat) :
    sget d (sset d m k x) a = if a = k then x else sget d m a := by
  unfold sset
  split
  · rename_i h; subst h; rw [sget_sdel]
  · rw [sget_sins _ _ _ _ (fun e he => ((mem_sdel m k e).1 he).2), sget_sdel]
    split <;> simp_all

variable [DecidableEq α] (d : α)

theorem swf_cons (k : Nat) (v : α) (m : Sparse α) :
    swf d ((k, v) :: m) = true ↔ v ≠ d ∧ (∀ e ∈ m, k < e.1) ∧ swf d m = true := by
  simp [swf, and_assoc]

theorem swf_sdel (m : Sparse α) (k : Nat) (h : swf d m = true) : swf d (sdel m k) = true := by
  induction m with
  | nil => exact h
  | cons e m ih =>
    obtain ⟨j, v⟩ := e
    rw [swf_cons] at h
    simp only [sdel]
    split
    · exact ih h.2.2
    · rw [swf_cons]
      exact ⟨h.1, fun e he => h.2.1 e ((mem_sdel m k e).1 he).1, ih h.2.2⟩

theorem swf_sins (m : Sparse α) (k : Nat) (x : α) (hx : x ≠ d) (hk : ∀ e ∈ m, e.1 ≠ k) (h : swf d m = true) :
    swf d (sins m k x) = true := by
  induction m with
  | nil => simp [sins, swf, hx]
  | cons e m ih =>
    obtain ⟨j, v⟩ := e
    have hj : j ≠ k := hk (j, v) (by simp)
    rw [swf_cons] at h
    simp only [sins]
    split
    · rename_i hlt
      rw [swf_cons, swf_cons]
      refine ⟨hx, ?_, h⟩
      intro e he
      rcases List.mem_cons.1 he with rfl | he
      · exact hlt
      · exact Nat.lt_trans hlt (h.2.1 e he)
    · rw [swf_cons]
      refine ⟨h.1, ?_, ih (fun e he => hk e (by simp [he])) h.2.2⟩
      intro e he
      rcases (mem_sins m k x e).1 he with rfl | he
      · show j < k; omega
      · exact h.2.1 e he

/-- A write keeps the canonical form. -/
@[simp] theorem swf_sset (m : Sparse α) (k : Nat) (x : α) (h : swf d m = true) : swf d (sset d m k x) = true := by
  unfold sset
  split
  · exact swf_sdel d m k h
  · exact swf_sins d _ k x ‹_› (fun e he => ((mem_sdel m k e).1 he).2) (swf_sdel d m k h)

/-- Entries left out keep the canonical form. -/
@[simp] theorem swf_filter (m : Sparse α) (p : Nat × α → Bool) (h : swf d m = true) : swf d (m.filter p) = true := by
  induction m with
  | nil => exact h
  | cons e m ih =>
    obtain ⟨j, v⟩ := e
    rw [swf_cons] at h
    simp only [List.filter_cons]
    split
    · rw [swf_cons]
      exact ⟨h.1, fun e he => h.2.1 e (List.mem_filter.1 he).1, ih h.2.2⟩
    · exact ih h.2.2

@[simp] theorem swf_nil : swf d ([] : Sparse α) = true := rfl

/-! ### Byte memories -/

@[simp] theorem wf_wr8 (m : Memory) (a x : Nat) (h : swf 0 m = true) : swf 0 (wr8 m a x) = true := swf_sset 0 m a _ h

/-- A byte read after a byte written. -/
@[simp] theorem rd8_wr8 (m : Memory) (a x b : Nat) : rd8 (wr8 m a x) b = if b = a then x % 256 else rd8 m b := by
  unfold rd8 wr8
  rw [sget_sset]
  split <;> simp

@[simp] theorem wf_wrBytes (m : Memory) (a : Nat) (bs : List Nat) (h : swf 0 m = true) : swf 0 (wrBytes m a bs) = true := by
  induction bs generalizing m a with
  | nil => exact h
  | cons b bs ih => exact ih (wr8 m a b) (a + 1) (wf_wr8 m a b h)

/-- Bytes written at an address on read back in their place; every other byte reads as before. -/
theorem rd8_wrBytes (m : Memory) (a : Nat) (bs : List Nat) (b : Nat) :
    rd8 (wrBytes m a bs) b = if a ≤ b ∧ b < a + bs.length then bs.getD (b - a) 0 % 256 else rd8 m b := by
  induction bs generalizing m a with
  | nil => simp [wrBytes]
  | cons x bs ih =>
    simp only [wrBytes, ih, rd8_wr8, List.length_cons]
    by_cases h1 : b = a
    · subst h1; simp
    · by_cases h2 : a + 1 ≤ b ∧ b < a + 1 + bs.length
      · rw [if_pos h2, if_pos (by omega)]
        have : b - a = (b - (a + 1)) + 1 := by omega
        rw [this]; simp
      · rw [if_neg h2, if_neg h1, if_neg (by omega)]

@[simp] theorem wf_wrLe (m : Memory) (a n x : Nat) (h : swf 0 m = true) : swf 0 (wrLe m a n x) = true := by
  induction n generalizing m a x with
  | zero => exact h
  | succ n ih => exact ih (wr8 m a (x % 256)) (a + 1) (x / 256) (wf_wr8 m a _ h)

@[simp] theorem wf_zeroRange (m : Memory) (a n : Nat) (h : swf 0 m = true) : swf 0 (zeroRange m a n) = true :=
  swf_filter 0 m _ h

omit [DecidableEq α] in
theorem sget_filter_key (m : Sparse α) (p : Nat → Bool) (k : Nat) :
    sget d (m.filter (fun e => p e.1)) k = if p k = true then sget d m k else d := by
  induction m with
  | nil => simp
  | cons e m ih =>
    obtain ⟨j, v⟩ := e
    simp only [List.filter_cons]
    by_cases hk : k = j
    · subst hk; by_cases hp : p k = true <;> simp [hp, sget_cons, ih]
    · by_cases hp : p j = true <;> simp [hp, sget_cons, hk, ih]

/-- A range set to zero reads zero; every other byte reads as before. -/
@[simp] theorem rd8_zeroRange (m : Memory) (a n b : Nat) :
    rd8 (zeroRange m a n) b = if a ≤ b ∧ b < a + n then 0 else rd8 m b := by
  unfold rd8 zeroRange
  rw [sget_filter_key 0 m (fun k => !(decide (a ≤ k ∧ k < a + n)))]
  by_cases h : a ≤ b ∧ b < a + n <;> simp [h]

/-- Entries moved down by their base keep the canonical form. -/
@[simp] theorem wf_sliceMem (m : Memory) (a n : Nat) (h : swf 0 m = true) : swf 0 (sliceMem m a n) = true := by
  unfold sliceMem
  have h2 := swf_filter 0 m (fun e => decide (a ≤ e.1 ∧ e.1 < a + n)) h
  have h3 : ∀ e ∈ m.filter (fun e => decide (a ≤ e.1 ∧ e.1 < a + n)), a ≤ e.1 := by
    intro e he; have := (List.mem_filter.1 he).2; simp at this; exact this.1
  generalize m.filter (fun e => decide (a ≤ e.1 ∧ e.1 < a + n)) = l at h2 h3
  induction l with
  | nil => rfl
  | cons e l ih =>
    obtain ⟨j, v⟩ := e
    rw [swf_cons] at h2
    simp only [List.map_cons]
    rw [swf_cons]
    refine ⟨h2.1, ?_, ih h2.2.2 (fun e he => h3 e (by simp [he]))⟩
    intro e he
    obtain ⟨x, hx, rfl⟩ := List.mem_map.1 he
    have h4 := h2.2.1 x hx
    have h5 := h3 (j, v) (by simp)
    have h6 := h3 x (by simp [hx])
    simp only at *
    omega

end Sys2Proof.Machine
end

