-- ==== Sys2Proof/Laws/State.lean ====
section
/-!
SUPPORT. The state: one lemma for each field and each update, and reading a part of the state after an update of it.
-/
namespace Sys2Proof

/-- Reading one section's value after one was set. -/
@[simp] theorem Four.get_set {α : Type} (f : Four α) (i j : Sec) (a : α) : (f.set i a).get j = if j = i then a else f.get j := by
  fin_cases i <;> fin_cases j <;> rfl

@[simp] theorem Four.get_all {α : Type} (a : α) (i : Sec) : (Four.all a).get i = a := by fin_cases i <;> rfl

end Sys2Proof

namespace Sys2Proof.Machine

/-! `modSect` -/

@[simp] theorem modSect_id (s : State) (t : Sec) (f : Sect → Sect) : (modSect s t f).id = s.id := rfl
@[simp] theorem modSect_time (s : State) (t : Sec) (f : Sect → Sect) : (modSect s t f).time = s.time := rfl
@[simp] theorem modSect_sect (s : State) (t : Sec) (f : Sect → Sect) : (modSect s t f).sect = s.sect.set t (f (s.sect.get t)) := rfl
@[simp] theorem modSect_slots (s : State) (t : Sec) (f : Sect → Sect) : (modSect s t f).slots = s.slots := rfl
@[simp] theorem modSect_slotsNow (s : State) (t : Sec) (f : Sect → Sect) : (modSect s t f).slotsNow = s.slotsNow := rfl
@[simp] theorem modSect_slotRefused (s : State) (t : Sec) (f : Sect → Sect) : (modSect s t f).slotRefused = s.slotRefused := rfl
@[simp] theorem modSect_ownRefused (s : State) (t : Sec) (f : Sect → Sect) : (modSect s t f).ownRefused = s.ownRefused := rfl
@[simp] theorem modSect_nflag (s : State) (t : Sec) (f : Sect → Sect) : (modSect s t f).nflag = s.nflag := rfl
@[simp] theorem modSect_rings (s : State) (t : Sec) (f : Sect → Sect) : (modSect s t f).rings = s.rings := rfl
@[simp] theorem modSect_cmds (s : State) (t : Sec) (f : Sect → Sect) : (modSect s t f).cmds = s.cmds := rfl
@[simp] theorem modSect_recs (s : State) (t : Sec) (f : Sect → Sect) : (modSect s t f).recs = s.recs := rfl
@[simp] theorem modSect_steps (s : State) (t : Sec) (f : Sect → Sect) : (modSect s t f).steps = s.steps := rfl
@[simp] theorem modSect_images (s : State) (t : Sec) (f : Sect → Sect) : (modSect s t f).images = s.images := rfl
@[simp] theorem modSect_loadPages (s : State) (t : Sec) (f : Sect → Sect) : (modSect s t f).loadPages = s.loadPages := rfl
@[simp] theorem modSect_cores (s : State) (t : Sec) (f : Sect → Sect) : (modSect s t f).cores = s.cores := rfl
@[simp] theorem modSect_store (s : State) (t : Sec) (f : Sect → Sect) : (modSect s t f).store = s.store := rfl
@[simp] theorem modSect_slate (s : State) (t : Sec) (f : Sect → Sect) : (modSect s t f).slate = s.slate := rfl
@[simp] theorem modSect_commons (s : State) (t : Sec) (f : Sect → Sect) : (modSect s t f).commons = s.commons := rfl
@[simp] theorem modSect_acc (s : State) (t : Sec) (f : Sect → Sect) : (modSect s t f).acc = s.acc := rfl
@[simp] theorem modSect_colls (s : State) (t : Sec) (f : Sect → Sect) : (modSect s t f).colls = s.colls := rfl
@[simp] theorem modSect_tiers (s : State) (t : Sec) (f : Sect → Sect) : (modSect s t f).tiers = s.tiers := rfl
@[simp] theorem modSect_links (s : State) (t : Sec) (f : Sect → Sect) : (modSect s t f).links = s.links := rfl
@[simp] theorem modSect_lctlPhys (s : State) (t : Sec) (f : Sect → Sect) : (modSect s t f).lctlPhys = s.lctlPhys := rfl
@[simp] theorem modSect_lctlEnable (s : State) (t : Sec) (f : Sect → Sect) : (modSect s t f).lctlEnable = s.lctlEnable := rfl
@[simp] theorem modSect_lctlRefused (s : State) (t : Sec) (f : Sect → Sect) : (modSect s t f).lctlRefused = s.lctlRefused := rfl
@[simp] theorem modSect_headers (s : State) (t : Sec) (f : Sect → Sect) : (modSect s t f).headers = s.headers := rfl
@[simp] theorem modSect_wear (s : State) (t : Sec) (f : Sect → Sect) : (modSect s t f).wear = s.wear := rfl
@[simp] theorem modSect_hif (s : State) (t : Sec) (f : Sect → Sect) : (modSect s t f).hif = s.hif := rfl
@[simp] theorem modSect_ward (s : State) (t : Sec) (f : Sect → Sect) : (modSect s t f).ward = s.ward := rfl
@[simp] theorem modSect_power (s : State) (t : Sec) (f : Sect → Sect) : (modSect s t f).power = s.power := rfl
@[simp] theorem modSect_trace (s : State) (t : Sec) (f : Sect → Sect) : (modSect s t f).trace = s.trace := rfl
@[simp] theorem modSect_budget (s : State) (t : Sec) (f : Sect → Sect) : (modSect s t f).budget = s.budget := rfl
@[simp] theorem modSect_out (s : State) (t : Sec) (f : Sect → Sect) : (modSect s t f).out = s.out := rfl
@[simp] theorem modSect_fresh (s : State) (t : Sec) (f : Sect → Sect) : (modSect s t f).fresh = s.fresh := rfl
@[simp] theorem modSect_seq (s : State) (t : Sec) (f : Sect → Sect) : (modSect s t f).seq = s.seq := rfl
@[simp] theorem modSect_pending (s : State) (t : Sec) (f : Sect → Sect) : (modSect s t f).pending = s.pending := rfl

/-! `modRing` -/

@[simp] theorem modRing_id (s : State) (p : Pair) (f : Ring → Ring) : (modRing s p f).id = s.id := rfl
@[simp] theorem modRing_time (s : State) (p : Pair) (f : Ring → Ring) : (modRing s p f).time = s.time := rfl
@[simp] theorem modRing_sect (s : State) (p : Pair) (f : Ring → Ring) : (modRing s p f).sect = s.sect := rfl
@[simp] theorem modRing_slots (s : State) (p : Pair) (f : Ring → Ring) : (modRing s p f).slots = s.slots := rfl
@[simp] theorem modRing_slotsNow (s : State) (p : Pair) (f : Ring → Ring) : (modRing s p f).slotsNow = s.slotsNow := rfl
@[simp] theorem modRing_slotRefused (s : State) (p : Pair) (f : Ring → Ring) : (modRing s p f).slotRefused = s.slotRefused := rfl
@[simp] theorem modRing_ownRefused (s : State) (p : Pair) (f : Ring → Ring) : (modRing s p f).ownRefused = s.ownRefused := rfl
@[simp] theorem modRing_nflag (s : State) (p : Pair) (f : Ring → Ring) : (modRing s p f).nflag = s.nflag := rfl
@[simp] theorem modRing_rings (s : State) (p : Pair) (f : Ring → Ring) : (modRing s p f).rings = sset ringReset s.rings p.val (f (getRing s p)) := rfl
@[simp] theorem modRing_cmds (s : State) (p : Pair) (f : Ring → Ring) : (modRing s p f).cmds = s.cmds := rfl
@[simp] theorem modRing_recs (s : State) (p : Pair) (f : Ring → Ring) : (modRing s p f).recs = s.recs := rfl
@[simp] theorem modRing_steps (s : State) (p : Pair) (f : Ring → Ring) : (modRing s p f).steps = s.steps := rfl
@[simp] theorem modRing_images (s : State) (p : Pair) (f : Ring → Ring) : (modRing s p f).images = s.images := rfl
@[simp] theorem modRing_loadPages (s : State) (p : Pair) (f : Ring → Ring) : (modRing s p f).loadPages = s.loadPages := rfl
@[simp] theorem modRing_cores (s : State) (p : Pair) (f : Ring → Ring) : (modRing s p f).cores = s.cores := rfl
@[simp] theorem modRing_store (s : State) (p : Pair) (f : Ring → Ring) : (modRing s p f).store = s.store := rfl
@[simp] theorem modRing_slate (s : State) (p : Pair) (f : Ring → Ring) : (modRing s p f).slate = s.slate := rfl
@[simp] theorem modRing_commons (s : State) (p : Pair) (f : Ring → Ring) : (modRing s p f).commons = s.commons := rfl
@[simp] theorem modRing_acc (s : State) (p : Pair) (f : Ring → Ring) : (modRing s p f).acc = s.acc := rfl
@[simp] theorem modRing_colls (s : State) (p : Pair) (f : Ring → Ring) : (modRing s p f).colls = s.colls := rfl
@[simp] theorem modRing_tiers (s : State) (p : Pair) (f : Ring → Ring) : (modRing s p f).tiers = s.tiers := rfl
@[simp] theorem modRing_links (s : State) (p : Pair) (f : Ring → Ring) : (modRing s p f).links = s.links := rfl
@[simp] theorem modRing_lctlPhys (s : State) (p : Pair) (f : Ring → Ring) : (modRing s p f).lctlPhys = s.lctlPhys := rfl
@[simp] theorem modRing_lctlEnable (s : State) (p : Pair) (f : Ring → Ring) : (modRing s p f).lctlEnable = s.lctlEnable := rfl
@[simp] theorem modRing_lctlRefused (s : State) (p : Pair) (f : Ring → Ring) : (modRing s p f).lctlRefused = s.lctlRefused := rfl
@[simp] theorem modRing_headers (s : State) (p : Pair) (f : Ring → Ring) : (modRing s p f).headers = s.headers := rfl
@[simp] theorem modRing_wear (s : State) (p : Pair) (f : Ring → Ring) : (modRing s p f).wear = s.wear := rfl
@[simp] theorem modRing_hif (s : State) (p : Pair) (f : Ring → Ring) : (modRing s p f).hif = s.hif := rfl
@[simp] theorem modRing_ward (s : State) (p : Pair) (f : Ring → Ring) : (modRing s p f).ward = s.ward := rfl
@[simp] theorem modRing_power (s : State) (p : Pair) (f : Ring → Ring) : (modRing s p f).power = s.power := rfl
@[simp] theorem modRing_trace (s : State) (p : Pair) (f : Ring → Ring) : (modRing s p f).trace = s.trace := rfl
@[simp] theorem modRing_budget (s : State) (p : Pair) (f : Ring → Ring) : (modRing s p f).budget = s.budget := rfl
@[simp] theorem modRing_out (s : State) (p : Pair) (f : Ring → Ring) : (modRing s p f).out = s.out := rfl
@[simp] theorem modRing_fresh (s : State) (p : Pair) (f : Ring → Ring) : (modRing s p f).fresh = s.fresh := rfl
@[simp] theorem modRing_seq (s : State) (p : Pair) (f : Ring → Ring) : (modRing s p f).seq = s.seq := rfl
@[simp] theorem modRing_pending (s : State) (p : Pair) (f : Ring → Ring) : (modRing s p f).pending = s.pending := rfl

/-! `setCmds` -/

@[simp] theorem setCmds_id (s : State) (t : Sec) (l : List Cmd) : (setCmds s t l).id = s.id := rfl
@[simp] theorem setCmds_time (s : State) (t : Sec) (l : List Cmd) : (setCmds s t l).time = s.time := rfl
@[simp] theorem setCmds_sect (s : State) (t : Sec) (l : List Cmd) : (setCmds s t l).sect = s.sect := rfl
@[simp] theorem setCmds_slots (s : State) (t : Sec) (l : List Cmd) : (setCmds s t l).slots = s.slots := rfl
@[simp] theorem setCmds_slotsNow (s : State) (t : Sec) (l : List Cmd) : (setCmds s t l).slotsNow = s.slotsNow := rfl
@[simp] theorem setCmds_slotRefused (s : State) (t : Sec) (l : List Cmd) : (setCmds s t l).slotRefused = s.slotRefused := rfl
@[simp] theorem setCmds_ownRefused (s : State) (t : Sec) (l : List Cmd) : (setCmds s t l).ownRefused = s.ownRefused := rfl
@[simp] theorem setCmds_nflag (s : State) (t : Sec) (l : List Cmd) : (setCmds s t l).nflag = s.nflag := rfl
@[simp] theorem setCmds_rings (s : State) (t : Sec) (l : List Cmd) : (setCmds s t l).rings = s.rings := rfl
@[simp] theorem setCmds_cmds (s : State) (t : Sec) (l : List Cmd) : (setCmds s t l).cmds = s.cmds.set t l := rfl
@[simp] theorem setCmds_recs (s : State) (t : Sec) (l : List Cmd) : (setCmds s t l).recs = s.recs := rfl
@[simp] theorem setCmds_steps (s : State) (t : Sec) (l : List Cmd) : (setCmds s t l).steps = s.steps := rfl
@[simp] theorem setCmds_images (s : State) (t : Sec) (l : List Cmd) : (setCmds s t l).images = s.images := rfl
@[simp] theorem setCmds_loadPages (s : State) (t : Sec) (l : List Cmd) : (setCmds s t l).loadPages = s.loadPages := rfl
@[simp] theorem setCmds_cores (s : State) (t : Sec) (l : List Cmd) : (setCmds s t l).cores = s.cores := rfl
@[simp] theorem setCmds_store (s : State) (t : Sec) (l : List Cmd) : (setCmds s t l).store = s.store := rfl
@[simp] theorem setCmds_slate (s : State) (t : Sec) (l : List Cmd) : (setCmds s t l).slate = s.slate := rfl
@[simp] theorem setCmds_commons (s : State) (t : Sec) (l : List Cmd) : (setCmds s t l).commons = s.commons := rfl
@[simp] theorem setCmds_acc (s : State) (t : Sec) (l : List Cmd) : (setCmds s t l).acc = s.acc := rfl
@[simp] theorem setCmds_colls (s : State) (t : Sec) (l : List Cmd) : (setCmds s t l).colls = s.colls := rfl
@[simp] theorem setCmds_tiers (s : State) (t : Sec) (l : List Cmd) : (setCmds s t l).tiers = s.tiers := rfl
@[simp] theorem setCmds_links (s : State) (t : Sec) (l : List Cmd) : (setCmds s t l).links = s.links := rfl
@[simp] theorem setCmds_lctlPhys (s : State) (t : Sec) (l : List Cmd) : (setCmds s t l).lctlPhys = s.lctlPhys := rfl
@[simp] theorem setCmds_lctlEnable (s : State) (t : Sec) (l : List Cmd) : (setCmds s t l).lctlEnable = s.lctlEnable := rfl
@[simp] theorem setCmds_lctlRefused (s : State) (t : Sec) (l : List Cmd) : (setCmds s t l).lctlRefused = s.lctlRefused := rfl
@[simp] theorem setCmds_headers (s : State) (t : Sec) (l : List Cmd) : (setCmds s t l).headers = s.headers := rfl
@[simp] theorem setCmds_wear (s : State) (t : Sec) (l : List Cmd) : (setCmds s t l).wear = s.wear := rfl
@[simp] theorem setCmds_hif (s : State) (t : Sec) (l : List Cmd) : (setCmds s t l).hif = s.hif := rfl
@[simp] theorem setCmds_ward (s : State) (t : Sec) (l : List Cmd) : (setCmds s t l).ward = s.ward := rfl
@[simp] theorem setCmds_power (s : State) (t : Sec) (l : List Cmd) : (setCmds s t l).power = s.power := rfl
@[simp] theorem setCmds_trace (s : State) (t : Sec) (l : List Cmd) : (setCmds s t l).trace = s.trace := rfl
@[simp] theorem setCmds_budget (s : State) (t : Sec) (l : List Cmd) : (setCmds s t l).budget = s.budget := rfl
@[simp] theorem setCmds_out (s : State) (t : Sec) (l : List Cmd) : (setCmds s t l).out = s.out := rfl
@[simp] theorem setCmds_fresh (s : State) (t : Sec) (l : List Cmd) : (setCmds s t l).fresh = s.fresh := rfl
@[simp] theorem setCmds_seq (s : State) (t : Sec) (l : List Cmd) : (setCmds s t l).seq = s.seq := rfl
@[simp] theorem setCmds_pending (s : State) (t : Sec) (l : List Cmd) : (setCmds s t l).pending = s.pending := rfl

/-! `modSteps` -/

@[simp] theorem modSteps_id (s : State) (t : Sec) (f : Steps → Steps) : (modSteps s t f).id = s.id := rfl
@[simp] theorem modSteps_time (s : State) (t : Sec) (f : Steps → Steps) : (modSteps s t f).time = s.time := rfl
@[simp] theorem modSteps_sect (s : State) (t : Sec) (f : Steps → Steps) : (modSteps s t f).sect = s.sect := rfl
@[simp] theorem modSteps_slots (s : State) (t : Sec) (f : Steps → Steps) : (modSteps s t f).slots = s.slots := rfl
@[simp] theorem modSteps_slotsNow (s : State) (t : Sec) (f : Steps → Steps) : (modSteps s t f).slotsNow = s.slotsNow := rfl
@[simp] theorem modSteps_slotRefused (s : State) (t : Sec) (f : Steps → Steps) : (modSteps s t f).slotRefused = s.slotRefused := rfl
@[simp] theorem modSteps_ownRefused (s : State) (t : Sec) (f : Steps → Steps) : (modSteps s t f).ownRefused = s.ownRefused := rfl
@[simp] theorem modSteps_nflag (s : State) (t : Sec) (f : Steps → Steps) : (modSteps s t f).nflag = s.nflag := rfl
@[simp] theorem modSteps_rings (s : State) (t : Sec) (f : Steps → Steps) : (modSteps s t f).rings = s.rings := rfl
@[simp] theorem modSteps_cmds (s : State) (t : Sec) (f : Steps → Steps) : (modSteps s t f).cmds = s.cmds := rfl
@[simp] theorem modSteps_recs (s : State) (t : Sec) (f : Steps → Steps) : (modSteps s t f).recs = s.recs := rfl
@[simp] theorem modSteps_steps (s : State) (t : Sec) (f : Steps → Steps) : (modSteps s t f).steps = s.steps.set t (f (s.steps.get t)) := rfl
@[simp] theorem modSteps_images (s : State) (t : Sec) (f : Steps → Steps) : (modSteps s t f).images = s.images := rfl
@[simp] theorem modSteps_loadPages (s : State) (t : Sec) (f : Steps → Steps) : (modSteps s t f).loadPages = s.loadPages := rfl
@[simp] theorem modSteps_cores (s : State) (t : Sec) (f : Steps → Steps) : (modSteps s t f).cores = s.cores := rfl
@[simp] theorem modSteps_store (s : State) (t : Sec) (f : Steps → Steps) : (modSteps s t f).store = s.store := rfl
@[simp] theorem modSteps_slate (s : State) (t : Sec) (f : Steps → Steps) : (modSteps s t f).slate = s.slate := rfl
@[simp] theorem modSteps_commons (s : State) (t : Sec) (f : Steps → Steps) : (modSteps s t f).commons = s.commons := rfl
@[simp] theorem modSteps_acc (s : State) (t : Sec) (f : Steps → Steps) : (modSteps s t f).acc = s.acc := rfl
@[simp] theorem modSteps_colls (s : State) (t : Sec) (f : Steps → Steps) : (modSteps s t f).colls = s.colls := rfl
@[simp] theorem modSteps_tiers (s : State) (t : Sec) (f : Steps → Steps) : (modSteps s t f).tiers = s.tiers := rfl
@[simp] theorem modSteps_links (s : State) (t : Sec) (f : Steps → Steps) : (modSteps s t f).links = s.links := rfl
@[simp] theorem modSteps_lctlPhys (s : State) (t : Sec) (f : Steps → Steps) : (modSteps s t f).lctlPhys = s.lctlPhys := rfl
@[simp] theorem modSteps_lctlEnable (s : State) (t : Sec) (f : Steps → Steps) : (modSteps s t f).lctlEnable = s.lctlEnable := rfl
@[simp] theorem modSteps_lctlRefused (s : State) (t : Sec) (f : Steps → Steps) : (modSteps s t f).lctlRefused = s.lctlRefused := rfl
@[simp] theorem modSteps_headers (s : State) (t : Sec) (f : Steps → Steps) : (modSteps s t f).headers = s.headers := rfl
@[simp] theorem modSteps_wear (s : State) (t : Sec) (f : Steps → Steps) : (modSteps s t f).wear = s.wear := rfl
@[simp] theorem modSteps_hif (s : State) (t : Sec) (f : Steps → Steps) : (modSteps s t f).hif = s.hif := rfl
@[simp] theorem modSteps_ward (s : State) (t : Sec) (f : Steps → Steps) : (modSteps s t f).ward = s.ward := rfl
@[simp] theorem modSteps_power (s : State) (t : Sec) (f : Steps → Steps) : (modSteps s t f).power = s.power := rfl
@[simp] theorem modSteps_trace (s : State) (t : Sec) (f : Steps → Steps) : (modSteps s t f).trace = s.trace := rfl
@[simp] theorem modSteps_budget (s : State) (t : Sec) (f : Steps → Steps) : (modSteps s t f).budget = s.budget := rfl
@[simp] theorem modSteps_out (s : State) (t : Sec) (f : Steps → Steps) : (modSteps s t f).out = s.out := rfl
@[simp] theorem modSteps_fresh (s : State) (t : Sec) (f : Steps → Steps) : (modSteps s t f).fresh = s.fresh := rfl
@[simp] theorem modSteps_seq (s : State) (t : Sec) (f : Steps → Steps) : (modSteps s t f).seq = s.seq := rfl
@[simp] theorem modSteps_pending (s : State) (t : Sec) (f : Steps → Steps) : (modSteps s t f).pending = s.pending := rfl

/-! `modTrace` -/

@[simp] theorem modTrace_id (s : State) (t : Sec) (f : Trace → Trace) : (modTrace s t f).id = s.id := rfl
@[simp] theorem modTrace_time (s : State) (t : Sec) (f : Trace → Trace) : (modTrace s t f).time = s.time := rfl
@[simp] theorem modTrace_sect (s : State) (t : Sec) (f : Trace → Trace) : (modTrace s t f).sect = s.sect := rfl
@[simp] theorem modTrace_slots (s : State) (t : Sec) (f : Trace → Trace) : (modTrace s t f).slots = s.slots := rfl
@[simp] theorem modTrace_slotsNow (s : State) (t : Sec) (f : Trace → Trace) : (modTrace s t f).slotsNow = s.slotsNow := rfl
@[simp] theorem modTrace_slotRefused (s : State) (t : Sec) (f : Trace → Trace) : (modTrace s t f).slotRefused = s.slotRefused := rfl
@[simp] theorem modTrace_ownRefused (s : State) (t : Sec) (f : Trace → Trace) : (modTrace s t f).ownRefused = s.ownRefused := rfl
@[simp] theorem modTrace_nflag (s : State) (t : Sec) (f : Trace → Trace) : (modTrace s t f).nflag = s.nflag := rfl
@[simp] theorem modTrace_rings (s : State) (t : Sec) (f : Trace → Trace) : (modTrace s t f).rings = s.rings := rfl
@[simp] theorem modTrace_cmds (s : State) (t : Sec) (f : Trace → Trace) : (modTrace s t f).cmds = s.cmds := rfl
@[simp] theorem modTrace_recs (s : State) (t : Sec) (f : Trace → Trace) : (modTrace s t f).recs = s.recs := rfl
@[simp] theorem modTrace_steps (s : State) (t : Sec) (f : Trace → Trace) : (modTrace s t f).steps = s.steps := rfl
@[simp] theorem modTrace_images (s : State) (t : Sec) (f : Trace → Trace) : (modTrace s t f).images = s.images := rfl
@[simp] theorem modTrace_loadPages (s : State) (t : Sec) (f : Trace → Trace) : (modTrace s t f).loadPages = s.loadPages := rfl
@[simp] theorem modTrace_cores (s : State) (t : Sec) (f : Trace → Trace) : (modTrace s t f).cores = s.cores := rfl
@[simp] theorem modTrace_store (s : State) (t : Sec) (f : Trace → Trace) : (modTrace s t f).store = s.store := rfl
@[simp] theorem modTrace_slate (s : State) (t : Sec) (f : Trace → Trace) : (modTrace s t f).slate = s.slate := rfl
@[simp] theorem modTrace_commons (s : State) (t : Sec) (f : Trace → Trace) : (modTrace s t f).commons = s.commons := rfl
@[simp] theorem modTrace_acc (s : State) (t : Sec) (f : Trace → Trace) : (modTrace s t f).acc = s.acc := rfl
@[simp] theorem modTrace_colls (s : State) (t : Sec) (f : Trace → Trace) : (modTrace s t f).colls = s.colls := rfl
@[simp] theorem modTrace_tiers (s : State) (t : Sec) (f : Trace → Trace) : (modTrace s t f).tiers = s.tiers := rfl
@[simp] theorem modTrace_links (s : State) (t : Sec) (f : Trace → Trace) : (modTrace s t f).links = s.links := rfl
@[simp] theorem modTrace_lctlPhys (s : State) (t : Sec) (f : Trace → Trace) : (modTrace s t f).lctlPhys = s.lctlPhys := rfl
@[simp] theorem modTrace_lctlEnable (s : State) (t : Sec) (f : Trace → Trace) : (modTrace s t f).lctlEnable = s.lctlEnable := rfl
@[simp] theorem modTrace_lctlRefused (s : State) (t : Sec) (f : Trace → Trace) : (modTrace s t f).lctlRefused = s.lctlRefused := rfl
@[simp] theorem modTrace_headers (s : State) (t : Sec) (f : Trace → Trace) : (modTrace s t f).headers = s.headers := rfl
@[simp] theorem modTrace_wear (s : State) (t : Sec) (f : Trace → Trace) : (modTrace s t f).wear = s.wear := rfl
@[simp] theorem modTrace_hif (s : State) (t : Sec) (f : Trace → Trace) : (modTrace s t f).hif = s.hif := rfl
@[simp] theorem modTrace_ward (s : State) (t : Sec) (f : Trace → Trace) : (modTrace s t f).ward = s.ward := rfl
@[simp] theorem modTrace_power (s : State) (t : Sec) (f : Trace → Trace) : (modTrace s t f).power = s.power := rfl
@[simp] theorem modTrace_trace (s : State) (t : Sec) (f : Trace → Trace) : (modTrace s t f).trace = s.trace.set t (f (s.trace.get t)) := rfl
@[simp] theorem modTrace_budget (s : State) (t : Sec) (f : Trace → Trace) : (modTrace s t f).budget = s.budget := rfl
@[simp] theorem modTrace_out (s : State) (t : Sec) (f : Trace → Trace) : (modTrace s t f).out = s.out := rfl
@[simp] theorem modTrace_fresh (s : State) (t : Sec) (f : Trace → Trace) : (modTrace s t f).fresh = s.fresh := rfl
@[simp] theorem modTrace_seq (s : State) (t : Sec) (f : Trace → Trace) : (modTrace s t f).seq = s.seq := rfl
@[simp] theorem modTrace_pending (s : State) (t : Sec) (f : Trace → Trace) : (modTrace s t f).pending = s.pending := rfl

/-! `modCore` -/

@[simp] theorem modCore_id (s : State) (q : Nat) (f : Core → Core) : (modCore s q f).id = s.id := rfl
@[simp] theorem modCore_time (s : State) (q : Nat) (f : Core → Core) : (modCore s q f).time = s.time := rfl
@[simp] theorem modCore_sect (s : State) (q : Nat) (f : Core → Core) : (modCore s q f).sect = s.sect := rfl
@[simp] theorem modCore_slots (s : State) (q : Nat) (f : Core → Core) : (modCore s q f).slots = s.slots := rfl
@[simp] theorem modCore_slotsNow (s : State) (q : Nat) (f : Core → Core) : (modCore s q f).slotsNow = s.slotsNow := rfl
@[simp] theorem modCore_slotRefused (s : State) (q : Nat) (f : Core → Core) : (modCore s q f).slotRefused = s.slotRefused := rfl
@[simp] theorem modCore_ownRefused (s : State) (q : Nat) (f : Core → Core) : (modCore s q f).ownRefused = s.ownRefused := rfl
@[simp] theorem modCore_nflag (s : State) (q : Nat) (f : Core → Core) : (modCore s q f).nflag = s.nflag := rfl
@[simp] theorem modCore_rings (s : State) (q : Nat) (f : Core → Core) : (modCore s q f).rings = s.rings := rfl
@[simp] theorem modCore_cmds (s : State) (q : Nat) (f : Core → Core) : (modCore s q f).cmds = s.cmds := rfl
@[simp] theorem modCore_recs (s : State) (q : Nat) (f : Core → Core) : (modCore s q f).recs = s.recs := rfl
@[simp] theorem modCore_steps (s : State) (q : Nat) (f : Core → Core) : (modCore s q f).steps = s.steps := rfl
@[simp] theorem modCore_images (s : State) (q : Nat) (f : Core → Core) : (modCore s q f).images = s.images := rfl
@[simp] theorem modCore_loadPages (s : State) (q : Nat) (f : Core → Core) : (modCore s q f).loadPages = s.loadPages := rfl
@[simp] theorem modCore_cores (s : State) (q : Nat) (f : Core → Core) : (modCore s q f).cores = sset coreReset s.cores q (f (getCore s q)) := rfl
@[simp] theorem modCore_store (s : State) (q : Nat) (f : Core → Core) : (modCore s q f).store = s.store := rfl
@[simp] theorem modCore_slate (s : State) (q : Nat) (f : Core → Core) : (modCore s q f).slate = s.slate := rfl
@[simp] theorem modCore_commons (s : State) (q : Nat) (f : Core → Core) : (modCore s q f).commons = s.commons := rfl
@[simp] theorem modCore_acc (s : State) (q : Nat) (f : Core → Core) : (modCore s q f).acc = s.acc := rfl
@[simp] theorem modCore_colls (s : State) (q : Nat) (f : Core → Core) : (modCore s q f).colls = s.colls := rfl
@[simp] theorem modCore_tiers (s : State) (q : Nat) (f : Core → Core) : (modCore s q f).tiers = s.tiers := rfl
@[simp] theorem modCore_links (s : State) (q : Nat) (f : Core → Core) : (modCore s q f).links = s.links := rfl
@[simp] theorem modCore_lctlPhys (s : State) (q : Nat) (f : Core → Core) : (modCore s q f).lctlPhys = s.lctlPhys := rfl
@[simp] theorem modCore_lctlEnable (s : State) (q : Nat) (f : Core → Core) : (modCore s q f).lctlEnable = s.lctlEnable := rfl
@[simp] theorem modCore_lctlRefused (s : State) (q : Nat) (f : Core → Core) : (modCore s q f).lctlRefused = s.lctlRefused := rfl
@[simp] theorem modCore_headers (s : State) (q : Nat) (f : Core → Core) : (modCore s q f).headers = s.headers := rfl
@[simp] theorem modCore_wear (s : State) (q : Nat) (f : Core → Core) : (modCore s q f).wear = s.wear := rfl
@[simp] theorem modCore_hif (s : State) (q : Nat) (f : Core → Core) : (modCore s q f).hif = s.hif := rfl
@[simp] theorem modCore_ward (s : State) (q : Nat) (f : Core → Core) : (modCore s q f).ward = s.ward := rfl
@[simp] theorem modCore_power (s : State) (q : Nat) (f : Core → Core) : (modCore s q f).power = s.power := rfl
@[simp] theorem modCore_trace (s : State) (q : Nat) (f : Core → Core) : (modCore s q f).trace = s.trace := rfl
@[simp] theorem modCore_budget (s : State) (q : Nat) (f : Core → Core) : (modCore s q f).budget = s.budget := rfl
@[simp] theorem modCore_out (s : State) (q : Nat) (f : Core → Core) : (modCore s q f).out = s.out := rfl
@[simp] theorem modCore_fresh (s : State) (q : Nat) (f : Core → Core) : (modCore s q f).fresh = s.fresh := rfl
@[simp] theorem modCore_seq (s : State) (q : Nat) (f : Core → Core) : (modCore s q f).seq = s.seq := rfl
@[simp] theorem modCore_pending (s : State) (q : Nat) (f : Core → Core) : (modCore s q f).pending = s.pending := rfl

/-! `modLink` -/

@[simp] theorem modLink_id (s : State) (l : Nat) (f : LinkSt → LinkSt) : (modLink s l f).id = s.id := rfl
@[simp] theorem modLink_time (s : State) (l : Nat) (f : LinkSt → LinkSt) : (modLink s l f).time = s.time := rfl
@[simp] theorem modLink_sect (s : State) (l : Nat) (f : LinkSt → LinkSt) : (modLink s l f).sect = s.sect := rfl
@[simp] theorem modLink_slots (s : State) (l : Nat) (f : LinkSt → LinkSt) : (modLink s l f).slots = s.slots := rfl
@[simp] theorem modLink_slotsNow (s : State) (l : Nat) (f : LinkSt → LinkSt) : (modLink s l f).slotsNow = s.slotsNow := rfl
@[simp] theorem modLink_slotRefused (s : State) (l : Nat) (f : LinkSt → LinkSt) : (modLink s l f).slotRefused = s.slotRefused := rfl
@[simp] theorem modLink_ownRefused (s : State) (l : Nat) (f : LinkSt → LinkSt) : (modLink s l f).ownRefused = s.ownRefused := rfl
@[simp] theorem modLink_nflag (s : State) (l : Nat) (f : LinkSt → LinkSt) : (modLink s l f).nflag = s.nflag := rfl
@[simp] theorem modLink_rings (s : State) (l : Nat) (f : LinkSt → LinkSt) : (modLink s l f).rings = s.rings := rfl
@[simp] theorem modLink_cmds (s : State) (l : Nat) (f : LinkSt → LinkSt) : (modLink s l f).cmds = s.cmds := rfl
@[simp] theorem modLink_recs (s : State) (l : Nat) (f : LinkSt → LinkSt) : (modLink s l f).recs = s.recs := rfl
@[simp] theorem modLink_steps (s : State) (l : Nat) (f : LinkSt → LinkSt) : (modLink s l f).steps = s.steps := rfl
@[simp] theorem modLink_images (s : State) (l : Nat) (f : LinkSt → LinkSt) : (modLink s l f).images = s.images := rfl
@[simp] theorem modLink_loadPages (s : State) (l : Nat) (f : LinkSt → LinkSt) : (modLink s l f).loadPages = s.loadPages := rfl
@[simp] theorem modLink_cores (s : State) (l : Nat) (f : LinkSt → LinkSt) : (modLink s l f).cores = s.cores := rfl
@[simp] theorem modLink_store (s : State) (l : Nat) (f : LinkSt → LinkSt) : (modLink s l f).store = s.store := rfl
@[simp] theorem modLink_slate (s : State) (l : Nat) (f : LinkSt → LinkSt) : (modLink s l f).slate = s.slate := rfl
@[simp] theorem modLink_commons (s : State) (l : Nat) (f : LinkSt → LinkSt) : (modLink s l f).commons = s.commons := rfl
@[simp] theorem modLink_acc (s : State) (l : Nat) (f : LinkSt → LinkSt) : (modLink s l f).acc = s.acc := rfl
@[simp] theorem modLink_colls (s : State) (l : Nat) (f : LinkSt → LinkSt) : (modLink s l f).colls = s.colls := rfl
@[simp] theorem modLink_tiers (s : State) (l : Nat) (f : LinkSt → LinkSt) : (modLink s l f).tiers = s.tiers := rfl
@[simp] theorem modLink_links (s : State) (l : Nat) (f : LinkSt → LinkSt) : (modLink s l f).links = sset linkReset s.links l (f (getLink s l)) := rfl
@[simp] theorem modLink_lctlPhys (s : State) (l : Nat) (f : LinkSt → LinkSt) : (modLink s l f).lctlPhys = s.lctlPhys := rfl
@[simp] theorem modLink_lctlEnable (s : State) (l : Nat) (f : LinkSt → LinkSt) : (modLink s l f).lctlEnable = s.lctlEnable := rfl
@[simp] theorem modLink_lctlRefused (s : State) (l : Nat) (f : LinkSt → LinkSt) : (modLink s l f).lctlRefused = s.lctlRefused := rfl
@[simp] theorem modLink_headers (s : State) (l : Nat) (f : LinkSt → LinkSt) : (modLink s l f).headers = s.headers := rfl
@[simp] theorem modLink_wear (s : State) (l : Nat) (f : LinkSt → LinkSt) : (modLink s l f).wear = s.wear := rfl
@[simp] theorem modLink_hif (s : State) (l : Nat) (f : LinkSt → LinkSt) : (modLink s l f).hif = s.hif := rfl
@[simp] theorem modLink_ward (s : State) (l : Nat) (f : LinkSt → LinkSt) : (modLink s l f).ward = s.ward := rfl
@[simp] theorem modLink_power (s : State) (l : Nat) (f : LinkSt → LinkSt) : (modLink s l f).power = s.power := rfl
@[simp] theorem modLink_trace (s : State) (l : Nat) (f : LinkSt → LinkSt) : (modLink s l f).trace = s.trace := rfl
@[simp] theorem modLink_budget (s : State) (l : Nat) (f : LinkSt → LinkSt) : (modLink s l f).budget = s.budget := rfl
@[simp] theorem modLink_out (s : State) (l : Nat) (f : LinkSt → LinkSt) : (modLink s l f).out = s.out := rfl
@[simp] theorem modLink_fresh (s : State) (l : Nat) (f : LinkSt → LinkSt) : (modLink s l f).fresh = s.fresh := rfl
@[simp] theorem modLink_seq (s : State) (l : Nat) (f : LinkSt → LinkSt) : (modLink s l f).seq = s.seq := rfl
@[simp] theorem modLink_pending (s : State) (l : Nat) (f : LinkSt → LinkSt) : (modLink s l f).pending = s.pending := rfl

/-! `modPage` -/

@[simp] theorem modPage_id (s : State) (g : Nat) (f : Page → Page) : (modPage s g f).id = s.id := rfl
@[simp] theorem modPage_time (s : State) (g : Nat) (f : Page → Page) : (modPage s g f).time = s.time := rfl
@[simp] theorem modPage_sect (s : State) (g : Nat) (f : Page → Page) : (modPage s g f).sect = s.sect := rfl
@[simp] theorem modPage_slots (s : State) (g : Nat) (f : Page → Page) : (modPage s g f).slots = s.slots := rfl
@[simp] theorem modPage_slotsNow (s : State) (g : Nat) (f : Page → Page) : (modPage s g f).slotsNow = s.slotsNow := rfl
@[simp] theorem modPage_slotRefused (s : State) (g : Nat) (f : Page → Page) : (modPage s g f).slotRefused = s.slotRefused := rfl
@[simp] theorem modPage_ownRefused (s : State) (g : Nat) (f : Page → Page) : (modPage s g f).ownRefused = s.ownRefused := rfl
@[simp] theorem modPage_nflag (s : State) (g : Nat) (f : Page → Page) : (modPage s g f).nflag = s.nflag := rfl
@[simp] theorem modPage_rings (s : State) (g : Nat) (f : Page → Page) : (modPage s g f).rings = s.rings := rfl
@[simp] theorem modPage_cmds (s : State) (g : Nat) (f : Page → Page) : (modPage s g f).cmds = s.cmds := rfl
@[simp] theorem modPage_recs (s : State) (g : Nat) (f : Page → Page) : (modPage s g f).recs = s.recs := rfl
@[simp] theorem modPage_steps (s : State) (g : Nat) (f : Page → Page) : (modPage s g f).steps = s.steps := rfl
@[simp] theorem modPage_images (s : State) (g : Nat) (f : Page → Page) : (modPage s g f).images = s.images := rfl
@[simp] theorem modPage_loadPages (s : State) (g : Nat) (f : Page → Page) : (modPage s g f).loadPages = s.loadPages := rfl
@[simp] theorem modPage_cores (s : State) (g : Nat) (f : Page → Page) : (modPage s g f).cores = s.cores := rfl
@[simp] theorem modPage_store (s : State) (g : Nat) (f : Page → Page) : (modPage s g f).store = s.store := rfl
@[simp] theorem modPage_slate (s : State) (g : Nat) (f : Page → Page) : (modPage s g f).slate = s.slate := rfl
@[simp] theorem modPage_commons (s : State) (g : Nat) (f : Page → Page) : (modPage s g f).commons = s.commons := rfl
@[simp] theorem modPage_acc (s : State) (g : Nat) (f : Page → Page) : (modPage s g f).acc = s.acc := rfl
@[simp] theorem modPage_colls (s : State) (g : Nat) (f : Page → Page) : (modPage s g f).colls = s.colls := rfl
@[simp] theorem modPage_tiers (s : State) (g : Nat) (f : Page → Page) : (modPage s g f).tiers = { s.tiers with pages := sset pageReset s.tiers.pages g (f (getPage s g)) } := rfl
@[simp] theorem modPage_links (s : State) (g : Nat) (f : Page → Page) : (modPage s g f).links = s.links := rfl
@[simp] theorem modPage_lctlPhys (s : State) (g : Nat) (f : Page → Page) : (modPage s g f).lctlPhys = s.lctlPhys := rfl
@[simp] theorem modPage_lctlEnable (s : State) (g : Nat) (f : Page → Page) : (modPage s g f).lctlEnable = s.lctlEnable := rfl
@[simp] theorem modPage_lctlRefused (s : State) (g : Nat) (f : Page → Page) : (modPage s g f).lctlRefused = s.lctlRefused := rfl
@[simp] theorem modPage_headers (s : State) (g : Nat) (f : Page → Page) : (modPage s g f).headers = s.headers := rfl
@[simp] theorem modPage_wear (s : State) (g : Nat) (f : Page → Page) : (modPage s g f).wear = s.wear := rfl
@[simp] theorem modPage_hif (s : State) (g : Nat) (f : Page → Page) : (modPage s g f).hif = s.hif := rfl
@[simp] theorem modPage_ward (s : State) (g : Nat) (f : Page → Page) : (modPage s g f).ward = s.ward := rfl
@[simp] theorem modPage_power (s : State) (g : Nat) (f : Page → Page) : (modPage s g f).power = s.power := rfl
@[simp] theorem modPage_trace (s : State) (g : Nat) (f : Page → Page) : (modPage s g f).trace = s.trace := rfl
@[simp] theorem modPage_budget (s : State) (g : Nat) (f : Page → Page) : (modPage s g f).budget = s.budget := rfl
@[simp] theorem modPage_out (s : State) (g : Nat) (f : Page → Page) : (modPage s g f).out = s.out := rfl
@[simp] theorem modPage_fresh (s : State) (g : Nat) (f : Page → Page) : (modPage s g f).fresh = s.fresh := rfl
@[simp] theorem modPage_seq (s : State) (g : Nat) (f : Page → Page) : (modPage s g f).seq = s.seq := rfl
@[simp] theorem modPage_pending (s : State) (g : Nat) (f : Page → Page) : (modPage s g f).pending = s.pending := rfl

/-! `setBlk` -/

@[simp] theorem setBlk_id (s : State) (b : Nat) (x : Byte) : (setBlk s b x).id = s.id := rfl
@[simp] theorem setBlk_time (s : State) (b : Nat) (x : Byte) : (setBlk s b x).time = s.time := rfl
@[simp] theorem setBlk_sect (s : State) (b : Nat) (x : Byte) : (setBlk s b x).sect = s.sect := rfl
@[simp] theorem setBlk_slots (s : State) (b : Nat) (x : Byte) : (setBlk s b x).slots = s.slots := rfl
@[simp] theorem setBlk_slotsNow (s : State) (b : Nat) (x : Byte) : (setBlk s b x).slotsNow = s.slotsNow := rfl
@[simp] theorem setBlk_slotRefused (s : State) (b : Nat) (x : Byte) : (setBlk s b x).slotRefused = s.slotRefused := rfl
@[simp] theorem setBlk_ownRefused (s : State) (b : Nat) (x : Byte) : (setBlk s b x).ownRefused = s.ownRefused := rfl
@[simp] theorem setBlk_nflag (s : State) (b : Nat) (x : Byte) : (setBlk s b x).nflag = s.nflag := rfl
@[simp] theorem setBlk_rings (s : State) (b : Nat) (x : Byte) : (setBlk s b x).rings = s.rings := rfl
@[simp] theorem setBlk_cmds (s : State) (b : Nat) (x : Byte) : (setBlk s b x).cmds = s.cmds := rfl
@[simp] theorem setBlk_recs (s : State) (b : Nat) (x : Byte) : (setBlk s b x).recs = s.recs := rfl
@[simp] theorem setBlk_steps (s : State) (b : Nat) (x : Byte) : (setBlk s b x).steps = s.steps := rfl
@[simp] theorem setBlk_images (s : State) (b : Nat) (x : Byte) : (setBlk s b x).images = s.images := rfl
@[simp] theorem setBlk_loadPages (s : State) (b : Nat) (x : Byte) : (setBlk s b x).loadPages = s.loadPages := rfl
@[simp] theorem setBlk_cores (s : State) (b : Nat) (x : Byte) : (setBlk s b x).cores = s.cores := rfl
@[simp] theorem setBlk_store (s : State) (b : Nat) (x : Byte) : (setBlk s b x).store = s.store := rfl
@[simp] theorem setBlk_slate (s : State) (b : Nat) (x : Byte) : (setBlk s b x).slate = s.slate := rfl
@[simp] theorem setBlk_commons (s : State) (b : Nat) (x : Byte) : (setBlk s b x).commons = s.commons := rfl
@[simp] theorem setBlk_acc (s : State) (b : Nat) (x : Byte) : (setBlk s b x).acc = s.acc := rfl
@[simp] theorem setBlk_colls (s : State) (b : Nat) (x : Byte) : (setBlk s b x).colls = s.colls := rfl
@[simp] theorem setBlk_tiers (s : State) (b : Nat) (x : Byte) : (setBlk s b x).tiers = { s.tiers with blk := sset blkReset s.tiers.blk b x } := rfl
@[simp] theorem setBlk_links (s : State) (b : Nat) (x : Byte) : (setBlk s b x).links = s.links := rfl
@[simp] theorem setBlk_lctlPhys (s : State) (b : Nat) (x : Byte) : (setBlk s b x).lctlPhys = s.lctlPhys := rfl
@[simp] theorem setBlk_lctlEnable (s : State) (b : Nat) (x : Byte) : (setBlk s b x).lctlEnable = s.lctlEnable := rfl
@[simp] theorem setBlk_lctlRefused (s : State) (b : Nat) (x : Byte) : (setBlk s b x).lctlRefused = s.lctlRefused := rfl
@[simp] theorem setBlk_headers (s : State) (b : Nat) (x : Byte) : (setBlk s b x).headers = s.headers := rfl
@[simp] theorem setBlk_wear (s : State) (b : Nat) (x : Byte) : (setBlk s b x).wear = s.wear := rfl
@[simp] theorem setBlk_hif (s : State) (b : Nat) (x : Byte) : (setBlk s b x).hif = s.hif := rfl
@[simp] theorem setBlk_ward (s : State) (b : Nat) (x : Byte) : (setBlk s b x).ward = s.ward := rfl
@[simp] theorem setBlk_power (s : State) (b : Nat) (x : Byte) : (setBlk s b x).power = s.power := rfl
@[simp] theorem setBlk_trace (s : State) (b : Nat) (x : Byte) : (setBlk s b x).trace = s.trace := rfl
@[simp] theorem setBlk_budget (s : State) (b : Nat) (x : Byte) : (setBlk s b x).budget = s.budget := rfl
@[simp] theorem setBlk_out (s : State) (b : Nat) (x : Byte) : (setBlk s b x).out = s.out := rfl
@[simp] theorem setBlk_fresh (s : State) (b : Nat) (x : Byte) : (setBlk s b x).fresh = s.fresh := rfl
@[simp] theorem setBlk_seq (s : State) (b : Nat) (x : Byte) : (setBlk s b x).seq = s.seq := rfl
@[simp] theorem setBlk_pending (s : State) (b : Nat) (x : Byte) : (setBlk s b x).pending = s.pending := rfl

/-! `setGblk` -/

@[simp] theorem setGblk_id (s : State) (b : Nat) (x : Byte) : (setGblk s b x).id = s.id := rfl
@[simp] theorem setGblk_time (s : State) (b : Nat) (x : Byte) : (setGblk s b x).time = s.time := rfl
@[simp] theorem setGblk_sect (s : State) (b : Nat) (x : Byte) : (setGblk s b x).sect = s.sect := rfl
@[simp] theorem setGblk_slots (s : State) (b : Nat) (x : Byte) : (setGblk s b x).slots = s.slots := rfl
@[simp] theorem setGblk_slotsNow (s : State) (b : Nat) (x : Byte) : (setGblk s b x).slotsNow = s.slotsNow := rfl
@[simp] theorem setGblk_slotRefused (s : State) (b : Nat) (x : Byte) : (setGblk s b x).slotRefused = s.slotRefused := rfl
@[simp] theorem setGblk_ownRefused (s : State) (b : Nat) (x : Byte) : (setGblk s b x).ownRefused = s.ownRefused := rfl
@[simp] theorem setGblk_nflag (s : State) (b : Nat) (x : Byte) : (setGblk s b x).nflag = s.nflag := rfl
@[simp] theorem setGblk_rings (s : State) (b : Nat) (x : Byte) : (setGblk s b x).rings = s.rings := rfl
@[simp] theorem setGblk_cmds (s : State) (b : Nat) (x : Byte) : (setGblk s b x).cmds = s.cmds := rfl
@[simp] theorem setGblk_recs (s : State) (b : Nat) (x : Byte) : (setGblk s b x).recs = s.recs := rfl
@[simp] theorem setGblk_steps (s : State) (b : Nat) (x : Byte) : (setGblk s b x).steps = s.steps := rfl
@[simp] theorem setGblk_images (s : State) (b : Nat) (x : Byte) : (setGblk s b x).images = s.images := rfl
@[simp] theorem setGblk_loadPages (s : State) (b : Nat) (x : Byte) : (setGblk s b x).loadPages = s.loadPages := rfl
@[simp] theorem setGblk_cores (s : State) (b : Nat) (x : Byte) : (setGblk s b x).cores = s.cores := rfl
@[simp] theorem setGblk_store (s : State) (b : Nat) (x : Byte) : (setGblk s b x).store = s.store := rfl
@[simp] theorem setGblk_slate (s : State) (b : Nat) (x : Byte) : (setGblk s b x).slate = s.slate := rfl
@[simp] theorem setGblk_commons (s : State) (b : Nat) (x : Byte) : (setGblk s b x).commons = s.commons := rfl
@[simp] theorem setGblk_acc (s : State) (b : Nat) (x : Byte) : (setGblk s b x).acc = s.acc := rfl
@[simp] theorem setGblk_colls (s : State) (b : Nat) (x : Byte) : (setGblk s b x).colls = s.colls := rfl
@[simp] theorem setGblk_tiers (s : State) (b : Nat) (x : Byte) : (setGblk s b x).tiers = { s.tiers with gblk := sset 0 s.tiers.gblk b x } := rfl
@[simp] theorem setGblk_links (s : State) (b : Nat) (x : Byte) : (setGblk s b x).links = s.links := rfl
@[simp] theorem setGblk_lctlPhys (s : State) (b : Nat) (x : Byte) : (setGblk s b x).lctlPhys = s.lctlPhys := rfl
@[simp] theorem setGblk_lctlEnable (s : State) (b : Nat) (x : Byte) : (setGblk s b x).lctlEnable = s.lctlEnable := rfl
@[simp] theorem setGblk_lctlRefused (s : State) (b : Nat) (x : Byte) : (setGblk s b x).lctlRefused = s.lctlRefused := rfl
@[simp] theorem setGblk_headers (s : State) (b : Nat) (x : Byte) : (setGblk s b x).headers = s.headers := rfl
@[simp] theorem setGblk_wear (s : State) (b : Nat) (x : Byte) : (setGblk s b x).wear = s.wear := rfl
@[simp] theorem setGblk_hif (s : State) (b : Nat) (x : Byte) : (setGblk s b x).hif = s.hif := rfl
@[simp] theorem setGblk_ward (s : State) (b : Nat) (x : Byte) : (setGblk s b x).ward = s.ward := rfl
@[simp] theorem setGblk_power (s : State) (b : Nat) (x : Byte) : (setGblk s b x).power = s.power := rfl
@[simp] theorem setGblk_trace (s : State) (b : Nat) (x : Byte) : (setGblk s b x).trace = s.trace := rfl
@[simp] theorem setGblk_budget (s : State) (b : Nat) (x : Byte) : (setGblk s b x).budget = s.budget := rfl
@[simp] theorem setGblk_out (s : State) (b : Nat) (x : Byte) : (setGblk s b x).out = s.out := rfl
@[simp] theorem setGblk_fresh (s : State) (b : Nat) (x : Byte) : (setGblk s b x).fresh = s.fresh := rfl
@[simp] theorem setGblk_seq (s : State) (b : Nat) (x : Byte) : (setGblk s b x).seq = s.seq := rfl
@[simp] theorem setGblk_pending (s : State) (b : Nat) (x : Byte) : (setGblk s b x).pending = s.pending := rfl

/-! `modHif` -/

@[simp] theorem modHif_id (s : State) (f : Hif → Hif) : (modHif s f).id = s.id := rfl
@[simp] theorem modHif_time (s : State) (f : Hif → Hif) : (modHif s f).time = s.time := rfl
@[simp] theorem modHif_sect (s : State) (f : Hif → Hif) : (modHif s f).sect = s.sect := rfl
@[simp] theorem modHif_slots (s : State) (f : Hif → Hif) : (modHif s f).slots = s.slots := rfl
@[simp] theorem modHif_slotsNow (s : State) (f : Hif → Hif) : (modHif s f).slotsNow = s.slotsNow := rfl
@[simp] theorem modHif_slotRefused (s : State) (f : Hif → Hif) : (modHif s f).slotRefused = s.slotRefused := rfl
@[simp] theorem modHif_ownRefused (s : State) (f : Hif → Hif) : (modHif s f).ownRefused = s.ownRefused := rfl
@[simp] theorem modHif_nflag (s : State) (f : Hif → Hif) : (modHif s f).nflag = s.nflag := rfl
@[simp] theorem modHif_rings (s : State) (f : Hif → Hif) : (modHif s f).rings = s.rings := rfl
@[simp] theorem modHif_cmds (s : State) (f : Hif → Hif) : (modHif s f).cmds = s.cmds := rfl
@[simp] theorem modHif_recs (s : State) (f : Hif → Hif) : (modHif s f).recs = s.recs := rfl
@[simp] theorem modHif_steps (s : State) (f : Hif → Hif) : (modHif s f).steps = s.steps := rfl
@[simp] theorem modHif_images (s : State) (f : Hif → Hif) : (modHif s f).images = s.images := rfl
@[simp] theorem modHif_loadPages (s : State) (f : Hif → Hif) : (modHif s f).loadPages = s.loadPages := rfl
@[simp] theorem modHif_cores (s : State) (f : Hif → Hif) : (modHif s f).cores = s.cores := rfl
@[simp] theorem modHif_store (s : State) (f : Hif → Hif) : (modHif s f).store = s.store := rfl
@[simp] theorem modHif_slate (s : State) (f : Hif → Hif) : (modHif s f).slate = s.slate := rfl
@[simp] theorem modHif_commons (s : State) (f : Hif → Hif) : (modHif s f).commons = s.commons := rfl
@[simp] theorem modHif_acc (s : State) (f : Hif → Hif) : (modHif s f).acc = s.acc := rfl
@[simp] theorem modHif_colls (s : State) (f : Hif → Hif) : (modHif s f).colls = s.colls := rfl
@[simp] theorem modHif_tiers (s : State) (f : Hif → Hif) : (modHif s f).tiers = s.tiers := rfl
@[simp] theorem modHif_links (s : State) (f : Hif → Hif) : (modHif s f).links = s.links := rfl
@[simp] theorem modHif_lctlPhys (s : State) (f : Hif → Hif) : (modHif s f).lctlPhys = s.lctlPhys := rfl
@[simp] theorem modHif_lctlEnable (s : State) (f : Hif → Hif) : (modHif s f).lctlEnable = s.lctlEnable := rfl
@[simp] theorem modHif_lctlRefused (s : State) (f : Hif → Hif) : (modHif s f).lctlRefused = s.lctlRefused := rfl
@[simp] theorem modHif_headers (s : State) (f : Hif → Hif) : (modHif s f).headers = s.headers := rfl
@[simp] theorem modHif_wear (s : State) (f : Hif → Hif) : (modHif s f).wear = s.wear := rfl
@[simp] theorem modHif_hif (s : State) (f : Hif → Hif) : (modHif s f).hif = f s.hif := rfl
@[simp] theorem modHif_ward (s : State) (f : Hif → Hif) : (modHif s f).ward = s.ward := rfl
@[simp] theorem modHif_power (s : State) (f : Hif → Hif) : (modHif s f).power = s.power := rfl
@[simp] theorem modHif_trace (s : State) (f : Hif → Hif) : (modHif s f).trace = s.trace := rfl
@[simp] theorem modHif_budget (s : State) (f : Hif → Hif) : (modHif s f).budget = s.budget := rfl
@[simp] theorem modHif_out (s : State) (f : Hif → Hif) : (modHif s f).out = s.out := rfl
@[simp] theorem modHif_fresh (s : State) (f : Hif → Hif) : (modHif s f).fresh = s.fresh := rfl
@[simp] theorem modHif_seq (s : State) (f : Hif → Hif) : (modHif s f).seq = s.seq := rfl
@[simp] theorem modHif_pending (s : State) (f : Hif → Hif) : (modHif s f).pending = s.pending := rfl

/-! `modWard` -/

@[simp] theorem modWard_id (s : State) (f : Warden → Warden) : (modWard s f).id = s.id := rfl
@[simp] theorem modWard_time (s : State) (f : Warden → Warden) : (modWard s f).time = s.time := rfl
@[simp] theorem modWard_sect (s : State) (f : Warden → Warden) : (modWard s f).sect = s.sect := rfl
@[simp] theorem modWard_slots (s : State) (f : Warden → Warden) : (modWard s f).slots = s.slots := rfl
@[simp] theorem modWard_slotsNow (s : State) (f : Warden → Warden) : (modWard s f).slotsNow = s.slotsNow := rfl
@[simp] theorem modWard_slotRefused (s : State) (f : Warden → Warden) : (modWard s f).slotRefused = s.slotRefused := rfl
@[simp] theorem modWard_ownRefused (s : State) (f : Warden → Warden) : (modWard s f).ownRefused = s.ownRefused := rfl
@[simp] theorem modWard_nflag (s : State) (f : Warden → Warden) : (modWard s f).nflag = s.nflag := rfl
@[simp] theorem modWard_rings (s : State) (f : Warden → Warden) : (modWard s f).rings = s.rings := rfl
@[simp] theorem modWard_cmds (s : State) (f : Warden → Warden) : (modWard s f).cmds = s.cmds := rfl
@[simp] theorem modWard_recs (s : State) (f : Warden → Warden) : (modWard s f).recs = s.recs := rfl
@[simp] theorem modWard_steps (s : State) (f : Warden → Warden) : (modWard s f).steps = s.steps := rfl
@[simp] theorem modWard_images (s : State) (f : Warden → Warden) : (modWard s f).images = s.images := rfl
@[simp] theorem modWard_loadPages (s : State) (f : Warden → Warden) : (modWard s f).loadPages = s.loadPages := rfl
@[simp] theorem modWard_cores (s : State) (f : Warden → Warden) : (modWard s f).cores = s.cores := rfl
@[simp] theorem modWard_store (s : State) (f : Warden → Warden) : (modWard s f).store = s.store := rfl
@[simp] theorem modWard_slate (s : State) (f : Warden → Warden) : (modWard s f).slate = s.slate := rfl
@[simp] theorem modWard_commons (s : State) (f : Warden → Warden) : (modWard s f).commons = s.commons := rfl
@[simp] theorem modWard_acc (s : State) (f : Warden → Warden) : (modWard s f).acc = s.acc := rfl
@[simp] theorem modWard_colls (s : State) (f : Warden → Warden) : (modWard s f).colls = s.colls := rfl
@[simp] theorem modWard_tiers (s : State) (f : Warden → Warden) : (modWard s f).tiers = s.tiers := rfl
@[simp] theorem modWard_links (s : State) (f : Warden → Warden) : (modWard s f).links = s.links := rfl
@[simp] theorem modWard_lctlPhys (s : State) (f : Warden → Warden) : (modWard s f).lctlPhys = s.lctlPhys := rfl
@[simp] theorem modWard_lctlEnable (s : State) (f : Warden → Warden) : (modWard s f).lctlEnable = s.lctlEnable := rfl
@[simp] theorem modWard_lctlRefused (s : State) (f : Warden → Warden) : (modWard s f).lctlRefused = s.lctlRefused := rfl
@[simp] theorem modWard_headers (s : State) (f : Warden → Warden) : (modWard s f).headers = s.headers := rfl
@[simp] theorem modWard_wear (s : State) (f : Warden → Warden) : (modWard s f).wear = s.wear := rfl
@[simp] theorem modWard_hif (s : State) (f : Warden → Warden) : (modWard s f).hif = s.hif := rfl
@[simp] theorem modWard_ward (s : State) (f : Warden → Warden) : (modWard s f).ward = f s.ward := rfl
@[simp] theorem modWard_power (s : State) (f : Warden → Warden) : (modWard s f).power = s.power := rfl
@[simp] theorem modWard_trace (s : State) (f : Warden → Warden) : (modWard s f).trace = s.trace := rfl
@[simp] theorem modWard_budget (s : State) (f : Warden → Warden) : (modWard s f).budget = s.budget := rfl
@[simp] theorem modWard_out (s : State) (f : Warden → Warden) : (modWard s f).out = s.out := rfl
@[simp] theorem modWard_fresh (s : State) (f : Warden → Warden) : (modWard s f).fresh = s.fresh := rfl
@[simp] theorem modWard_seq (s : State) (f : Warden → Warden) : (modWard s f).seq = s.seq := rfl
@[simp] theorem modWard_pending (s : State) (f : Warden → Warden) : (modWard s f).pending = s.pending := rfl

/-! `modPower` -/

@[simp] theorem modPower_id (s : State) (f : Power → Power) : (modPower s f).id = s.id := rfl
@[simp] theorem modPower_time (s : State) (f : Power → Power) : (modPower s f).time = s.time := rfl
@[simp] theorem modPower_sect (s : State) (f : Power → Power) : (modPower s f).sect = s.sect := rfl
@[simp] theorem modPower_slots (s : State) (f : Power → Power) : (modPower s f).slots = s.slots := rfl
@[simp] theorem modPower_slotsNow (s : State) (f : Power → Power) : (modPower s f).slotsNow = s.slotsNow := rfl
@[simp] theorem modPower_slotRefused (s : State) (f : Power → Power) : (modPower s f).slotRefused = s.slotRefused := rfl
@[simp] theorem modPower_ownRefused (s : State) (f : Power → Power) : (modPower s f).ownRefused = s.ownRefused := rfl
@[simp] theorem modPower_nflag (s : State) (f : Power → Power) : (modPower s f).nflag = s.nflag := rfl
@[simp] theorem modPower_rings (s : State) (f : Power → Power) : (modPower s f).rings = s.rings := rfl
@[simp] theorem modPower_cmds (s : State) (f : Power → Power) : (modPower s f).cmds = s.cmds := rfl
@[simp] theorem modPower_recs (s : State) (f : Power → Power) : (modPower s f).recs = s.recs := rfl
@[simp] theorem modPower_steps (s : State) (f : Power → Power) : (modPower s f).steps = s.steps := rfl
@[simp] theorem modPower_images (s : State) (f : Power → Power) : (modPower s f).images = s.images := rfl
@[simp] theorem modPower_loadPages (s : State) (f : Power → Power) : (modPower s f).loadPages = s.loadPages := rfl
@[simp] theorem modPower_cores (s : State) (f : Power → Power) : (modPower s f).cores = s.cores := rfl
@[simp] theorem modPower_store (s : State) (f : Power → Power) : (modPower s f).store = s.store := rfl
@[simp] theorem modPower_slate (s : State) (f : Power → Power) : (modPower s f).slate = s.slate := rfl
@[simp] theorem modPower_commons (s : State) (f : Power → Power) : (modPower s f).commons = s.commons := rfl
@[simp] theorem modPower_acc (s : State) (f : Power → Power) : (modPower s f).acc = s.acc := rfl
@[simp] theorem modPower_colls (s : State) (f : Power → Power) : (modPower s f).colls = s.colls := rfl
@[simp] theorem modPower_tiers (s : State) (f : Power → Power) : (modPower s f).tiers = s.tiers := rfl
@[simp] theorem modPower_links (s : State) (f : Power → Power) : (modPower s f).links = s.links := rfl
@[simp] theorem modPower_lctlPhys (s : State) (f : Power → Power) : (modPower s f).lctlPhys = s.lctlPhys := rfl
@[simp] theorem modPower_lctlEnable (s : State) (f : Power → Power) : (modPower s f).lctlEnable = s.lctlEnable := rfl
@[simp] theorem modPower_lctlRefused (s : State) (f : Power → Power) : (modPower s f).lctlRefused = s.lctlRefused := rfl
@[simp] theorem modPower_headers (s : State) (f : Power → Power) : (modPower s f).headers = s.headers := rfl
@[simp] theorem modPower_wear (s : State) (f : Power → Power) : (modPower s f).wear = s.wear := rfl
@[simp] theorem modPower_hif (s : State) (f : Power → Power) : (modPower s f).hif = s.hif := rfl
@[simp] theorem modPower_ward (s : State) (f : Power → Power) : (modPower s f).ward = s.ward := rfl
@[simp] theorem modPower_power (s : State) (f : Power → Power) : (modPower s f).power = f s.power := rfl
@[simp] theorem modPower_trace (s : State) (f : Power → Power) : (modPower s f).trace = s.trace := rfl
@[simp] theorem modPower_budget (s : State) (f : Power → Power) : (modPower s f).budget = s.budget := rfl
@[simp] theorem modPower_out (s : State) (f : Power → Power) : (modPower s f).out = s.out := rfl
@[simp] theorem modPower_fresh (s : State) (f : Power → Power) : (modPower s f).fresh = s.fresh := rfl
@[simp] theorem modPower_seq (s : State) (f : Power → Power) : (modPower s f).seq = s.seq := rfl
@[simp] theorem modPower_pending (s : State) (f : Power → Power) : (modPower s f).pending = s.pending := rfl

/-! `modTime` -/

@[simp] theorem modTime_id (s : State) (f : Time → Time) : (modTime s f).id = s.id := rfl
@[simp] theorem modTime_time (s : State) (f : Time → Time) : (modTime s f).time = f s.time := rfl
@[simp] theorem modTime_sect (s : State) (f : Time → Time) : (modTime s f).sect = s.sect := rfl
@[simp] theorem modTime_slots (s : State) (f : Time → Time) : (modTime s f).slots = s.slots := rfl
@[simp] theorem modTime_slotsNow (s : State) (f : Time → Time) : (modTime s f).slotsNow = s.slotsNow := rfl
@[simp] theorem modTime_slotRefused (s : State) (f : Time → Time) : (modTime s f).slotRefused = s.slotRefused := rfl
@[simp] theorem modTime_ownRefused (s : State) (f : Time → Time) : (modTime s f).ownRefused = s.ownRefused := rfl
@[simp] theorem modTime_nflag (s : State) (f : Time → Time) : (modTime s f).nflag = s.nflag := rfl
@[simp] theorem modTime_rings (s : State) (f : Time → Time) : (modTime s f).rings = s.rings := rfl
@[simp] theorem modTime_cmds (s : State) (f : Time → Time) : (modTime s f).cmds = s.cmds := rfl
@[simp] theorem modTime_recs (s : State) (f : Time → Time) : (modTime s f).recs = s.recs := rfl
@[simp] theorem modTime_steps (s : State) (f : Time → Time) : (modTime s f).steps = s.steps := rfl
@[simp] theorem modTime_images (s : State) (f : Time → Time) : (modTime s f).images = s.images := rfl
@[simp] theorem modTime_loadPages (s : State) (f : Time → Time) : (modTime s f).loadPages = s.loadPages := rfl
@[simp] theorem modTime_cores (s : State) (f : Time → Time) : (modTime s f).cores = s.cores := rfl
@[simp] theorem modTime_store (s : State) (f : Time → Time) : (modTime s f).store = s.store := rfl
@[simp] theorem modTime_slate (s : State) (f : Time → Time) : (modTime s f).slate = s.slate := rfl
@[simp] theorem modTime_commons (s : State) (f : Time → Time) : (modTime s f).commons = s.commons := rfl
@[simp] theorem modTime_acc (s : State) (f : Time → Time) : (modTime s f).acc = s.acc := rfl
@[simp] theorem modTime_colls (s : State) (f : Time → Time) : (modTime s f).colls = s.colls := rfl
@[simp] theorem modTime_tiers (s : State) (f : Time → Time) : (modTime s f).tiers = s.tiers := rfl
@[simp] theorem modTime_links (s : State) (f : Time → Time) : (modTime s f).links = s.links := rfl
@[simp] theorem modTime_lctlPhys (s : State) (f : Time → Time) : (modTime s f).lctlPhys = s.lctlPhys := rfl
@[simp] theorem modTime_lctlEnable (s : State) (f : Time → Time) : (modTime s f).lctlEnable = s.lctlEnable := rfl
@[simp] theorem modTime_lctlRefused (s : State) (f : Time → Time) : (modTime s f).lctlRefused = s.lctlRefused := rfl
@[simp] theorem modTime_headers (s : State) (f : Time → Time) : (modTime s f).headers = s.headers := rfl
@[simp] theorem modTime_wear (s : State) (f : Time → Time) : (modTime s f).wear = s.wear := rfl
@[simp] theorem modTime_hif (s : State) (f : Time → Time) : (modTime s f).hif = s.hif := rfl
@[simp] theorem modTime_ward (s : State) (f : Time → Time) : (modTime s f).ward = s.ward := rfl
@[simp] theorem modTime_power (s : State) (f : Time → Time) : (modTime s f).power = s.power := rfl
@[simp] theorem modTime_trace (s : State) (f : Time → Time) : (modTime s f).trace = s.trace := rfl
@[simp] theorem modTime_budget (s : State) (f : Time → Time) : (modTime s f).budget = s.budget := rfl
@[simp] theorem modTime_out (s : State) (f : Time → Time) : (modTime s f).out = s.out := rfl
@[simp] theorem modTime_fresh (s : State) (f : Time → Time) : (modTime s f).fresh = s.fresh := rfl
@[simp] theorem modTime_seq (s : State) (f : Time → Time) : (modTime s f).seq = s.seq := rfl
@[simp] theorem modTime_pending (s : State) (f : Time → Time) : (modTime s f).pending = s.pending := rfl

/-! `emit` -/

@[simp] theorem emit_id (s : State) (o : Out) : (emit s o).id = s.id := rfl
@[simp] theorem emit_time (s : State) (o : Out) : (emit s o).time = s.time := rfl
@[simp] theorem emit_sect (s : State) (o : Out) : (emit s o).sect = s.sect := rfl
@[simp] theorem emit_slots (s : State) (o : Out) : (emit s o).slots = s.slots := rfl
@[simp] theorem emit_slotsNow (s : State) (o : Out) : (emit s o).slotsNow = s.slotsNow := rfl
@[simp] theorem emit_slotRefused (s : State) (o : Out) : (emit s o).slotRefused = s.slotRefused := rfl
@[simp] theorem emit_ownRefused (s : State) (o : Out) : (emit s o).ownRefused = s.ownRefused := rfl
@[simp] theorem emit_nflag (s : State) (o : Out) : (emit s o).nflag = s.nflag := rfl
@[simp] theorem emit_rings (s : State) (o : Out) : (emit s o).rings = s.rings := rfl
@[simp] theorem emit_cmds (s : State) (o : Out) : (emit s o).cmds = s.cmds := rfl
@[simp] theorem emit_recs (s : State) (o : Out) : (emit s o).recs = s.recs := rfl
@[simp] theorem emit_steps (s : State) (o : Out) : (emit s o).steps = s.steps := rfl
@[simp] theorem emit_images (s : State) (o : Out) : (emit s o).images = s.images := rfl
@[simp] theorem emit_loadPages (s : State) (o : Out) : (emit s o).loadPages = s.loadPages := rfl
@[simp] theorem emit_cores (s : State) (o : Out) : (emit s o).cores = s.cores := rfl
@[simp] theorem emit_store (s : State) (o : Out) : (emit s o).store = s.store := rfl
@[simp] theorem emit_slate (s : State) (o : Out) : (emit s o).slate = s.slate := rfl
@[simp] theorem emit_commons (s : State) (o : Out) : (emit s o).commons = s.commons := rfl
@[simp] theorem emit_acc (s : State) (o : Out) : (emit s o).acc = s.acc := rfl
@[simp] theorem emit_colls (s : State) (o : Out) : (emit s o).colls = s.colls := rfl
@[simp] theorem emit_tiers (s : State) (o : Out) : (emit s o).tiers = s.tiers := rfl
@[simp] theorem emit_links (s : State) (o : Out) : (emit s o).links = s.links := rfl
@[simp] theorem emit_lctlPhys (s : State) (o : Out) : (emit s o).lctlPhys = s.lctlPhys := rfl
@[simp] theorem emit_lctlEnable (s : State) (o : Out) : (emit s o).lctlEnable = s.lctlEnable := rfl
@[simp] theorem emit_lctlRefused (s : State) (o : Out) : (emit s o).lctlRefused = s.lctlRefused := rfl
@[simp] theorem emit_headers (s : State) (o : Out) : (emit s o).headers = s.headers := rfl
@[simp] theorem emit_wear (s : State) (o : Out) : (emit s o).wear = s.wear := rfl
@[simp] theorem emit_hif (s : State) (o : Out) : (emit s o).hif = s.hif := rfl
@[simp] theorem emit_ward (s : State) (o : Out) : (emit s o).ward = s.ward := rfl
@[simp] theorem emit_power (s : State) (o : Out) : (emit s o).power = s.power := rfl
@[simp] theorem emit_trace (s : State) (o : Out) : (emit s o).trace = s.trace := rfl
@[simp] theorem emit_budget (s : State) (o : Out) : (emit s o).budget = s.budget := rfl
@[simp] theorem emit_out (s : State) (o : Out) : (emit s o).out = s.out ++ [o] := rfl
@[simp] theorem emit_fresh (s : State) (o : Out) : (emit s o).fresh = s.fresh := rfl
@[simp] theorem emit_seq (s : State) (o : Out) : (emit s o).seq = s.seq := rfl
@[simp] theorem emit_pending (s : State) (o : Out) : (emit s o).pending = s.pending := rfl

/-! `begin` -/

@[simp] theorem begin_id (s : State) : (begin s).id = s.id := rfl
@[simp] theorem begin_time (s : State) : (begin s).time = s.time := rfl
@[simp] theorem begin_sect (s : State) : (begin s).sect = s.sect := rfl
@[simp] theorem begin_slots (s : State) : (begin s).slots = s.slots := rfl
@[simp] theorem begin_slotsNow (s : State) : (begin s).slotsNow = s.slotsNow := rfl
@[simp] theorem begin_slotRefused (s : State) : (begin s).slotRefused = s.slotRefused := rfl
@[simp] theorem begin_ownRefused (s : State) : (begin s).ownRefused = s.ownRefused := rfl
@[simp] theorem begin_nflag (s : State) : (begin s).nflag = s.nflag := rfl
@[simp] theorem begin_rings (s : State) : (begin s).rings = s.rings := rfl
@[simp] theorem begin_cmds (s : State) : (begin s).cmds = s.cmds := rfl
@[simp] theorem begin_recs (s : State) : (begin s).recs = s.recs := rfl
@[simp] theorem begin_steps (s : State) : (begin s).steps = s.steps := rfl
@[simp] theorem begin_images (s : State) : (begin s).images = s.images := rfl
@[simp] theorem begin_loadPages (s : State) : (begin s).loadPages = s.loadPages := rfl
@[simp] theorem begin_cores (s : State) : (begin s).cores = s.cores := rfl
@[simp] theorem begin_store (s : State) : (begin s).store = s.store := rfl
@[simp] theorem begin_slate (s : State) : (begin s).slate = s.slate := rfl
@[simp] theorem begin_commons (s : State) : (begin s).commons = s.commons := rfl
@[simp] theorem begin_acc (s : State) : (begin s).acc = s.acc := rfl
@[simp] theorem begin_colls (s : State) : (begin s).colls = s.colls := rfl
@[simp] theorem begin_tiers (s : State) : (begin s).tiers = s.tiers := rfl
@[simp] theorem begin_links (s : State) : (begin s).links = s.links := rfl
@[simp] theorem begin_lctlPhys (s : State) : (begin s).lctlPhys = s.lctlPhys := rfl
@[simp] theorem begin_lctlEnable (s : State) : (begin s).lctlEnable = s.lctlEnable := rfl
@[simp] theorem begin_lctlRefused (s : State) : (begin s).lctlRefused = s.lctlRefused := rfl
@[simp] theorem begin_headers (s : State) : (begin s).headers = s.headers := rfl
@[simp] theorem begin_wear (s : State) : (begin s).wear = s.wear := rfl
@[simp] theorem begin_hif (s : State) : (begin s).hif = s.hif := rfl
@[simp] theorem begin_ward (s : State) : (begin s).ward = s.ward := rfl
@[simp] theorem begin_power (s : State) : (begin s).power = s.power := rfl
@[simp] theorem begin_trace (s : State) : (begin s).trace = s.trace := rfl
@[simp] theorem begin_budget (s : State) : (begin s).budget = s.budget := rfl
@[simp] theorem begin_out (s : State) : (begin s).out = [] := rfl
@[simp] theorem begin_fresh (s : State) : (begin s).fresh = s.fresh := rfl
@[simp] theorem begin_seq (s : State) : (begin s).seq = s.seq := rfl
@[simp] theorem begin_pending (s : State) : (begin s).pending = s.pending := rfl

/-! Reading back -/

@[simp] theorem getSect_modSect (s : State) (t u : Sec) (f : Sect → Sect) :
    getSect (modSect s t f) u = if u = t then f (getSect s t) else getSect s u := by
  simp [getSect]

@[simp] theorem getCmds_setCmds (s : State) (t u : Sec) (l : List Cmd) :
    getCmds (setCmds s t l) u = if u = t then l else getCmds s u := by
  simp [getCmds]

@[simp] theorem getSteps_modSteps (s : State) (t u : Sec) (f : Steps → Steps) :
    getSteps (modSteps s t f) u = if u = t then f (getSteps s t) else getSteps s u := by
  simp [getSteps]

@[simp] theorem getTrace_modTrace (s : State) (t u : Sec) (f : Trace → Trace) :
    getTrace (modTrace s t f) u = if u = t then f (getTrace s t) else getTrace s u := by
  simp [getTrace]

@[simp] theorem getRing_modRing (s : State) (p q : Pair) (f : Ring → Ring) :
    getRing (modRing s p f) q = if q = p then f (getRing s p) else getRing s q := by
  simp only [getRing, modRing_rings, sget_sset]
  by_cases h : q = p
  · subst h; simp
  · have : q.val ≠ p.val := fun e => h (Fin.ext e)
    simp [h, this]

@[simp] theorem getCore_modCore (s : State) (q r : Nat) (f : Core → Core) :
    getCore (modCore s q f) r = if r = q then f (getCore s q) else getCore s r := by
  simp only [getCore, modCore_cores, sget_sset]

@[simp] theorem getLink_modLink (s : State) (l k : Nat) (f : LinkSt → LinkSt) :
    getLink (modLink s l f) k = if k = l then f (getLink s l) else getLink s k := by
  simp only [getLink, modLink_links, sget_sset]

@[simp] theorem getPage_modPage (s : State) (g k : Nat) (f : Page → Page) :
    getPage (modPage s g f) k = if k = g then f (getPage s g) else getPage s k := by
  simp only [getPage, modPage_tiers, sget_sset]

@[simp] theorem getBlk_setBlk (s : State) (b k : Nat) (x : Byte) :
    getBlk (setBlk s b x) k = if k = b then x else getBlk s k := by
  simp only [getBlk, setBlk_tiers, sget_sset]

@[simp] theorem getGblk_setGblk (s : State) (b k : Nat) (x : Byte) :
    getGblk (setGblk s b x) k = if k = b then x else getGblk s k := by
  simp only [getGblk, setGblk_tiers, sget_sset]

end Sys2Proof.Machine
end

