-- ==== Sys2Proof/Laws/Only.lean ====
section
/-!
SUPPORT. What an operation can change. `ClosedOn P L` says that a property P of states survives any new value of the pieces
in L: of the identity, one with the same core map; of a memory, one in canonical form where the old one is. Every operation
has one lemma, named after it with `_only`, which gives the pieces that it can change: P survives the operation whenever it
is closed on them. With P := Frame L s it is the operation's frame; with P := Kept s it is what every operation keeps.
-/
namespace Sys2Proof.Machine

/-- P survives any new value of a piece. -/
def Closed (P : State → Prop) : Piece → Prop
  | .id => ∀ (s : State) (v : Ident), P s → v.cmap = s.id.cmap → P { s with id := v }
  | .time => ∀ (s : State) (v : Time), P s → P { s with time := v }
  | .sect => ∀ (s : State) (v : Four Sect), P s → P { s with sect := v }
  | .slots => ∀ (s : State) (v : Sparse Byte), P s → P { s with slots := v }
  | .slotsNow => ∀ (s : State) (v : Sparse Byte), P s → P { s with slotsNow := v }
  | .slotRefused => ∀ (s : State) (v : Bool), P s → P { s with slotRefused := v }
  | .ownRefused => ∀ (s : State) (v : Bool), P s → P { s with ownRefused := v }
  | .nflag => ∀ (s : State) (v : Sparse W32), P s → P { s with nflag := v }
  | .rings => ∀ (s : State) (v : Sparse Ring), P s → P { s with rings := v }
  | .cmds => ∀ (s : State) (v : Four (List Cmd)), P s → P { s with cmds := v }
  | .recs => ∀ (s : State) (v : Four (List Rec)), P s → P { s with recs := v }
  | .steps => ∀ (s : State) (v : Four Steps), P s → P { s with steps := v }
  | .images => ∀ (s : State) (v : Four (Option Image)), P s → P { s with images := v }
  | .loadPages => ∀ (s : State) (v : Four (List (List Nat))), P s → P { s with loadPages := v }
  | .cores => ∀ (s : State) (v : Sparse Core), P s → P { s with cores := v }
  | .store => ∀ (s : State) (v : Sparse BundleWord), P s → P { s with store := v }
  | .slate => ∀ (s : State) (v : Memory), P s → (swf 0 s.slate = true → swf 0 v = true) → P { s with slate := v }
  | .commons => ∀ (s : State) (v : Memory), P s → (swf 0 s.commons = true → swf 0 v = true) → P { s with commons := v }
  | .acc => ∀ (s : State) (v : Sparse W32), P s → P { s with acc := v }
  | .colls => ∀ (s : State) (v : Four (List CollSt)), P s → P { s with colls := v }
  | .tiers => ∀ (s : State) (v : Tiers), P s → (swf 0 s.tiers.mem = true → swf 0 v.mem = true) → P { s with tiers := v }
  | .links => ∀ (s : State) (v : Sparse LinkSt), P s → P { s with links := v }
  | .lctlPhys => ∀ (s : State) (v : BitVec 17), P s → P { s with lctlPhys := v }
  | .lctlEnable => ∀ (s : State) (v : BitVec 36), P s → P { s with lctlEnable := v }
  | .lctlRefused => ∀ (s : State) (v : Bool), P s → P { s with lctlRefused := v }
  | .headers => ∀ (s : State) (v : Sparse Header), P s → P { s with headers := v }
  | .wear => ∀ (s : State) (v : Sparse Wear), P s → P { s with wear := v }
  | .hif => ∀ (s : State) (v : Hif), P s → P { s with hif := v }
  | .ward => ∀ (s : State) (v : Warden), P s → P { s with ward := v }
  | .power => ∀ (s : State) (v : Power), P s → P { s with power := v }
  | .trace => ∀ (s : State) (v : Four Trace), P s → P { s with trace := v }
  | .budget => ∀ (s : State) (v : Four Budget), P s → P { s with budget := v }
  | .out => ∀ (s : State) (v : List Out), P s → P { s with out := v }
  | .fresh => ∀ (s : State) (v : Nat), P s → P { s with fresh := v }
  | .seq => ∀ (s : State) (v : Nat), P s → P { s with seq := v }

def ClosedOn (P : State → Prop) (L : List Piece) : Prop := ∀ p ∈ L, Closed P p

variable {P : State → Prop} {L M : List Piece} {s : State}

theorem ClosedOn.sub (h : ClosedOn P L) (hs : M ⊆ L) : ClosedOn P M := fun p hp => h p (hs hp)

theorem upd_time (hc : ClosedOn P L) (hm : Piece.time ∈ L) (v : Time) (h : P s) : P { s with time := v } := hc _ hm s v h
theorem upd_sect (hc : ClosedOn P L) (hm : Piece.sect ∈ L) (v : Four Sect) (h : P s) : P { s with sect := v } := hc _ hm s v h
theorem upd_slots (hc : ClosedOn P L) (hm : Piece.slots ∈ L) (v : Sparse Byte) (h : P s) : P { s with slots := v } := hc _ hm s v h
theorem upd_slotsNow (hc : ClosedOn P L) (hm : Piece.slotsNow ∈ L) (v : Sparse Byte) (h : P s) : P { s with slotsNow := v } := hc _ hm s v h
theorem upd_slotRefused (hc : ClosedOn P L) (hm : Piece.slotRefused ∈ L) (v : Bool) (h : P s) : P { s with slotRefused := v } := hc _ hm s v h
theorem upd_ownRefused (hc : ClosedOn P L) (hm : Piece.ownRefused ∈ L) (v : Bool) (h : P s) : P { s with ownRefused := v } := hc _ hm s v h
theorem upd_nflag (hc : ClosedOn P L) (hm : Piece.nflag ∈ L) (v : Sparse W32) (h : P s) : P { s with nflag := v } := hc _ hm s v h
theorem upd_rings (hc : ClosedOn P L) (hm : Piece.rings ∈ L) (v : Sparse Ring) (h : P s) : P { s with rings := v } := hc _ hm s v h
theorem upd_cmds (hc : ClosedOn P L) (hm : Piece.cmds ∈ L) (v : Four (List Cmd)) (h : P s) : P { s with cmds := v } := hc _ hm s v h
theorem upd_recs (hc : ClosedOn P L) (hm : Piece.recs ∈ L) (v : Four (List Rec)) (h : P s) : P { s with recs := v } := hc _ hm s v h
theorem upd_steps (hc : ClosedOn P L) (hm : Piece.steps ∈ L) (v : Four Steps) (h : P s) : P { s with steps := v } := hc _ hm s v h
theorem upd_images (hc : ClosedOn P L) (hm : Piece.images ∈ L) (v : Four (Option Image)) (h : P s) : P { s with images := v } := hc _ hm s v h
theorem upd_loadPages (hc : ClosedOn P L) (hm : Piece.loadPages ∈ L) (v : Four (List (List Nat))) (h : P s) : P { s with loadPages := v } := hc _ hm s v h
theorem upd_cores (hc : ClosedOn P L) (hm : Piece.cores ∈ L) (v : Sparse Core) (h : P s) : P { s with cores := v } := hc _ hm s v h
theorem upd_store (hc : ClosedOn P L) (hm : Piece.store ∈ L) (v : Sparse BundleWord) (h : P s) : P { s with store := v } := hc _ hm s v h
theorem upd_slate (hc : ClosedOn P L) (hm : Piece.slate ∈ L) (v : Memory) (h : P s)
    (hv : swf 0 s.slate = true → swf 0 v = true) : P { s with slate := v } := hc _ hm s v h hv
theorem upd_commons (hc : ClosedOn P L) (hm : Piece.commons ∈ L) (v : Memory) (h : P s)
    (hv : swf 0 s.commons = true → swf 0 v = true) : P { s with commons := v } := hc _ hm s v h hv
theorem upd_acc (hc : ClosedOn P L) (hm : Piece.acc ∈ L) (v : Sparse W32) (h : P s) : P { s with acc := v } := hc _ hm s v h
theorem upd_colls (hc : ClosedOn P L) (hm : Piece.colls ∈ L) (v : Four (List CollSt)) (h : P s) : P { s with colls := v } := hc _ hm s v h
theorem upd_tiers (hc : ClosedOn P L) (hm : Piece.tiers ∈ L) (v : Tiers) (h : P s) (hv : v.mem = s.tiers.mem) :
    P { s with tiers := v } := hc _ hm s v h (by rw [hv]; exact fun h => h)
theorem upd_links (hc : ClosedOn P L) (hm : Piece.links ∈ L) (v : Sparse LinkSt) (h : P s) : P { s with links := v } := hc _ hm s v h
theorem upd_lctlPhys (hc : ClosedOn P L) (hm : Piece.lctlPhys ∈ L) (v : BitVec 17) (h : P s) : P { s with lctlPhys := v } := hc _ hm s v h
theorem upd_lctlEnable (hc : ClosedOn P L) (hm : Piece.lctlEnable ∈ L) (v : BitVec 36) (h : P s) : P { s with lctlEnable := v } := hc _ hm s v h
theorem upd_lctlRefused (hc : ClosedOn P L) (hm : Piece.lctlRefused ∈ L) (v : Bool) (h : P s) : P { s with lctlRefused := v } := hc _ hm s v h
theorem upd_headers (hc : ClosedOn P L) (hm : Piece.headers ∈ L) (v : Sparse Header) (h : P s) : P { s with headers := v } := hc _ hm s v h
theorem upd_wear (hc : ClosedOn P L) (hm : Piece.wear ∈ L) (v : Sparse Wear) (h : P s) : P { s with wear := v } := hc _ hm s v h
theorem upd_hif (hc : ClosedOn P L) (hm : Piece.hif ∈ L) (v : Hif) (h : P s) : P { s with hif := v } := hc _ hm s v h
theorem upd_ward (hc : ClosedOn P L) (hm : Piece.ward ∈ L) (v : Warden) (h : P s) : P { s with ward := v } := hc _ hm s v h
theorem upd_power (hc : ClosedOn P L) (hm : Piece.power ∈ L) (v : Power) (h : P s) : P { s with power := v } := hc _ hm s v h
theorem upd_trace (hc : ClosedOn P L) (hm : Piece.trace ∈ L) (v : Four Trace) (h : P s) : P { s with trace := v } := hc _ hm s v h
theorem upd_budget (hc : ClosedOn P L) (hm : Piece.budget ∈ L) (v : Four Budget) (h : P s) : P { s with budget := v } := hc _ hm s v h
theorem upd_out (hc : ClosedOn P L) (hm : Piece.out ∈ L) (v : List Out) (h : P s) : P { s with out := v } := hc _ hm s v h
theorem upd_fresh (hc : ClosedOn P L) (hm : Piece.fresh ∈ L) (v : Nat) (h : P s) : P { s with fresh := v } := hc _ hm s v h
theorem upd_seq (hc : ClosedOn P L) (hm : Piece.seq ∈ L) (v : Nat) (h : P s) : P { s with seq := v } := hc _ hm s v h

/-- Device memory changes to another memory in canonical form. -/
theorem upd_mem (hc : ClosedOn P L) (hm : Piece.tiers ∈ L) (v : Tiers) (h : P s)
    (hv : swf 0 s.tiers.mem = true → swf 0 v.mem = true) : P { s with tiers := v } := hc _ hm s v h hv

/-- The identity changes, but for the core map. -/
theorem upd_id (hc : ClosedOn P L) (hm : Piece.id ∈ L) (v : Ident) (h : P s) (hv : v.cmap = s.id.cmap) :
    P { s with id := v } := hc _ hm s v h hv

theorem p_ite (c : Prop) [Decidable c] (a b : State) (ha : P a) (hb : P b) : P (if c then a else b) := by split <;> assumption

theorem p_foldl {α : Type} (g : State → α → State) (l : List α) (hs : P s) (hg : ∀ s x, P s → P (g s x)) :
    P (l.foldl g s) := by
  induction l generalizing s with
  | nil => exact hs
  | cons x l ih => exact ih (hg s x hs)

/-- A fold whose accumulator carries the state. -/
theorem p_foldl1 {α β : Type} (g : State × β → α → State × β) (l : List α) (a : State × β) (ha : P a.1)
    (hg : ∀ a x, P a.1 → P (g a x).1) : P (l.foldl g a).1 := by
  induction l generalizing a with
  | nil => exact ha
  | cons x l ih => exact ih (g a x) (hg a x ha)

theorem p_fst {α : Type} {x : State × α} {a : State} {b : α} (e : x = (a, b)) (h : P x.1) : P a := by subst e; exact h

theorem wf_foldl {α : Type} (g : Memory → α → Memory) (l : List α) (m : Memory) (hm : swf 0 m = true)
    (hg : ∀ m x, swf 0 m = true → swf 0 (g m x) = true) : swf 0 (l.foldl g m) = true := by
  induction l generalizing m with
  | nil => exact hm
  | cons x l ih => exact ih (g m x) (hg m x hm)

/-! The primitive updates -/

theorem modSect_only (hc : ClosedOn P [.sect]) (s : State) (t : Sec) (f : Sect → Sect) (h : P s) : P (modSect s t f) :=
  hc .sect (by simp) s _ h
theorem modRing_only (hc : ClosedOn P [.rings]) (s : State) (p : Pair) (f : Ring → Ring) (h : P s) : P (modRing s p f) :=
  hc .rings (by simp) s _ h
theorem setCmds_only (hc : ClosedOn P [.cmds]) (s : State) (t : Sec) (l : List Cmd) (h : P s) : P (setCmds s t l) :=
  hc .cmds (by simp) s _ h
theorem modSteps_only (hc : ClosedOn P [.steps]) (s : State) (t : Sec) (f : Steps → Steps) (h : P s) : P (modSteps s t f) :=
  hc .steps (by simp) s _ h
theorem modTrace_only (hc : ClosedOn P [.trace]) (s : State) (t : Sec) (f : Trace → Trace) (h : P s) : P (modTrace s t f) :=
  hc .trace (by simp) s _ h
theorem modCore_only (hc : ClosedOn P [.cores]) (s : State) (q : Nat) (f : Core → Core) (h : P s) : P (modCore s q f) :=
  hc .cores (by simp) s _ h
theorem modLink_only (hc : ClosedOn P [.links]) (s : State) (l : Nat) (f : LinkSt → LinkSt) (h : P s) : P (modLink s l f) :=
  hc .links (by simp) s _ h
theorem modPage_only (hc : ClosedOn P [.tiers]) (s : State) (g : Nat) (f : Page → Page) (h : P s) : P (modPage s g f) :=
  hc .tiers (by simp) s _ h (fun h => h)
theorem setBlk_only (hc : ClosedOn P [.tiers]) (s : State) (b : Nat) (x : Byte) (h : P s) : P (setBlk s b x) :=
  hc .tiers (by simp) s _ h (fun h => h)
theorem setGblk_only (hc : ClosedOn P [.tiers]) (s : State) (b : Nat) (x : Byte) (h : P s) : P (setGblk s b x) :=
  hc .tiers (by simp) s _ h (fun h => h)
theorem modHif_only (hc : ClosedOn P [.hif]) (s : State) (f : Hif → Hif) (h : P s) : P (modHif s f) :=
  hc .hif (by simp) s _ h
theorem modWard_only (hc : ClosedOn P [.ward]) (s : State) (f : Warden → Warden) (h : P s) : P (modWard s f) :=
  hc .ward (by simp) s _ h
theorem modPower_only (hc : ClosedOn P [.power]) (s : State) (f : Power → Power) (h : P s) : P (modPower s f) :=
  hc .power (by simp) s _ h
theorem modTime_only (hc : ClosedOn P [.time]) (s : State) (f : Time → Time) (h : P s) : P (modTime s f) :=
  hc .time (by simp) s _ h
theorem emit_only (hc : ClosedOn P [.out]) (s : State) (o : Out) (h : P s) : P (emit s o) :=
  hc .out (by simp) s _ h
theorem begin_only (hc : ClosedOn P [.out]) (s : State) (h : P s) : P (begin s) :=
  hc .out (by simp) s _ h
theorem id_only (_hc : ClosedOn P []) {s : State} (h : P s) : P (id s) := h

end Sys2Proof.Machine
end

