-- ==== Sys2Proof/Laws/OnlyA.lean ====
section
/-!
SUPPORT. What each operation can change: operations on rings, tiers, images and runs.
-/
namespace Sys2Proof.Machine

theorem traceAt_only {P : State → Prop} (hc : ClosedOn P [.trace]) (s : State) (t : Sec) (ns : W64) (frac : W16)
    (event srcKind srcIndex : Nat) (arg0 arg1 : W64) (hs0 : P s) :
    P (traceAt s t ns frac event srcKind srcIndex arg0 arg1) := by
  unfold traceAt
  repeat' (first
    | with_reducible assumption
    | ((try lift_lets); with_reducible intro x; clear_value x)
    | with_reducible apply p_ite
    | with_reducible apply modTrace_only (hc.sub (by decide)))

theorem traceRec_only {P : State → Prop} (hc : ClosedOn P [.trace]) (s : State) (t : Sec)
    (event srcKind srcIndex : Nat) (arg0 arg1 : W64) (hs0 : P s) :
    P (traceRec s t event srcKind srcIndex arg0 arg1) := by
  unfold traceRec
  repeat' (first
    | with_reducible assumption
    | with_reducible apply traceAt_only (hc.sub (by decide)))

theorem traceCore_only {P : State → Prop} (hc : ClosedOn P [.trace]) (s : State) (t : Sec) (event core : Nat) (arg0 arg1 : W64) (hs0 : P s) :
    P (traceCore s t event core arg0 arg1) := by
  unfold traceCore
  repeat' (first
    | with_reducible assumption
    | ((try lift_lets); with_reducible intro x; first
        | (refine (fun (hx : P x) => ?_) ?_; on_goal 2 => (try unfold x); on_goal 1 => clear_value x)
        | clear_value x)
    | with_reducible apply p_ite
    | with_reducible apply traceAt_only (hc.sub (by decide)))

theorem raiseEvent_only {P : State → Prop} (hc : ClosedOn P [.ward, .out]) (s : State) (kind sect severity : Nat) (raw : RawRec) (hs0 : P s) :
    P (raiseEvent s kind sect severity raw) := by
  unfold raiseEvent
  repeat' (first
    | with_reducible assumption
    | (with_reducible refine fun _ => ?_)
    | ((try lift_lets); with_reducible intro x; first
        | (refine (fun (hx : P x) => ?_) ?_; on_goal 2 => (try unfold x); on_goal 1 => clear_value x)
        | clear_value x)
    | with_reducible apply p_ite
    | with_reducible apply modWard_only (hc.sub (by decide))
    | with_reducible apply emit_only (hc.sub (by decide))
    | with_reducible apply p_foldl)

theorem logError_only {P : State → Prop} (hc : ClosedOn P [.ward, .out]) (s : State) (cls sev sect srcKind srcIndex : Nat) (detail : W64) (hs0 : P s) :
    P (logError s cls sev sect srcKind srcIndex detail) := by
  unfold logError
  repeat' (first
    | with_reducible assumption
    | (with_reducible refine fun _ => ?_)
    | ((try lift_lets); with_reducible intro x; first
        | (refine (fun (hx : P x) => ?_) ?_; on_goal 2 => (try unfold x); on_goal 1 => clear_value x)
        | clear_value x)
    | with_reducible apply p_ite
    | with_reducible apply modWard_only (hc.sub (by decide))
    | with_reducible apply raiseEvent_only (hc.sub (by decide)))

theorem logClass_only {P : State → Prop} (hc : ClosedOn P [.ward, .out]) (s : State) (cls sect srcKind srcIndex : Nat)
    (detail : W64) (hs0 : P s) :
    P (logClass s cls sect srcKind srcIndex detail) := by
  unfold logClass
  repeat' (first
    | with_reducible assumption
    | with_reducible apply logError_only (hc.sub (by decide)))

theorem auditPut_only {P : State → Prop} (hc : ClosedOn P [.ward, .out]) (s : State) (role channel action result : Nat) (kid target old new : W64) (hs0 : P s) :
    P (auditPut s role channel action result kid target old new) := by
  unfold auditPut
  repeat' (first
    | with_reducible assumption
    | (with_reducible refine fun _ => ?_)
    | ((try lift_lets); with_reducible intro x; first
        | (refine (fun (hx : P x) => ?_) ?_; on_goal 2 => (try unfold x); on_goal 1 => clear_value x)
        | clear_value x)
    | with_reducible apply p_ite
    | with_reducible apply modWard_only (hc.sub (by decide))
    | with_reducible apply raiseEvent_only (hc.sub (by decide)))

theorem auditDevice_only {P : State → Prop} (hc : ClosedOn P [.ward, .out]) (s : State) (action : Nat)
    (target old new : W64) (hs0 : P s) :
    P (auditDevice s action target old new) := by
  unfold auditDevice
  repeat' (first
    | with_reducible assumption
    | with_reducible apply p_ite
    | with_reducible apply auditPut_only (hc.sub (by decide))
    | with_reducible apply modWard_only (hc.sub (by decide)))

theorem capMem_only {P : State → Prop} (hc : ClosedOn P [.sect, .ward, .out]) (s : State) (t : Sec)
    (addr kind src : Nat) (hs0 : P s) :
    P (capMem s t addr kind src) := by
  unfold capMem
  repeat' (first
    | with_reducible assumption
    | ((try lift_lets); with_reducible intro x; refine (fun (hx : P x) => ?_) ?_; on_goal 2 => (try unfold x); on_goal 1 => clear_value x)
    | with_reducible apply modSect_only (hc.sub (by decide))
    | with_reducible apply logClass_only (hc.sub (by decide)))

theorem capGrove_only {P : State → Prop} (hc : ClosedOn P [.sect]) (s : State) (t : Sec) (addr kind opnd : Nat) (hs0 : P s) :
    P (capGrove s t addr kind opnd) := by
  unfold capGrove
  repeat' (first
    | with_reducible assumption
    | with_reducible apply p_ite
    | with_reducible apply modSect_only (hc.sub (by decide)))

theorem capHif_only {P : State → Prop} (hc : ClosedOn P [.sect]) (s : State) (t : Sec) (addr kind : Nat) (hs0 : P s) :
    P (capHif s t addr kind) := by
  unfold capHif
  repeat' (first
    | with_reducible assumption
    | with_reducible apply p_ite
    | with_reducible apply modSect_only (hc.sub (by decide)))

theorem capOvr_only {P : State → Prop} (hc : ClosedOn P [.sect, .ward, .trace, .out]) (s : State) (t : Sec)
    (frame core cause path ring : Nat) (hs0 : P s) :
    P (capOvr s t frame core cause path ring) := by
  unfold capOvr
  repeat' (first
    | with_reducible assumption
    | ((try lift_lets); with_reducible intro x; first
        | (refine (fun (hx : P x) => ?_) ?_; on_goal 2 => (try unfold x); on_goal 1 => clear_value x)
        | clear_value x)
    | with_reducible apply p_ite
    | with_reducible apply modSect_only (hc.sub (by decide))
    | with_reducible apply traceRec_only (hc.sub (by decide))
    | with_reducible apply logClass_only (hc.sub (by decide)))

theorem capLate_only {P : State → Prop} (hc : ClosedOn P [.sect, .ward, .trace, .out]) (s : State) (t : Sec)
    (start ring : Nat) (hs0 : P s) :
    P (capLate s t start ring) := by
  unfold capLate
  repeat' (first
    | with_reducible assumption
    | with_reducible apply capOvr_only (hc.sub (by decide)))

theorem capLoss_only {P : State → Prop} (hc : ClosedOn P [.sect, .ward, .out]) (s : State) (t : Sec)
    (step : Option Nat) (cmdId : W16) (cause : Nat) (hs0 : P s) :
    P (capLoss s t step cmdId cause) := by
  unfold capLoss
  repeat' (first
    | with_reducible assumption
    | ((try lift_lets); with_reducible intro x; first
        | (refine (fun (hx : P x) => ?_) ?_; on_goal 2 => (try unfold x); on_goal 1 => clear_value x)
        | clear_value x)
    | with_reducible apply p_ite
    | with_reducible apply modSect_only (hc.sub (by decide))
    | with_reducible apply logError_only (hc.sub (by decide)))

theorem capXpnd_only {P : State → Prop} (hc : ClosedOn P [.sect, .ward, .out]) (s : State) (t : Sec) (q side : Nat)
    (hs0 : P s) :
    P (capXpnd s t q side) := by
  unfold capXpnd
  repeat' (first
    | with_reducible assumption
    | ((try lift_lets); with_reducible intro x; clear_value x)
    | with_reducible apply p_ite
    | with_reducible apply logClass_only (hc.sub (by decide))
    | with_reducible apply modSect_only (hc.sub (by decide)))

theorem logAppend_only {P : State → Prop} (hc : ClosedOn P [.trace]) (s : State) (t : Sec) (kind : Nat) (ring : Nat)
    (payload : List (BitVec 512)) (ordinal : Nat) (hs0 : P s) :
    P (logAppend s t kind ring payload ordinal) := by
  unfold logAppend
  repeat' (first
    | with_reducible assumption
    | ((try lift_lets); with_reducible intro x; clear_value x)
    | with_reducible apply p_ite
    | with_reducible apply modTrace_only (hc.sub (by decide)))

theorem modCmd_only {P : State → Prop} (hc : ClosedOn P [.cmds]) (s : State) (t : Sec) (ord : Nat) (f : Cmd → Cmd)
    (hs0 : P s) :
    P (modCmd s t ord f) := by
  unfold modCmd
  repeat' (first
    | with_reducible assumption
    | with_reducible apply p_ite
    | with_reducible apply setCmds_only (hc.sub (by decide)))

theorem raise_only {P : State → Prop} (hc : ClosedOn P [.nflag, .cmds, .ward, .out]) (s : State) (t : Sec)
    (ord n : Nat) (f : NumFlags) (hs0 : P s) :
    P (raise s t ord n f) := by
  unfold raise
  repeat' (first
    | with_reducible assumption
    | (with_reducible refine fun _ => ?_)
    | ((try lift_lets); with_reducible intro x; first
        | (refine (fun (hx : P x) => ?_) ?_; on_goal 2 => (try unfold x); on_goal 1 => clear_value x)
        | clear_value x)
    | with_reducible apply p_ite
    | with_reducible apply modCmd_only (hc.sub (by decide))
    | with_reducible apply logClass_only (hc.sub (by decide))
    | with_reducible apply p_foldl
    | split
    | (with_reducible refine p_fst (by assumption) ?_)
    | (with_reducible refine upd_nflag hc (by decide) _ ?_))

theorem modPend_only {P : State → Prop} (hc : ClosedOn P [.steps]) (s : State) (t : Sec) (step : Nat)
    (f : Pend → Pend) (hs0 : P s) :
    P (modPend s t step f) := by
  unfold modPend
  repeat' (first
    | with_reducible assumption
    | with_reducible apply p_ite
    | with_reducible apply modSteps_only (hc.sub (by decide)))

theorem countStep_only {P : State → Prop} (hc : ClosedOn P [.steps]) (s : State) (t : Sec) (c : Cmd)
    (status : BitVec 8) (hs0 : P s) :
    P (countStep s t c status) := by
  unfold countStep
  repeat' (first
    | with_reducible assumption
    | (with_reducible refine fun _ => ?_)
    | with_reducible apply modPend_only (hc.sub (by decide))
    | with_reducible apply p_foldl
    | split)

theorem leaveNoRecord_only {P : State → Prop} (hc : ClosedOn P [.rings, .cmds]) (s : State) (t : Sec) (c : Cmd) (hs0 : P s) :
    P (leaveNoRecord s t c) := by
  unfold leaveNoRecord
  repeat' (first
    | with_reducible assumption
    | ((try lift_lets); with_reducible intro x; refine (fun (hx : P x) => ?_) ?_; on_goal 2 => (try unfold x); on_goal 1 => clear_value x)
    | with_reducible apply modRing_only (hc.sub (by decide))
    | with_reducible apply setCmds_only (hc.sub (by decide)))

theorem releaseFrom_only {P : State → Prop} (hc : ClosedOn P [.cmds]) (fuel : Nat) (s : State) (t : Sec) (ord next : Nat) (h : P s) :
    P (releaseFrom fuel s t ord next) := by
  induction fuel generalizing s ord next with
  | zero => exact h
  | succ n ih =>
  unfold releaseFrom
  repeat' (first
    | with_reducible assumption
    | with_reducible apply ih
    | ((try lift_lets); with_reducible intro x; first
        | (refine (fun (hx : P x) => ?_) ?_; on_goal 2 => (try unfold x); on_goal 1 => clear_value x)
        | clear_value x)
    | with_reducible apply p_ite
    | with_reducible apply modCmd_only (hc.sub (by decide))
    | split)

theorem releaseAfter_only {P : State → Prop} (hc : ClosedOn P [.cmds]) (s : State) (t : Sec) (ord : Nat) (hs0 : P s) :
    P (releaseAfter s t ord) := by
  unfold releaseAfter
  repeat' (first
    | with_reducible assumption
    | with_reducible apply releaseFrom_only (hc.sub (by decide)))

theorem setMem_only {P : State → Prop} (hc : ClosedOn P [.tiers]) (s : State) (m : Memory) (h : P s)
    (hm : swf 0 s.tiers.mem = true → swf 0 m = true) : P (setMem s m) := upd_mem hc (by decide) _ h hm

theorem setPoison_only {P : State → Prop} (hc : ClosedOn P [.tiers]) (s : State) (g : Nat) (b : Bool) (h : P s) :
    P (setPoison s g b) := upd_tiers hc (by decide) _ h rfl

theorem wrGranule_only {P : State → Prop} (hc : ClosedOn P [.tiers]) (s : State) (p : Nat) (bs : List Nat) (h : P s) :
    P (wrGranule s p bs) := by
  unfold wrGranule
  exact p_ite _ _ _ h (setMem_only (hc.sub (by decide)) _ _ (setPoison_only (hc.sub (by decide)) _ _ _ h)
    (fun hm => wf_wrBytes _ _ _ hm))

theorem wrDevN_only {P : State → Prop} (hc : ClosedOn P [.tiers]) (fuel : Nat) (s : State) (a : Nat) (bs : List Nat) (h : P s) :
    P (wrDevN fuel s a bs) := by
  induction fuel generalizing s a bs with
  | zero => exact h
  | succ n ih =>
  unfold wrDevN
  exact p_ite _ _ _ h (ih _ _ _ (wrGranule_only (hc.sub (by decide)) _ _ _ h))

theorem wrDev_only {P : State → Prop} (hc : ClosedOn P [.tiers]) (s : State) (a : Nat) (bs : List Nat) (hs0 : P s) :
    P (wrDev s a bs) := by
  unfold wrDev
  repeat' (first
    | with_reducible assumption
    | with_reducible apply wrDevN_only (hc.sub (by decide)))

theorem wrCells_only {P : State → Prop} (hc : ClosedOn P [.tiers]) (s : State) (ws : List (Nat × Nat)) (hs0 : P s) :
    P (wrCells s ws) := by
  unfold wrCells
  repeat' (first
    | with_reducible assumption
    | (with_reducible refine fun _ => ?_)
    | with_reducible apply wrGranule_only (hc.sub (by decide))
    | with_reducible apply p_foldl)

theorem poisonGranule_only {P : State → Prop} (hc : ClosedOn P [.tiers]) (s : State) (p : Nat) (h : P s) :
    P (poisonGranule s p) := by
  unfold poisonGranule
  refine p_ite _ _ _ (setPoison_only (hc.sub (by decide)) _ _ _ h) ?_
  exact setMem_only (hc.sub (by decide)) _ _ h (fun hm => wf_wrBytes _ _ _ hm)

theorem copyGranule_only {P : State → Prop} (hc : ClosedOn P [.tiers]) (s : State) (p q : Nat) (h : P s) :
    P (copyGranule s p q) := by
  unfold copyGranule
  exact setMem_only (hc.sub (by decide)) _ _ (setPoison_only (hc.sub (by decide)) _ _ _ h) (fun hm => wf_wrBytes _ _ _ hm)

theorem copyGranules_only {P : State → Prop} (hc : ClosedOn P [.tiers]) (s : State) (p q n : Nat) (hs0 : P s) :
    P (copyGranules s p q n) := by
  unfold copyGranules
  repeat' (first
    | with_reducible assumption
    | (with_reducible refine fun _ => ?_)
    | with_reducible apply copyGranule_only (hc.sub (by decide))
    | with_reducible apply p_foldl)

theorem fillBlock_only {P : State → Prop} (hc : ClosedOn P [.tiers]) (s : State) (b : Nat) (h : P s) : P (fillBlock s b) :=
  upd_mem hc (by decide) _ h (fun hm => wf_zeroRange _ _ _ hm)

theorem addMove_only {P : State → Prop} (hc : ClosedOn P [.tiers, .hif]) (s : State) (m : PageMove) (hs0 : P s) :
    P (addMove s m) := by
  unfold addMove
  repeat' (first
    | with_reducible assumption
    | (with_reducible refine fun _ => ?_)
    | ((try lift_lets); with_reducible intro x; first
        | (refine (fun (hx : P x) => ?_) ?_; on_goal 2 => (try unfold x); on_goal 1 => clear_value x)
        | (refine (fun (hx : (x : Tiers) = x) => ?_) rfl; clear hx))
    | with_reducible apply modHif_only (hc.sub (by decide))
    | with_reducible apply p_foldl
    | split
    | (with_reducible refine p_fst (by assumption) ?_)
    | (with_reducible refine upd_tiers hc (by decide) _ ?_ rfl))

theorem evict_only {P : State → Prop} (hc : ClosedOn P [.tiers, .hif]) (s : State) (ord : Option Nat) (g : Nat) (hs0 : P s) :
    P (evict s ord g) := by
  unfold evict
  repeat' (first
    | with_reducible assumption
    | (with_reducible refine fun _ => ?_)
    | with_reducible apply p_ite
    | with_reducible apply modPage_only (hc.sub (by decide))
    | with_reducible apply addMove_only (hc.sub (by decide))
    | with_reducible apply p_foldl
    | split)

theorem startResident_only {P : State → Prop} (hc : ClosedOn P [.tiers, .hif]) {s u : State} {t : Sec} {ord : Option Nat}
    {keep : List Nat} {g : Nat} (h : P s) (e : startResident s t ord keep g = some u) : P u := by
  unfold startResident at e
  simp only at e
  split at e
  · cases e; exact h
  · split at e
    · cases e
    · split at e
      · cases e
      · cases e
        refine addMove_only (hc.sub (by decide)) _ _ ?_
        split
        · exact evict_only (hc.sub (by decide)) _ _ _ h
        · exact h

theorem startAll_only {P : State → Prop} (hc : ClosedOn P [.tiers, .hif]) {s u : State} {t : Sec} {ord : Option Nat}
    {keep gs : List Nat} (h : P s) (e : startAll s t ord keep gs = some u) : P u := by
  induction gs generalizing s with
  | nil => cases e; exact h
  | cons g gs ih =>
    unfold startAll at e
    cases hr : startResident s t ord keep g with
    | none => rw [hr] at e; cases e
    | some v => rw [hr] at e; exact ih (startResident_only (hc.sub (by decide)) h hr) e

theorem makeResident_only {P : State → Prop} (hc : ClosedOn P [.tiers, .hif]) {s u : State} {t : Sec} {ord : Nat} {pages : List Nat} (h : P s)
    (e : makeResident s t ord pages = some u) : P u := startAll_only (hc.sub (by decide)) h e

theorem touchPages_only {P : State → Prop} (hc : ClosedOn P [.tiers]) (s : State) (pages : List Nat) (hs0 : P s) :
    P (touchPages s pages) := by
  unfold touchPages
  repeat' (first
    | with_reducible assumption
    | (with_reducible refine fun _ => ?_)
    | with_reducible apply modPage_only (hc.sub (by decide))
    | with_reducible apply p_foldl)

theorem addRecalls_only {P : State → Prop} (hc : ClosedOn P [.hif]) (s : State) (t : Sec) (writes reads : List Nat)
    (hs0 : P s) :
    P (addRecalls s t writes reads) := by
  unfold addRecalls
  repeat' (first
    | with_reducible assumption
    | ((try lift_lets); with_reducible intro x; clear_value x)
    | with_reducible apply modHif_only (hc.sub (by decide)))

theorem readDesc_only {P : State → Prop} (hc : ClosedOn P [.rings, .trace, .out, .seq]) (s : State) (p : Pair)
    (op : BitVec 8) (d : Desc) (hs0 : P s) :
    P (readDesc s p op d) := by
  unfold readDesc
  repeat' (first
    | with_reducible assumption
    | (with_reducible refine fun _ => ?_)
    | ((try lift_lets); with_reducible intro x; first
        | (refine (fun (hx : P x) => ?_) ?_; on_goal 2 => (try unfold x); on_goal 1 => clear_value x)
        | clear_value x)
    | with_reducible apply p_ite
    | with_reducible apply emit_only (hc.sub (by decide))
    | with_reducible apply modRing_only (hc.sub (by decide))
    | with_reducible apply logAppend_only (hc.sub (by decide))
    | with_reducible apply modTrace_only (hc.sub (by decide))
    | with_reducible apply p_foldl
    | split
    | (with_reducible refine p_fst (by assumption) ?_)
    | (with_reducible refine upd_rings hc (by decide) _ ?_)
    | (with_reducible refine upd_trace hc (by decide) _ ?_)
    | (with_reducible refine upd_out hc (by decide) _ ?_)
    | (with_reducible refine upd_seq hc (by decide) _ ?_))

theorem openStep_only {P : State → Prop} (hc : ClosedOn P [.steps]) (s : State) (t : Sec) (d : Desc) (closed : Bool)
    (hs0 : P s) :
    P (openStep s t d closed) := by
  unfold openStep
  repeat' (first
    | with_reducible assumption
    | ((try lift_lets); with_reducible intro x; clear_value x)
    | with_reducible apply id_only (hc.sub (by decide))
    | with_reducible apply modSteps_only (hc.sub (by decide)))

theorem joinStep_only {P : State → Prop} (hc : ClosedOn P [.steps]) (s : State) (t : Sec) (d : Desc) (hs0 : P s) :
    P (joinStep s t d) := by
  unfold joinStep
  repeat' (first
    | with_reducible assumption
    | with_reducible apply p_ite
    | with_reducible apply modPend_only (hc.sub (by decide)))

theorem takeIn_only {P : State → Prop} (hc : ClosedOn P [.cmds]) (s : State) (t : Sec) (c : Cmd) (hs0 : P s) :
    P (takeIn s t c) := by
  unfold takeIn
  repeat' (first
    | with_reducible assumption
    | with_reducible apply setCmds_only (hc.sub (by decide)))

theorem hold_only {P : State → Prop} (hc : ClosedOn P [.rings]) (s : State) (p : Pair) (ord : Nat) (hs0 : P s) :
    P (hold s p ord) := by
  unfold hold
  repeat' (first
    | with_reducible assumption
    | with_reducible apply modRing_only (hc.sub (by decide)))

theorem wrPlaces_only {P : State → Prop} (hc : ClosedOn P [.tiers]) (s : State) (ws : List (Nat × Nat))
    (poison : Bool) (hs0 : P s) :
    P (wrPlaces s ws poison) := by
  unfold wrPlaces
  repeat' (first
    | with_reducible assumption
    | (with_reducible refine fun _ => ?_)
    | ((try lift_lets); with_reducible intro x; first
        | (refine (fun (hx : P x) => ?_) ?_; on_goal 2 => (try unfold x); on_goal 1 => clear_value x)
        | clear_value x)
    | with_reducible apply p_ite
    | with_reducible apply poisonGranule_only (hc.sub (by decide))
    | with_reducible apply wrGranule_only (hc.sub (by decide))
    | with_reducible apply setPoison_only (hc.sub (by decide))
    | with_reducible apply p_foldl)

theorem writeDigest_only {P : State → Prop} (hc : ClosedOn P [.trace]) (s : State) (t : Sec) (c : Cmd) (sum : W64)
    (count : Nat) (hs0 : P s) :
    P (writeDigest s t c sum count) := by
  unfold writeDigest
  repeat' (first
    | with_reducible assumption
    | ((try lift_lets); with_reducible intro x; first
        | (refine (fun (hx : P x) => ?_) ?_; on_goal 2 => (try unfold x); on_goal 1 => clear_value x)
        | clear_value x)
    | with_reducible apply p_ite
    | with_reducible apply logAppend_only (hc.sub (by decide))
    | with_reducible apply modTrace_only (hc.sub (by decide)))

theorem newStop_only {P : State → Prop} (hc : ClosedOn P [.fresh]) (s : State) (hs0 : P s) : P (newStop s) := by
  unfold newStop
  repeat' (first
    | with_reducible assumption
    | (with_reducible refine fun _ => ?_)
    | with_reducible apply p_foldl
    | split
    | (with_reducible refine p_fst (by assumption) ?_)
    | (with_reducible refine upd_fresh hc (by decide) _ ?_))

theorem queueControl_only {P : State → Prop} (hc : ClosedOn P [.links]) (s : State) (b : Body) (hs0 : P s) :
    P (queueControl s b) := by
  unfold queueControl
  repeat' (first
    | with_reducible assumption
    | (with_reducible refine fun _ => ?_)
    | with_reducible apply p_ite
    | with_reducible apply modLink_only (hc.sub (by decide))
    | with_reducible apply p_foldl)

theorem makeRoom_only {P : State → Prop} (hc : ClosedOn P [.hif, .out]) (s : State) (line : Nat) (hs0 : P s) :
    P (makeRoom s line) := by
  unfold makeRoom
  repeat' (first
    | with_reducible assumption
    | (with_reducible refine fun _ => ?_)
    | ((try lift_lets); with_reducible intro x; clear_value x)
    | with_reducible apply p_ite
    | with_reducible apply emit_only (hc.sub (by decide))
    | with_reducible apply modHif_only (hc.sub (by decide))
    | with_reducible apply p_foldl
    | split)

theorem putLine_only {P : State → Prop} (hc : ClosedOn P [.hif]) (s : State) (line : Nat) (st : LineSt)
    (data : BitVec 512) (hs0 : P s) :
    P (putLine s line st data) := by
  unfold putLine
  repeat' (first
    | with_reducible assumption
    | with_reducible apply modHif_only (hc.sub (by decide)))

theorem dropLine_only {P : State → Prop} (hc : ClosedOn P [.hif]) (s : State) (line : Nat) (hs0 : P s) :
    P (dropLine s line) := by
  unfold dropLine
  repeat' (first
    | with_reducible assumption
    | with_reducible apply modHif_only (hc.sub (by decide)))

theorem ownLine_only {P : State → Prop} (hc : ClosedOn P [.hif, .out, .fresh]) (s : State) (line : Nat) (h : P s) :
    P (ownLine s line) := by
  unfold ownLine
  split
  · exact h
  · exact h
  · dsimp only
    refine putLine_only (hc.sub (by decide)) _ _ _ _ (upd_fresh hc (by decide) _ ?_)
    refine emit_only (hc.sub (by decide)) _ _ (makeRoom_only (hc.sub (by decide)) _ _ ?_)
    split
    · exact modHif_only (hc.sub (by decide)) _ _ h
    · exact h

theorem writeRecord_only {P : State → Prop} (hc : ClosedOn P [.rings, .cmds, .hif, .trace, .budget, .out, .fresh])
    (s : State) (r : Rec) (hs0 : P s) :
    P (writeRecord s r) := by
  unfold writeRecord
  repeat' (first
    | with_reducible assumption
    | (with_reducible refine fun _ => ?_)
    | ((try lift_lets); with_reducible intro x; first
        | (refine (fun (hx : P x) => ?_) ?_; on_goal 2 => (try unfold x); on_goal 1 => clear_value x)
        | clear_value x)
    | with_reducible apply p_ite
    | with_reducible apply ownLine_only (hc.sub (by decide))
    | with_reducible apply putLine_only (hc.sub (by decide))
    | with_reducible apply emit_only (hc.sub (by decide))
    | with_reducible apply modRing_only (hc.sub (by decide))
    | with_reducible apply logAppend_only (hc.sub (by decide))
    | with_reducible apply setCmds_only (hc.sub (by decide))
    | with_reducible apply p_foldl
    | split
    | (with_reducible refine p_fst (by assumption) ?_)
    | (with_reducible refine upd_rings hc (by decide) _ ?_)
    | (with_reducible refine upd_cmds hc (by decide) _ ?_)
    | (with_reducible refine upd_budget hc (by decide) _ ?_))

theorem writeRecords_only {P : State → Prop} (hc : ClosedOn P [.rings, .cmds, .recs, .hif, .trace, .budget, .out, .fresh]) (n : Nat) (s : State) (t : Sec) (rs : List Rec) (h : P s) :
    P (writeRecords n s t rs) := by
  induction n generalizing s rs with
  | zero => exact h
  | succ n ih =>
    cases rs with
    | nil => exact h
    | cons r rs =>
      unfold writeRecords
      exact p_ite _ _ _ (ih _ _ (writeRecord_only (hc.sub (by decide)) _ _ (upd_recs hc (by decide) _ h))) (ih _ _ h)

theorem evictWritten_only {P : State → Prop} (hc : ClosedOn P [.hif, .out]) (s : State) (hs0 : P s) :
    P (evictWritten s) := by
  unfold evictWritten
  repeat' (first
    | with_reducible assumption
    | (with_reducible refine fun _ => ?_)
    | with_reducible apply emit_only (hc.sub (by decide))
    | with_reducible apply putLine_only (hc.sub (by decide))
    | with_reducible apply p_foldl)

theorem sendIrqs_only {P : State → Prop} (hc : ClosedOn P [.rings, .out]) (s : State) (t : Sec) (hs0 : P s) :
    P (sendIrqs s t) := by
  unfold sendIrqs
  repeat' (first
    | with_reducible assumption
    | (with_reducible refine fun _ => ?_)
    | ((try lift_lets); with_reducible intro x; first
        | (refine (fun (hx : P x) => ?_) ?_; on_goal 2 => (try unfold x); on_goal 1 => clear_value x)
        | clear_value x)
    | with_reducible apply p_ite
    | with_reducible apply modRing_only (hc.sub (by decide))
    | with_reducible apply emit_only (hc.sub (by decide))
    | with_reducible apply p_foldl)

theorem setGroveBits_only {P : State → Prop} (hc : ClosedOn P [.slots]) (s : State) (t : Sec) (bit : Nat → Nat → Bool)
    (hs0 : P s) :
    P (setGroveBits s t bit) := by
  unfold setGroveBits
  repeat' (first
    | with_reducible assumption
    | (with_reducible refine fun _ => ?_)
    | ((try lift_lets); with_reducible intro x; clear_value x)
    | with_reducible apply p_ite
    | with_reducible apply p_foldl
    | split
    | (with_reducible refine p_fst (by assumption) ?_)
    | (with_reducible refine upd_slots hc (by decide) _ ?_))

theorem fillStore_only {P : State → Prop} (hc : ClosedOn P [.store]) (s : State) (g : Image) (hs0 : P s) :
    P (fillStore s g) := by
  unfold fillStore
  repeat' (first
    | with_reducible assumption
    | (with_reducible refine fun _ => ?_)
    | with_reducible apply p_foldl
    | split
    | (with_reducible refine p_fst (by assumption) ?_)
    | (with_reducible refine upd_store hc (by decide) _ ?_))

theorem requestWake_only {P : State → Prop} (hc : ClosedOn P [.sect, .power]) (s : State) (mask : W16) (hs0 : P s) :
    P (requestWake s mask) := by
  unfold requestWake
  repeat' (first
    | with_reducible assumption
    | (with_reducible refine fun _ => ?_)
    | ((try lift_lets); with_reducible intro x; first
        | (refine (fun (hx : P x) => ?_) ?_; on_goal 2 => (try unfold x); on_goal 1 => clear_value x)
        | clear_value x)
    | with_reducible apply p_ite
    | with_reducible apply modSect_only (hc.sub (by decide))
    | with_reducible apply modPower_only (hc.sub (by decide))
    | with_reducible apply p_foldl
    | split
    | (with_reducible refine p_fst (by assumption) ?_))

theorem loadEntry_only {P : State → Prop} (hc : ClosedOn P [.trace]) (s : State) (t : Sec) (g : Image) (hs0 : P s) :
    P (loadEntry s t g) := by
  unfold loadEntry
  repeat' (first
    | with_reducible assumption
    | ((try lift_lets); with_reducible intro x; first
        | (refine (fun (hx : P x) => ?_) ?_; on_goal 2 => (try unfold x); on_goal 1 => clear_value x)
        | clear_value x)
    | with_reducible apply p_ite
    | with_reducible apply logAppend_only (hc.sub (by decide))
    | with_reducible apply modTrace_only (hc.sub (by decide)))

theorem setFlush_only {P : State → Prop} (hc : ClosedOn P [.nflag]) (s : State) (t : Sec) (n : Nat) (b : Bool) (hs0 : P s) :
    P (setFlush s t n b) := by
  unfold setFlush
  repeat' (first
    | with_reducible assumption
    | (with_reducible refine fun _ => ?_)
    | ((try lift_lets); with_reducible intro x; clear_value x)
    | with_reducible apply p_ite
    | with_reducible apply p_foldl
    | split
    | (with_reducible refine p_fst (by assumption) ?_)
    | (with_reducible refine upd_nflag hc (by decide) _ ?_))

theorem imageFlush_only {P : State → Prop} (hc : ClosedOn P [.nflag]) (s : State) (t : Sec) (g : Image) (hs0 : P s) :
    P (imageFlush s t g) := by
  unfold imageFlush
  repeat' (first
    | with_reducible assumption
    | (with_reducible refine fun _ => ?_)
    | ((try lift_lets); with_reducible intro x; first
        | (refine (fun (hx : P x) => ?_) ?_; on_goal 2 => (try unfold x); on_goal 1 => clear_value x)
        | clear_value x)
    | with_reducible apply setFlush_only (hc.sub (by decide))
    | with_reducible apply p_foldl)

theorem applyImage_only {P : State → Prop} (hc : ClosedOn P [.sect, .slots, .nflag, .images, .loadPages, .store, .power])
    (s : State) (t : Sec) (g : Image) (hs0 : P s) :
    P (applyImage s t g) := by
  unfold applyImage
  repeat' (first
    | with_reducible assumption
    | (with_reducible refine fun _ => ?_)
    | ((try lift_lets); with_reducible intro x; first
        | (refine (fun (hx : P x) => ?_) ?_; on_goal 2 => (try unfold x); on_goal 1 => clear_value x)
        | clear_value x)
    | with_reducible apply requestWake_only (hc.sub (by decide))
    | with_reducible apply imageFlush_only (hc.sub (by decide))
    | with_reducible apply fillStore_only (hc.sub (by decide))
    | with_reducible apply setGroveBits_only (hc.sub (by decide))
    | with_reducible apply p_foldl
    | split
    | (with_reducible refine p_fst (by assumption) ?_)
    | (with_reducible refine upd_images hc (by decide) _ ?_)
    | (with_reducible refine upd_loadPages hc (by decide) _ ?_))

theorem dropImage_only {P : State → Prop} (hc : ClosedOn P [.slots, .images, .loadPages]) (s : State) (t : Sec) (h : P s) :
    P (dropImage s t) :=
  setGroveBits_only (hc.sub (by decide)) _ _ _ (upd_loadPages hc (by decide) (s.loadPages.set t [])
    (upd_images hc (by decide) (s.images.set t none) h))

theorem writeRef_only {P : State → Prop} (hc : ClosedOn P [.tiers]) (s : State) (a : Nat) (rows : List
    (Nat × Nat × Nat)) (hs0 : P s) :
    P (writeRef s a rows) := by
  unfold writeRef
  repeat' (first
    | with_reducible assumption
    | (with_reducible refine fun _ => ?_)
    | with_reducible apply wrDev_only (hc.sub (by decide))
    | with_reducible apply p_foldl)

theorem repeatDone_only {P : State → Prop} (hc : ClosedOn P [.tiers]) (s : State) (c : Cmd) (a : Nat)
    (crcs : List Nat) (hs0 : P s) :
    P (repeatDone s c a crcs).1 := by
  unfold repeatDone
  repeat' (first
    | with_reducible assumption
    | ((try lift_lets); with_reducible intro x; clear_value x)
    | with_reducible apply p_ite
    | with_reducible apply writeRef_only (hc.sub (by decide)))

theorem repeatStopped_only {P : State → Prop} (hc : ClosedOn P [.tiers]) (s : State) (a : Nat) (crcs : List Nat)
    (hs0 : P s) :
    P (repeatStopped s a crcs) := by
  unfold repeatStopped
  repeat' (first
    | with_reducible assumption
    | with_reducible apply writeRef_only (hc.sub (by decide)))

theorem modRun_only {P : State → Prop} (hc : ClosedOn P [.cmds]) (s : State) (t : Sec) (ord : Nat)
    (f : RunJob → RunJob) (hs0 : P s) :
    P (modRun s t ord f) := by
  unfold modRun
  repeat' (first
    | with_reducible assumption
    | with_reducible apply modCmd_only (hc.sub (by decide)))

theorem clearAcc_only {P : State → Prop} (hc : ClosedOn P [.acc]) (s : State) (q : Nat) (hs0 : P s) : P (clearAcc s q) := by
  unfold clearAcc
  repeat' (first
    | with_reducible assumption
    | (with_reducible refine fun _ => ?_)
    | with_reducible apply p_foldl
    | split
    | (with_reducible refine p_fst (by assumption) ?_)
    | (with_reducible refine upd_acc hc (by decide) _ ?_))

theorem quietCores_only {P : State → Prop} (hc : ClosedOn P [.cores]) (s : State) (t : Sec) (hs0 : P s) :
    P (quietCores s t) := by
  unfold quietCores
  repeat' (first
    | with_reducible assumption
    | (with_reducible refine fun _ => ?_)
    | ((try lift_lets); with_reducible intro x; clear_value x)
    | with_reducible apply modCore_only (hc.sub (by decide))
    | with_reducible apply p_foldl
    | split)

theorem addLcntN_only {P : State → Prop} (hc : ClosedOn P [.links]) (s : State) (l k n : Nat) (hs0 : P s) :
    P (addLcntN s l k n) := by
  unfold addLcntN
  repeat' (first
    | with_reducible assumption
    | (with_reducible refine fun _ => ?_)
    | ((try lift_lets); with_reducible intro x; first
        | (refine (fun (hx : P x) => ?_) ?_; on_goal 2 => (try unfold x); on_goal 1 => clear_value x)
        | clear_value x)
    | with_reducible apply p_ite
    | with_reducible apply modLink_only (hc.sub (by decide))
    | with_reducible apply p_foldl
    | split
    | (with_reducible refine p_fst (by assumption) ?_)
    | with_reducible apply id_only (hc.sub (by decide)))

theorem delayGrove_only {P : State → Prop} (hc : ClosedOn P [.cmds]) (s : State) (t : Sec) (c : Cmd) (g : GroveJob) (n : Nat) (hs0 : P s) :
    P (delayGrove s t c g n) := by
  unfold delayGrove
  repeat' (first
    | with_reducible assumption
    | (with_reducible refine fun _ => ?_)
    | ((try lift_lets); with_reducible intro x; first
        | (refine (fun (hx : P x) => ?_) ?_; on_goal 2 => (try unfold x); on_goal 1 => clear_value x)
        | clear_value x)
    | with_reducible apply p_ite
    | with_reducible apply setCmds_only (hc.sub (by decide))
    | with_reducible apply p_foldl
    | split
    | (with_reducible refine p_fst (by assumption) ?_)
    | with_reducible apply id_only (hc.sub (by decide)))

theorem forceRefused_only {P : State → Prop} (hc : ClosedOn P [.steps]) (s : State) (t : Sec) (d : Desc) (hs0 : P s) :
    P (forceRefused s t d) := by
  unfold forceRefused
  repeat' (first
    | with_reducible assumption
    | (with_reducible refine fun _ => ?_)
    | ((try lift_lets); with_reducible intro x; first
        | (refine (fun (hx : P x) => ?_) ?_; on_goal 2 => (try unfold x); on_goal 1 => clear_value x)
        | clear_value x)
    | with_reducible apply p_ite
    | with_reducible apply modPend_only (hc.sub (by decide))
    | with_reducible apply p_foldl
    | split
    | (with_reducible refine p_fst (by assumption) ?_)
    | with_reducible apply id_only (hc.sub (by decide)))

theorem logEnd_only {P : State → Prop} (hc : ClosedOn P [.trace]) (s : State) (t : Sec) (c : Cmd) (hs0 : P s) :
    P (logEnd s t c) := by
  unfold logEnd
  repeat' (first
    | with_reducible assumption
    | (with_reducible refine fun _ => ?_)
    | ((try lift_lets); with_reducible intro x; first
        | (refine (fun (hx : P x) => ?_) ?_; on_goal 2 => (try unfold x); on_goal 1 => clear_value x)
        | clear_value x)
    | with_reducible apply p_ite
    | with_reducible apply writeDigest_only (hc.sub (by decide))
    | with_reducible apply p_foldl
    | split
    | (with_reducible refine p_fst (by assumption) ?_)
    | with_reducible apply id_only (hc.sub (by decide)))

theorem completeOne_only {P : State → Prop} (hc : ClosedOn P [.rings, .cmds, .recs, .steps, .colls, .trace]) (s : State) (t : Sec) (c : Cmd) (status detail : BitVec 8) (result : BitVec 128) (hs0 : P s) :
    P (completeOne s t c status detail result) := by
  unfold completeOne
  repeat' (first
    | with_reducible assumption
    | (with_reducible refine fun _ => ?_)
    | ((try lift_lets); with_reducible intro x; first
        | (refine (fun (hx : P x) => ?_) ?_; on_goal 2 => (try unfold x); on_goal 1 => clear_value x)
        | clear_value x)
    | with_reducible apply p_ite
    | with_reducible apply modRing_only (hc.sub (by decide))
    | with_reducible apply setCmds_only (hc.sub (by decide))
    | with_reducible apply traceRec_only (hc.sub (by decide))
    | with_reducible apply countStep_only (hc.sub (by decide))
    | with_reducible apply logEnd_only (hc.sub (by decide))
    | with_reducible apply leaveNoRecord_only (hc.sub (by decide))
    | split
    | (with_reducible refine p_fst (by assumption) ?_)
    | (with_reducible refine upd_recs hc (by decide) _ ?_)
    | (with_reducible refine upd_colls hc (by decide) _ ?_)
    | with_reducible apply id_only (hc.sub (by decide)))

theorem complete_only {P : State → Prop} (hc : ClosedOn P [.rings, .cmds, .recs, .steps, .colls, .trace]) (s : State) (t : Sec) (c : Cmd) (status detail : BitVec 8) (result : BitVec 128) (hs0 : P s) :
    P (complete s t c status detail result) := by
  unfold complete
  repeat' (first
    | with_reducible assumption
    | (with_reducible refine fun _ => ?_)
    | ((try lift_lets); with_reducible intro x; first
        | (refine (fun (hx : P x) => ?_) ?_; on_goal 2 => (try unfold x); on_goal 1 => clear_value x)
        | clear_value x)
    | with_reducible apply p_ite
    | with_reducible apply completeOne_only (hc.sub (by decide))
    | with_reducible apply releaseAfter_only (hc.sub (by decide))
    | with_reducible apply p_foldl
    | split
    | (with_reducible refine p_fst (by assumption) ?_))

theorem completeRead_only {P : State → Prop} (hc : ClosedOn P [.rings, .cmds, .recs, .steps, .colls, .trace])
    (s : State) (t : Sec) (c : Cmd) (status detail : BitVec 8) (result : BitVec 128) (hs0 : P s) :
    P (completeRead s t c status detail result) := by
  unfold completeRead
  repeat' (first
    | with_reducible assumption
    | with_reducible apply complete_only (hc.sub (by decide))
    | with_reducible apply setCmds_only (hc.sub (by decide)))

theorem withRead_only {P : State → Prop} (hc : ClosedOn P [.rings, .cmds, .recs, .steps, .colls, .trace, .out, .seq])
    (s : State) (p : Pair) (op : BitVec 8) (d : Desc) (form : State → Bool) (k : State → Cmd → State) (hs0 : P s) (hk : ∀ (s : State) (x0 : Cmd), P s → P (k s x0)) :
    P (withRead s p op d form k) := by
  have h1 := readDesc_only (hc.sub (by decide)) (begin s) p op d (begin_only (hc.sub (by decide)) s hs0)
  have h2 (c : Prop) [Decidable c] := p_ite c _ _
    (forceRefused_only (hc.sub (by decide)) (readDesc (begin s) p op d) (secOf p) d h1) h1
  exact p_ite _ _ _ (begin_only (hc.sub (by decide)) s hs0)
    (p_ite _ _ _ (completeRead_only (hc.sub (by decide)) _ _ _ _ _ _ (h2 _))
      (p_ite _ _ _ (completeRead_only (hc.sub (by decide)) _ _ _ _ _ _ (h2 _)) (hk _ _ h1)))

theorem withStep_only {P : State → Prop} (hc : ClosedOn P [.rings, .cmds, .recs, .steps, .colls, .trace]) (s : State) (t : Sec) (d : Desc) (c : Cmd) (k : State → Cmd → State) (hs0 : P s) (hk : ∀ (s : State) (x0 : Cmd), P s → P (k s x0)) :
    P (withStep s t d c k) := by
  unfold withStep
  repeat' (first
    | with_reducible assumption
    | ((try lift_lets); with_reducible intro x; first
        | (refine (fun (hx : P x) => ?_) ?_; on_goal 2 => (try unfold x); on_goal 1 => clear_value x)
        | clear_value x)
    | with_reducible apply p_ite
    | with_reducible apply hk
    | with_reducible apply completeRead_only (hc.sub (by decide))
    | with_reducible apply openStep_only (hc.sub (by decide))
    | with_reducible apply joinStep_only (hc.sub (by decide))
    | with_reducible apply forceRefused_only (hc.sub (by decide))
    | split
    | (with_reducible refine p_fst (by assumption) ?_))

theorem query_only {P : State → Prop} (hc : ClosedOn P [.rings, .cmds, .recs, .steps, .colls, .trace, .out, .seq])
    (p : Pair) (d : Desc) (s : State) (hs0 : P s) :
    P (query p d s) := by
  unfold query
  repeat' (first
    | with_reducible assumption
    | (with_reducible refine fun _ => ?_)
    | with_reducible apply withRead_only (hc.sub (by decide))
    | with_reducible apply completeRead_only (hc.sub (by decide)))

theorem finishMark_only {P : State → Prop} (hc : ClosedOn P [.rings, .cmds, .recs, .steps, .colls, .trace])
    (s : State) (t : Sec) (c : Cmd) (hs0 : P s) :
    P (finishMark s t c) := by
  unfold finishMark
  repeat' (first
    | with_reducible assumption
    | ((try lift_lets); with_reducible intro x; refine (fun (hx : P x) => ?_) ?_; on_goal 2 => (try unfold x); on_goal 1 => clear_value x)
    | with_reducible apply traceRec_only (hc.sub (by decide))
    | with_reducible apply complete_only (hc.sub (by decide)))

theorem finishDrains_only {P : State → Prop} (hc : ClosedOn P [.rings, .cmds, .recs, .steps, .colls, .links, .trace]) (s : State) (t : Sec) (hs0 : P s) :
    P (finishDrains s t) := by
  unfold finishDrains
  repeat' (first
    | with_reducible assumption
    | (with_reducible refine fun _ => ?_)
    | ((try lift_lets); with_reducible intro x; first
        | (refine (fun (hx : P x) => ?_) ?_; on_goal 2 => (try unfold x); on_goal 1 => clear_value x)
        | clear_value x)
    | with_reducible apply p_ite
    | with_reducible apply completeOne_only (hc.sub (by decide))
    | with_reducible apply complete_only (hc.sub (by decide))
    | with_reducible apply queueControl_only (hc.sub (by decide))
    | with_reducible apply p_foldl
    | split
    | (with_reducible refine p_fst (by assumption) ?_))

theorem finishLoad_only {P : State → Prop}
    (hc : ClosedOn P [.sect, .slots, .nflag, .rings, .cmds, .recs, .steps, .images, .loadPages, .store, .colls, .power, .trace]) (s : State) (t : Sec) (c : Cmd) (d : Desc) (hs0 : P s) :
    P (finishLoad s t c d) := by
  unfold finishLoad
  repeat' (first
    | with_reducible assumption
    | (with_reducible refine fun _ => ?_)
    | ((try lift_lets); with_reducible intro x; clear_value x)
    | with_reducible apply p_ite
    | with_reducible apply complete_only (hc.sub (by decide))
    | with_reducible apply dropImage_only (hc.sub (by decide))
    | with_reducible apply loadEntry_only (hc.sub (by decide))
    | with_reducible apply applyImage_only (hc.sub (by decide))
    | with_reducible apply p_foldl
    | split)

theorem load_only {P : State → Prop}
    (hc : ClosedOn P [.sect, .slots, .nflag, .rings, .cmds, .recs, .steps, .images, .loadPages, .store, .colls, .power, .trace, .out, .seq]) (p : Pair) (d : Desc) (s : State) (hs0 : P s) :
    P (load p d s) := by
  unfold load
  repeat' (first
    | with_reducible assumption
    | (with_reducible refine fun _ => ?_)
    | ((try lift_lets); with_reducible intro x; first
        | (refine (fun (hx : P x) => ?_) ?_; on_goal 2 => (try unfold x); on_goal 1 => clear_value x)
        | clear_value x)
    | with_reducible apply p_ite
    | with_reducible apply begin_only (hc.sub (by decide))
    | with_reducible apply finishLoad_only (hc.sub (by decide))
    | with_reducible apply withRead_only (hc.sub (by decide))
    | with_reducible apply hold_only (hc.sub (by decide))
    | with_reducible apply takeIn_only (hc.sub (by decide))
    | with_reducible apply p_foldl
    | split)

theorem admitRun_only {P : State → Prop}
    (hc : ClosedOn P [.sect, .rings, .cmds, .recs, .steps, .colls, .tiers, .hif, .power, .trace]) (s : State) (t : Sec) (c : Cmd) (g : Image) (r : RunJob) (hs0 : P s) :
    P (admitRun s t c g r) := by
  unfold admitRun
  repeat' (first
    | with_reducible assumption
    | (with_reducible refine fun _ => ?_)
    | ((try lift_lets); with_reducible intro x; clear_value x)
    | (with_reducible refine makeResident_only (hc.sub (by decide)) ?_ (by assumption))
    | with_reducible apply completeRead_only (hc.sub (by decide))
    | with_reducible apply requestWake_only (hc.sub (by decide))
    | with_reducible apply addRecalls_only (hc.sub (by decide))
    | with_reducible apply touchPages_only (hc.sub (by decide))
    | with_reducible apply takeIn_only (hc.sub (by decide))
    | with_reducible apply p_foldl
    | split)

theorem runRead_only {P : State → Prop}
    (hc : ClosedOn P [.sect, .rings, .cmds, .recs, .steps, .colls, .tiers, .hif, .ward, .power, .trace, .out]) (s : State) (t : Sec) (d : Desc) (c : Cmd) (hs0 : P s) :
    P (runRead s t d c) := by
  unfold runRead
  repeat' (first
    | with_reducible assumption
    | (with_reducible refine fun _ => ?_)
    | ((try lift_lets); with_reducible intro x; clear_value x)
    | with_reducible apply p_ite
    | with_reducible apply completeRead_only (hc.sub (by decide))
    | with_reducible apply capLate_only (hc.sub (by decide))
    | with_reducible apply admitRun_only (hc.sub (by decide))
    | with_reducible apply p_foldl
    | split)

theorem readRun_only {P : State → Prop}
    (hc : ClosedOn P [.sect, .rings, .cmds, .recs, .steps, .colls, .tiers, .hif, .ward, .power, .trace, .out, .seq]) (p : Pair) (d : Desc) (s : State) (hs0 : P s) :
    P (readRun p d s) := by
  unfold readRun
  repeat' (first
    | with_reducible assumption
    | (with_reducible refine fun _ => ?_)
    | with_reducible apply withRead_only (hc.sub (by decide))
    | with_reducible apply withStep_only (hc.sub (by decide))
    | with_reducible apply runRead_only (hc.sub (by decide)))

theorem endRun_only {P : State → Prop}
    (hc : ClosedOn P [.rings, .cmds, .recs, .steps, .cores, .colls, .tiers, .ward, .trace, .out]) (s : State) (t : Sec) (c : Cmd) (r : RunJob) (last : Nat) (status detail : BitVec 8) (hs0 : P s) :
    P (endRun s t c r last status detail) := by
  unfold endRun
  repeat' (first
    | with_reducible assumption
    | (with_reducible refine fun _ => ?_)
    | ((try lift_lets); with_reducible intro x; refine (fun (hx : P x) => ?_) ?_; on_goal 2 => (try unfold x); on_goal 1 => clear_value x)
    | with_reducible apply p_ite
    | with_reducible apply quietCores_only (hc.sub (by decide))
    | with_reducible apply repeatDone_only (hc.sub (by decide))
    | with_reducible apply repeatStopped_only (hc.sub (by decide))
    | with_reducible apply logClass_only (hc.sub (by decide))
    | with_reducible apply complete_only (hc.sub (by decide))
    | with_reducible apply p_foldl
    | split)

theorem groveBad_only {P : State → Prop} (hc : ClosedOn P [.rings, .cmds, .recs, .steps, .colls, .trace]) (s : State) (t : Sec) (r : GroveRec) (c : Cmd) (check : BitVec 8) (hs0 : P s) :
    P (groveBad s t r c check) := by
  unfold groveBad
  repeat' (first
    | with_reducible assumption
    | (with_reducible refine fun _ => ?_)
    | ((try lift_lets); with_reducible intro x; first
        | (refine (fun (hx : P x) => ?_) ?_; on_goal 2 => (try unfold x); on_goal 1 => clear_value x)
        | clear_value x)
    | with_reducible apply p_ite
    | with_reducible apply completeRead_only (hc.sub (by decide))
    | with_reducible apply p_foldl
    | split
    | (with_reducible refine p_fst (by assumption) ?_)
    | with_reducible apply id_only (hc.sub (by decide)))

theorem markLate_only {P : State → Prop} (hc : ClosedOn P [.steps]) (s : State) (t : Sec) (step : Nat) (hs0 : P s) :
    P (markLate s t step) := by
  unfold markLate
  repeat' (first
    | with_reducible assumption
    | (with_reducible refine fun _ => ?_)
    | ((try lift_lets); with_reducible intro x; first
        | (refine (fun (hx : P x) => ?_) ?_; on_goal 2 => (try unfold x); on_goal 1 => clear_value x)
        | clear_value x)
    | with_reducible apply p_ite
    | with_reducible apply modSteps_only (hc.sub (by decide))
    | with_reducible apply p_foldl
    | split
    | (with_reducible refine p_fst (by assumption) ?_)
    | with_reducible apply id_only (hc.sub (by decide)))

theorem moveEntries_only {P : State → Prop} (hc : ClosedOn P [.hif]) (s : State) (b o : Nat) (hs0 : P s) :
    P (moveEntries s b o) := by
  unfold moveEntries
  repeat' (first
    | with_reducible assumption
    | (with_reducible refine fun _ => ?_)
    | ((try lift_lets); with_reducible intro x; first
        | (refine (fun (hx : P x) => ?_) ?_; on_goal 2 => (try unfold x); on_goal 1 => clear_value x)
        | clear_value x)
    | with_reducible apply p_ite
    | with_reducible apply modHif_only (hc.sub (by decide))
    | with_reducible apply p_foldl
    | split
    | (with_reducible refine p_fst (by assumption) ?_)
    | with_reducible apply id_only (hc.sub (by decide)))

theorem noteReread_only {P : State → Prop} (hc : ClosedOn P [.budget]) (s : State) (p : Pair) (hs0 : P s) :
    P (noteReread s p) := by
  unfold noteReread
  repeat' (first
    | with_reducible assumption
    | (with_reducible refine fun _ => ?_)
    | ((try lift_lets); with_reducible intro x; first
        | (refine (fun (hx : P x) => ?_) ?_; on_goal 2 => (try unfold x); on_goal 1 => clear_value x)
        | clear_value x)
    | with_reducible apply p_ite
    | with_reducible apply p_foldl
    | split
    | (with_reducible refine p_fst (by assumption) ?_)
    | (with_reducible refine upd_budget hc (by decide) _ ?_)
    | with_reducible apply id_only (hc.sub (by decide)))

theorem recallMoves_only {P : State → Prop} (hc : ClosedOn P [.hif]) (s : State) (t : Sec) (hs0 : P s) :
    P (recallMoves s t) := by
  unfold recallMoves
  repeat' (first
    | with_reducible assumption
    | (with_reducible refine fun _ => ?_)
    | ((try lift_lets); with_reducible intro x; first
        | (refine (fun (hx : P x) => ?_) ?_; on_goal 2 => (try unfold x); on_goal 1 => clear_value x)
        | clear_value x)
    | with_reducible apply p_ite
    | with_reducible apply modHif_only (hc.sub (by decide))
    | with_reducible apply p_foldl
    | split
    | (with_reducible refine p_fst (by assumption) ?_)
    | with_reducible apply id_only (hc.sub (by decide)))

theorem reply_only {P : State → Prop} (hc : ClosedOn P [.out]) (s : State) (a : Action) (hs0 : P s) :
    P (reply s a) := by
  unfold reply
  repeat' (first
    | with_reducible assumption
    | (with_reducible refine fun _ => ?_)
    | ((try lift_lets); with_reducible intro x; first
        | (refine (fun (hx : P x) => ?_) ?_; on_goal 2 => (try unfold x); on_goal 1 => clear_value x)
        | clear_value x)
    | with_reducible apply p_ite
    | with_reducible apply emit_only (hc.sub (by decide))
    | with_reducible apply p_foldl
    | split
    | (with_reducible refine p_fst (by assumption) ?_)
    | with_reducible apply id_only (hc.sub (by decide)))

theorem resumeLoad_only {P : State → Prop} (hc : ClosedOn P [.sect, .slots, .nflag, .rings, .cmds, .recs, .steps, .images, .loadPages, .store, .colls, .power, .trace]) (s : State) (t : Sec) (hs0 : P s) :
    P (resumeLoad s t) := by
  unfold resumeLoad
  repeat' (first
    | with_reducible assumption
    | (with_reducible refine fun _ => ?_)
    | ((try lift_lets); with_reducible intro x; first
        | (refine (fun (hx : P x) => ?_) ?_; on_goal 2 => (try unfold x); on_goal 1 => clear_value x)
        | clear_value x)
    | with_reducible apply p_ite
    | with_reducible apply finishLoad_only (hc.sub (by decide))
    | with_reducible apply p_foldl
    | split
    | (with_reducible refine p_fst (by assumption) ?_)
    | with_reducible apply id_only (hc.sub (by decide)))

theorem resumeLoads_only {P : State → Prop} (hc : ClosedOn P [.sect, .slots, .nflag, .rings, .cmds, .recs, .steps, .images, .loadPages, .store, .colls, .power, .trace]) (s : State) (hs0 : P s) :
    P (resumeLoads s) := by
  unfold resumeLoads
  repeat' (first
    | with_reducible assumption
    | (with_reducible refine fun _ => ?_)
    | ((try lift_lets); with_reducible intro x; first
        | (refine (fun (hx : P x) => ?_) ?_; on_goal 2 => (try unfold x); on_goal 1 => clear_value x)
        | clear_value x)
    | with_reducible apply p_ite
    | with_reducible apply resumeLoad_only (hc.sub (by decide))
    | with_reducible apply p_foldl
    | split
    | (with_reducible refine p_fst (by assumption) ?_)
    | with_reducible apply id_only (hc.sub (by decide)))

theorem sramFixed_only {P : State → Prop} (hc : ClosedOn P [.ward, .out]) (s : State) (site : SramSite) (hs0 : P s) :
    P (sramFixed s site) := by
  cases site <;> exact logClass_only (hc.sub (by decide)) _ _ _ _ _ _ hs0

theorem subscribe_only {P : State → Prop} (hc : ClosedOn P [.ward]) (s : State) (who : Client) (on : Bool) (hs0 : P s) :
    P (subscribe s who on) := by
  unfold subscribe
  repeat' (first
    | with_reducible assumption
    | (with_reducible refine fun _ => ?_)
    | ((try lift_lets); with_reducible intro x; first
        | (refine (fun (hx : P x) => ?_) ?_; on_goal 2 => (try unfold x); on_goal 1 => clear_value x)
        | clear_value x)
    | with_reducible apply p_ite
    | with_reducible apply modWard_only (hc.sub (by decide))
    | with_reducible apply p_foldl
    | split
    | (with_reducible refine p_fst (by assumption) ?_)
    | with_reducible apply id_only (hc.sub (by decide)))

theorem wakeRecord_only {P : State → Prop} (hc : ClosedOn P [.trace]) (t : Sec) (at_ : Nat) (s : State) (q : Nat) (hs0 : P s) :
    P (wakeRecord t at_ s q) := by
  unfold wakeRecord
  repeat' (first
    | with_reducible assumption
    | (with_reducible refine fun _ => ?_)
    | ((try lift_lets); with_reducible intro x; first
        | (refine (fun (hx : P x) => ?_) ?_; on_goal 2 => (try unfold x); on_goal 1 => clear_value x)
        | clear_value x)
    | with_reducible apply p_ite
    | with_reducible apply modTrace_only (hc.sub (by decide))
    | with_reducible apply traceCore_only (hc.sub (by decide))
    | with_reducible apply p_foldl
    | split
    | (with_reducible refine p_fst (by assumption) ?_)
    | with_reducible apply id_only (hc.sub (by decide)))

end Sys2Proof.Machine
end

