-- ==== Sys2Proof/Laws/OnlyB.lean ====
section
/-!
SUPPORT. What each operation can change: grove work, migration, collectives and stages.
-/
namespace Sys2Proof.Machine

theorem groveResident_only {P : State → Prop} (hc : ClosedOn P [.tiers, .hif]) {s u : State} {t : Sec} {ord : Nat} {r : GroveRec} (h : P s)
    (e : groveResident s t ord r = some u) : P u := by
  unfold groveResident at e
  split at e
  · cases e
  · rename_i v hv
    split at e
    · cases e; exact makeResident_only (hc.sub (by decide)) h hv
    · cases e

theorem refuseGate_only {P : State → Prop}
    (hc : ClosedOn P [.sect, .rings, .cmds, .recs, .steps, .colls, .ward, .trace, .out]) (s : State) (t : Sec) (c : Cmd) (start : Nat) (st : BitVec 8) (hs0 : P s) :
    P (refuseGate s t c start st) := by
  unfold refuseGate
  repeat' (first
    | with_reducible assumption
    | ((try lift_lets); with_reducible intro x; refine (fun (hx : P x) => ?_) ?_; on_goal 2 => (try unfold x); on_goal 1 => clear_value x)
    | with_reducible apply p_ite
    | with_reducible apply capLoss_only (hc.sub (by decide))
    | with_reducible apply capLate_only (hc.sub (by decide))
    | with_reducible apply complete_only (hc.sub (by decide)))

theorem gateOne_only {P : State → Prop}
    (hc : ClosedOn P [.sect, .rings, .cmds, .recs, .steps, .colls, .ward, .trace, .out]) (s : State) (t : Sec) (step : Nat) (v : Option Vote) (c : Cmd) (hs0 : P s) :
    P (gateOne s t step v c) := by
  unfold gateOne
  repeat' (first
    | with_reducible assumption
    | (with_reducible refine fun _ => ?_)
    | with_reducible apply p_ite
    | with_reducible apply modCmd_only (hc.sub (by decide))
    | with_reducible apply refuseGate_only (hc.sub (by decide))
    | with_reducible apply p_foldl
    | split)

theorem actOnGate_only {P : State → Prop}
    (hc : ClosedOn P [.sect, .rings, .cmds, .recs, .steps, .colls, .ward, .trace, .out]) (s : State) (t : Sec) (step : Nat) (v : Option Vote) (hs0 : P s) :
    P (actOnGate s t step v) := by
  unfold actOnGate
  repeat' (first
    | with_reducible assumption
    | (with_reducible refine fun _ => ?_)
    | with_reducible apply gateOne_only (hc.sub (by decide))
    | with_reducible apply p_foldl
    | split)

theorem groveAdmit_only {P : State → Prop}
    (hc : ClosedOn P [.sect, .rings, .cmds, .recs, .steps, .colls, .tiers, .hif, .ward, .trace, .out]) (s : State) (t : Sec) (bits : BitVec 1024) (c : Cmd) (hs0 : P s) :
    P (groveAdmit s t bits c) := by
  unfold groveAdmit
  repeat' (first
    | with_reducible assumption
    | (with_reducible refine fun _ => ?_)
    | ((try lift_lets); with_reducible intro x; first
        | (refine (fun (hx : P x) => ?_) ?_; on_goal 2 => (try unfold x); on_goal 1 => clear_value x)
        | clear_value x)
    | with_reducible apply p_ite
    | (with_reducible refine groveResident_only (hc.sub (by decide)) ?_ (by assumption))
    | with_reducible apply completeRead_only (hc.sub (by decide))
    | with_reducible apply capLate_only (hc.sub (by decide))
    | with_reducible apply capOvr_only (hc.sub (by decide))
    | with_reducible apply addRecalls_only (hc.sub (by decide))
    | with_reducible apply touchPages_only (hc.sub (by decide))
    | with_reducible apply takeIn_only (hc.sub (by decide))
    | with_reducible apply actOnGate_only (hc.sub (by decide))
    | with_reducible apply p_foldl
    | split)

theorem groveRead_only {P : State → Prop} (hc : ClosedOn P [.sect, .rings, .cmds, .recs, .steps, .colls, .tiers, .hif, .ward, .trace, .out]) (s : State) (t : Sec) (bits : BitVec 1024) (c : Cmd) (hs0 : P s) :
    P (groveRead s t bits c) := by
  unfold groveRead
  repeat' (first
    | with_reducible assumption
    | ((try lift_lets); with_reducible intro x; first
        | (refine (fun (hx : P x) => ?_) ?_; on_goal 2 => (try unfold x); on_goal 1 => clear_value x)
        | clear_value x)
    | with_reducible apply p_ite
    | with_reducible apply capGrove_only (hc.sub (by decide))
    | with_reducible apply completeRead_only (hc.sub (by decide))
    | with_reducible apply groveBad_only (hc.sub (by decide))
    | with_reducible apply groveAdmit_only (hc.sub (by decide))
    | split
    | (with_reducible refine p_fst (by assumption) ?_))

theorem modGrove_only {P : State → Prop} (hc : ClosedOn P [.cmds]) (s : State) (t : Sec) (ord : Nat)
    (f : GroveJob → GroveJob) (hs0 : P s) :
    P (modGrove s t ord f) := by
  unfold modGrove
  repeat' (first
    | with_reducible assumption
    | with_reducible apply modCmd_only (hc.sub (by decide)))

theorem groveFlush_only {P : State → Prop} (hc : ClosedOn P [.nflag]) (s : State) (t : Sec) (r : GroveRec) (hs0 : P s) :
    P (groveFlush s t r) := by
  unfold groveFlush
  repeat' (first
    | with_reducible assumption
    | (with_reducible refine fun _ => ?_)
    | ((try lift_lets); with_reducible intro x; clear_value x)
    | with_reducible apply p_ite
    | with_reducible apply setFlush_only (hc.sub (by decide))
    | with_reducible apply p_foldl)

theorem applyItem_only {P : State → Prop} (hc : ClosedOn P [.nflag, .cmds, .tiers, .ward, .out]) (s : State) (t : Sec)
    (ord : Nat) (x : GroveItem) (hs0 : P s) :
    P (applyItem s t ord x) := by
  unfold applyItem
  repeat' (first
    | with_reducible assumption
    | with_reducible apply raise_only (hc.sub (by decide))
    | with_reducible apply wrCells_only (hc.sub (by decide)))

theorem finishArea_only {P : State → Prop} (hc : ClosedOn P [.tiers]) (s : State) (r : GroveRec) (w : GroveWork)
    (hs0 : P s) :
    P (finishArea s r w) := by
  unfold finishArea
  repeat' (first
    | with_reducible assumption
    | (with_reducible refine fun _ => ?_)
    | ((try lift_lets); with_reducible intro x; refine (fun (hx : P x) => ?_) ?_; on_goal 2 => (try unfold x); on_goal 1 => clear_value x)
    | with_reducible apply p_ite
    | with_reducible apply wrDev_only (hc.sub (by decide))
    | with_reducible apply p_foldl
    | split)

theorem scanStep_only {P : State → Prop} (hc : ClosedOn P [.steps]) (s : State) (t : Sec) (c : Cmd) (r : GroveRec)
    (w : GroveWork) (hs0 : P s) :
    P (scanStep s t c r w) := by
  unfold scanStep
  repeat' (first
    | with_reducible assumption
    | (with_reducible refine fun _ => ?_)
    | with_reducible apply p_ite
    | with_reducible apply modPend_only (hc.sub (by decide))
    | with_reducible apply p_foldl
    | split)

theorem stopGrove_only {P : State → Prop}
    (hc : ClosedOn P [.sect, .nflag, .rings, .cmds, .recs, .steps, .colls, .tiers, .ward, .trace, .out, .fresh]) (s : State) (t : Sec) (c : Cmd) (g : GroveJob) (status detail : BitVec 8) (hs0 : P s) :
    P (stopGrove s t c g status detail) := by
  unfold stopGrove
  repeat' (first
    | with_reducible assumption
    | (with_reducible refine fun _ => ?_)
    | ((try lift_lets); with_reducible intro x; first
        | (refine (fun (hx : P x) => ?_) ?_; on_goal 2 => (try unfold x); on_goal 1 => clear_value x)
        | clear_value x)
    | with_reducible apply p_ite
    | with_reducible apply applyItem_only (hc.sub (by decide))
    | with_reducible apply newStop_only (hc.sub (by decide))
    | with_reducible apply capLoss_only (hc.sub (by decide))
    | with_reducible apply complete_only (hc.sub (by decide))
    | with_reducible apply p_foldl)

theorem awake_only {P : State → Prop} (hc : ClosedOn P [.power]) (s : State) (hs0 : P s) : P (awake s) := by
  unfold awake
  repeat' (first
    | with_reducible assumption
    | with_reducible apply modPower_only (hc.sub (by decide)))

theorem carryPoison_only {P : State → Prop} (hc : ClosedOn P [.sect, .ward, .out]) (s : State) (t : Sec) (page : Nat)
    (hs0 : P s) :
    P (carryPoison s t page) := by
  unfold carryPoison
  repeat' (first
    | with_reducible assumption
    | (with_reducible refine fun _ => ?_)
    | ((try lift_lets); with_reducible intro x; clear_value x)
    | with_reducible apply p_ite
    | with_reducible apply capMem_only (hc.sub (by decide))
    | with_reducible apply p_foldl)

theorem pumpMigrate_only {P : State → Prop}
    (hc : ClosedOn P [.rings, .cmds, .recs, .steps, .colls, .tiers, .hif, .trace]) (s : State) (t : Sec) (c : Cmd) (pages : List Nat) (toCanopy : Bool) (copied : Nat) (hs0 : P s) :
    P (pumpMigrate s t c pages toCanopy copied) := by
  unfold pumpMigrate
  repeat' (first
    | with_reducible assumption
    | (with_reducible refine fun _ => ?_)
    | with_reducible apply p_ite
    | with_reducible apply complete_only (hc.sub (by decide))
    | (with_reducible refine startResident_only (hc.sub (by decide)) ?_ (by assumption))
    | with_reducible apply addMove_only (hc.sub (by decide))
    | with_reducible apply p_foldl
    | split)

theorem countMove_only {P : State → Prop} (hc : ClosedOn P [.cmds]) (s : State) (m : PageMove) (hs0 : P s) :
    P (countMove s m) := by
  unfold countMove
  repeat' (first
    | with_reducible assumption
    | (with_reducible refine fun _ => ?_)
    | with_reducible apply p_ite
    | with_reducible apply modCmd_only (hc.sub (by decide))
    | with_reducible apply p_foldl
    | split)

theorem admitPaged_only {P : State → Prop} (hc : ClosedOn P [.cmds, .tiers, .hif]) (s : State) (t : Sec) (c : Cmd)
    (hs0 : P s) :
    P (admitPaged s t c) := by
  unfold admitPaged
  repeat' (first
    | with_reducible assumption
    | with_reducible apply addRecalls_only (hc.sub (by decide))
    | with_reducible apply touchPages_only (hc.sub (by decide))
    | with_reducible apply takeIn_only (hc.sub (by decide)))

theorem migrateRead_only {P : State → Prop} (hc : ClosedOn P [.rings, .cmds, .recs, .steps, .colls, .tiers, .hif, .trace]) (s : State) (t : Sec) (d : Desc) (c : Cmd) (hs0 : P s) :
    P (migrateRead s t d c) := by
  rw [migrateRead]
  cases pageCheck s t d true
  · exact pumpMigrate_only (hc.sub (by decide)) _ _ _ _ _ _ (admitPaged_only (hc.sub (by decide)) _ _ _ hs0)
  · exact completeRead_only (hc.sub (by decide)) _ _ _ _ _ _ hs0

theorem modPages_only {P : State → Prop} (hc : ClosedOn P [.tiers]) (s : State) (pages : List Nat) (f : Page → Page)
    (hs0 : P s) :
    P (modPages s pages f) := by
  unfold modPages
  repeat' (first
    | with_reducible assumption
    | (with_reducible refine fun _ => ?_)
    | with_reducible apply modPage_only (hc.sub (by decide))
    | with_reducible apply p_foldl)

theorem pumpMoves_only {P : State → Prop} (hc : ClosedOn P [.rings, .cmds, .recs, .steps, .colls, .tiers, .hif, .trace]) (s : State) (t : Sec) (hs0 : P s) :
    P (pumpMoves s t) := by
  unfold pumpMoves
  repeat' (first
    | with_reducible assumption
    | (with_reducible refine fun _ => ?_)
    | ((try lift_lets); with_reducible intro x; first
        | (refine (fun (hx : P x) => ?_) ?_; on_goal 2 => (try unfold x); on_goal 1 => clear_value x)
        | clear_value x)
    | with_reducible apply p_ite
    | with_reducible apply complete_only (hc.sub (by decide))
    | with_reducible apply pumpMigrate_only (hc.sub (by decide))
    | with_reducible apply modPages_only (hc.sub (by decide))
    | with_reducible apply p_foldl
    | split
    | (with_reducible refine p_fst (by assumption) ?_))

theorem leaveAll_only {P : State → Prop} (hc : ClosedOn P [.tiers, .hif]) (s : State) (t : Sec) (ord : Nat)
    (pages : List Nat) (hs0 : P s) :
    P (leaveAll s t ord pages) := by
  unfold leaveAll
  repeat' (first
    | with_reducible assumption
    | (with_reducible refine fun _ => ?_)
    | with_reducible apply p_ite
    | with_reducible apply addMove_only (hc.sub (by decide))
    | with_reducible apply p_foldl)

theorem ownFrames_only {P : State → Prop} (hc : ClosedOn P [.tiers, .hif]) {s u : State} {t : Sec} {ord : Nat} {gs : List Nat} (h : P s)
    (e : ownFrames s t ord gs = some u) : P u := by
  induction gs generalizing s with
  | nil => cases e; exact h
  | cons g gs ih =>
    unfold ownFrames at e
    split at e
    · exact ih h e
    · split at e
      · cases e
      · split at e
        · cases e
        · exact ih (addMove_only (hc.sub (by decide)) _ _ h) e

theorem hintDo_only {P : State → Prop} (hc : ClosedOn P [.rings, .cmds, .recs, .steps, .colls, .tiers, .hif, .trace])
    (s : State) (t : Sec) (c : Cmd) (kind : Nat) (pages : List Nat) (hs0 : P s) :
    P (hintDo s t c kind pages) := by
  unfold hintDo
  repeat' (first
    | with_reducible assumption
    | (with_reducible refine fun _ => ?_)
    | ((try lift_lets); with_reducible intro x; first
        | (refine (fun (hx : P x) => ?_) ?_; on_goal 2 => (try unfold x); on_goal 1 => clear_value x)
        | (refine (fun (hf : ∀ u : State, P u → P (x u)) => ?_) ?_; on_goal 2 => (try unfold x); on_goal 1 => clear_value x))
    | with_reducible apply p_ite
    | with_reducible apply hf
    | with_reducible apply completeRead_only (hc.sub (by decide))
    | with_reducible apply modPages_only (hc.sub (by decide))
    | with_reducible apply leaveAll_only (hc.sub (by decide))
    | (with_reducible refine ownFrames_only (hc.sub (by decide)) ?_ (by assumption))
    | with_reducible apply takeIn_only (hc.sub (by decide))
    | (with_reducible refine startAll_only (hc.sub (by decide)) ?_ (by assumption))
    | with_reducible apply p_foldl
    | split)

theorem hint_only {P : State → Prop}
    (hc : ClosedOn P [.rings, .cmds, .recs, .steps, .colls, .tiers, .hif, .trace, .out, .seq]) (p : Pair) (d : Desc) (s : State) (hs0 : P s) :
    P (hint p d s) := by
  unfold hint
  repeat' (first
    | with_reducible assumption
    | (with_reducible refine fun _ => ?_)
    | ((try lift_lets); with_reducible intro x; clear_value x)
    | with_reducible apply withRead_only (hc.sub (by decide))
    | with_reducible apply completeRead_only (hc.sub (by decide))
    | with_reducible apply hintDo_only (hc.sub (by decide))
    | with_reducible apply touchPages_only (hc.sub (by decide))
    | with_reducible apply p_foldl
    | split)

theorem addCe_only {P : State → Prop} (hc : ClosedOn P [.tiers]) (s : State) (k n : Nat) (hs0 : P s) : P (addCe s k n) := by
  unfold addCe
  repeat' (first
    | with_reducible assumption
    | (with_reducible refine fun _ => ?_)
    | ((try lift_lets); with_reducible intro x; refine (fun (hx : (x : Tiers) = x) => ?_) rfl; clear hx)
    | with_reducible apply p_foldl
    | split
    | (with_reducible refine p_fst (by assumption) ?_)
    | (with_reducible refine upd_tiers hc (by decide) _ ?_ rfl))

theorem wrSpace_only {P : State → Prop} (hc : ClosedOn P [.slate, .commons, .tiers]) (s : State) (t : Sec) (q space : Nat) (a : Int)
    (bs : List Nat) (h : P s) : P (wrSpace s t q space a bs) := by
  unfold wrSpace
  refine p_ite _ _ _ h ?_
  dsimp only
  split
  · exact upd_slate hc (by decide) _ h (fun hm => wf_wrBytes _ _ _ hm)
  · exact wrDev_only (hc.sub (by decide)) _ _ _ h
  · refine upd_commons hc (by decide) _ h (fun hm => wf_foldl _ _ _ hm ?_)
    intro m x hm
    split
    · exact wf_wr8 _ _ _ hm
    · exact hm

theorem wrCode_only {P : State → Prop} (hc : ClosedOn P [.slate, .commons, .tiers]) (s : State) (x : Site)
    (t : Tensor) (i0 i1 i2 i3 v : Nat) (hs0 : P s) :
    P (wrCode s x t i0 i1 i2 i3 v) := by
  unfold wrCode
  repeat' (first
    | with_reducible assumption
    | ((try lift_lets); with_reducible intro x; clear_value x)
    | with_reducible apply wrSpace_only (hc.sub (by decide)))

theorem wr32_only {P : State → Prop} (hc : ClosedOn P [.slate, .commons, .tiers]) (s : State) (x : Site) (t : Tensor)
    (i0 i1 i2 i3 v : Nat) (hs0 : P s) :
    P (wr32 s x t i0 i1 i2 i3 v) := by
  unfold wr32
  repeat' (first
    | with_reducible assumption
    | with_reducible apply p_ite
    | with_reducible apply wrCode_only (hc.sub (by decide)))

theorem wrMx_only {P : State → Prop} (hc : ClosedOn P [.slate, .commons, .tiers]) (s : State) (x : Site) (t : Tensor)
    (i0 i1 i2 i3 scale : Nat) (es : List Nat) (hs0 : P s) :
    P (wrMx s x t i0 i1 i2 i3 scale es) := by
  unfold wrMx
  repeat' (first
    | with_reducible assumption
    | ((try lift_lets); with_reducible intro x; first
        | (refine (fun (hx : P x) => ?_) ?_; on_goal 2 => (try unfold x); on_goal 1 => clear_value x)
        | clear_value x)
    | with_reducible apply wrSpace_only (hc.sub (by decide)))

theorem modStream_only {P : State → Prop} (hc : ClosedOn P [.cores]) (s : State) (q n : Nat) (f : StreamSt → StreamSt)
    (hs0 : P s) :
    P (modStream s q n f) := by
  unfold modStream
  repeat' (first
    | with_reducible assumption
    | with_reducible apply modCore_only (hc.sub (by decide)))

theorem putColl_only {P : State → Prop} (hc : ClosedOn P [.colls]) (s : State) (t : Sec) (x : CollSt) (hs0 : P s) :
    P (putColl s t x) := by
  unfold putColl
  repeat' (first
    | with_reducible assumption
    | (with_reducible refine fun _ => ?_)
    | with_reducible apply p_foldl
    | split
    | (with_reducible refine p_fst (by assumption) ?_)
    | (with_reducible refine upd_colls hc (by decide) _ ?_))

theorem modColl_only {P : State → Prop} (hc : ClosedOn P [.colls]) (s : State) (t : Sec) (ord : Nat)
    (f : CollSt → CollSt) (hs0 : P s) :
    P (modColl s t ord f) := by
  unfold modColl
  repeat' (first
    | with_reducible assumption
    | with_reducible apply putColl_only (hc.sub (by decide)))

theorem writeBlock_only {P : State → Prop} (hc : ClosedOn P [.tiers]) (s : State) (t : Tensor) (b : Nat)
    (codes : List Nat) (hs0 : P s) :
    P (writeBlock s t b codes) := by
  unfold writeBlock
  repeat' (first
    | with_reducible assumption
    | ((try lift_lets); with_reducible intro x; clear_value x)
    | with_reducible apply wrDev_only (hc.sub (by decide)))

theorem pushFlit_only {P : State → Prop} (hc : ClosedOn P [.links]) (s : State) (l space : Nat) (b : Body) (hs0 : P s) :
    P (pushFlit s l space b) := by
  unfold pushFlit
  repeat' (first
    | with_reducible assumption
    | with_reducible apply p_ite
    | with_reducible apply modLink_only (hc.sub (by decide)))

theorem sendPieces_only {P : State → Prop} (hc : ClosedOn P [.links]) (s : State) (x : CollRun) (l dest level b : Nat)
    (mcast : Bool) (bs : List Nat) (hs0 : P s) :
    P (sendPieces s x l dest level b mcast bs) := by
  unfold sendPieces
  repeat' (first
    | with_reducible assumption
    | (with_reducible refine fun _ => ?_)
    | ((try lift_lets); with_reducible intro x; clear_value x)
    | with_reducible apply p_ite
    | with_reducible apply pushFlit_only (hc.sub (by decide))
    | with_reducible apply p_foldl)

theorem markSent_only {P : State → Prop} (hc : ClosedOn P [.colls]) (s : State) (x : CollRun) (k : Nat) (hs0 : P s) :
    P (markSent s x k) := by
  unfold markSent
  repeat' (first
    | with_reducible assumption
    | with_reducible apply modColl_only (hc.sub (by decide)))

theorem putRecv_only {P : State → Prop} (hc : ClosedOn P [.colls]) (s : State) (x : CollRun) (k : Nat) (w : Words)
    (hs0 : P s) :
    P (putRecv s x k w) := by
  unfold putRecv
  repeat' (first
    | with_reducible assumption
    | with_reducible apply modColl_only (hc.sub (by decide)))

theorem addWords_only {P : State → Prop} (hc : ClosedOn P [.nflag, .cmds, .ward, .out]) (s : State) (x : CollRun)
    (l : Nat) (a b : List Nat) (hs0 : P s) :
    P (addWords s x l a b).1 := by
  unfold addWords
  repeat' (first
    | with_reducible assumption
    | ((try lift_lets); with_reducible intro x; clear_value x)
    | with_reducible apply raise_only (hc.sub (by decide)))

theorem putAcc_only {P : State → Prop} (hc : ClosedOn P [.colls]) (s : State) (x : CollRun) (b j : Nat) (v : List Nat)
    (hs0 : P s) :
    P (putAcc s x b j v) := by
  unfold putAcc
  repeat' (first
    | with_reducible assumption
    | with_reducible apply modColl_only (hc.sub (by decide)))

theorem markWrote_only {P : State → Prop} (hc : ClosedOn P [.colls]) (s : State) (x : CollRun) (b : Nat) (hs0 : P s) :
    P (markWrote s x b) := by
  unfold markWrote
  repeat' (first
    | with_reducible assumption
    | with_reducible apply modColl_only (hc.sub (by decide)))

theorem gatherWrite_only {P : State → Prop} (hc : ClosedOn P [.nflag, .cmds, .colls, .tiers, .ward, .out]) (s : State)
    (x : CollRun) (l b : Nat) (bs : List Nat) (hs0 : P s) :
    P (gatherWrite s x l b bs) := by
  unfold gatherWrite
  repeat' (first
    | with_reducible assumption
    | ((try lift_lets); with_reducible intro x; clear_value x)
    | with_reducible apply markWrote_only (hc.sub (by decide))
    | with_reducible apply writeBlock_only (hc.sub (by decide))
    | with_reducible apply raise_only (hc.sub (by decide)))

theorem gatherSend_only {P : State → Prop} (hc : ClosedOn P [.nflag, .cmds, .colls, .links, .ward, .out]) (s : State) (x : CollRun) (l b : Nat) (rm : Nat → Rm) (vs : List Nat) (hs0 : P s) :
    P (gatherSend s x l b rm vs) := by
  unfold gatherSend
  repeat' (first
    | with_reducible assumption
    | (with_reducible refine fun _ => ?_)
    | ((try lift_lets); with_reducible intro x; first
        | (refine (fun (hx : P x) => ?_) ?_; on_goal 2 => (try unfold x); on_goal 1 => clear_value x)
        | clear_value x)
    | with_reducible apply p_ite
    | with_reducible apply raise_only (hc.sub (by decide))
    | with_reducible apply modColl_only (hc.sub (by decide))
    | with_reducible apply sendPieces_only (hc.sub (by decide))
    | with_reducible apply markSent_only (hc.sub (by decide))
    | split
    | (with_reducible refine p_fst (by assumption) ?_)
    | with_reducible apply id_only (hc.sub (by decide)))

theorem finishBlock_only {P : State → Prop} (hc : ClosedOn P [.nflag, .cmds, .colls, .tiers, .links, .ward, .out])
    (s : State) (x : CollRun) (l b : Nat) (v : List Nat) (hs0 : P s) :
    P (finishBlock s x l b v) := by
  unfold finishBlock
  repeat' (first
    | with_reducible assumption
    | ((try lift_lets); with_reducible intro x; clear_value x)
    | with_reducible apply p_ite
    | with_reducible apply markWrote_only (hc.sub (by decide))
    | with_reducible apply writeBlock_only (hc.sub (by decide))
    | with_reducible apply raise_only (hc.sub (by decide))
    | with_reducible apply gatherSend_only (hc.sub (by decide)))

theorem flushUnits_only {P : State → Prop} (hc : ClosedOn P [.colls, .tiers]) (s : State) (x : CollRun) (hs0 : P s) :
    P (flushUnits s x) := by
  unfold flushUnits
  repeat' (first
    | with_reducible assumption
    | (with_reducible refine fun _ => ?_)
    | ((try lift_lets); with_reducible intro x; clear_value x)
    | with_reducible apply p_ite
    | with_reducible apply markWrote_only (hc.sub (by decide))
    | with_reducible apply wrDev_only (hc.sub (by decide))
    | with_reducible apply p_foldl)

theorem countDisc_only {P : State → Prop} (hc : ClosedOn P [.links]) (s : State) (l : Nat) (hs0 : P s) :
    P (countDisc s l) := by
  unfold countDisc
  split
  · assumption
  · exact modLink_only (hc.sub (by decide)) _ _ _ hs0

theorem blockIn_only {P : State → Prop} (hc : ClosedOn P [.nflag, .cmds, .colls, .tiers, .links, .ward, .out]) (s : State)
    (x : CollRun) (l level b : Nat) (a : Asm) (hs0 : P s) :
    P (blockIn s x l level b a) := by
  unfold blockIn
  repeat' (first
    | with_reducible assumption
    | (with_reducible refine fun _ => ?_)
    | ((try lift_lets); with_reducible intro x; first
        | (refine (fun (hf2 : ∀ (u : State) y, P u → P (x u y)) => ?_) ?_; on_goal 2 => (try unfold x); on_goal 1 => clear_value x)
        | clear_value x)
    | with_reducible apply p_ite
    | with_reducible apply hf2
    | with_reducible apply countDisc_only (hc.sub (by decide))
    | with_reducible apply logClass_only (hc.sub (by decide))
    | with_reducible apply raise_only (hc.sub (by decide))
    | with_reducible apply putRecv_only (hc.sub (by decide))
    | with_reducible apply wrDev_only (hc.sub (by decide))
    | with_reducible apply gatherWrite_only (hc.sub (by decide)))

theorem noteBlocks_only {P : State → Prop} (hc : ClosedOn P [.sect, .ward, .out]) (s : State) (w : Work) (side : Nat)
    (xs : List Expanded) (hs0 : P s) :
    P (noteBlocks s w side xs) := by
  unfold noteBlocks
  repeat' (first
    | with_reducible assumption
    | (with_reducible refine fun _ => ?_)
    | with_reducible apply p_ite
    | with_reducible apply capXpnd_only (hc.sub (by decide))
    | with_reducible apply p_foldl)

theorem loadTile_only {P : State → Prop} (hc : ClosedOn P [.sect, .ward, .out]) (s : State) (c : Eng) (w : Work)
    (ch : Chain) (sl : ArraySlot) (kAct : Nat) (hs0 : P s) :
    P (loadTile s c w ch sl kAct).1 := by
  unfold loadTile
  repeat' (first
    | with_reducible assumption
    | ((try lift_lets); with_reducible intro x; clear_value x)
    | with_reducible apply p_ite
    | with_reducible apply id_only (hc.sub (by decide))
    | with_reducible apply noteBlocks_only (hc.sub (by decide)))

theorem loadRows_only {P : State → Prop} (hc : ClosedOn P [.sect, .ward, .out]) (s : State) (c : Eng) (w : Work)
    (ch : Chain) (sl : ArraySlot) (m kWgt : Nat) (hs0 : P s) :
    P (loadRows s c w ch sl m kWgt).1 := by
  unfold loadRows
  repeat' (first
    | with_reducible assumption
    | ((try lift_lets); with_reducible intro x; clear_value x)
    | with_reducible apply p_ite
    | with_reducible apply id_only (hc.sub (by decide))
    | with_reducible apply noteBlocks_only (hc.sub (by decide)))

theorem runPass_only {P : State → Prop} (hc : ClosedOn P [.sect, .nflag, .cmds, .cores, .acc, .ward, .out]) (s : State) (w : Work) (sl : ArraySlot) (hs0 : P s) :
    P (runPass s w sl).1 := by
  unfold runPass
  repeat' (first
    | with_reducible assumption
    | (with_reducible refine fun _ => ?_)
    | ((try lift_lets); with_reducible intro x; first
        | (refine (fun (hx : P x) => ?_) ?_; on_goal 2 => (try unfold x); on_goal 1 => clear_value x)
        | clear_value x)
    | with_reducible apply p_ite
    | with_reducible apply modCore_only (hc.sub (by decide))
    | with_reducible apply raise_only (hc.sub (by decide))
    | with_reducible apply loadTile_only (hc.sub (by decide))
    | with_reducible apply loadRows_only (hc.sub (by decide))
    | with_reducible apply p_foldl
    | split
    | (with_reducible refine p_fst (by assumption) ?_)
    | (with_reducible refine upd_acc hc (by decide) _ ?_))

theorem epiStep_only {P : State → Prop} (hc : ClosedOn P [.slate, .commons, .tiers]) (w : Work) (sl : ArraySlot) (a : State × List (List Nat) × NumFlags) (e : ChainEntry)
    (h : P a.1) : P (epiStep w sl a e).1 := by
  obtain ⟨s, rows, f⟩ := a
  unfold epiStep
  dsimp only
  split
  · exact p_foldl _ _ h (fun s x h => wr32_only (hc.sub (by decide)) _ _ _ _ _ _ _ _ (wr32_only (hc.sub (by decide)) _ _ _ _ _ _ _ _ h))
  · exact wr32_only (hc.sub (by decide)) _ _ _ _ _ _ _ _ h
  · exact h
  · exact h

theorem storeTile_only {P : State → Prop} (hc : ClosedOn P [.slate, .commons, .tiers]) (s : State) (w : Work) (sl : ArraySlot) (ch : Chain) (rows : List (List Nat))
    (h : P s) : P (storeTile s w sl ch rows).1 := by
  unfold storeTile
  dsimp only
  split
  · exact p_foldl1 _ _ _ h (fun a e ha => p_foldl1 _ _ _ ha (fun a y ha => wrMx_only (hc.sub (by decide)) _ _ _ _ _ _ _ _ _ ha))
  · exact p_foldl1 _ _ _ h (fun a e ha => p_foldl1 _ _ _ ha (fun a y ha => wrCode_only (hc.sub (by decide)) _ _ _ _ _ _ _ _ ha))

theorem lanePut_only {P : State → Prop} (hc : ClosedOn P [.slate, .commons, .tiers]) (s : State) (x : Site)
    (t : Tensor) (i v : Nat) (hs0 : P s) :
    P (lanePut s x t i v) := by
  unfold lanePut
  repeat' (first
    | with_reducible assumption
    | ((try lift_lets); with_reducible intro x; clear_value x)
    | with_reducible apply p_ite
    | with_reducible apply wrCode_only (hc.sub (by decide)))

theorem laneStore_only {P : State → Prop} (hc : ClosedOn P [.slate, .commons, .tiers]) (s : State) (c : Eng) (w : Work) (l : LaneSlot) (t : Tensor) (vs : List Nat)
    (h : P s) : P (laneStore s c w l t vs).1 := by
  unfold laneStore
  dsimp only
  split
  · refine p_foldl1 _ _ _ h (fun a y ha => ?_)
    exact p_ite _ _ _ (wrMx_only (hc.sub (by decide)) _ _ _ _ _ _ _ _ _ ha) ha
  · split
    · exact p_foldl _ _ h (fun s y h => lanePut_only (hc.sub (by decide)) _ _ _ _ _ h)
    · exact p_foldl1 _ _ _ h (fun a y ha => lanePut_only (hc.sub (by decide)) _ _ _ _ _ ha)

theorem restartCore_only {P : State → Prop} (hc : ClosedOn P [.cores, .trace]) (s : State) (x : CoreRun) (len q : Nat)
    (hs0 : P s) :
    P (restartCore s x len q) := by
  unfold restartCore
  repeat' (first
    | with_reducible assumption
    | ((try lift_lets); with_reducible intro x; first
        | (refine (fun (hx : P x) => ?_) ?_; on_goal 2 => (try unfold x); on_goal 1 => clear_value x)
        | clear_value x)
    | with_reducible apply p_ite
    | with_reducible apply modCore_only (hc.sub (by decide))
    | with_reducible apply traceCore_only (hc.sub (by decide)))

theorem tokenOut_only {P : State → Prop} (hc : ClosedOn P [.links]) (s : State) (x : CoreRun) (q c : Nat)
    (d : ChanDef) (posts : Bool) (hs0 : P s) :
    P (tokenOut s x q c d posts) := by
  unfold tokenOut
  repeat' (first
    | with_reducible assumption
    | ((try lift_lets); with_reducible intro x; clear_value x)
    | with_reducible apply p_ite
    | with_reducible apply pushFlit_only (hc.sub (by decide)))

theorem tileOut_only {P : State → Prop} (hc : ClosedOn P [.links]) (s : State) (x : CoreRun) (q c : Nat) (d : ChanDef)
    (bs : List Nat) (hs0 : P s) :
    P (tileOut s x q c d bs) := by
  unfold tileOut
  repeat' (first
    | with_reducible assumption
    | (with_reducible refine fun _ => ?_)
    | ((try lift_lets); with_reducible intro x; clear_value x)
    | with_reducible apply pushFlit_only (hc.sub (by decide))
    | with_reducible apply p_foldl)

theorem postTile_only {P : State → Prop} (hc : ClosedOn P [.cores, .slate, .commons, .tiers, .links]) (s : State) (x : CoreRun) (q no c : Nat) (hs0 : P s) :
    P (postTile s x q no c) := by
  unfold postTile
  repeat' (first
    | with_reducible assumption
    | (with_reducible refine fun _ => ?_)
    | ((try lift_lets); with_reducible intro x; first
        | (refine (fun (hx : P x) => ?_) ?_; on_goal 2 => (try unfold x); on_goal 1 => clear_value x)
        | clear_value x)
    | with_reducible apply p_ite
    | with_reducible apply modCore_only (hc.sub (by decide))
    | with_reducible apply wrSpace_only (hc.sub (by decide))
    | with_reducible apply tokenOut_only (hc.sub (by decide))
    | with_reducible apply tileOut_only (hc.sub (by decide)))

theorem consumeTile_only {P : State → Prop} (hc : ClosedOn P [.cores, .links]) (s : State) (x : CoreRun) (q c : Nat)
    (hs0 : P s) :
    P (consumeTile s x q c) := by
  unfold consumeTile
  repeat' (first
    | with_reducible assumption
    | ((try lift_lets); with_reducible intro x; first
        | (refine (fun (hx : P x) => ?_) ?_; on_goal 2 => (try unfold x); on_goal 1 => clear_value x)
        | clear_value x)
    | with_reducible apply p_ite
    | with_reducible apply modCore_only (hc.sub (by decide))
    | with_reducible apply tokenOut_only (hc.sub (by decide)))

theorem releaseChunk_only {P : State → Prop} (hc : ClosedOn P [.cores]) (s : State) (q n : Nat) (hs0 : P s) :
    P (releaseChunk s q n) := by
  unfold releaseChunk
  repeat' (first
    | with_reducible assumption
    | with_reducible apply p_ite
    | with_reducible apply modStream_only (hc.sub (by decide)))

theorem endStreams_only {P : State → Prop} (hc : ClosedOn P [.cores]) (s : State) (x : CoreRun) (q : Nat) (hs0 : P s) :
    P (endStreams s x q) := by
  unfold endStreams
  repeat' (first
    | with_reducible assumption
    | (with_reducible refine fun _ => ?_)
    | with_reducible apply p_ite
    | with_reducible apply modStream_only (hc.sub (by decide))
    | with_reducible apply p_foldl
    | split)

theorem sramNv_only {P : State → Prop} (hc : ClosedOn P [.nflag, .cmds, .ward, .out]) (s : State) (t : Sec)
    (n kind ix : Nat) (hs0 : P s) :
    P (sramNv s t n kind ix) := by
  unfold sramNv
  repeat' (first
    | with_reducible assumption
    | (with_reducible refine fun _ => ?_)
    | ((try lift_lets); with_reducible intro x; refine (fun (hx : P x) => ?_) ?_; on_goal 2 => (try unfold x); on_goal 1 => clear_value x)
    | with_reducible apply raise_only (hc.sub (by decide))
    | with_reducible apply logClass_only (hc.sub (by decide))
    | with_reducible apply p_foldl
    | split)

theorem admitReshard_only {P : State → Prop}
    (hc : ClosedOn P [.rings, .cmds, .recs, .steps, .colls, .tiers, .hif, .trace]) (s : State) (t : Sec) (d : Desc) (c : Cmd) (g : Image) (x : Coll) (hs0 : P s) :
    P (admitReshard s t d c g x) := by
  unfold admitReshard
  repeat' (first
    | with_reducible assumption
    | (with_reducible refine fun _ => ?_)
    | ((try lift_lets); with_reducible intro x; clear_value x)
    | (with_reducible refine makeResident_only (hc.sub (by decide)) ?_ (by assumption))
    | with_reducible apply completeRead_only (hc.sub (by decide))
    | with_reducible apply addRecalls_only (hc.sub (by decide))
    | with_reducible apply touchPages_only (hc.sub (by decide))
    | with_reducible apply takeIn_only (hc.sub (by decide))
    | with_reducible apply p_foldl
    | split)

theorem endReshard_only {P : State → Prop}
    (hc : ClosedOn P [.sect, .rings, .cmds, .recs, .steps, .colls, .ward, .trace, .out]) (s : State) (t : Sec) (c : Cmd) (r : ReshardJob) (status detail : BitVec 8) (hs0 : P s) :
    P (endReshard s t c r status detail) := by
  unfold endReshard
  repeat' (first
    | with_reducible assumption
    | ((try lift_lets); with_reducible intro x; first
        | (refine (fun (hx : P x) => ?_) ?_; on_goal 2 => (try unfold x); on_goal 1 => clear_value x)
        | clear_value x)
    | with_reducible apply p_ite
    | with_reducible apply capLoss_only (hc.sub (by decide))
    | with_reducible apply complete_only (hc.sub (by decide)))

theorem discardBytes_only {P : State → Prop} (hc : ClosedOn P [.slate, .commons, .tiers]) (s : State) (t : Sec) (q space stop : Nat) (a : Int) (n : Nat) (hs0 : P s) :
    P (discardBytes s t q space stop a n) := by
  unfold discardBytes
  repeat' (first
    | with_reducible assumption
    | (with_reducible refine fun _ => ?_)
    | ((try lift_lets); with_reducible intro x; first
        | (refine (fun (hx : P x) => ?_) ?_; on_goal 2 => (try unfold x); on_goal 1 => clear_value x)
        | clear_value x)
    | with_reducible apply p_ite
    | with_reducible apply wrSpace_only (hc.sub (by decide))
    | with_reducible apply p_foldl
    | split
    | (with_reducible refine p_fst (by assumption) ?_)
    | with_reducible apply id_only (hc.sub (by decide)))

theorem discardChans_only {P : State → Prop} (hc : ClosedOn P [.slate, .commons, .tiers]) (s : State) (x : CoreRun) (q stop : Nat) (hs0 : P s) :
    P (discardChans s x q stop) := by
  unfold discardChans
  repeat' (first
    | with_reducible assumption
    | (with_reducible refine fun _ => ?_)
    | ((try lift_lets); with_reducible intro x; first
        | (refine (fun (hx : P x) => ?_) ?_; on_goal 2 => (try unfold x); on_goal 1 => clear_value x)
        | clear_value x)
    | with_reducible apply p_ite
    | with_reducible apply discardBytes_only (hc.sub (by decide))
    | with_reducible apply p_foldl
    | split
    | (with_reducible refine p_fst (by assumption) ?_)
    | with_reducible apply id_only (hc.sub (by decide)))

theorem discardStream_only {P : State → Prop} (hc : ClosedOn P [.slate, .commons, .tiers]) (s : State) (x : CoreRun) (y : Stream) (stop : Nat) (hs0 : P s) :
    P (discardStream s x y stop) := by
  unfold discardStream
  repeat' (first
    | with_reducible assumption
    | (with_reducible refine fun _ => ?_)
    | ((try lift_lets); with_reducible intro x; first
        | (refine (fun (hx : P x) => ?_) ?_; on_goal 2 => (try unfold x); on_goal 1 => clear_value x)
        | clear_value x)
    | with_reducible apply p_ite
    | with_reducible apply discardBytes_only (hc.sub (by decide))
    | with_reducible apply p_foldl
    | split
    | (with_reducible refine p_fst (by assumption) ?_)
    | with_reducible apply id_only (hc.sub (by decide)))

theorem handedBlocks_only {P : State → Prop} (hc : ClosedOn P [.links]) (s : State) (x : CoreRun) (q : Nat) (hs0 : P s) :
    P (handedBlocks s x q) := by
  unfold handedBlocks
  repeat' (first
    | with_reducible assumption
    | (with_reducible refine fun _ => ?_)
    | ((try lift_lets); with_reducible intro x; first
        | (refine (fun (hx : P x) => ?_) ?_; on_goal 2 => (try unfold x); on_goal 1 => clear_value x)
        | clear_value x)
    | with_reducible apply p_ite
    | with_reducible apply tileOut_only (hc.sub (by decide))
    | with_reducible apply p_foldl
    | split
    | (with_reducible refine p_fst (by assumption) ?_)
    | with_reducible apply id_only (hc.sub (by decide)))

theorem discardRun_only {P : State → Prop} (hc : ClosedOn P [.slate, .commons, .tiers, .links, .fresh]) (s : State) (t : Sec) (hs0 : P s) :
    P (discardRun s t) := by
  unfold discardRun
  repeat' (first
    | with_reducible assumption
    | (with_reducible refine fun _ => ?_)
    | ((try lift_lets); with_reducible intro x; first
        | (refine (fun (hx : P x) => ?_) ?_; on_goal 2 => (try unfold x); on_goal 1 => clear_value x)
        | clear_value x)
    | with_reducible apply p_ite
    | with_reducible apply handedBlocks_only (hc.sub (by decide))
    | with_reducible apply discardChans_only (hc.sub (by decide))
    | with_reducible apply discardStream_only (hc.sub (by decide))
    | with_reducible apply p_foldl
    | split
    | (with_reducible refine p_fst (by assumption) ?_)
    | (with_reducible refine upd_fresh hc (by decide) _ ?_)
    | with_reducible apply id_only (hc.sub (by decide)))

theorem lanePuts_only {P : State → Prop} (hc : ClosedOn P [.slate, .commons, .tiers]) (s : State) (x : Site) (t : Tensor) (ys : List Nat) (hs0 : P s) :
    P (lanePuts s x t ys) := by
  unfold lanePuts
  repeat' (first
    | with_reducible assumption
    | (with_reducible refine fun _ => ?_)
    | ((try lift_lets); with_reducible intro x; first
        | (refine (fun (hx : P x) => ?_) ?_; on_goal 2 => (try unfold x); on_goal 1 => clear_value x)
        | clear_value x)
    | with_reducible apply p_ite
    | with_reducible apply lanePut_only (hc.sub (by decide))
    | with_reducible apply p_foldl
    | split
    | (with_reducible refine p_fst (by assumption) ?_)
    | with_reducible apply id_only (hc.sub (by decide)))

theorem laneInts_only {P : State → Prop} (hc : ClosedOn P [.slate, .commons, .tiers]) (s : State) (c : Eng) (w : Work) (l : LaneSlot) (t : Tensor) (ys : List Nat) (hs0 : P s) :
    P (laneInts s c w l t ys).1 := by
  unfold laneInts
  repeat' (first
    | with_reducible assumption
    | (with_reducible refine fun _ => ?_)
    | ((try lift_lets); with_reducible intro x; first
        | (refine (fun (hx : P x) => ?_) ?_; on_goal 2 => (try unfold x); on_goal 1 => clear_value x)
        | clear_value x)
    | with_reducible apply p_ite
    | with_reducible apply laneStore_only (hc.sub (by decide))
    | with_reducible apply lanePuts_only (hc.sub (by decide))
    | with_reducible apply p_foldl
    | split
    | (with_reducible refine p_fst (by assumption) ?_)
    | with_reducible apply id_only (hc.sub (by decide)))

theorem laneSorted_only {P : State → Prop} (hc : ClosedOn P [.slate, .commons, .tiers]) (s : State) (c : Eng) (w : Work) (l : LaneSlot) (k : Code) (t : Tensor) (ys : List (Nat × Nat)) (hs0 : P s) :
    P (laneSorted s c w l k t ys) := by
  unfold laneSorted
  repeat' (first
    | with_reducible assumption
    | (with_reducible refine fun _ => ?_)
    | ((try lift_lets); with_reducible intro x; first
        | (refine (fun (hx : P x) => ?_) ?_; on_goal 2 => (try unfold x); on_goal 1 => clear_value x)
        | clear_value x)
    | with_reducible apply p_ite
    | with_reducible apply laneStore_only (hc.sub (by decide))
    | with_reducible apply lanePuts_only (hc.sub (by decide))
    | with_reducible apply p_foldl
    | split
    | (with_reducible refine p_fst (by assumption) ?_)
    | with_reducible apply id_only (hc.sub (by decide)))

theorem laneRun_only {P : State → Prop} (hc : ClosedOn P [.slate, .commons, .tiers]) (s : State) (c : Eng) (w : Work) (l : LaneSlot) (h : P s) :
    P (laneRun s c w l).1 := by
  unfold laneRun
  extract_lets x ta tb td is a b d store two one as bs ints ins reduce
  have hstore : ∀ ys, P (store ys).1 := by
    intro ys; dsimp only [store]; exact laneStore_only (hc.sub (by decide)) _ _ _ _ _ _ h
  have htwo : ∀ op, P (two op).1 := by intro op; dsimp only [two]; exact hstore _
  have hone : ∀ op, P (one op).1 := by intro op; dsimp only [one]; exact hstore _
  have hput : ∀ t s ys, P s → P (lanePuts s x t ys) := fun t s ys h => lanePuts_only (hc.sub (by decide)) _ _ _ _ h
  have hint : ∀ ys, P (laneInts s c w l td ys).1 := fun ys => laneInts_only (hc.sub (by decide)) _ _ _ _ _ _ h
  have hints : ∀ op, P (ints op).1 := by intro op; dsimp only [ints]; exact hint _
  have hred : ∀ op, P (reduce op).1 := by intro op; dsimp only [reduce]; exact hstore _
  clear_value store two one ints reduce
  clear_value x ta tb td is a b d as bs ins
  generalize l.op = n
  split <;> first
    | exact htwo _
    | exact hone _
    | exact hstore _
    | exact hints _
    | exact hred _
    | exact hint _
    | exact hput _ _ _ h
    | exact h
    | (split; exacts [hstore _, hput _ _ _ h])
    | (split; exacts [hone _, hput _ _ _ h])
    | exact laneSorted_only (hc.sub (by decide)) _ _ _ _ _ _ _ (p_ite _ _ _ h (hput _ _ _ h))

theorem laneWork_only {P : State → Prop} (hc : ClosedOn P [.nflag, .cmds, .slate, .commons, .tiers, .ward, .out])
    (s : State) (w : Work) (l : LaneSlot) (hs0 : P s) :
    P (laneWork s w l) := by
  unfold laneWork
  repeat' (first
    | with_reducible assumption
    | with_reducible apply laneRun_only (hc.sub (by decide))
    | with_reducible apply raise_only (hc.sub (by decide)))

theorem noteCorrected_only {P : State → Prop} (hc : ClosedOn P [.tiers, .ward, .out]) (s : State) (p : Nat) (hs0 : P s) :
    P (noteCorrected s p) := by
  unfold noteCorrected
  repeat' (first
    | with_reducible assumption
    | (with_reducible refine fun _ => ?_)
    | ((try lift_lets); with_reducible intro x; first
        | (refine (fun (hx : P x) => ?_) ?_; on_goal 2 => (try unfold x); on_goal 1 => clear_value x)
        | clear_value x)
    | with_reducible apply p_ite
    | with_reducible apply logClass_only (hc.sub (by decide))
    | with_reducible apply addCe_only (hc.sub (by decide))
    | with_reducible apply p_foldl
    | split
    | (with_reducible refine p_fst (by assumption) ?_)
    | with_reducible apply id_only (hc.sub (by decide)))

theorem noteDecodes_only {P : State → Prop} (hc : ClosedOn P [.tiers, .ward, .out]) (s : State) (a n : Nat) (hs0 : P s) :
    P (noteDecodes s a n) := by
  unfold noteDecodes
  repeat' (first
    | with_reducible assumption
    | (with_reducible refine fun _ => ?_)
    | ((try lift_lets); with_reducible intro x; first
        | (refine (fun (hx : P x) => ?_) ?_; on_goal 2 => (try unfold x); on_goal 1 => clear_value x)
        | clear_value x)
    | with_reducible apply p_ite
    | with_reducible apply noteCorrected_only (hc.sub (by decide))
    | with_reducible apply p_foldl
    | split
    | (with_reducible refine p_fst (by assumption) ?_)
    | with_reducible apply id_only (hc.sub (by decide)))

theorem applyMove_only {P : State → Prop} (hc : ClosedOn P [.sect, .tiers, .ward, .out]) (s : State) (m : PageMove)
    (hs0 : P s) :
    P (applyMove s m) := by
  have h1 := upd_tiers hc (by decide) { s.tiers with
    moves := s.tiers.moves.filter (fun x => x.page != m.page || x.target != m.target) } hs0 rfl
  have h2 (u : State) (h : P u) : P (noteDecodes (carryPoison u m.sec m.page) (pageBytes * m.page) pageBytes) :=
    noteDecodes_only (hc.sub (by decide)) _ _ _ (carryPoison_only (hc.sub (by decide)) _ _ _ h)
  unfold applyMove
  dsimp only
  split
  · exact modPage_only (hc.sub (by decide)) _ _ _ (copyGranules_only (hc.sub (by decide)) _ _ _ _ (h2 _ h1))
  · split
    · exact h1
    · exact modPage_only (hc.sub (by decide)) _ _ _
        (p_ite _ _ _ h1 (copyGranules_only (hc.sub (by decide)) _ _ _ _ (h2 _ h1)))

theorem ckptCopy_only {P : State → Prop} (hc : ClosedOn P [.sect, .tiers, .ward, .out]) (s : State) (t : Sec) (g : Nat × Nat) (hs0 : P s) :
    P (ckptCopy s t g) := by
  unfold ckptCopy
  repeat' (first
    | with_reducible assumption
    | ((try lift_lets); with_reducible intro x; first
        | (refine (fun (hx : P x) => ?_) ?_; on_goal 2 => (try unfold x); on_goal 1 => clear_value x)
        | clear_value x)
    | with_reducible apply p_ite
    | with_reducible apply capMem_only (hc.sub (by decide))
    | with_reducible apply copyGranule_only (hc.sub (by decide))
    | with_reducible apply noteDecodes_only (hc.sub (by decide)))

theorem ckptCopyAll_only {P : State → Prop} (hc : ClosedOn P [.sect, .tiers, .ward, .out]) (s : State) (t : Sec)
    (gs : List (Nat × Nat)) (hs0 : P s) :
    P (ckptCopyAll s t gs) := by
  unfold ckptCopyAll
  repeat' (first
    | with_reducible assumption
    | (with_reducible refine fun _ => ?_)
    | with_reducible apply ckptCopy_only (hc.sub (by decide))
    | with_reducible apply p_foldl)

theorem ckptStop_only {P : State → Prop} (hc : ClosedOn P [.sect, .tiers, .ward, .out, .fresh]) (s : State) (t : Sec)
    (k : CkptJob) (hs0 : P s) :
    P (ckptStop s t k).1 := by
  unfold ckptStop
  repeat' (first
    | with_reducible assumption
    | (with_reducible refine fun _ => ?_)
    | ((try lift_lets); with_reducible intro x; clear_value x)
    | with_reducible apply p_ite
    | with_reducible apply ckptCopyAll_only (hc.sub (by decide))
    | with_reducible apply newStop_only (hc.sub (by decide))
    | with_reducible apply p_foldl
    | split)

theorem notePartWrite_only {P : State → Prop} (hc : ClosedOn P [.tiers, .ward, .out]) (s : State) (a n : Nat) (hs0 : P s) :
    P (notePartWrite s a n) := by
  unfold notePartWrite
  repeat' (first
    | with_reducible assumption
    | (with_reducible refine fun _ => ?_)
    | ((try lift_lets); with_reducible intro x; first
        | (refine (fun (hx : P x) => ?_) ?_; on_goal 2 => (try unfold x); on_goal 1 => clear_value x)
        | clear_value x)
    | with_reducible apply p_ite
    | with_reducible apply noteDecodes_only (hc.sub (by decide))
    | with_reducible apply p_foldl
    | split
    | (with_reducible refine p_fst (by assumption) ?_)
    | with_reducible apply id_only (hc.sub (by decide)))

theorem hostApply_only {P : State → Prop} (hc : ClosedOn P [.tiers, .ward, .out]) (s : State) (ws : List (Nat × Nat)) (poison : Bool) (hs0 : P s) :
    P (hostApply s ws poison) := by
  unfold hostApply
  repeat' (first
    | with_reducible assumption
    | (with_reducible refine fun _ => ?_)
    | ((try lift_lets); with_reducible intro x; first
        | (refine (fun (hx : P x) => ?_) ?_; on_goal 2 => (try unfold x); on_goal 1 => clear_value x)
        | clear_value x)
    | with_reducible apply p_ite
    | with_reducible apply notePartWrite_only (hc.sub (by decide))
    | with_reducible apply wrPlaces_only (hc.sub (by decide))
    | with_reducible apply p_foldl)

theorem landWrite_only {P : State → Prop} (hc : ClosedOn P [.tiers, .ward, .out]) (s : State) (num : Nat) (ws : List (Nat × Nat)) (poison : Bool) (hs0 : P s) :
    P (landWrite s num ws poison) := by
  unfold landWrite
  repeat' (first
    | with_reducible assumption
    | (with_reducible refine fun _ => ?_)
    | ((try lift_lets); with_reducible intro x; first
        | (refine (fun (hx : P x) => ?_) ?_; on_goal 2 => (try unfold x); on_goal 1 => clear_value x)
        | clear_value x)
    | with_reducible apply p_ite
    | with_reducible apply hostApply_only (hc.sub (by decide))
    | with_reducible apply p_foldl
    | (with_reducible refine upd_tiers hc (by decide) _ ?_ rfl))

theorem releaseHeld_only {P : State → Prop} (hc : ClosedOn P [.tiers, .ward, .out]) (s : State) (page : Nat) (hs0 : P s) :
    P (releaseHeld s page) := by
  unfold releaseHeld
  repeat' (first
    | with_reducible assumption
    | (with_reducible refine fun _ => ?_)
    | ((try lift_lets); with_reducible intro x; first
        | (refine (fun (hx : P x) => ?_) ?_; on_goal 2 => (try unfold x); on_goal 1 => clear_value x)
        | (refine (fun (hx : (x : Tiers) = x) => ?_) rfl; clear hx)
        | clear_value x)
    | with_reducible apply hostApply_only (hc.sub (by decide))
    | with_reducible apply p_foldl
    | split
    | (with_reducible refine p_fst (by assumption) ?_)
    | (with_reducible refine upd_tiers hc (by decide) _ ?_ rfl))

theorem finishInline_only {P : State → Prop} (hc : ClosedOn P [.rings, .cmds, .recs, .steps, .colls, .tiers, .ward, .trace, .out]) (s : State) (t : Sec) (hs0 : P s) :
    P (finishInline s t) := by
  unfold finishInline
  repeat' (first
    | with_reducible assumption
    | (with_reducible refine fun _ => ?_)
    | ((try lift_lets); with_reducible intro x; first
        | (refine (fun (hx : P x) => ?_) ?_; on_goal 2 => (try unfold x); on_goal 1 => clear_value x)
        | clear_value x)
    | with_reducible apply p_ite
    | with_reducible apply complete_only (hc.sub (by decide))
    | with_reducible apply hostApply_only (hc.sub (by decide))
    | with_reducible apply p_foldl
    | split
    | (with_reducible refine p_fst (by assumption) ?_))

theorem dropMoves_only {P : State → Prop} (hc : ClosedOn P [.tiers, .ward, .out]) (s : State) (ord : Nat) (hs0 : P s) :
    P (dropMoves s ord) := by
  unfold dropMoves
  repeat' (first
    | with_reducible assumption
    | (with_reducible refine fun _ => ?_)
    | ((try lift_lets); with_reducible intro x; first
        | (refine (fun (hx : P x) => ?_) ?_; on_goal 2 => (try unfold x); on_goal 1 => clear_value x)
        | (refine (fun (hx : (x : Tiers) = x) => ?_) rfl; clear hx)
        | clear_value x)
    | with_reducible apply p_ite
    | with_reducible apply releaseHeld_only (hc.sub (by decide))
    | with_reducible apply p_foldl
    | split
    | (with_reducible refine p_fst (by assumption) ?_)
    | (with_reducible refine upd_tiers hc (by decide) _ ?_ rfl))

theorem drainOne_only {P : State → Prop} (hc : ClosedOn P [.sect, .rings, .cmds, .recs, .steps, .colls, .tiers, .ward, .trace, .out, .fresh]) (s : State) (t : Sec) (c : Cmd) (hs0 : P s) :
    P (drainOne s t c) := by
  unfold drainOne
  repeat' (first
    | with_reducible assumption
    | (with_reducible refine fun _ => ?_)
    | ((try lift_lets); with_reducible intro x; first
        | (refine (fun (hx : P x) => ?_) ?_; on_goal 2 => (try unfold x); on_goal 1 => clear_value x)
        | clear_value x)
    | with_reducible apply p_ite
    | with_reducible apply modCmd_only (hc.sub (by decide))
    | with_reducible apply completeOne_only (hc.sub (by decide))
    | with_reducible apply ckptStop_only (hc.sub (by decide))
    | with_reducible apply dropMoves_only (hc.sub (by decide))
    | split
    | (with_reducible refine p_fst (by assumption) ?_))

theorem drainSection_only {P : State → Prop}
    (hc : ClosedOn P [.sect, .rings, .cmds, .recs, .steps, .colls, .tiers, .ward, .trace, .out, .fresh]) (s : State) (t : Sec) (hs0 : P s) :
    P (drainSection s t) := by
  unfold drainSection
  repeat' (first
    | with_reducible assumption
    | (with_reducible refine fun _ => ?_)
    | with_reducible apply finishInline_only (hc.sub (by decide))
    | with_reducible apply drainOne_only (hc.sub (by decide))
    | with_reducible apply p_foldl
    | split)

theorem drainTakes_only {P : State → Prop}
    (hc : ClosedOn P [.sect, .rings, .cmds, .recs, .steps, .colls, .tiers, .ward, .trace, .out, .fresh]) (s : State) (t : Sec) (hs0 : P s) :
    P (drainTakes s t) := by
  unfold drainTakes
  repeat' (first
    | with_reducible assumption
    | ((try lift_lets); with_reducible intro x; first
        | (refine (fun (hx : P x) => ?_) ?_; on_goal 2 => (try unfold x); on_goal 1 => clear_value x)
        | clear_value x)
    | with_reducible apply p_ite
    | with_reducible apply drainSection_only (hc.sub (by decide))
    | with_reducible apply setCmds_only (hc.sub (by decide)))

theorem noteRead_only {P : State → Prop} (hc : ClosedOn P [.sect, .tiers, .ward, .out]) (s : State) (t : Sec) (source a n : Nat) (hs0 : P s) :
    P (noteRead s t source a n) := by
  unfold noteRead
  repeat' (first
    | with_reducible assumption
    | (with_reducible refine fun _ => ?_)
    | ((try lift_lets); with_reducible intro x; first
        | (refine (fun (hx : P x) => ?_) ?_; on_goal 2 => (try unfold x); on_goal 1 => clear_value x)
        | clear_value x)
    | with_reducible apply p_ite
    | with_reducible apply capMem_only (hc.sub (by decide))
    | with_reducible apply noteDecodes_only (hc.sub (by decide))
    | with_reducible apply p_foldl
    | split
    | (with_reducible refine p_fst (by assumption) ?_)
    | with_reducible apply id_only (hc.sub (by decide)))

theorem readBlock_only {P : State → Prop} (hc : ClosedOn P [.sect, .nflag, .cmds, .tiers, .ward, .out]) (s : State) (x : CollRun) (l : Nat) (t : Tensor) (b : Nat) (hs0 : P s) :
    P (readBlock s x l t b).1 := by
  unfold readBlock
  repeat' (first
    | with_reducible assumption
    | (with_reducible refine fun _ => ?_)
    | ((try lift_lets); with_reducible intro x; first
        | (refine (fun (hx : P x) => ?_) ?_; on_goal 2 => (try unfold x); on_goal 1 => clear_value x)
        | clear_value x)
    | with_reducible apply p_ite
    | with_reducible apply raise_only (hc.sub (by decide))
    | with_reducible apply noteRead_only (hc.sub (by decide))
    | with_reducible apply p_foldl
    | split
    | (with_reducible refine p_fst (by assumption) ?_))

theorem contribution_only {P : State → Prop} (hc : ClosedOn P [.sect, .nflag, .cmds, .tiers, .ward, .out]) {s u : State} {x : CollRun} {l b : Nat} {v : List Nat} (h : P s)
    (e : contribution s x l b = some (u, v)) : P u := by
  unfold contribution at e
  split at e
  · cases e
  · rename_i cs hcs
    simp only [Option.some.injEq, Prod.mk.injEq] at e
    rw [← e.1]
    have key : ∀ (cs : List Words) (a : State × Option (List Nat)), P a.1 →
        P (cs.foldl (fun (acc : State × Option (List Nat)) (w : Words) =>
          match acc.2 with
          | none => (acc.1, some (wordsOf w))
          | some v => ((addWords acc.1 x l v (wordsOf w)).1, some (addWords acc.1 x l v (wordsOf w)).2)) a).1 := by
      intro cs
      induction cs with
      | nil => exact fun a ha => ha
      | cons w cs ih =>
        intro a ha
        refine ih _ ?_
        obtain ⟨s1, o⟩ := a
        cases o with
        | none => exact ha
        | some v => exact addWords_only (hc.sub (by decide)) _ _ _ _ _ ha
    refine key cs _ ?_
    split
    · rename_i s1 v1 hs
      split at hs
      · cases hs; exact readBlock_only (hc.sub (by decide)) _ _ _ _ _ h
      · cases hs
    · exact h

theorem contribution_only2 {P : State → Prop} (hc : ClosedOn P [.sect, .nflag, .cmds, .colls, .tiers, .links, .ward, .out]) {s u : State} {x : CollRun} {l b : Nat} {v : List Nat} {c : Prop} [Decidable c]
    (h : P s) (e : (if c then contribution s x l b else none) = some (u, v)) : P u := by
  split at e
  · exact contribution_only (hc.sub (by decide)) h e
  · cases e

theorem reduceBlock_only {P : State → Prop} (hc : ClosedOn P [.sect, .nflag, .cmds, .colls, .tiers, .links, .ward, .out]) (fuel : Nat) (s : State) (x : CollRun) (l b : Nat) (h : P s) :
    P (reduceBlock fuel s x l b) := by
  induction fuel generalizing s with
  | zero => exact h
  | succ n ih =>
  unfold reduceBlock
  split
  · split
    · exact h
    · rename_i u v e
      exact ih _ (putAcc_only (hc.sub (by decide)) _ _ _ _ _ (contribution_only2 (hc.sub (by decide)) h e))
  · rename_i j w e
    dsimp only
    refine p_ite _ _ _ (finishBlock_only (hc.sub (by decide)) _ _ _ _ _ h) (p_ite _ _ _ (p_ite _ _ _ h ?_) (p_ite _ _ _ ?_ ?_))
    · exact markSent_only (hc.sub (by decide)) _ _ _ (sendPieces_only (hc.sub (by decide)) _ _ _ _ _ _ _ _ (raise_only (hc.sub (by decide)) _ _ _ _ _ h))
    · split
      · exact h
      · refine ih _ (putAcc_only (hc.sub (by decide)) _ _ _ _ _ ?_)
        split
        · exact writeBlock_only (hc.sub (by decide)) _ _ _ _ (raise_only (hc.sub (by decide)) _ _ _ _ _ (addWords_only (hc.sub (by decide)) _ _ _ _ _ h))
        · split
          · exact writeBlock_only (hc.sub (by decide)) _ _ _ _ (addWords_only (hc.sub (by decide)) _ _ _ _ _ h)
          · exact addWords_only (hc.sub (by decide)) _ _ _ _ _ h
    · exact ih _ (putAcc_only (hc.sub (by decide)) _ _ _ _ _ h)

theorem readUnit_only {P : State → Prop} (hc : ClosedOn P [.sect, .nflag, .cmds, .tiers, .ward, .out]) (s : State) (x : CollRun) (l a : Nat) (hs0 : P s) :
    P (readUnit s x l a).1 := by
  unfold readUnit
  repeat' (first
    | with_reducible assumption
    | ((try lift_lets); with_reducible intro x; first
        | (refine (fun (hx : P x) => ?_) ?_; on_goal 2 => (try unfold x); on_goal 1 => clear_value x)
        | clear_value x)
    | with_reducible apply p_ite
    | with_reducible apply raise_only (hc.sub (by decide))
    | with_reducible apply noteRead_only (hc.sub (by decide)))

theorem sendUnit_only {P : State → Prop} (hc : ClosedOn P [.sect, .nflag, .cmds, .colls, .tiers, .links, .ward, .out])
    (s : State) (x : CollRun) (i : Nat) (m : Nat × Nat × Nat) (hs0 : P s) :
    P (sendUnit s x i m) := by
  unfold sendUnit
  repeat' (first
    | with_reducible assumption
    | ((try lift_lets); with_reducible intro x; clear_value x)
    | with_reducible apply p_ite
    | with_reducible apply readUnit_only (hc.sub (by decide))
    | with_reducible apply putRecv_only (hc.sub (by decide))
    | with_reducible apply wrDev_only (hc.sub (by decide))
    | with_reducible apply sendPieces_only (hc.sub (by decide))
    | with_reducible apply markSent_only (hc.sub (by decide)))

theorem pumpPermute_only {P : State → Prop}
    (hc : ClosedOn P [.sect, .nflag, .cmds, .colls, .tiers, .links, .ward, .out]) (s : State) (x : CollRun) (hs0 : P s) :
    P (pumpPermute s x) := by
  unfold pumpPermute
  repeat' (first
    | with_reducible assumption
    | (with_reducible refine fun _ => ?_)
    | ((try lift_lets); with_reducible intro x; refine (fun (hx : P x) => ?_) ?_; on_goal 2 => (try unfold x); on_goal 1 => clear_value x)
    | with_reducible apply p_ite
    | with_reducible apply sendUnit_only (hc.sub (by decide))
    | with_reducible apply flushUnits_only (hc.sub (by decide))
    | with_reducible apply p_foldl)

theorem pumpGather_only {P : State → Prop}
    (hc : ClosedOn P [.sect, .nflag, .cmds, .colls, .tiers, .links, .ward, .out]) (s : State) (x : CollRun) (hs0 : P s) :
    P (pumpGather s x) := by
  unfold pumpGather
  repeat' (first
    | with_reducible assumption
    | (with_reducible refine fun _ => ?_)
    | ((try lift_lets); with_reducible intro x; clear_value x)
    | with_reducible apply p_ite
    | with_reducible apply readBlock_only (hc.sub (by decide))
    | with_reducible apply gatherSend_only (hc.sub (by decide))
    | with_reducible apply p_foldl)

theorem pumpColl_only {P : State → Prop} (hc : ClosedOn P [.sect, .nflag, .cmds, .colls, .tiers, .links, .ward, .out])
    (s : State) (x : CollRun) (hs0 : P s) :
    P (pumpColl s x) := by
  unfold pumpColl
  repeat' (first
    | with_reducible assumption
    | (with_reducible refine fun _ => ?_)
    | with_reducible apply pumpPermute_only (hc.sub (by decide))
    | with_reducible apply pumpGather_only (hc.sub (by decide))
    | with_reducible apply reduceBlock_only (hc.sub (by decide))
    | with_reducible apply p_foldl
    | split)

theorem pumpSection_only {P : State → Prop}
    (hc : ClosedOn P [.sect, .nflag, .cmds, .colls, .tiers, .links, .ward, .out]) (s : State) (t : Sec) (hs0 : P s) :
    P (pumpSection s t) := by
  unfold pumpSection
  repeat' (first
    | with_reducible assumption
    | (with_reducible refine fun _ => ?_)
    | with_reducible apply pumpColl_only (hc.sub (by decide))
    | with_reducible apply p_foldl)

theorem collContribute_only {P : State → Prop}
    (hc : ClosedOn P [.sect, .nflag, .cmds, .cores, .colls, .tiers, .links, .ward, .out]) (s : State) (t : Sec) (id q : Nat) (vs : List Nat) (hs0 : P s) :
    P (collContribute s t id q vs) := by
  unfold collContribute
  repeat' (first
    | with_reducible assumption
    | (with_reducible refine fun _ => ?_)
    | ((try lift_lets); with_reducible intro x; first
        | (refine (fun (hx : P x) => ?_) ?_; on_goal 2 => (try unfold x); on_goal 1 => clear_value x)
        | clear_value x)
    | with_reducible apply id_only (hc.sub (by decide))
    | with_reducible apply modCore_only (hc.sub (by decide))
    | with_reducible apply raise_only (hc.sub (by decide))
    | with_reducible apply countDisc_only (hc.sub (by decide))
    | with_reducible apply modColl_only (hc.sub (by decide))
    | with_reducible apply pumpColl_only (hc.sub (by decide))
    | with_reducible apply p_foldl
    | split)

theorem collReceive_only {P : State → Prop}
    (hc : ClosedOn P [.sect, .nflag, .cmds, .colls, .tiers, .links, .ward, .out]) (s : State) (t : Sec) (l : Nat) (f : Flit) (hs0 : P s) :
    P (collReceive s t l f) := by
  unfold collReceive
  repeat' (first
    | with_reducible assumption
    | (with_reducible refine fun _ => ?_)
    | ((try lift_lets); with_reducible intro x; first
        | (refine (fun (hx : P x) => ?_) ?_; on_goal 2 => (try unfold x); on_goal 1 => clear_value x)
        | (refine (fun (hf : ∀ u : State, P u → P (x u)) => ?_) ?_; on_goal 2 => (try unfold x); on_goal 1 => clear_value x)
        | clear_value x)
    | with_reducible apply p_ite
    | with_reducible apply hf
    | with_reducible apply countDisc_only (hc.sub (by decide))
    | with_reducible apply modColl_only (hc.sub (by decide))
    | with_reducible apply pumpColl_only (hc.sub (by decide))
    | with_reducible apply blockIn_only (hc.sub (by decide))
    | with_reducible apply p_foldl
    | split)

theorem sendTile_only {P : State → Prop}
    (hc : ClosedOn P [.sect, .nflag, .cmds, .cores, .colls, .tiers, .links, .ward, .out]) (s : State) (w : Work) (sl : ArraySlot) (e : ChainEntry) (m : Nat) (hs0 : P s) :
    P (sendTile s w sl e m) := by
  unfold sendTile
  repeat' (first
    | with_reducible assumption
    | (with_reducible refine fun _ => ?_)
    | ((try lift_lets); with_reducible intro x; clear_value x)
    | with_reducible apply p_ite
    | with_reducible apply raise_only (hc.sub (by decide))
    | with_reducible apply collContribute_only (hc.sub (by decide))
    | with_reducible apply modCore_only (hc.sub (by decide))
    | with_reducible apply p_foldl)

theorem arrayWork_only {P : State → Prop}
    (hc : ClosedOn P [.sect, .nflag, .cmds, .cores, .slate, .commons, .acc, .colls, .tiers, .links, .ward, .out]) (s : State) (w : Work) (sl : ArraySlot) (h : P s) :
    P (arrayWork s w sl) := by
  unfold arrayWork
  dsimp only
  have h1 := runPass_only (hc.sub (by decide)) s w sl h
  refine p_ite _ _ _ h1 ?_
  have h2 : P (List.foldl (epiStep w sl) ((runPass s w sl).1, (runPass s w sl).2, fNone) (chainAt w.g sl.chain).epi).1 :=
    p_foldl1 _ _ _ h1 (fun a e ha => epiStep_only (hc.sub (by decide)) w sl a e ha)
  split
  · exact sendTile_only (hc.sub (by decide)) _ _ _ _ _ (raise_only (hc.sub (by decide)) _ _ _ _ _ (storeTile_only (hc.sub (by decide)) _ w sl _ _ h2))
  · exact raise_only (hc.sub (by decide)) _ _ _ _ _ (storeTile_only (hc.sub (by decide)) _ w sl _ _ h2)

theorem issueBundle_only {P : State → Prop}
    (hc : ClosedOn P [.sect, .nflag, .cmds, .cores, .slate, .commons, .acc, .colls, .tiers, .links, .ward, .trace, .out]) (s : State) (x : CoreRun) (q : Nat) (hs0 : P s) :
    P (issueBundle s x q) := by
  unfold issueBundle
  repeat' (first
    | with_reducible assumption
    | (with_reducible refine fun _ => ?_)
    | ((try lift_lets); with_reducible intro x; first
        | (refine (fun (hx : P x) => ?_) ?_; on_goal 2 => (try unfold x); on_goal 1 => clear_value x)
        | clear_value x)
    | with_reducible apply p_ite
    | with_reducible apply modCore_only (hc.sub (by decide))
    | with_reducible apply arrayWork_only (hc.sub (by decide))
    | with_reducible apply laneWork_only (hc.sub (by decide))
    | with_reducible apply traceCore_only (hc.sub (by decide))
    | with_reducible apply p_foldl
    | split)

theorem streamPoison_only {P : State → Prop} (hc : ClosedOn P [.sect, .nflag, .cmds, .tiers, .ward, .out]) (s : State) (x : CoreRun) (y : Stream) (space : Nat) (rs : List (Int × Nat)) (hs0 : P s) :
    P (streamPoison s x y space rs) := by
  unfold streamPoison
  repeat' (first
    | with_reducible assumption
    | (with_reducible refine fun _ => ?_)
    | ((try lift_lets); with_reducible intro x; first
        | (refine (fun (hx : P x) => ?_) ?_; on_goal 2 => (try unfold x); on_goal 1 => clear_value x)
        | clear_value x)
    | with_reducible apply p_ite
    | with_reducible apply raise_only (hc.sub (by decide))
    | with_reducible apply noteRead_only (hc.sub (by decide))
    | with_reducible apply p_foldl)

theorem copyChunk_only {P : State → Prop} (hc : ClosedOn P [.sect, .nflag, .cmds, .slate, .commons, .tiers, .ward, .out]) (s : State) (x : CoreRun) (y : Stream) (k : Nat) (hs0 : P s) :
    P (copyChunk s x y k) := by
  unfold copyChunk
  repeat' (first
    | with_reducible assumption
    | (with_reducible refine fun _ => ?_)
    | ((try lift_lets); with_reducible intro x; first
        | (refine (fun (hx : P x) => ?_) ?_; on_goal 2 => (try unfold x); on_goal 1 => clear_value x)
        | clear_value x)
    | with_reducible apply p_ite
    | with_reducible apply notePartWrite_only (hc.sub (by decide))
    | with_reducible apply wrSpace_only (hc.sub (by decide))
    | with_reducible apply streamPoison_only (hc.sub (by decide))
    | with_reducible apply p_foldl)

theorem serveNow_only {P : State → Prop} (hc : ClosedOn P [.sect, .tiers, .ward, .out]) (s : State) (t : Sec) (a : Nat) (m : Meta) (hs0 : P s) :
    P (serveNow s t a m) := by
  unfold serveNow
  repeat' (first
    | with_reducible assumption
    | (with_reducible refine fun _ => ?_)
    | ((try lift_lets); with_reducible intro x; first
        | (refine (fun (hx : P x) => ?_) ?_; on_goal 2 => (try unfold x); on_goal 1 => clear_value x)
        | clear_value x)
    | with_reducible apply p_ite
    | with_reducible apply emit_only (hc.sub (by decide))
    | with_reducible apply noteDecodes_only (hc.sub (by decide))
    | with_reducible apply noteRead_only (hc.sub (by decide))
    | with_reducible apply p_foldl
    | split
    | (with_reducible refine p_fst (by assumption) ?_)
    | with_reducible apply id_only (hc.sub (by decide)))

theorem spillWrites_only {P : State → Prop} (hc : ClosedOn P [.slate, .commons, .tiers]) (x : CoreRun) (q dst stop : Nat)
    (i left : Nat) (ws : List (Int × List Nat)) (s : State) (hs0 : P s) : P (spillWrites x q dst stop i left ws s) := by
  induction ws generalizing i left s with
  | nil => exact hs0
  | cons w ws ih =>
    unfold spillWrites
    exact p_ite _ _ _ hs0 (p_ite _ _ _ (ih _ _ _ (wrSpace_only (hc.sub (by decide)) _ _ _ _ _ _ hs0)) (ih _ _ _ hs0))

theorem partialSpill_only {P : State → Prop} (hc : ClosedOn P [.slate, .commons, .tiers, .fresh]) (s : State) (x : CoreRun) (y : Stream) (hs0 : P s) :
    P (partialSpill s x y) := by
  unfold partialSpill
  repeat' (first
    | with_reducible assumption
    | (with_reducible refine fun _ => ?_)
    | ((try lift_lets); with_reducible intro x; first
        | (refine (fun (hx : P x) => ?_) ?_; on_goal 2 => (try unfold x); on_goal 1 => clear_value x)
        | clear_value x)
    | with_reducible apply p_ite
    | with_reducible apply spillWrites_only (hc.sub (by decide))
    | with_reducible apply p_foldl
    | (with_reducible refine upd_fresh hc (by decide) _ ?_))

theorem partialSpills_only {P : State → Prop} (hc : ClosedOn P [.slate, .commons, .tiers, .fresh]) (s : State) (t : Sec) (hs0 : P s) :
    P (partialSpills s t) := by
  unfold partialSpills
  repeat' (first
    | with_reducible assumption
    | (with_reducible refine fun _ => ?_)
    | ((try lift_lets); with_reducible intro x; first
        | (refine (fun (hx : P x) => ?_) ?_; on_goal 2 => (try unfold x); on_goal 1 => clear_value x)
        | clear_value x)
    | with_reducible apply p_ite
    | with_reducible apply partialSpill_only (hc.sub (by decide))
    | with_reducible apply p_foldl
    | split
    | (with_reducible refine p_fst (by assumption) ?_))

theorem takeOwn_only {P : State → Prop} (hc : ClosedOn P [.nflag, .cmds, .colls, .tiers, .ward, .out]) (s : State) (x : CollRun) (l b : Nat) (hs0 : P s) :
    P (takeOwn s x l b) := by
  unfold takeOwn
  repeat' (first
    | with_reducible assumption
    | (with_reducible refine fun _ => ?_)
    | ((try lift_lets); with_reducible intro x; first
        | (refine (fun (hx : P x) => ?_) ?_; on_goal 2 => (try unfold x); on_goal 1 => clear_value x)
        | clear_value x)
    | with_reducible apply p_ite
    | with_reducible apply modColl_only (hc.sub (by decide))
    | with_reducible apply gatherWrite_only (hc.sub (by decide))
    | with_reducible apply p_foldl
    | split
    | (with_reducible refine p_fst (by assumption) ?_)
    | with_reducible apply id_only (hc.sub (by decide)))

theorem ownPart_only {P : State → Prop} (hc : ClosedOn P [.nflag, .cmds, .colls, .tiers, .ward, .out]) (s : State) (l : Link) (k : Nat) (b : Body) (hs0 : P s) :
    P (ownPart s l k b) := by
  unfold ownPart
  repeat' (first
    | with_reducible assumption
    | (with_reducible refine fun _ => ?_)
    | ((try lift_lets); with_reducible intro x; first
        | (refine (fun (hx : P x) => ?_) ?_; on_goal 2 => (try unfold x); on_goal 1 => clear_value x)
        | clear_value x)
    | with_reducible apply p_ite
    | with_reducible apply takeOwn_only (hc.sub (by decide))
    | with_reducible apply p_foldl
    | split
    | (with_reducible refine p_fst (by assumption) ?_)
    | with_reducible apply id_only (hc.sub (by decide)))

end Sys2Proof.Machine
end

