-- ==== Sys2Proof/Laws/OnlyC.lean ====
section
/-!
SUPPORT. What each operation can change: time, links, roll calls, the card and the bell.
-/
namespace Sys2Proof.Machine

theorem reframe_only {P : State → Prop} (hc : ClosedOn P [.time]) (s : State) (hs0 : P s) : P (reframe s) := by
  unfold reframe
  repeat' (first
    | with_reducible assumption
    | with_reducible apply modTime_only (hc.sub (by decide)))

theorem stopWork_only {P : State → Prop} (hc : ClosedOn P [.cmds]) (s : State) (hs0 : P s) : P (stopWork s) := by
  unfold stopWork
  repeat' (first
    | with_reducible assumption
    | (with_reducible refine fun _ => ?_)
    | with_reducible apply p_ite
    | with_reducible apply setCmds_only (hc.sub (by decide))
    | with_reducible apply p_foldl)

theorem setLock_only {P : State → Prop} (hc : ClosedOn P [.time, .cmds, .ward, .trace, .out]) (s : State) (st : Lock)
    (hs0 : P s) :
    P (setLock s st) := by
  unfold setLock
  repeat' (first
    | with_reducible assumption
    | (with_reducible refine fun _ => ?_)
    | ((try lift_lets); with_reducible intro x; first
        | (refine (fun (hx : P x) => ?_) ?_; on_goal 2 => (try unfold x); on_goal 1 => clear_value x)
        | clear_value x)
    | with_reducible apply p_ite
    | with_reducible apply modTime_only (hc.sub (by decide))
    | with_reducible apply traceRec_only (hc.sub (by decide))
    | with_reducible apply raiseEvent_only (hc.sub (by decide))
    | with_reducible apply stopWork_only (hc.sub (by decide))
    | with_reducible apply p_foldl)

theorem stepTime_only {P : State → Prop} (hc : ClosedOn P [.time, .trace]) (s : State) (off : Int) (hs0 : P s) :
    P (stepTime s off) := by
  unfold stepTime
  repeat' (first
    | with_reducible assumption
    | (with_reducible refine fun _ => ?_)
    | ((try lift_lets); with_reducible intro x; first
        | (refine (fun (hx : P x) => ?_) ?_; on_goal 2 => (try unfold x); on_goal 1 => clear_value x)
        | clear_value x)
    | with_reducible apply traceRec_only (hc.sub (by decide))
    | with_reducible apply reframe_only (hc.sub (by decide))
    | with_reducible apply modTime_only (hc.sub (by decide))
    | with_reducible apply p_foldl)

theorem syncMsg_only {P : State → Prop} (hc : ClosedOn P [.time, .cmds, .ward, .trace, .out]) (s : State) (gm : W64)
    (off : Int) (inBand : Bool) (hs0 : P s) :
    P (syncMsg s gm off inBand) := by
  unfold syncMsg
  repeat' (first
    | with_reducible assumption
    | (with_reducible refine fun _ => ?_)
    | ((try lift_lets); with_reducible intro x; first
        | (refine (fun (hx : P x) => ?_) ?_; on_goal 2 => (try unfold x); on_goal 1 => clear_value x)
        | clear_value x)
    | with_reducible apply p_ite
    | with_reducible apply setLock_only (hc.sub (by decide))
    | with_reducible apply modTime_only (hc.sub (by decide))
    | with_reducible apply stepTime_only (hc.sub (by decide))
    | with_reducible apply p_foldl
    | split)

theorem goLink_only {P : State → Prop} (hc : ClosedOn P [.links]) (s : State) (l : Nat) (st : BitVec 4) (hs0 : P s) :
    P (goLink s l st) := by
  unfold goLink
  repeat' (first
    | with_reducible assumption
    | with_reducible apply p_ite
    | with_reducible apply modLink_only (hc.sub (by decide)))

theorem setCause_only {P : State → Prop} (hc : ClosedOn P [.links]) (s : State) (l : Nat) (cause : BitVec 4) (hs0 : P s) :
    P (setCause s l cause) := by
  unfold setCause
  repeat' (first
    | with_reducible assumption
    | with_reducible apply p_ite
    | with_reducible apply modLink_only (hc.sub (by decide)))

theorem clearLink_only {P : State → Prop} (hc : ClosedOn P [.links]) (s : State) (l : Nat) (hs0 : P s) :
    P (clearLink s l) := by
  unfold clearLink
  repeat' (first
    | with_reducible assumption
    | with_reducible apply p_ite
    | with_reducible apply modLink_only (hc.sub (by decide)))

theorem leaveLink_only {P : State → Prop} (hc : ClosedOn P [.links]) (s : State) (l : Nat) (st cause : BitVec 4)
    (hs0 : P s) :
    P (leaveLink s l st cause) := by
  unfold leaveLink
  repeat' (first
    | with_reducible assumption
    | with_reducible apply setCause_only (hc.sub (by decide))
    | with_reducible apply goLink_only (hc.sub (by decide))
    | with_reducible apply clearLink_only (hc.sub (by decide)))

theorem startDetect_only {P : State → Prop} (hc : ClosedOn P [.links]) (s : State) (l : Nat) (hs0 : P s) :
    P (startDetect s l) := by
  unfold startDetect
  repeat' (first
    | with_reducible assumption
    | with_reducible apply p_ite
    | with_reducible apply goLink_only (hc.sub (by decide))
    | with_reducible apply clearLink_only (hc.sub (by decide))
    | with_reducible apply leaveLink_only (hc.sub (by decide)))

theorem modHeader_only {P : State → Prop} (hc : ClosedOn P [.headers]) (s : State) (h : Nat) (f : Header → Header)
    (hs0 : P s) :
    P (modHeader s h f) := by
  unfold modHeader
  repeat' (first
    | with_reducible assumption
    | (with_reducible refine fun _ => ?_)
    | with_reducible apply p_foldl
    | split
    | (with_reducible refine p_fst (by assumption) ?_)
    | (with_reducible refine upd_headers hc (by decide) _ ?_))

theorem modWear_only {P : State → Prop} (hc : ClosedOn P [.wear]) (s : State) (serial : W64) (f : Wear → Wear) (hs0 : P s) :
    P (modWear s serial f) := by
  unfold modWear
  repeat' (first
    | with_reducible assumption
    | (with_reducible refine fun _ => ?_)
    | with_reducible apply p_foldl
    | split
    | (with_reducible refine p_fst (by assumption) ?_)
    | (with_reducible refine upd_wear hc (by decide) _ ?_))

theorem headerOff_only {P : State → Prop} (hc : ClosedOn P [.links, .headers, .power]) (s : State) (h : Nat) (cause : BitVec 4) (hs0 : P s) :
    P (headerOff s h cause) := by
  unfold headerOff
  repeat' (first
    | with_reducible assumption
    | (with_reducible refine fun _ => ?_)
    | ((try lift_lets); with_reducible intro x; first
        | (refine (fun (hx : P x) => ?_) ?_; on_goal 2 => (try unfold x); on_goal 1 => clear_value x)
        | clear_value x)
    | with_reducible apply p_ite
    | with_reducible apply modPower_only (hc.sub (by decide))
    | with_reducible apply leaveLink_only (hc.sub (by decide))
    | with_reducible apply modHeader_only (hc.sub (by decide))
    | with_reducible apply p_foldl)

theorem headerOn_only {P : State → Prop} (hc : ClosedOn P [.links, .power]) (s : State) (h : Nat) (hs0 : P s) :
    P (headerOn s h) := by
  unfold headerOn
  repeat' (first
    | with_reducible assumption
    | (with_reducible refine fun _ => ?_)
    | ((try lift_lets); with_reducible intro x; refine (fun (hx : P x) => ?_) ?_; on_goal 2 => (try unfold x); on_goal 1 => clear_value x)
    | with_reducible apply modPower_only (hc.sub (by decide))
    | with_reducible apply startDetect_only (hc.sub (by decide))
    | with_reducible apply p_foldl)

theorem addLcnt_only {P : State → Prop} (hc : ClosedOn P [.links]) (s : State) (l k : Nat) (hs0 : P s) :
    P (addLcnt s l k) := by
  unfold addLcnt
  repeat' (first
    | with_reducible assumption
    | ((try lift_lets); with_reducible intro x; first
        | (refine (fun (hx : P x) => ?_) ?_; on_goal 2 => (try unfold x); on_goal 1 => clear_value x)
        | clear_value x)
    | with_reducible apply p_ite
    | with_reducible apply addLcntN_only (hc.sub (by decide)))

theorem phyFail_only {P : State → Prop} (hc : ClosedOn P [.links]) (s : State) (l : Nat) (hs0 : P s) : P (phyFail s l) := by
  unfold phyFail
  repeat' (first
    | with_reducible assumption
    | ((try lift_lets); with_reducible intro x; refine (fun (hx : P x) => ?_) ?_; on_goal 2 => (try unfold x); on_goal 1 => clear_value x)
    | with_reducible apply p_ite
    | with_reducible apply modLink_only (hc.sub (by decide))
    | with_reducible apply leaveLink_only (hc.sub (by decide))
    | with_reducible apply startDetect_only (hc.sub (by decide)))

theorem wearEvents_only {P : State → Prop} (hc : ClosedOn P [.wear, .ward, .out]) (s : State) (serial : W64) (hs0 : P s) :
    P (wearEvents s serial) := by
  unfold wearEvents
  repeat' (first
    | with_reducible assumption
    | ((try lift_lets); with_reducible intro x; first
        | (refine (fun (hx : P x) => ?_) ?_; on_goal 2 => (try unfold x); on_goal 1 => clear_value x)
        | clear_value x)
    | with_reducible apply p_ite
    | with_reducible apply raiseEvent_only (hc.sub (by decide))
    | with_reducible apply modWear_only (hc.sub (by decide)))

theorem readWear_only {P : State → Prop} (hc : ClosedOn P [.wear, .ward, .out]) (s : State) (c : CableRec)
    (fresh : Bool) (hs0 : P s) :
    P (readWear s c fresh) := by
  unfold readWear
  repeat' (first
    | with_reducible assumption
    | ((try lift_lets); with_reducible intro x; clear_value x)
    | with_reducible apply p_ite
    | with_reducible apply wearEvents_only (hc.sub (by decide))
    | with_reducible apply modWear_only (hc.sub (by decide)))

theorem startReplay_only {P : State → Prop} (hc : ClosedOn P [.links]) (s : State) (l k : Nat) (hs0 : P s) :
    P (startReplay s l k) := by
  unfold startReplay
  repeat' (first
    | with_reducible assumption
    | with_reducible apply p_ite
    | with_reducible apply addLcnt_only (hc.sub (by decide))
    | with_reducible apply modLink_only (hc.sub (by decide)))

theorem ackLink_only {P : State → Prop} (hc : ClosedOn P [.links]) (s : State) (l k a : Nat) (hs0 : P s) :
    P (ackLink s l k a) := by
  unfold ackLink
  repeat' (first
    | with_reducible assumption
    | with_reducible apply modLink_only (hc.sub (by decide)))

theorem addSample_only {P : State → Prop} (hc : ClosedOn P [.links]) (s : State) (l : Nat) (u : Unit256) (hs0 : P s) :
    P (addSample s l u) := by
  unfold addSample
  repeat' (first
    | with_reducible assumption
    | with_reducible apply modLink_only (hc.sub (by decide)))

theorem noteDepart_only {P : State → Prop} (hc : ClosedOn P [.links]) (s : State) (l : Nat) (hs0 : P s) :
    P (noteDepart s l) := by
  unfold noteDepart
  repeat' (first
    | with_reducible assumption
    | with_reducible apply p_ite
    | with_reducible apply modLink_only (hc.sub (by decide)))

theorem sendReplay_only {P : State → Prop} (hc : ClosedOn P [.links, .out]) (s : State) (l : Link) (k i : Nat) (hs0 : P s) :
    P (sendReplay s l k i) := by
  unfold sendReplay
  repeat' (first
    | with_reducible assumption
    | (with_reducible refine fun _ => ?_)
    | ((try lift_lets); with_reducible intro x; first
        | (refine (fun (hx : P x) => ?_) ?_; on_goal 2 => (try unfold x); on_goal 1 => clear_value x)
        | clear_value x)
    | with_reducible apply p_ite
    | with_reducible apply modLink_only (hc.sub (by decide))
    | with_reducible apply emit_only (hc.sub (by decide))
    | with_reducible apply p_foldl
    | split)

theorem sendNew_only {P : State → Prop} (hc : ClosedOn P [.links, .out]) (s : State) (l : Link) (k : Nat) (b : Body)
    (rest : List Body) (hs0 : P s) :
    P (sendNew s l k b rest) := by
  unfold sendNew
  repeat' (first
    | with_reducible assumption
    | ((try lift_lets); with_reducible intro x; first
        | (refine (fun (hx : P x) => ?_) ?_; on_goal 2 => (try unfold x); on_goal 1 => clear_value x)
        | clear_value x)
    | with_reducible apply modLink_only (hc.sub (by decide))
    | with_reducible apply emit_only (hc.sub (by decide)))

theorem sendActive_only {P : State → Prop} (hc : ClosedOn P [.nflag, .cmds, .colls, .tiers, .links, .ward, .out]) (s : State) (l : Link) (slot : Nat) (hs0 : P s) :
    P (sendActive s l slot) := by
  unfold sendActive
  repeat' (first
    | with_reducible assumption
    | ((try lift_lets); with_reducible intro x; first
        | (refine (fun (hx : P x) => ?_) ?_; on_goal 2 => (try unfold x); on_goal 1 => clear_value x)
        | clear_value x)
    | with_reducible apply p_ite
    | with_reducible apply emit_only (hc.sub (by decide))
    | with_reducible apply sendReplay_only (hc.sub (by decide))
    | with_reducible apply sendNew_only (hc.sub (by decide))
    | with_reducible apply ownPart_only (hc.sub (by decide))
    | split
    | (with_reducible refine p_fst (by assumption) ?_))

theorem badFlit_only {P : State → Prop} (hc : ClosedOn P [.links, .ward, .out]) (s : State) (l : Nat) (hs0 : P s) :
    P (badFlit s l) := by
  unfold badFlit
  repeat' (first
    | with_reducible assumption
    | with_reducible apply logClass_only (hc.sub (by decide))
    | with_reducible apply addLcnt_only (hc.sub (by decide)))

theorem deliverData_only {P : State → Prop} (hc : ClosedOn P [.slate, .commons, .tiers]) (s : State) (f : Flit) (hs0 : P s) :
    P (deliverData s f) := by
  unfold deliverData
  repeat' (first
    | with_reducible assumption
    | with_reducible apply p_ite
    | with_reducible apply wrSpace_only (hc.sub (by decide)))

theorem deliverToken_only {P : State → Prop} (hc : ClosedOn P [.cores]) (s : State) (f : Flit) (hs0 : P s) :
    P (deliverToken s f) := by
  unfold deliverToken
  repeat' (first
    | with_reducible assumption
    | (with_reducible refine fun _ => ?_)
    | ((try lift_lets); with_reducible intro x; clear_value x)
    | with_reducible apply p_ite
    | with_reducible apply modCore_only (hc.sub (by decide))
    | with_reducible apply p_foldl
    | split)

theorem timeMsg_only {P : State → Prop} (hc : ClosedOn P [.time, .cmds, .links, .ward, .trace, .out]) (s : State)
    (l : Link) (gm : W64) (off : Int) (hs0 : P s) :
    P (timeMsg s l gm off) := by
  unfold timeMsg
  repeat' (first
    | with_reducible assumption
    | (with_reducible refine fun _ => ?_)
    | ((try lift_lets); with_reducible intro x; first
        | (refine (fun (hx : P x) => ?_) ?_; on_goal 2 => (try unfold x); on_goal 1 => clear_value x)
        | clear_value x)
    | with_reducible apply p_ite
    | with_reducible apply modLink_only (hc.sub (by decide))
    | with_reducible apply syncMsg_only (hc.sub (by decide))
    | with_reducible apply p_foldl
    | split)

theorem takeCaps_only {P : State → Prop} (hc : ClosedOn P [.links]) (s : State) (l : Nat) (f : Flit) (hs0 : P s) :
    P (takeCaps s l f) := by
  unfold takeCaps
  repeat' (first
    | with_reducible assumption
    | (with_reducible refine fun _ => ?_)
    | ((try lift_lets); with_reducible intro x; first
        | (refine (fun (hx : P x) => ?_) ?_; on_goal 2 => (try unfold x); on_goal 1 => clear_value x)
        | clear_value x)
    | with_reducible apply p_ite
    | with_reducible apply modLink_only (hc.sub (by decide))
    | with_reducible apply goLink_only (hc.sub (by decide))
    | with_reducible apply leaveLink_only (hc.sub (by decide))
    | split
    | (with_reducible refine p_fst (by assumption) ?_))

theorem requestDrain_only {P : State → Prop}
    (hc : ClosedOn P [.sect, .rings, .cmds, .recs, .steps, .colls, .tiers, .links, .ward, .trace, .out, .fresh, .seq]) (s : State) (t : Sec) (hs0 : P s) :
    P (requestDrain s t) := by
  unfold requestDrain
  repeat' (first
    | with_reducible assumption
    | (with_reducible refine fun _ => ?_)
    | ((try lift_lets); with_reducible intro x; first
        | (refine (fun (hx : P x) => ?_) ?_; on_goal 2 => (try unfold x); on_goal 1 => clear_value x)
        | clear_value x)
    | with_reducible apply p_ite
    | with_reducible apply setCmds_only (hc.sub (by decide))
    | with_reducible apply finishDrains_only (hc.sub (by decide))
    | with_reducible apply drainTakes_only (hc.sub (by decide))
    | with_reducible apply p_foldl
    | split
    | (with_reducible refine p_fst (by assumption) ?_)
    | (with_reducible refine upd_cmds hc (by decide) _ ?_)
    | (with_reducible refine upd_seq hc (by decide) _ ?_))

theorem takeDrain_only {P : State → Prop}
    (hc : ClosedOn P [.sect, .rings, .cmds, .recs, .steps, .colls, .tiers, .links, .ward, .trace, .out, .fresh, .seq]) (s : State) (l : Nat) (f : Flit) (hs0 : P s) :
    P (takeDrain s l f) := by
  unfold takeDrain
  repeat' (first
    | with_reducible assumption
    | (with_reducible refine fun _ => ?_)
    | ((try lift_lets); with_reducible intro x; clear_value x)
    | with_reducible apply p_ite
    | with_reducible apply logClass_only (hc.sub (by decide))
    | with_reducible apply requestDrain_only (hc.sub (by decide))
    | with_reducible apply modWard_only (hc.sub (by decide))
    | with_reducible apply p_foldl)

theorem noteDeparture_only {P : State → Prop} (hc : ClosedOn P [.ward, .trace, .out]) (s : State) (l : Nat) (f : Flit)
    (hs0 : P s) :
    P (noteDeparture s l f) := by
  unfold noteDeparture
  repeat' (first
    | with_reducible assumption
    | (with_reducible refine fun _ => ?_)
    | ((try lift_lets); with_reducible intro x; first
        | (refine (fun (hx : P x) => ?_) ?_; on_goal 2 => (try unfold x); on_goal 1 => clear_value x)
        | clear_value x)
    | with_reducible apply p_ite
    | with_reducible apply modWard_only (hc.sub (by decide))
    | with_reducible apply traceRec_only (hc.sub (by decide))
    | with_reducible apply logClass_only (hc.sub (by decide))
    | with_reducible apply p_foldl)

theorem partnerGone_only {P : State → Prop} (hc : ClosedOn P [.links]) (s : State) (l : Nat) (hs0 : P s) :
    P (partnerGone s l) := by
  unfold partnerGone
  repeat' (first
    | with_reducible assumption
    | with_reducible apply setCause_only (hc.sub (by decide))
    | with_reducible apply startDetect_only (hc.sub (by decide)))

theorem modPendAny_only {P : State → Prop} (hc : ClosedOn P [.steps]) (s : State) (t : Sec) (step : Nat)
    (f : Pend → Pend) (hs0 : P s) :
    P (modPendAny s t step f) := by
  unfold modPendAny
  repeat' (first
    | with_reducible assumption
    | with_reducible apply p_ite
    | with_reducible apply modSteps_only (hc.sub (by decide)))

theorem eachPend_only {P : State → Prop} (hc : ClosedOn P []) (s : State) (t : Sec) (f : State → Pend → State)
    (hs0 : P s) (hf : ∀ (s : State) (x0 : Pend), P s → P (f s x0)) :
    P (eachPend s t f) := by
  unfold eachPend
  repeat' (first
    | with_reducible assumption
    | (with_reducible refine fun _ => ?_)
    | with_reducible apply p_foldl)

theorem contribute_only {P : State → Prop} (hc : ClosedOn P [.steps, .tiers, .ward, .out]) (t : Sec) (s : State) (q : Pend) (hs0 : P s) :
    P (contribute t s q) := by
  unfold contribute
  repeat' (first
    | with_reducible assumption
    | (with_reducible refine fun _ => ?_)
    | ((try lift_lets); with_reducible intro x; first
        | (refine (fun (hx : P x) => ?_) ?_; on_goal 2 => (try unfold x); on_goal 1 => clear_value x)
        | clear_value x)
    | with_reducible apply p_ite
    | with_reducible apply noteDecodes_only (hc.sub (by decide))
    | with_reducible apply modPendAny_only (hc.sub (by decide))
    | split
    | (with_reducible refine p_fst (by assumption) ?_))

theorem sendLevel_only {P : State → Prop} (hc : ClosedOn P [.steps, .links]) (t : Sec) (s : State) (q : Pend) (hs0 : P s) :
    P (sendLevel t s q) := by
  unfold sendLevel
  repeat' (first
    | with_reducible assumption
    | (with_reducible refine fun _ => ?_)
    | ((try lift_lets); with_reducible intro x; first
        | (refine (fun (hx : P x) => ?_) ?_; on_goal 2 => (try unfold x); on_goal 1 => clear_value x)
        | clear_value x)
    | with_reducible apply p_ite
    | with_reducible apply modPendAny_only (hc.sub (by decide))
    | with_reducible apply pushFlit_only (hc.sub (by decide))
    | with_reducible apply p_foldl
    | split)

theorem combineLevel_only {P : State → Prop} (hc : ClosedOn P [.steps]) (t : Sec) (s : State) (q : Pend) (hs0 : P s) :
    P (combineLevel t s q) := by
  unfold combineLevel
  repeat' (first
    | with_reducible assumption
    | (with_reducible refine fun _ => ?_)
    | with_reducible apply p_ite
    | with_reducible apply modPendAny_only (hc.sub (by decide))
    | with_reducible apply p_foldl
    | split)

theorem sendResult_only {P : State → Prop} (hc : ClosedOn P [.steps, .links]) (t : Sec) (s : State) (q : Pend) (hs0 : P s) :
    P (sendResult t s q) := by
  unfold sendResult
  repeat' (first
    | with_reducible assumption
    | (with_reducible refine fun _ => ?_)
    | ((try lift_lets); with_reducible intro x; first
        | (refine (fun (hx : P x) => ?_) ?_; on_goal 2 => (try unfold x); on_goal 1 => clear_value x)
        | clear_value x)
    | with_reducible apply p_ite
    | with_reducible apply queueControl_only (hc.sub (by decide))
    | with_reducible apply modPendAny_only (hc.sub (by decide))
    | split
    | (with_reducible refine p_fst (by assumption) ?_))

theorem takeResult_only {P : State → Prop} (hc : ClosedOn P [.steps]) (t : Sec) (s : State) (q : Pend) (hs0 : P s) :
    P (takeResult t s q) := by
  unfold takeResult
  repeat' (first
    | with_reducible assumption
    | with_reducible apply p_ite
    | with_reducible apply modPendAny_only (hc.sub (by decide)))

theorem keepVote_only {P : State → Prop} (hc : ClosedOn P [.steps]) (s : State) (t : Sec) (f : Flit) (q : Pend) (hs0 : P s) :
    P (keepVote s t f q) := by
  unfold keepVote
  repeat' (first
    | with_reducible assumption
    | ((try lift_lets); with_reducible intro x; clear_value x)
    | with_reducible apply p_ite
    | with_reducible apply modPendAny_only (hc.sub (by decide)))

theorem writeRes_only {P : State → Prop} (hc : ClosedOn P [.sect]) (s : State) (t : Sec) (q : Pend) (v : Option Vote)
    (hs0 : P s) :
    P (writeRes s t q v) := by
  unfold writeRes
  repeat' (first
    | with_reducible assumption
    | (with_reducible refine fun _ => ?_)
    | ((try lift_lets); with_reducible intro x; clear_value x)
    | with_reducible apply p_ite
    | with_reducible apply modSect_only (hc.sub (by decide))
    | with_reducible apply p_foldl
    | split)

theorem recordSkip_only {P : State → Prop} (hc : ClosedOn P [.sect, .ward, .trace, .out]) (s : State) (t : Sec)
    (q : Pend) (v : Option Vote) (hs0 : P s) :
    P (recordSkip s t q v) := by
  unfold recordSkip
  repeat' (first
    | with_reducible assumption
    | ((try lift_lets); with_reducible intro x; refine (fun (hx : P x) => ?_) ?_; on_goal 2 => (try unfold x); on_goal 1 => clear_value x)
    | with_reducible apply p_ite
    | with_reducible apply modSect_only (hc.sub (by decide))
    | with_reducible apply traceRec_only (hc.sub (by decide))
    | with_reducible apply logClass_only (hc.sub (by decide)))

theorem rollEntry_only {P : State → Prop} (hc : ClosedOn P [.trace]) (s : State) (t : Sec) (q : Pend) (hs0 : P s) :
    P (rollEntry s t q) := by
  unfold rollEntry
  repeat' (first
    | with_reducible assumption
    | ((try lift_lets); with_reducible intro x; clear_value x)
    | with_reducible apply logAppend_only (hc.sub (by decide)))

theorem setCard_only {P : State → Prop} (hc : ClosedOn P [.ward, .out]) (s : State) (st : CardSt) (cause : BitVec 4)
    (hs0 : P s) :
    P (setCard s st cause) := by
  unfold setCard
  repeat' (first
    | with_reducible assumption
    | ((try lift_lets); with_reducible intro x; first
        | (refine (fun (hx : P x) => ?_) ?_; on_goal 2 => (try unfold x); on_goal 1 => clear_value x)
        | clear_value x)
    | with_reducible apply p_ite
    | with_reducible apply modWard_only (hc.sub (by decide))
    | with_reducible apply auditDevice_only (hc.sub (by decide))
    | with_reducible apply raiseEvent_only (hc.sub (by decide)))

theorem suspect_only {P : State → Prop} (hc : ClosedOn P [.ward, .out]) (s : State) (cls : Nat) (cause : BitVec 4)
    (detail : W64) (hs0 : P s) :
    P (suspect s cls cause detail) := by
  unfold suspect
  repeat' (first
    | with_reducible assumption
    | ((try lift_lets); with_reducible intro x; refine (fun (hx : P x) => ?_) ?_; on_goal 2 => (try unfold x); on_goal 1 => clear_value x)
    | with_reducible apply p_ite
    | with_reducible apply logClass_only (hc.sub (by decide))
    | with_reducible apply modWard_only (hc.sub (by decide))
    | with_reducible apply setCard_only (hc.sub (by decide)))

theorem cardDrainSection_only {P : State → Prop}
    (hc : ClosedOn P [.sect, .rings, .cmds, .recs, .steps, .colls, .tiers, .links, .ward, .trace, .out, .fresh]) (s : State) (t : Sec) (hs0 : P s) :
    P (cardDrainSection s t) := by
  unfold cardDrainSection
  repeat' (first
    | with_reducible assumption
    | ((try lift_lets); with_reducible intro x; refine (fun (hx : P x) => ?_) ?_; on_goal 2 => (try unfold x); on_goal 1 => clear_value x)
    | with_reducible apply p_ite
    | with_reducible apply capLoss_only (hc.sub (by decide))
    | with_reducible apply finishDrains_only (hc.sub (by decide))
    | with_reducible apply drainSection_only (hc.sub (by decide))
    | with_reducible apply drainTakes_only (hc.sub (by decide)))

theorem queueRequests_only {P : State → Prop} (hc : ClosedOn P [.links]) (s : State) (hs0 : P s) : P (queueRequests s) := by
  unfold queueRequests
  repeat' (first
    | with_reducible assumption
    | (with_reducible refine fun _ => ?_)
    | with_reducible apply p_ite
    | with_reducible apply queueControl_only (hc.sub (by decide))
    | with_reducible apply p_foldl)

theorem departLinks_only {P : State → Prop} (hc : ClosedOn P [.links]) (s : State) (hs0 : P s) : P (departLinks s) := by
  unfold departLinks
  repeat' (first
    | with_reducible assumption
    | (with_reducible refine fun _ => ?_)
    | with_reducible apply p_ite
    | with_reducible apply modLink_only (hc.sub (by decide))
    | with_reducible apply p_foldl)

theorem drainCard_only {P : State → Prop}
    (hc : ClosedOn P [.sect, .rings, .cmds, .recs, .steps, .colls, .tiers, .links, .ward, .trace, .out, .fresh]) (s : State) (hs0 : P s) :
    P (drainCard s) := by
  unfold drainCard
  repeat' (first
    | with_reducible assumption
    | (with_reducible refine fun _ => ?_)
    | ((try lift_lets); with_reducible intro x; refine (fun (hx : P x) => ?_) ?_; on_goal 2 => (try unfold x); on_goal 1 => clear_value x)
    | with_reducible apply departLinks_only (hc.sub (by decide))
    | with_reducible apply queueRequests_only (hc.sub (by decide))
    | with_reducible apply cardDrainSection_only (hc.sub (by decide))
    | with_reducible apply modWard_only (hc.sub (by decide))
    | with_reducible apply p_foldl)

theorem sendRest_only {P : State → Prop} (hc : ClosedOn P [.links, .out]) (n : Nat) (s : State) (l : Link) (h : P s) :
    P (sendRest n s l) := by
  induction n generalizing s with
  | zero => exact h
  | succ n ih =>
    unfold sendRest
    split
    · exact ih _ (sendNew_only (hc.sub (by decide)) _ _ _ _ _ h)
    · exact h

theorem departLink_only {P : State → Prop} (hc : ClosedOn P [.links, .out]) (s : State) (l : Link) (hs0 : P s) :
    P (departLink s l) := by
  unfold departLink
  repeat' (first
    | with_reducible assumption
    | ((try lift_lets); with_reducible intro x; refine (fun (hx : P x) => ?_) ?_; on_goal 2 => (try unfold x); on_goal 1 => clear_value x)
    | with_reducible apply p_ite
    | with_reducible apply pushFlit_only (hc.sub (by decide))
    | with_reducible apply leaveLink_only (hc.sub (by decide))
    | with_reducible apply sendRest_only (hc.sub (by decide)))

theorem depart_only {P : State → Prop} (hc : ClosedOn P [.links, .ward, .out]) (s : State) (hs0 : P s) : P (depart s) := by
  unfold depart
  repeat' (first
    | with_reducible assumption
    | (with_reducible refine fun _ => ?_)
    | ((try lift_lets); with_reducible intro x; refine (fun (hx : P x) => ?_) ?_; on_goal 2 => (try unfold x); on_goal 1 => clear_value x)
    | with_reducible apply departLink_only (hc.sub (by decide))
    | with_reducible apply modWard_only (hc.sub (by decide))
    | with_reducible apply setCard_only (hc.sub (by decide))
    | with_reducible apply p_foldl)

theorem sentryActs_only {P : State → Prop}
    (hc : ClosedOn P [.sect, .rings, .cmds, .recs, .steps, .colls, .tiers, .links, .ward, .trace, .out, .fresh]) (s : State) (hs0 : P s) :
    P (sentryActs s) := by
  unfold sentryActs
  repeat' (first
    | with_reducible assumption
    | ((try lift_lets); with_reducible intro x; refine (fun (hx : P x) => ?_) ?_; on_goal 2 => (try unfold x); on_goal 1 => clear_value x)
    | with_reducible apply p_ite
    | with_reducible apply modWard_only (hc.sub (by decide))
    | with_reducible apply setCard_only (hc.sub (by decide))
    | with_reducible apply drainCard_only (hc.sub (by decide)))

theorem unpowered_only {P : State → Prop}
    (hc : ClosedOn P [.time, .rings, .cmds, .recs, .cores, .store, .slate, .commons, .acc, .colls, .tiers, .hif, .power]) (s : State) (h : P s) :
    P (unpowered s) := by
  have h1 := upd_cores hc (by decide) (unpowered s).cores (upd_recs hc (by decide) (unpowered s).recs
    (upd_cmds hc (by decide) (unpowered s).cmds (upd_rings hc (by decide) (unpowered s).rings h)))
  have h2 := upd_slate hc (by decide) (unpowered s).slate (upd_store hc (by decide) (unpowered s).store h1) (fun _ => rfl)
  have h3 := upd_acc hc (by decide) (unpowered s).acc (upd_commons hc (by decide) (unpowered s).commons h2 (fun _ => rfl))
  have h4 := upd_mem hc (by decide) (unpowered s).tiers (upd_colls hc (by decide) (unpowered s).colls h3) (fun _ => rfl)
  have h5 := upd_time hc (by decide) (unpowered s).time (upd_hif hc (by decide) (unpowered s).hif h4)
  exact upd_power hc (by decide) (unpowered s).power h5

theorem powerFails_only {P : State → Prop}
    (hc : ClosedOn P [.time, .rings, .cmds, .recs, .cores, .store, .slate, .commons, .acc, .colls, .tiers, .links, .hif, .ward, .power, .out]) (s : State) (hs0 : P s) :
    P (powerFails s) := by
  unfold powerFails
  repeat' (first
    | with_reducible assumption
    | ((try lift_lets); with_reducible intro x; first
        | (refine (fun (hx : P x) => ?_) ?_; on_goal 2 => (try unfold x); on_goal 1 => clear_value x)
        | clear_value x)
    | with_reducible apply p_ite
    | with_reducible apply logClass_only (hc.sub (by decide))
    | with_reducible apply setCard_only (hc.sub (by decide))
    | with_reducible apply modWard_only (hc.sub (by decide))
    | with_reducible apply unpowered_only (hc.sub (by decide))
    | with_reducible apply departLinks_only (hc.sub (by decide)))

theorem limitReached_only {P : State → Prop} (hc : ClosedOn P [.ward, .out]) (s : State) (hs0 : P s) :
    P (limitReached s) := by
  unfold limitReached
  repeat' (first
    | with_reducible assumption
    | with_reducible apply p_ite
    | with_reducible apply suspect_only (hc.sub (by decide)))

theorem noteOvers_only {P : State → Prop} (hc : ClosedOn P [.sect, .cmds, .ward, .trace, .out]) (s : State) (t : Sec)
    (hs0 : P s) :
    P (noteOvers s t) := by
  unfold noteOvers
  repeat' (first
    | with_reducible assumption
    | (with_reducible refine fun _ => ?_)
    | ((try lift_lets); with_reducible intro x; first
        | (refine (fun (hx : P x) => ?_) ?_; on_goal 2 => (try unfold x); on_goal 1 => clear_value x)
        | clear_value x)
    | with_reducible apply modCmd_only (hc.sub (by decide))
    | with_reducible apply capOvr_only (hc.sub (by decide))
    | with_reducible apply p_foldl)

theorem countMb_only {P : State → Prop} (hc : ClosedOn P [.cmds]) (s : State) (t : Sec) (hs0 : P s) : P (countMb s t) := by
  unfold countMb
  repeat' (first
    | with_reducible assumption
    | (with_reducible refine fun _ => ?_)
    | with_reducible apply p_ite
    | with_reducible apply modRun_only (hc.sub (by decide))
    | with_reducible apply p_foldl
    | split)

theorem leaveDeparted_only {P : State → Prop} (hc : ClosedOn P [.links]) (s : State) (hs0 : P s) : P (leaveDeparted s) := by
  unfold leaveDeparted
  repeat' (first
    | with_reducible assumption
    | (with_reducible refine fun _ => ?_)
    | with_reducible apply p_ite
    | with_reducible apply partnerGone_only (hc.sub (by decide))
    | with_reducible apply p_foldl)

theorem clearCuts_only {P : State → Prop} (hc : ClosedOn P [.links]) (s : State) (hs0 : P s) : P (clearCuts s) := by
  unfold clearCuts
  repeat' (first
    | with_reducible assumption
    | (with_reducible refine fun _ => ?_)
    | with_reducible apply p_ite
    | with_reducible apply modLink_only (hc.sub (by decide))
    | with_reducible apply p_foldl)

theorem dropSends_only {P : State → Prop} (hc : ClosedOn P [.links]) (s : State) (t : Sec) (hs0 : P s) :
    P (dropSends s t) := by
  unfold dropSends
  repeat' (first
    | with_reducible assumption
    | (with_reducible refine fun _ => ?_)
    | with_reducible apply p_ite
    | with_reducible apply modLink_only (hc.sub (by decide))
    | with_reducible apply p_foldl)

theorem stopOne_only {P : State → Prop} (hc : ClosedOn P [.sect, .nflag, .rings, .cmds, .recs, .steps, .cores, .slate, .commons, .colls, .tiers, .links, .ward, .trace, .out, .fresh]) (s : State) (t : Sec) (last : Nat) (c : Cmd) (hs0 : P s) :
    P (stopOne s t last c) := by
  unfold stopOne
  repeat' (first
    | with_reducible assumption
    | ((try lift_lets); with_reducible intro x; first
        | (refine (fun (hx : P x) => ?_) ?_; on_goal 2 => (try unfold x); on_goal 1 => clear_value x)
        | clear_value x)
    | with_reducible apply p_ite
    | with_reducible apply complete_only (hc.sub (by decide))
    | with_reducible apply endRun_only (hc.sub (by decide))
    | with_reducible apply stopGrove_only (hc.sub (by decide))
    | with_reducible apply partialSpills_only (hc.sub (by decide))
    | with_reducible apply discardRun_only (hc.sub (by decide))
    | with_reducible apply endReshard_only (hc.sub (by decide))
    | with_reducible apply dropSends_only (hc.sub (by decide))
    | split
    | (with_reducible refine p_fst (by assumption) ?_))

theorem stopSection_only {P : State → Prop}
    (hc : ClosedOn P [.sect, .nflag, .rings, .cmds, .recs, .steps, .cores, .slate, .commons, .colls, .tiers, .links, .ward, .trace, .out, .fresh]) (s : State) (t : Sec) (last : Nat) (hs0 : P s) :
    P (stopSection s t last) := by
  unfold stopSection
  repeat' (first
    | with_reducible assumption
    | (with_reducible refine fun _ => ?_)
    | with_reducible apply stopOne_only (hc.sub (by decide))
    | with_reducible apply p_foldl
    | split)

theorem rebase_only {P : State → Prop} (hc : ClosedOn P [.cmds]) (s : State) (t : Sec) (n : Nat) (h : P s) :
    P (rebase s t n) := by
  unfold rebase
  split
  · refine p_ite _ _ _ ?_ h
    refine p_foldl1 _ _ _ (modRun_only (hc.sub (by decide)) _ _ _ _ h) (fun a x ha => ?_)
    obtain ⟨s1, m, go⟩ := a
    dsimp only
    split
    · exact modRun_only (hc.sub (by decide)) _ _ _ _ ha
    · exact ha
  · exact h

theorem lateOne_only {P : State → Prop} (hc : ClosedOn P [.sect, .rings, .cmds, .recs, .steps, .colls, .ward, .trace, .out]) (s : State) (t : Sec) (n : Nat) (c : Cmd) (hs0 : P s) :
    P (lateOne s t n c) := by
  unfold lateOne
  repeat' (first
    | with_reducible assumption
    | ((try lift_lets); with_reducible intro x; first
        | (refine (fun (hx : P x) => ?_) ?_; on_goal 2 => (try unfold x); on_goal 1 => clear_value x)
        | clear_value x)
    | with_reducible apply p_ite
    | with_reducible apply capLate_only (hc.sub (by decide))
    | with_reducible apply complete_only (hc.sub (by decide))
    | with_reducible apply markLate_only (hc.sub (by decide))
    | with_reducible apply refuseGate_only (hc.sub (by decide))
    | split
    | (with_reducible refine p_fst (by assumption) ?_))

theorem lateSection_only {P : State → Prop}
    (hc : ClosedOn P [.sect, .rings, .cmds, .recs, .steps, .colls, .ward, .trace, .out]) (s : State) (t : Sec) (n : Nat) (hs0 : P s) :
    P (lateSection s t n) := by
  unfold lateSection
  repeat' (first
    | with_reducible assumption
    | (with_reducible refine fun _ => ?_)
    | ((try lift_lets); with_reducible intro x; refine (fun (hx : P x) => ?_) ?_; on_goal 2 => (try unfold x); on_goal 1 => clear_value x)
    | with_reducible apply rebase_only (hc.sub (by decide))
    | with_reducible apply lateOne_only (hc.sub (by decide))
    | with_reducible apply p_foldl
    | split)

theorem pickTimeLink_only {P : State → Prop} (hc : ClosedOn P [.time, .links]) (s : State) (hs0 : P s) :
    P (pickTimeLink s) := by
  unfold pickTimeLink
  repeat' (first
    | with_reducible assumption
    | (with_reducible refine fun _ => ?_)
    | ((try lift_lets); with_reducible intro x; first
        | (refine (fun (hx : P x) => ?_) ?_; on_goal 2 => (try unfold x); on_goal 1 => clear_value x)
        | clear_value x)
    | with_reducible apply p_ite
    | with_reducible apply modTime_only (hc.sub (by decide))
    | with_reducible apply modLink_only (hc.sub (by decide))
    | with_reducible apply p_foldl)

theorem markDeparted_only {P : State → Prop} (hc : ClosedOn P [.links]) (s : State) (hs0 : P s) : P (markDeparted s) := by
  unfold markDeparted
  repeat' (first
    | with_reducible assumption
    | (with_reducible refine fun _ => ?_)
    | with_reducible apply p_ite
    | with_reducible apply modLink_only (hc.sub (by decide))
    | with_reducible apply p_foldl)

theorem tickDrain_only {P : State → Prop} (hc : ClosedOn P [.links, .ward, .out]) (s : State) (hs0 : P s) :
    P (tickDrain s) := by
  unfold tickDrain
  repeat' (first
    | with_reducible assumption
    | with_reducible apply p_ite
    | with_reducible apply depart_only (hc.sub (by decide))
    | with_reducible apply modWard_only (hc.sub (by decide)))

theorem tickSection_only {P : State → Prop}
    (hc : ClosedOn P [.sect, .nflag, .rings, .cmds, .recs, .steps, .cores, .slate, .commons, .colls, .tiers, .links, .ward, .trace, .out, .fresh]) (n : Nat) (s : State) (t : Sec) (hs0 : P s) :
    P (tickSection n s t) := by
  unfold tickSection
  repeat' (first
    | with_reducible assumption
    | (with_reducible refine fun _ => ?_)
    | ((try lift_lets); with_reducible intro x; refine (fun (hx : P x) => ?_) ?_; on_goal 2 => (try unfold x); on_goal 1 => clear_value x)
    | with_reducible apply p_ite
    | with_reducible apply stopSection_only (hc.sub (by decide))
    | with_reducible apply endReshard_only (hc.sub (by decide))
    | with_reducible apply pumpSection_only (hc.sub (by decide))
    | with_reducible apply lateSection_only (hc.sub (by decide))
    | with_reducible apply p_foldl
    | split)

theorem endHoldover_only {P : State → Prop} (hc : ClosedOn P [.time, .cmds, .ward, .trace, .out]) (s : State) (hs0 : P s) :
    P (endHoldover s) := by
  unfold endHoldover
  repeat' (first
    | with_reducible assumption
    | (with_reducible refine fun _ => ?_)
    | ((try lift_lets); with_reducible intro x; first
        | (refine (fun (hx : P x) => ?_) ?_; on_goal 2 => (try unfold x); on_goal 1 => clear_value x)
        | clear_value x)
    | with_reducible apply p_ite
    | with_reducible apply setLock_only (hc.sub (by decide))
    | with_reducible apply p_foldl
    | split
    | (with_reducible refine p_fst (by assumption) ?_)
    | with_reducible apply id_only (hc.sub (by decide)))

theorem guardWork_only {P : State → Prop} (hc : ClosedOn P [.time, .sect, .cmds, .links, .ward, .trace, .out]) (s : State) (hs0 : P s) :
    P (guardWork s) := by
  unfold guardWork
  repeat' (first
    | with_reducible assumption
    | (with_reducible refine fun _ => ?_)
    | ((try lift_lets); with_reducible intro x; first
        | (refine (fun (hx : P x) => ?_) ?_; on_goal 2 => (try unfold x); on_goal 1 => clear_value x)
        | clear_value x)
    | with_reducible apply p_ite
    | with_reducible apply modTime_only (hc.sub (by decide))
    | with_reducible apply endHoldover_only (hc.sub (by decide))
    | with_reducible apply leaveDeparted_only (hc.sub (by decide))
    | with_reducible apply noteOvers_only (hc.sub (by decide))
    | with_reducible apply countMb_only (hc.sub (by decide))
    | with_reducible apply clearCuts_only (hc.sub (by decide))
    | with_reducible apply p_foldl
    | split
    | (with_reducible refine p_fst (by assumption) ?_))

theorem endGuard_only {P : State → Prop}
    (hc : ClosedOn P [.time, .sect, .rings, .cmds, .recs, .steps, .colls, .tiers, .links, .ward, .trace, .out, .fresh]) (s : State) (hs0 : P s) :
    P (endGuard s) := by
  unfold endGuard
  repeat' (first
    | with_reducible assumption
    | (with_reducible refine fun _ => ?_)
    | ((try lift_lets); with_reducible intro x; refine (fun (hx : P x) => ?_) ?_; on_goal 2 => (try unfold x); on_goal 1 => clear_value x)
    | with_reducible apply p_ite
    | with_reducible apply guardWork_only (hc.sub (by decide))
    | with_reducible apply drainCard_only (hc.sub (by decide))
    | with_reducible apply finishDrains_only (hc.sub (by decide))
    | with_reducible apply drainTakes_only (hc.sub (by decide))
    | with_reducible apply p_foldl)

theorem tickWork_only {P : State → Prop}
    (hc : ClosedOn P [.time, .sect, .slotsNow, .nflag, .rings, .cmds, .recs, .steps, .cores, .slate, .commons, .colls, .tiers, .links, .ward, .trace, .budget, .out, .fresh]) (s : State) (hs0 : P s) :
    P (tickWork s) := by
  unfold tickWork
  have h1 := endHoldover_only (hc.sub (by decide)) _
    (modTime_only (hc.sub (by decide)) (endGuard s) (fun x => { x with ns := w64 (tickNs (endGuard s) (nextTick (endGuard s)) - 1), frac := 0xFFFFFFFF })
      (endGuard_only (hc.sub (by decide)) s hs0))
  have h2 := modTime_only (hc.sub (by decide)) _
    (fun x => { x with ns := w64 (tickNs (endHoldover (modTime (endGuard s) (fun x => { x with ns := w64 (tickNs (endGuard s) (nextTick (endGuard s)) - 1), frac := 0xFFFFFFFF }))) (nextTick (endGuard s))), frac := 0, frame := some (nextTick (endGuard s)), guard := false }) h1
  have h3 := upd_slotsNow hc (by decide) (endHoldover (modTime (endGuard s) (fun x => { x with ns := w64 (tickNs (endGuard s) (nextTick (endGuard s)) - 1), frac := 0xFFFFFFFF }))).slots
    (upd_budget hc (by decide) (.all budgetReset) h2)
  exact endHoldover_only (hc.sub (by decide)) _ (tickDrain_only (hc.sub (by decide)) _ (markDeparted_only (hc.sub (by decide)) _
    (pickTimeLink_only (hc.sub (by decide)) _ (p_foldl _ _ h3 (fun _ _ h => tickSection_only (hc.sub (by decide)) _ _ _ h)))))

theorem modLinkWear_only {P : State → Prop} (hc : ClosedOn P [.wear]) (s : State) (l : Nat) (f : Wear → Wear) (hs0 : P s) :
    P (modLinkWear s l f) := by
  unfold modLinkWear
  repeat' (first
    | with_reducible assumption
    | (with_reducible refine fun _ => ?_)
    | ((try lift_lets); with_reducible intro x; first
        | (refine (fun (hx : P x) => ?_) ?_; on_goal 2 => (try unfold x); on_goal 1 => clear_value x)
        | clear_value x)
    | with_reducible apply p_ite
    | with_reducible apply modWear_only (hc.sub (by decide))
    | with_reducible apply p_foldl
    | split
    | (with_reducible refine p_fst (by assumption) ?_)
    | with_reducible apply id_only (hc.sub (by decide)))

theorem retrain_only {P : State → Prop} (hc : ClosedOn P [.links, .wear]) (s : State) (l : Nat) (cause : BitVec 4) (hs0 : P s) :
    P (retrain s l cause) := by
  unfold retrain
  repeat' (first
    | with_reducible assumption
    | (with_reducible refine fun _ => ?_)
    | ((try lift_lets); with_reducible intro x; first
        | (refine (fun (hx : P x) => ?_) ?_; on_goal 2 => (try unfold x); on_goal 1 => clear_value x)
        | clear_value x)
    | with_reducible apply p_ite
    | with_reducible apply modLink_only (hc.sub (by decide))
    | with_reducible apply leaveLink_only (hc.sub (by decide))
    | with_reducible apply modLinkWear_only (hc.sub (by decide)))

theorem takeFlit_only {P : State → Prop} (hc : ClosedOn P [.links, .wear, .ward, .out]) (s : State) (l : Nat)
    (type : Nat) (f : Flit) (hs0 : P s) :
    P (takeFlit s l type f).1 := by
  unfold takeFlit
  repeat' (first
    | with_reducible assumption
    | (with_reducible refine fun _ => ?_)
    | ((try lift_lets); with_reducible intro x; first
        | (refine (fun (hx : P x) => ?_) ?_; on_goal 2 => (try unfold x); on_goal 1 => clear_value x)
        | clear_value x)
    | with_reducible apply p_ite
    | with_reducible apply badFlit_only (hc.sub (by decide))
    | with_reducible apply ackLink_only (hc.sub (by decide))
    | with_reducible apply addLcnt_only (hc.sub (by decide))
    | with_reducible apply modLink_only (hc.sub (by decide))
    | with_reducible apply logClass_only (hc.sub (by decide))
    | with_reducible apply retrain_only (hc.sub (by decide))
    | with_reducible apply p_foldl
    | split)

theorem received_only {P : State → Prop} (hc : ClosedOn P [.links, .wear, .ward, .out]) (s : State) (l : Nat)
    (type : Nat) (f : Flit) (k : State → State) (hs0 : P s) (hk : ∀ (s : State), P s → P (k s)) :
    ∃ y, received s l type f k = .next y ∧ P y := by
  refine ⟨_, rfl, ?_⟩
  repeat' (first
    | with_reducible assumption
    | with_reducible apply p_ite
    | with_reducible apply takeFlit_only (hc.sub (by decide))
    | with_reducible apply begin_only (hc.sub (by decide))
    | with_reducible apply hk)

theorem noteFec_only {P : State → Prop} (hc : ClosedOn P [.links, .wear, .ward, .out]) (s : State) (l fixed lost : Nat) (hs0 : P s) :
    P (noteFec s l fixed lost) := by
  unfold noteFec
  repeat' (first
    | with_reducible assumption
    | (with_reducible refine fun _ => ?_)
    | ((try lift_lets); with_reducible intro x; first
        | (refine (fun (hx : P x) => ?_) ?_; on_goal 2 => (try unfold x); on_goal 1 => clear_value x)
        | clear_value x)
    | with_reducible apply p_ite
    | with_reducible apply logClass_only (hc.sub (by decide))
    | with_reducible apply addLcntN_only (hc.sub (by decide))
    | with_reducible apply modLinkWear_only (hc.sub (by decide))
    | with_reducible apply p_foldl
    | split
    | (with_reducible refine p_fst (by assumption) ?_)
    | with_reducible apply id_only (hc.sub (by decide)))

theorem recordReturn_only {P : State → Prop} (hc : ClosedOn P [.sect, .ward, .trace, .out]) (s : State) (t : Sec) (q : Pend) (v : Option Vote) (hs0 : P s) :
    P (recordReturn s t q v) := by
  unfold recordReturn
  repeat' (first
    | with_reducible assumption
    | (with_reducible refine fun _ => ?_)
    | ((try lift_lets); with_reducible intro x; first
        | (refine (fun (hx : P x) => ?_) ?_; on_goal 2 => (try unfold x); on_goal 1 => clear_value x)
        | clear_value x)
    | with_reducible apply p_ite
    | with_reducible apply capLoss_only (hc.sub (by decide))
    | with_reducible apply writeRes_only (hc.sub (by decide))
    | with_reducible apply recordSkip_only (hc.sub (by decide))
    | with_reducible apply rollEntry_only (hc.sub (by decide))
    | with_reducible apply p_foldl
    | split
    | (with_reducible refine p_fst (by assumption) ?_)
    | with_reducible apply id_only (hc.sub (by decide)))

theorem returnStep_only {P : State → Prop} (hc : ClosedOn P [.sect, .rings, .cmds, .recs, .steps, .colls, .ward, .trace, .out]) (t : Sec) (s : State) (q : Pend) (hs0 : P s) :
    P (returnStep t s q) := by
  unfold returnStep
  repeat' (first
    | with_reducible assumption
    | (with_reducible refine fun _ => ?_)
    | ((try lift_lets); with_reducible intro x; first
        | (refine (fun (hx : P x) => ?_) ?_; on_goal 2 => (try unfold x); on_goal 1 => clear_value x)
        | clear_value x)
    | with_reducible apply p_ite
    | with_reducible apply modSteps_only (hc.sub (by decide))
    | with_reducible apply actOnGate_only (hc.sub (by decide))
    | with_reducible apply recordReturn_only (hc.sub (by decide))
    | split
    | (with_reducible refine p_fst (by assumption) ?_))

theorem sramLost_only {P : State → Prop} (hc : ClosedOn P [.nflag, .cmds, .cores, .slate, .commons, .acc, .colls, .links, .wear, .ward, .out]) (s : State) (site : SramSite) (h0 : P s) :
    P (sramLost s site) := by
  have nv (s : State) (t : Sec) (n k i : Nat) (h : P s) : P (sramNv s t n k i) := sramNv_only (hc.sub (by decide)) _ _ _ _ _ h
  have lg (s : State) (a b c e : Nat) (w : W64) (h : P s) : P (logClass s a b c e w) :=
    logClass_only (hc.sub (by decide)) _ _ _ _ _ _ h
  unfold sramLost
  cases site with
  | slate q line n =>
    have h1 := upd_slate hc (by decide) (lineFf s.slate (slateKey q.val (64 * line))) h0 (fun hm => wf_wrBytes _ _ _ hm)
    refine p_ite _ _ _ h0 ?_
    dsimp only
    split
    · exact nv _ _ _ _ _ h1
    · exact lg _ _ _ _ _ _ h1
  | commons k line n =>
    have h1 := upd_commons hc (by decide) (lineFf s.commons (slateBytes * k.val + 64 * line)) h0 (fun hm => wf_wrBytes _ _ _ hm)
    refine p_ite _ _ _ h0 ?_
    dsimp only
    split
    · exact nv _ _ _ _ _ h1
    · exact lg _ _ _ _ _ _ h1
  | accumulator q row col n =>
    dsimp only
    split
    · exact nv _ _ _ _ _ (upd_acc hc (by decide) _ h0)
    · exact lg _ _ _ _ _ _ (upd_acc hc (by decide) _ h0)
  | blockStore l coll b line =>
    dsimp only
    split
    · exact lg _ _ _ _ _ _ h0
    · exact lg _ _ _ _ _ _ (raise_only (hc.sub (by decide)) _ _ _ _ _ (modColl_only (hc.sub (by decide)) _ _ _ _ h0))
  | programStore q => exact modCore_only (hc.sub (by decide)) _ _ _ h0
  | replayBuffer l => exact retrain_only (hc.sub (by decide)) _ _ _ h0

theorem writeBack_only {P : State → Prop} (hc : ClosedOn P [.headers]) (s : State) (h : Nat) (hs0 : P s) :
    P (writeBack s h) := by
  unfold writeBack
  repeat' (first
    | with_reducible assumption
    | (with_reducible refine fun _ => ?_)
    | ((try lift_lets); with_reducible intro x; first
        | (refine (fun (hx : P x) => ?_) ?_; on_goal 2 => (try unfold x); on_goal 1 => clear_value x)
        | clear_value x)
    | with_reducible apply p_ite
    | with_reducible apply modHeader_only (hc.sub (by decide))
    | with_reducible apply p_foldl
    | split
    | (with_reducible refine p_fst (by assumption) ?_)
    | with_reducible apply id_only (hc.sub (by decide)))

end Sys2Proof.Machine
end

