-- ==== Sys2Proof/Laws/OnlyD.lean ====
section
/-!
SUPPORT. What each operation can change: the host interface, registers, sections, the warden, the trace and power.
-/
namespace Sys2Proof.Machine

theorem setLineSt_only {P : State → Prop} (hc : ClosedOn P [.hif]) (s : State) (line : Nat) (st : LineSt) (hs0 : P s) :
    P (setLineSt s line st) := by
  unfold setLineSt
  repeat' (first
    | with_reducible assumption
    | with_reducible apply p_ite
    | with_reducible apply modHif_only (hc.sub (by decide)))

theorem ringBell_only {P : State → Prop} (hc : ClosedOn P [.rings]) (s : State) (line : Nat) (hs0 : P s) :
    P (ringBell s line) := by
  unfold ringBell
  repeat' (first
    | with_reducible assumption
    | (with_reducible refine fun _ => ?_)
    | with_reducible apply p_ite
    | with_reducible apply modRing_only (hc.sub (by decide))
    | with_reducible apply p_foldl)

theorem dropStale_only {P : State → Prop} (hc : ClosedOn P [.hif]) (s : State) (line : Nat) (hs0 : P s) :
    P (dropStale s line) := by
  unfold dropStale
  repeat' (first
    | with_reducible assumption
    | with_reducible apply modHif_only (hc.sub (by decide)))

theorem refuseWindow_only {P : State → Prop} (hc : ClosedOn P [.sect, .ward, .out]) (s : State) (a : Nat) (x : Target)
    (h : P s) :
    P (refuseWindow s a x) := by
  unfold refuseWindow
  split
  · exact h
  · exact capMem_only (hc.sub (by decide)) _ _ _ _ _ h
  · exact capHif_only (hc.sub (by decide)) _ _ _ _ h
  · exact capHif_only (hc.sub (by decide)) _ _ _ _ h
  · exact logClass_only (hc.sub (by decide)) _ _ _ _ _ _ h

theorem serveRead_only {P : State → Prop} (hc : ClosedOn P [.sect, .tiers, .hif, .ward, .out]) (s : State) (t : Sec) (a : Nat) (m : Meta) (hs0 : P s) :
    P (serveRead s t a m) := by
  unfold serveRead
  repeat' (first
    | with_reducible assumption
    | (with_reducible refine fun _ => ?_)
    | ((try lift_lets); with_reducible intro x; first
        | (refine (fun (hx : P x) => ?_) ?_; on_goal 2 => (try unfold x); on_goal 1 => clear_value x)
        | clear_value x)
    | with_reducible apply p_ite
    | with_reducible apply modHif_only (hc.sub (by decide))
    | with_reducible apply serveNow_only (hc.sub (by decide)))

theorem poisonData_only {P : State → Prop} (hc : ClosedOn P [.out]) (s : State) (hs0 : P s) : P (poisonData s) := by
  unfold poisonData
  repeat' (first
    | with_reducible assumption
    | with_reducible apply emit_only (hc.sub (by decide)))

theorem dirDrop_only {P : State → Prop} (hc : ClosedOn P [.hif]) (s : State) (line : Nat) (hs0 : P s) :
    P (dirDrop s line) := by
  unfold dirDrop
  repeat' (first
    | with_reducible assumption
    | with_reducible apply modHif_only (hc.sub (by decide)))

theorem dirMod_only {P : State → Prop} (hc : ClosedOn P [.hif]) (s : State) (line : Nat) (f : DirEntry → DirEntry)
    (hs0 : P s) :
    P (dirMod s line f) := by
  unfold dirMod
  repeat' (first
    | with_reducible assumption
    | with_reducible apply p_ite
    | with_reducible apply modHif_only (hc.sub (by decide)))

theorem dirAdd_only {P : State → Prop} (hc : ClosedOn P [.hif]) (s : State) (line : Nat) (t : Sec) (excl : Bool)
    (hs0 : P s) :
    P (dirAdd s line t excl) := by
  unfold dirAdd
  repeat' (first
    | with_reducible assumption
    | with_reducible apply modHif_only (hc.sub (by decide)))

theorem recallOldest_only {P : State → Prop} (hc : ClosedOn P [.hif]) (s : State) (t : Sec) (hs0 : P s) :
    P (recallOldest s t) := by
  unfold recallOldest
  repeat' (first
    | with_reducible assumption
    | (with_reducible refine fun _ => ?_)
    | with_reducible apply modHif_only (hc.sub (by decide))
    | with_reducible apply p_foldl
    | split)

theorem cachedRead_only {P : State → Prop} (hc : ClosedOn P [.sect, .tiers, .hif, .ward, .out]) (s : State) (t : Sec)
    (a : Nat) (excl : Bool) (hs0 : P s) :
    P (cachedRead s t a excl) := by
  unfold cachedRead
  repeat' (first
    | with_reducible assumption
    | (with_reducible refine fun _ => ?_)
    | ((try lift_lets); with_reducible intro x; first
        | (refine (fun (hx : P x) => ?_) ?_; on_goal 2 => (try unfold x); on_goal 1 => clear_value x)
        | clear_value x)
    | with_reducible apply p_ite
    | with_reducible apply poisonData_only (hc.sub (by decide))
    | with_reducible apply capGrove_only (hc.sub (by decide))
    | with_reducible apply serveRead_only (hc.sub (by decide))
    | with_reducible apply modHif_only (hc.sub (by decide))
    | with_reducible apply dirMod_only (hc.sub (by decide))
    | with_reducible apply dirAdd_only (hc.sub (by decide))
    | with_reducible apply recallOldest_only (hc.sub (by decide))
    | with_reducible apply p_foldl
    | split)

theorem grantWaiting_only {P : State → Prop} (hc : ClosedOn P [.sect, .tiers, .hif, .ward, .out]) (n : Nat) (s : State)
    (t : Sec) (h : P s) :
    P (grantWaiting n s t) := by
  induction n generalizing s with
  | zero => exact h
  | succ n ih =>
  unfold grantWaiting
  repeat' (first
    | with_reducible assumption
    | with_reducible apply ih
    | ((try lift_lets); with_reducible intro x; first
        | (refine (fun (hx : P x) => ?_) ?_; on_goal 2 => (try unfold x); on_goal 1 => clear_value x)
        | clear_value x)
    | with_reducible apply p_ite
    | with_reducible apply cachedRead_only (hc.sub (by decide))
    | with_reducible apply poisonData_only (hc.sub (by decide))
    | with_reducible apply capHif_only (hc.sub (by decide))
    | with_reducible apply modHif_only (hc.sub (by decide))
    | split)

theorem grantAll_only {P : State → Prop} (hc : ClosedOn P [.sect, .tiers, .hif, .ward, .out]) (s : State) (t : Sec) (hs0 : P s) :
    P (grantAll s t) := by
  unfold grantAll
  repeat' (first
    | with_reducible assumption
    | with_reducible apply grantWaiting_only (hc.sub (by decide)))

theorem countWrite_only {P : State → Prop} (hc : ClosedOn P [.trace]) (s : State) (t : Sec) (a : Nat)
    (data : BitVec 512) (enable : W64) (hs0 : P s) :
    P (countWrite s t a data enable) := by
  unfold countWrite
  repeat' (first
    | with_reducible assumption
    | ((try lift_lets); with_reducible intro x; clear_value x)
    | with_reducible apply p_ite
    | with_reducible apply modTrace_only (hc.sub (by decide)))

theorem bufferWrite_only {P : State → Prop} (hc : ClosedOn P [.sect, .hif, .trace]) (s : State) (t : Sec) (a : Nat)
    (data : BitVec 512) (enable : W64) (poison : Bool) (hs0 : P s) :
    P (bufferWrite s t a data enable poison) := by
  unfold bufferWrite
  repeat' (first
    | with_reducible assumption
    | ((try lift_lets); with_reducible intro x; refine (fun (hx : P x) => ?_) ?_; on_goal 2 => (try unfold x); on_goal 1 => clear_value x)
    | with_reducible apply p_ite
    | with_reducible apply modHif_only (hc.sub (by decide))
    | with_reducible apply capHif_only (hc.sub (by decide))
    | with_reducible apply countWrite_only (hc.sub (by decide)))

theorem drainLine_only {P : State → Prop} (hc : ClosedOn P [.tiers, .ward, .out]) (s : State) (e : Inbound) (hs0 : P s) :
    P (drainLine s e) := by
  unfold drainLine
  repeat' (first
    | with_reducible assumption
    | ((try lift_lets); with_reducible intro x; clear_value x)
    | with_reducible apply landWrite_only (hc.sub (by decide)))

theorem drainLines_only {P : State → Prop} (hc : ClosedOn P [.tiers, .hif, .ward, .out]) (n : Nat) (s : State) (hs0 : P s) :
    P (drainLines n s) := by
  unfold drainLines
  repeat' (first
    | with_reducible assumption
    | (with_reducible refine fun _ => ?_)
    | ((try lift_lets); with_reducible intro x; first
        | (refine (fun (hx : P x) => ?_) ?_; on_goal 2 => (try unfold x); on_goal 1 => clear_value x)
        | clear_value x)
    | with_reducible apply modHif_only (hc.sub (by decide))
    | with_reducible apply drainLine_only (hc.sub (by decide))
    | with_reducible apply p_foldl)

theorem sendSnoop_only {P : State → Prop} (hc : ClosedOn P [.hif, .out]) (s : State) (line : Nat) (hs0 : P s) :
    P (sendSnoop s line) := by
  unfold sendSnoop
  repeat' (first
    | with_reducible assumption
    | with_reducible apply p_ite
    | with_reducible apply emit_only (hc.sub (by decide))
    | with_reducible apply dirMod_only (hc.sub (by decide)))

theorem closeSession_only {P : State → Prop} (hc : ClosedOn P [.ward, .out]) (s : State) (hs0 : P s) :
    P (closeSession s) := by
  unfold closeSession
  repeat' (first
    | with_reducible assumption
    | (with_reducible refine fun _ => ?_)
    | with_reducible apply auditDevice_only (hc.sub (by decide))
    | with_reducible apply modWard_only (hc.sub (by decide))
    | with_reducible apply p_foldl
    | split)

theorem loseOne_only {P : State → Prop}
    (hc : ClosedOn P [.sect, .rings, .cmds, .recs, .steps, .colls, .tiers, .ward, .trace, .out, .fresh]) (s : State) (t : Sec) (c : Cmd) (hs0 : P s) :
    P (loseOne s t c) := by
  unfold loseOne
  repeat' (first
    | with_reducible assumption
    | (with_reducible refine fun _ => ?_)
    | ((try lift_lets); with_reducible intro x; clear_value x)
    | with_reducible apply p_ite
    | with_reducible apply modCmd_only (hc.sub (by decide))
    | with_reducible apply completeOne_only (hc.sub (by decide))
    | with_reducible apply dropMoves_only (hc.sub (by decide))
    | with_reducible apply ckptStop_only (hc.sub (by decide))
    | with_reducible apply p_foldl
    | split)

theorem dropRecs_only {P : State → Prop} (hc : ClosedOn P [.rings, .cmds, .recs]) (s : State) (t : Sec) (hs0 : P s) :
    P (dropRecs s t) := by
  unfold dropRecs
  repeat' (first
    | with_reducible assumption
    | (with_reducible refine fun _ => ?_)
    | ((try lift_lets); with_reducible intro x; first
        | (refine (fun (hx : P x) => ?_) ?_; on_goal 2 => (try unfold x); on_goal 1 => clear_value x)
        | clear_value x)
    | with_reducible apply modRing_only (hc.sub (by decide))
    | with_reducible apply setCmds_only (hc.sub (by decide))
    | with_reducible apply p_foldl
    | split
    | (with_reducible refine p_fst (by assumption) ?_)
    | (with_reducible refine upd_rings hc (by decide) _ ?_)
    | (with_reducible refine upd_cmds hc (by decide) _ ?_)
    | (with_reducible refine upd_recs hc (by decide) _ ?_))

theorem loseSection_only {P : State → Prop}
    (hc : ClosedOn P [.sect, .rings, .cmds, .recs, .steps, .colls, .tiers, .links, .ward, .trace, .out, .fresh]) (s : State) (t : Sec) (hs0 : P s) :
    P (loseSection s t) := by
  unfold loseSection
  repeat' (first
    | with_reducible assumption
    | (with_reducible refine fun _ => ?_)
    | ((try lift_lets); with_reducible intro x; refine (fun (hx : P x) => ?_) ?_; on_goal 2 => (try unfold x); on_goal 1 => clear_value x)
    | with_reducible apply p_ite
    | with_reducible apply capLoss_only (hc.sub (by decide))
    | with_reducible apply loseOne_only (hc.sub (by decide))
    | with_reducible apply finishDrains_only (hc.sub (by decide))
    | with_reducible apply dropRecs_only (hc.sub (by decide))
    | with_reducible apply p_foldl
    | split)

theorem loseRing_only {P : State → Prop} (hc : ClosedOn P [.rings]) (s : State) (p : Pair) (hs0 : P s) :
    P (loseRing s p) := by
  unfold loseRing
  repeat' (first
    | with_reducible assumption
    | with_reducible apply p_ite
    | with_reducible apply modRing_only (hc.sub (by decide)))

theorem hostLoss_only {P : State → Prop}
    (hc : ClosedOn P [.sect, .rings, .cmds, .recs, .steps, .colls, .tiers, .links, .hif, .ward, .trace, .out, .fresh]) (s : State) (hs0 : P s) :
    P (hostLoss s) := by
  unfold hostLoss
  repeat' (first
    | with_reducible assumption
    | (with_reducible refine fun _ => ?_)
    | ((try lift_lets); with_reducible intro x; first
        | (refine (fun (hx : P x) => ?_) ?_; on_goal 2 => (try unfold x); on_goal 1 => clear_value x)
        | clear_value x)
    | with_reducible apply p_ite
    | with_reducible apply drainLines_only (hc.sub (by decide))
    | with_reducible apply modHif_only (hc.sub (by decide))
    | with_reducible apply finishInline_only (hc.sub (by decide))
    | with_reducible apply loseSection_only (hc.sub (by decide))
    | with_reducible apply loseRing_only (hc.sub (by decide))
    | with_reducible apply closeSession_only (hc.sub (by decide))
    | with_reducible apply logError_only (hc.sub (by decide))
    | with_reducible apply p_foldl)

theorem linkDown_only {P : State → Prop} (hc : ClosedOn P [.hif]) (s : State) (hs0 : P s) : P (linkDown s) := by
  unfold linkDown
  repeat' (first
    | with_reducible assumption
    | with_reducible apply modHif_only (hc.sub (by decide)))

theorem maskVectors_only {P : State → Prop} (hc : ClosedOn P [.rings]) (s : State) (hs0 : P s) : P (maskVectors s) := by
  unfold maskVectors
  repeat' (first
    | with_reducible assumption
    | (with_reducible refine fun _ => ?_)
    | with_reducible apply modRing_only (hc.sub (by decide))
    | with_reducible apply p_foldl)

theorem auditRole_only {P : State → Prop} (hc : ClosedOn P [.ward, .out]) (s : State)
    (role channel action result : Nat) (kid target old new : W64) (hs0 : P s) :
    P (auditRole s role channel action result kid target old new) := by
  unfold auditRole
  repeat' (first
    | with_reducible assumption
    | with_reducible apply p_ite
    | with_reducible apply auditPut_only (hc.sub (by decide)))

theorem denyWrite_only {P : State → Prop} (hc : ClosedOn P [.ward]) (s : State) (hs0 : P s) : P (denyWrite s) := by
  unfold denyWrite
  repeat' (first
    | with_reducible assumption
    | with_reducible apply modWard_only (hc.sub (by decide)))

theorem installerWrite_only {P : State → Prop} (hc : ClosedOn P [.ward, .out]) (s : State) (v : View) (target : Nat)
    (word : State → W64) (ok : Bool) (yes no : State → State) (hs0 : P s) (hyes : ∀ (s : State), P s → P (yes s)) (hno : ∀ (s : State), P s → P (no s)) :
    P (installerWrite s v target word ok yes no) := by
  have h1 (r : Nat) (n : W64) := auditRole_only (hc.sub (by decide)) s 2 2 7 r (installerId s) (w64 target) (word s) n hs0
  unfold installerWrite
  refine p_ite _ _ _ hs0 (p_ite _ _ _ (denyWrite_only (hc.sub (by decide)) _ hs0) (p_ite _ _ _ (h1 _ _) ?_))
  cases ok
  · exact hno _ (h1 _ _)
  · exact hyes _ (h1 _ _)

theorem bellEpoch_only {P : State → Prop} (hc : ClosedOn P [.time, .ward, .out]) (s : State) (v : View) (data : W64) (hs0 : P s) :
    P (bellEpoch s v data) := by
  unfold bellEpoch
  repeat' (first
    | with_reducible assumption
    | (with_reducible refine fun _ => ?_)
    | ((try lift_lets); with_reducible intro x; first
        | (refine (fun (hx : P x) => ?_) ?_; on_goal 2 => (try unfold x); on_goal 1 => clear_value x)
        | clear_value x)
    | with_reducible apply p_ite
    | with_reducible apply modTime_only (hc.sub (by decide))
    | with_reducible apply installerWrite_only (hc.sub (by decide))
    | with_reducible apply id_only (hc.sub (by decide)))

theorem bellPeriod_only {P : State → Prop} (hc : ClosedOn P [.time, .ward, .out]) (s : State) (v : View) (data : W64) (hs0 : P s) :
    P (bellPeriod s v data) := by
  unfold bellPeriod
  repeat' (first
    | with_reducible assumption
    | (with_reducible refine fun _ => ?_)
    | ((try lift_lets); with_reducible intro x; first
        | (refine (fun (hx : P x) => ?_) ?_; on_goal 2 => (try unfold x); on_goal 1 => clear_value x)
        | clear_value x)
    | with_reducible apply p_ite
    | with_reducible apply modTime_only (hc.sub (by decide))
    | with_reducible apply reframe_only (hc.sub (by decide))
    | with_reducible apply installerWrite_only (hc.sub (by decide)))

theorem timeCtrl_only {P : State → Prop} (hc : ClosedOn P [.time, .cmds, .ward, .trace, .out]) (s : State) (v : View) (part : Part) (data : W64) (hs0 : P s) :
    P (timeCtrl s v part data) := by
  unfold timeCtrl
  repeat' (first
    | with_reducible assumption
    | (with_reducible refine fun _ => ?_)
    | ((try lift_lets); with_reducible intro x; first
        | (refine (fun (hx : P x) => ?_) ?_; on_goal 2 => (try unfold x); on_goal 1 => clear_value x)
        | clear_value x)
    | with_reducible apply p_ite
    | with_reducible apply modTime_only (hc.sub (by decide))
    | with_reducible apply setLock_only (hc.sub (by decide))
    | with_reducible apply installerWrite_only (hc.sub (by decide))
    | split
    | (with_reducible refine p_fst (by assumption) ?_)
    | with_reducible apply id_only (hc.sub (by decide)))

theorem clearLockChg_only {P : State → Prop} (hc : ClosedOn P [.time]) (s : State) (v : View) (data : W64) (hs0 : P s) :
    P (clearLockChg s v data) := by
  unfold clearLockChg
  repeat' (first
    | with_reducible assumption
    | with_reducible apply p_ite
    | with_reducible apply modTime_only (hc.sub (by decide)))

theorem clearNflag_only {P : State → Prop} (hc : ClosedOn P [.nflag]) (s : State) (v : View) (t : Sec) (n : Nat)
    (mask : NumFlags) (hs0 : P s) :
    P (clearNflag s v t n mask) := by
  unfold clearNflag
  repeat' (first
    | with_reducible assumption
    | (with_reducible refine fun _ => ?_)
    | with_reducible apply p_ite
    | with_reducible apply p_foldl
    | split
    | (with_reducible refine p_fst (by assumption) ?_)
    | (with_reducible refine upd_nflag hc (by decide) _ ?_))

theorem clearRecord_only {P : State → Prop} (hc : ClosedOn P [.sect, .ward, .trace]) (s : State)
    (v : View) (r : Nat) (t : Sec) (hs0 : P s) :
    P (clearRecord s v r t) := by
  unfold clearRecord
  repeat' (first
    | with_reducible assumption
    | with_reducible apply p_ite
    | with_reducible apply modWard_only (hc.sub (by decide))
    | with_reducible apply depart_only (hc.sub (by decide))
    | with_reducible apply modTrace_only (hc.sub (by decide))
    | with_reducible apply modSect_only (hc.sub (by decide)))

theorem winctl_only {P : State → Prop} (hc : ClosedOn P [.sect, .tiers, .hif, .ward, .out]) (s : State) (v : View) (t : Sec) (data : W32) (hs0 : P s) :
    P (winctl s v t data) := by
  unfold winctl
  repeat' (first
    | with_reducible assumption
    | (with_reducible refine fun _ => ?_)
    | ((try lift_lets); with_reducible intro x; first
        | (refine (fun (hx : P x) => ?_) ?_; on_goal 2 => (try unfold x); on_goal 1 => clear_value x)
        | clear_value x)
    | with_reducible apply p_ite
    | with_reducible apply modSect_only (hc.sub (by decide))
    | with_reducible apply grantAll_only (hc.sub (by decide))
    | with_reducible apply installerWrite_only (hc.sub (by decide))
    | split
    | (with_reducible refine p_fst (by assumption) ?_))

theorem recallExcess_only {P : State → Prop} (hc : ClosedOn P [.hif]) (s : State) (t : Sec) (hs0 : P s) :
    P (recallExcess s t) := by
  unfold recallExcess
  repeat' (first
    | with_reducible assumption
    | ((try lift_lets); with_reducible intro x; clear_value x)
    | with_reducible apply modHif_only (hc.sub (by decide)))

theorem hifDir_only {P : State → Prop} (hc : ClosedOn P [.sect, .tiers, .hif, .ward, .out]) (s : State) (v : View) (t : Sec) (part : Part) (data : W64) (hs0 : P s) :
    P (hifDir s v t part data) := by
  unfold hifDir
  repeat' (first
    | with_reducible assumption
    | (with_reducible refine fun _ => ?_)
    | ((try lift_lets); with_reducible intro x; first
        | (refine (fun (hx : P x) => ?_) ?_; on_goal 2 => (try unfold x); on_goal 1 => clear_value x)
        | clear_value x)
    | with_reducible apply p_ite
    | with_reducible apply modSect_only (hc.sub (by decide))
    | with_reducible apply grantAll_only (hc.sub (by decide))
    | with_reducible apply installerWrite_only (hc.sub (by decide))
    | with_reducible apply recallExcess_only (hc.sub (by decide)))

theorem refuseRing_only {P : State → Prop} (hc : ClosedOn P [.rings]) (s : State) (p : Pair) (hs0 : P s) :
    P (refuseRing s p) := by
  unfold refuseRing
  repeat' (first
    | with_reducible assumption
    | with_reducible apply modRing_only (hc.sub (by decide)))

theorem ringAddr_only {P : State → Prop} (hc : ClosedOn P [.rings]) (s : State) (v : View) (p : Pair) (which : Nat)
    (part : Part) (data : W64) (hs0 : P s) :
    P (ringAddr s v p which part data) := by
  unfold ringAddr
  repeat' (first
    | with_reducible assumption
    | ((try lift_lets); with_reducible intro x; clear_value x)
    | with_reducible apply p_ite
    | with_reducible apply refuseRing_only (hc.sub (by decide))
    | with_reducible apply modRing_only (hc.sub (by decide)))

theorem ringCfg_only {P : State → Prop} (hc : ClosedOn P [.rings]) (s : State) (v : View) (p : Pair) (data : W32)
    (hs0 : P s) :
    P (ringCfg s v p data) := by
  unfold ringCfg
  repeat' (first
    | with_reducible assumption
    | ((try lift_lets); with_reducible intro x; clear_value x)
    | with_reducible apply p_ite
    | with_reducible apply refuseRing_only (hc.sub (by decide))
    | with_reducible apply modRing_only (hc.sub (by decide)))

theorem clearRingChg_only {P : State → Prop} (hc : ClosedOn P [.rings]) (s : State) (v : View) (p : Pair) (data : W64)
    (hs0 : P s) :
    P (clearRingChg s v p data) := by
  unfold clearRingChg
  repeat' (first
    | with_reducible assumption
    | with_reducible apply p_ite
    | with_reducible apply modRing_only (hc.sub (by decide)))

theorem lctlLink_only {P : State → Prop} (hc : ClosedOn P [.links]) (s : State) (was : Bool) (l : Nat) (hs0 : P s) :
    P (lctlLink s was l) := by
  unfold lctlLink
  repeat' (first
    | with_reducible assumption
    | with_reducible apply p_ite
    | with_reducible apply startDetect_only (hc.sub (by decide))
    | with_reducible apply leaveLink_only (hc.sub (by decide)))

theorem setLctl_only {P : State → Prop} (hc : ClosedOn P [.lctlPhys, .lctlEnable, .lctlRefused]) (s : State) (x : W64)
    (h : P s) :
    P (setLctl s x) :=
  upd_lctlRefused hc (by decide) false (upd_lctlEnable hc (by decide) (x.extractLsb' 0 36)
    (upd_lctlPhys hc (by decide) (x.extractLsb' 47 17) h))

theorem fabLctl_only {P : State → Prop} (hc : ClosedOn P [.links, .lctlPhys, .lctlEnable, .lctlRefused, .ward, .out]) (s : State) (v : View) (part : Part) (data : W64) (h : P s) :
    P (fabLctl s v part data) := by
  unfold fabLctl
  refine installerWrite_only (hc.sub (by decide)) _ _ _ _ _ _ _ h (fun s h => ?_) (fun s h => ?_)
  · refine p_foldl _ _ ?_ (fun s l h => lctlLink_only (hc.sub (by decide)) _ _ _ h)
    exact setLctl_only (hc.sub (by decide)) _ _ h
  · exact upd_lctlRefused hc (by decide) _ h

theorem rccfg_only {P : State → Prop} (hc : ClosedOn P [.sect]) (s : State) (v : View) (t : Sec) (data : W32) (hs0 : P s) :
    P (rccfg s v t data) := by
  unfold rccfg
  repeat' (first
    | with_reducible assumption
    | ((try lift_lets); with_reducible intro x; clear_value x)
    | with_reducible apply p_ite
    | with_reducible apply modSect_only (hc.sub (by decide)))

theorem clearLinkChg_only {P : State → Prop} (hc : ClosedOn P [.links]) (s : State) (v : View) (l : Nat) (data : W32)
    (hs0 : P s) :
    P (clearLinkChg s v l data) := by
  unfold clearLinkChg
  repeat' (first
    | with_reducible assumption
    | with_reducible apply p_ite
    | with_reducible apply modLink_only (hc.sub (by decide)))

theorem rlcfg_only {P : State → Prop} (hc : ClosedOn P [.trace]) (s : State) (v : View) (t : Sec) (part : Part)
    (data : W64) (hs0 : P s) :
    P (rlcfg s v t part data) := by
  unfold rlcfg
  repeat' (first
    | with_reducible assumption
    | ((try lift_lets); with_reducible intro x; clear_value x)
    | with_reducible apply p_ite
    | with_reducible apply modTrace_only (hc.sub (by decide)))

theorem unkeyed_only {P : State → Prop} (hc : ClosedOn P [.cmds, .recs]) (s : State) (t : Sec) (hs0 : P s) :
    P (unkeyed s t) := by
  unfold unkeyed
  repeat' (first
    | with_reducible assumption
    | (with_reducible refine fun _ => ?_)
    | ((try lift_lets); with_reducible intro x; refine (fun (hx : P x) => ?_) ?_; on_goal 2 => (try unfold x); on_goal 1 => clear_value x)
    | with_reducible apply setCmds_only (hc.sub (by decide))
    | with_reducible apply p_foldl
    | split
    | (with_reducible refine p_fst (by assumption) ?_)
    | (with_reducible refine upd_cmds hc (by decide) _ ?_)
    | (with_reducible refine upd_recs hc (by decide) _ ?_))

theorem traceRccfg_only {P : State → Prop} (hc : ClosedOn P [.cmds, .recs, .trace]) (s : State) (v : View)
    (t : Sec) (part : Part) (data : W64) (hs0 : P s) :
    P (traceRccfg s v t part data) := by
  unfold traceRccfg
  repeat' (first
    | with_reducible assumption
    | ((try lift_lets); with_reducible intro x; clear_value x)
    | with_reducible apply p_ite
    | with_reducible apply modTrace_only (hc.sub (by decide))
    | with_reducible apply rccfg_only (hc.sub (by decide))
    | with_reducible apply unkeyed_only (hc.sub (by decide)))

theorem traceRef_only {P : State → Prop} (hc : ClosedOn P [.trace]) (s : State) (v : View) (t : Sec)
    (len : Bool) (part : Part) (data : W64) (hs0 : P s) :
    P (traceRef s v t len part data) := by
  unfold traceRef
  repeat' (first
    | with_reducible assumption
    | ((try lift_lets); with_reducible intro x; clear_value x)
    | with_reducible apply p_ite
    | with_reducible apply modTrace_only (hc.sub (by decide)))

theorem traceTcfg_only {P : State → Prop} (hc : ClosedOn P [.trace]) (s : State) (v : View) (t : Sec) (part : Part)
    (data : W64) (hs0 : P s) :
    P (traceTcfg s v t part data) := by
  unfold traceTcfg
  repeat' (first
    | with_reducible assumption
    | ((try lift_lets); with_reducible intro x; first
        | (refine (fun (hx : P x) => ?_) ?_; on_goal 2 => (try unfold x); on_goal 1 => clear_value x)
        | clear_value x)
    | with_reducible apply p_ite
    | with_reducible apply modTrace_only (hc.sub (by decide))
    | with_reducible apply traceRec_only (hc.sub (by decide)))

theorem setDomain_only {P : State → Prop} (hc : ClosedOn P [.power]) (s : State) (d : Nat) (on : Bool) (hs0 : P s) :
    P (setDomain s d on) := by
  unfold setDomain
  repeat' (first
    | with_reducible assumption
    | with_reducible apply p_ite
    | with_reducible apply modPower_only (hc.sub (by decide)))

theorem setClusterDomain_only {P : State → Prop} (hc : ClosedOn P [.power]) (s : State) (c : Nat) (on : Bool) (hs0 : P s) :
    P (setClusterDomain s c on) := by
  unfold setClusterDomain
  repeat' (first
    | with_reducible assumption
    | (with_reducible refine fun _ => ?_)
    | with_reducible apply setDomain_only (hc.sub (by decide))
    | with_reducible apply p_foldl
    | split)

theorem cdoze_only {P : State → Prop} (hc : ClosedOn P [.sect, .power]) (s : State) (v : View) (t : Sec) (data : W32)
    (hs0 : P s) :
    P (cdoze s v t data) := by
  unfold cdoze
  repeat' (first
    | with_reducible assumption
    | ((try lift_lets); with_reducible intro x; clear_value x)
    | with_reducible apply p_ite
    | with_reducible apply modSect_only (hc.sub (by decide))
    | with_reducible apply requestWake_only (hc.sub (by decide)))

theorem dozeTier_only {P : State → Prop} (hc : ClosedOn P [.power]) (s : State) (bridge on : Bool) (hs0 : P s) :
    P (dozeTier s bridge on) := by
  unfold dozeTier
  repeat' (first
    | with_reducible assumption
    | (with_reducible refine fun _ => ?_)
    | ((try lift_lets); with_reducible intro x; first
        | (refine (fun (hx : P x) => ?_) ?_; on_goal 2 => (try unfold x); on_goal 1 => clear_value x)
        | clear_value x)
    | with_reducible apply p_ite
    | with_reducible apply setDomain_only (hc.sub (by decide))
    | with_reducible apply modPower_only (hc.sub (by decide))
    | with_reducible apply p_foldl)

theorem mdoze_only {P : State → Prop} (hc : ClosedOn P [.ward, .power, .out]) (s : State) (v : View) (data : W32) (hs0 : P s) :
    P (mdoze s v data) := by
  unfold mdoze
  repeat' (first
    | with_reducible assumption
    | (with_reducible refine fun _ => ?_)
    | ((try lift_lets); with_reducible intro x; first
        | (refine (fun (hx : P x) => ?_) ?_; on_goal 2 => (try unfold x); on_goal 1 => clear_value x)
        | clear_value x)
    | with_reducible apply p_ite
    | with_reducible apply modPower_only (hc.sub (by decide))
    | with_reducible apply installerWrite_only (hc.sub (by decide))
    | with_reducible apply dozeTier_only (hc.sub (by decide))
    | split
    | (with_reducible refine p_fst (by assumption) ?_))

theorem hdrOne_only {P : State → Prop} (hc : ClosedOn P [.links, .headers, .power]) (data : BitVec 9) (s : State) (h : Nat)
    (hs0 : P s) :
    P (hdrOne data s h) := by
  unfold hdrOne
  repeat' (first
    | with_reducible assumption
    | with_reducible apply p_ite
    | with_reducible apply headerOn_only (hc.sub (by decide))
    | with_reducible apply headerOff_only (hc.sub (by decide)))

theorem hdrWrite_only {P : State → Prop} (hc : ClosedOn P [.links, .headers, .ward, .power, .out]) (s : State) (v : View) (data : W32) (hs0 : P s) :
    P (hdrWrite s v data) := by
  unfold hdrWrite
  repeat' (first
    | with_reducible assumption
    | (with_reducible refine fun _ => ?_)
    | ((try lift_lets); with_reducible intro x; first
        | (refine (fun (hx : P x) => ?_) ?_; on_goal 2 => (try unfold x); on_goal 1 => clear_value x)
        | clear_value x)
    | with_reducible apply p_ite
    | with_reducible apply modPower_only (hc.sub (by decide))
    | with_reducible apply installerWrite_only (hc.sub (by decide))
    | with_reducible apply hdrOne_only (hc.sub (by decide))
    | with_reducible apply p_foldl
    | with_reducible apply id_only (hc.sub (by decide)))

theorem startFill_only {P : State → Prop} (hc : ClosedOn P [.tiers, .hif, .ward, .out]) (s : State) (b : Nat) (x : Byte) (hs0 : P s) :
    P (startFill s b x) := by
  unfold startFill
  repeat' (first
    | with_reducible assumption
    | (with_reducible refine fun _ => ?_)
    | ((try lift_lets); with_reducible intro x; first
        | (refine (fun (hx : P x) => ?_) ?_; on_goal 2 => (try unfold x); on_goal 1 => clear_value x)
        | clear_value x)
    | with_reducible apply modHif_only (hc.sub (by decide))
    | with_reducible apply fillBlock_only (hc.sub (by decide))
    | with_reducible apply setBlk_only (hc.sub (by decide))
    | with_reducible apply setGblk_only (hc.sub (by decide))
    | with_reducible apply drainLine_only (hc.sub (by decide))
    | with_reducible apply p_foldl)

theorem freeSection_only {P : State → Prop} (hc : ClosedOn P [.sect, .ward, .out]) (s : State) (t : Sec) (hs0 : P s) :
    P (freeSection s t) := by
  unfold freeSection
  repeat' (first
    | with_reducible assumption
    | (with_reducible refine fun _ => ?_)
    | ((try lift_lets); with_reducible intro x; first
        | (refine (fun (hx : P x) => ?_) ?_; on_goal 2 => (try unfold x); on_goal 1 => clear_value x)
        | clear_value x)
    | with_reducible apply p_ite
    | with_reducible apply modSect_only (hc.sub (by decide))
    | with_reducible apply auditDevice_only (hc.sub (by decide)))

theorem zeroCluster_only {P : State → Prop} (hc : ClosedOn P [.cores, .store, .slate, .acc]) (s : State) (c : Nat) (stores : Bool) (h : P s) :
    P (zeroCluster s c stores) := by
  unfold zeroCluster
  refine p_foldl _ _ h (fun s x h => ?_)
  exact upd_cores hc (by decide) _ (upd_store hc (by decide) _ (upd_acc hc (by decide) _
    (upd_slate hc (by decide) _ h (fun hm => wf_zeroRange _ _ _ hm))))

theorem leaveSlice_only {P : State → Prop} (hc : ClosedOn P [.commons, .ward, .power, .out]) (s : State) (b : Nat) (h : P s) :
    P (leaveSlice s b) := by
  have h0 := auditDevice_only (hc.sub (by decide)) s 11 (w64 (16 + b)) 0 0 h
  have h1 := upd_commons hc (by decide) (zeroRange (auditDevice s 11 (w64 (16 + b)) 0 0).commons (slateBytes * b) slateBytes) h0
    (fun hm => wf_zeroRange _ _ _ hm)
  unfold leaveSlice
  dsimp only
  split
  · exact modPower_only (hc.sub (by decide)) _ _ h1
  · exact h1

theorem clearPages_only {P : State → Prop} (hc : ClosedOn P [.tiers, .ward, .out]) (s : State) (x : W64) (hs0 : P s) :
    P (clearPages s x) := by
  unfold clearPages
  repeat' (first
    | with_reducible assumption
    | (with_reducible refine fun _ => ?_)
    | ((try lift_lets); with_reducible intro x; first
        | (refine (fun (hx : P x) => ?_) ?_; on_goal 2 => (try unfold x); on_goal 1 => clear_value x)
        | (refine (fun (hx : (x : Tiers) = x) => ?_) rfl; clear hx)
        | clear_value x)
    | with_reducible apply releaseHeld_only (hc.sub (by decide))
    | with_reducible apply p_foldl
    | split
    | (with_reducible refine p_fst (by assumption) ?_)
    | (with_reducible refine upd_tiers hc (by decide) _ ?_ rfl))

theorem refuseCtl_only {P : State → Prop} (hc : ClosedOn P [.sect]) (s : State) (t : Sec) (hs0 : P s) :
    P (refuseCtl s t) := by
  unfold refuseCtl
  repeat' (first
    | with_reducible assumption
    | with_reducible apply modSect_only (hc.sub (by decide)))

theorem resetSection_only {P : State → Prop} (hc : ClosedOn P [.nflag, .rings, .steps, .loadPages, .colls, .trace])
    (s : State) (t : Sec) (h : P s) :
    P (resetSection s t) := by
  unfold resetSection
  dsimp only
  generalize hu : (pairsOf t).foldl _ s = u
  have h0 : P u := by subst hu; exact p_foldl _ _ h (fun s p h => modRing_only (hc.sub (by decide)) _ _ _ h)
  have h1 := upd_trace hc (by decide) (u.trace.set t traceReset) (upd_steps hc (by decide) (u.steps.set t stepsReset)
    (upd_nflag hc (by decide) (u.nflag.filter (fun e => e.1 / 556 != t.val)) h0))
  exact upd_colls hc (by decide) (u.colls.set t []) (upd_loadPages hc (by decide) (u.loadPages.set t []) h1)

theorem idleSlots_only {P : State → Prop} (hc : ClosedOn P [.slots]) (s : State) (t : Sec) (hs0 : P s) :
    P (idleSlots s t) := by
  unfold idleSlots
  repeat' (first
    | with_reducible assumption
    | (with_reducible refine fun _ => ?_)
    | with_reducible apply p_foldl
    | split
    | (with_reducible refine p_fst (by assumption) ?_)
    | (with_reducible refine upd_slots hc (by decide) _ ?_))

theorem dropDirectory_only {P : State → Prop} (hc : ClosedOn P [.sect, .hif, .ward, .out]) (s : State) (t : Sec)
    (hs0 : P s) :
    P (dropDirectory s t) := by
  unfold dropDirectory
  repeat' (first
    | with_reducible assumption
    | (with_reducible refine fun _ => ?_)
    | ((try lift_lets); with_reducible intro x; first
        | (refine (fun (hx : P x) => ?_) ?_; on_goal 2 => (try unfold x); on_goal 1 => clear_value x)
        | clear_value x)
    | with_reducible apply modHif_only (hc.sub (by decide))
    | with_reducible apply poisonData_only (hc.sub (by decide))
    | with_reducible apply refuseWindow_only (hc.sub (by decide))
    | with_reducible apply p_foldl)

theorem sectCommons_only {P : State → Prop} (hc : ClosedOn P [.sect, .commons, .ward, .power, .out]) (s : State) (v : View) (t : Sec) (data : W32) (hs0 : P s) :
    P (sectCommons s v t data) := by
  unfold sectCommons
  repeat' (first
    | with_reducible assumption
    | (with_reducible refine fun _ => ?_)
    | ((try lift_lets); with_reducible intro x; first
        | (refine (fun (hx : P x) => ?_) ?_; on_goal 2 => (try unfold x); on_goal 1 => clear_value x)
        | clear_value x)
    | with_reducible apply p_ite
    | with_reducible apply modSect_only (hc.sub (by decide))
    | with_reducible apply installerWrite_only (hc.sub (by decide))
    | with_reducible apply leaveSlice_only (hc.sub (by decide))
    | with_reducible apply refuseCtl_only (hc.sub (by decide))
    | with_reducible apply p_foldl)

theorem changeOwner_only {P : State → Prop} (hc : ClosedOn P [.tiers, .hif, .ward, .out]) (s : State) (b o : Nat) (hs0 : P s) :
    P (changeOwner s b o) := by
  unfold changeOwner
  repeat' (first
    | with_reducible assumption
    | ((try lift_lets); with_reducible intro x; first
        | (refine (fun (hx : P x) => ?_) ?_; on_goal 2 => (try unfold x); on_goal 1 => clear_value x)
        | clear_value x)
    | with_reducible apply p_ite
    | with_reducible apply startFill_only (hc.sub (by decide))
    | with_reducible apply moveEntries_only (hc.sub (by decide)))

theorem owncmd_only {P : State → Prop} (hc : ClosedOn P [.ownRefused, .tiers, .hif, .ward, .out]) (s : State) (v : View) (wide : Bool) (x : W64) (hs0 : P s) :
    P (owncmd s v wide x) := by
  unfold owncmd
  repeat' (first
    | with_reducible assumption
    | (with_reducible refine fun _ => ?_)
    | ((try lift_lets); with_reducible intro x; first
        | (refine (fun (hx : P x) => ?_) ?_; on_goal 2 => (try unfold x); on_goal 1 => clear_value x)
        | clear_value x)
    | with_reducible apply p_ite
    | with_reducible apply installerWrite_only (hc.sub (by decide))
    | with_reducible apply changeOwner_only (hc.sub (by decide))
    | with_reducible apply p_foldl
    | (with_reducible refine upd_ownRefused hc (by decide) _ ?_))

theorem eachEntry_only {P : State → Prop} (hc : ClosedOn P []) (f : State → Nat × Byte → State × Bool) (s : State) (es : List (Nat × Byte))
    (h : P s) (hf : ∀ (s : State) (e : Nat × Byte), P s → P (f s e).1) : P (eachEntry f s es).1 := by
  have key : ∀ (es : List (Nat × Byte)) (x : State × Bool), P x.1 →
      P (es.foldl (fun x e => let y := f x.1 e; (y.1, x.2 || y.2)) x).1 := by
    intro es
    induction es with
    | nil => exact fun x hx => hx
    | cons e es ih => exact fun x hx => ih _ (hf x.1 e hx)
  exact key es (s, false) h

theorem slotOne_only {P : State → Prop} (hc : ClosedOn P [.slots]) (s : State) (e : Nat × Byte) (hs0 : P s) :
    P (slotOne s e).1 := by
  unfold slotOne
  repeat' (first
    | with_reducible assumption
    | (with_reducible refine fun _ => ?_)
    | ((try lift_lets); with_reducible intro x; clear_value x)
    | with_reducible apply p_ite
    | with_reducible apply p_foldl
    | split
    | (with_reducible refine p_fst (by assumption) ?_)
    | (with_reducible refine upd_slots hc (by decide) _ ?_))

theorem slotWrite_only {P : State → Prop} (hc : ClosedOn P [.slots, .slotRefused, .ward, .out]) (s : State) (v : View)
    (off : Nat) (wide : Bool) (data : W64) (hs0 : P s) :
    P (slotWrite s v off wide data) := by
  unfold slotWrite
  have h1 (u : State) (h : P u) (b : Bool) := upd_slotRefused hc (by decide) b
    (eachEntry_only (hc.sub (by decide)) slotOne u (arrayBytes off wide data) h
      (fun s e h => slotOne_only (hc.sub (by decide)) s e h))
  exact installerWrite_only (hc.sub (by decide)) _ _ _ _ _ _ _ hs0 (fun u h => h1 u h _) (fun u h => h1 u h _)

theorem blkcfgOne_only {P : State → Prop} (hc : ClosedOn P [.tiers, .hif, .ward, .out]) (t : Sec) (s : State) (e : Nat × Byte)
    (hs0 : P s) :
    P (blkcfgOne t s e).1 := by
  unfold blkcfgOne
  repeat' (first
    | with_reducible assumption
    | (with_reducible refine fun _ => ?_)
    | ((try lift_lets); with_reducible intro x; clear_value x)
    | with_reducible apply p_ite
    | with_reducible apply startFill_only (hc.sub (by decide))
    | with_reducible apply p_foldl
    | split)

theorem blkcfg_only {P : State → Prop} (hc : ClosedOn P [.sect, .tiers, .hif, .ward, .out]) (s : State) (v : View) (off : Nat)
    (wide : Bool) (data : W64) (hs0 : P s) :
    P (blkcfg s v off wide data) := by
  unfold blkcfg
  repeat' (first
    | with_reducible assumption
    | (with_reducible refine fun _ => ?_)
    | ((try lift_lets); with_reducible intro x; refine (fun (hx : P x.1) => ?_) ?_; on_goal 2 => (try unfold x); on_goal 1 => clear_value x)
    | with_reducible apply eachEntry_only (hc.sub (by decide))
    | with_reducible apply blkcfgOne_only (hc.sub (by decide))
    | with_reducible apply modSect_only (hc.sub (by decide))
    | with_reducible apply p_foldl
    | split)

theorem blkmodeOne_only {P : State → Prop} (hc : ClosedOn P [.tiers, .hif, .ward, .out]) (t : Sec) (s : State) (e : Nat × Byte)
    (hs0 : P s) :
    P (blkmodeOne t s e).1 := by
  unfold blkmodeOne
  repeat' (first
    | with_reducible assumption
    | (with_reducible refine fun _ => ?_)
    | ((try lift_lets); with_reducible intro x; clear_value x)
    | with_reducible apply p_ite
    | with_reducible apply setGblk_only (hc.sub (by decide))
    | with_reducible apply setBlk_only (hc.sub (by decide))
    | with_reducible apply startFill_only (hc.sub (by decide))
    | with_reducible apply p_foldl
    | split)

theorem blkmode_only {P : State → Prop} (hc : ClosedOn P [.sect, .tiers, .hif, .ward, .out]) (s : State) (v : View) (off : Nat)
    (wide : Bool) (data : W64) (hs0 : P s) :
    P (blkmode s v off wide data) := by
  unfold blkmode
  repeat' (first
    | with_reducible assumption
    | (with_reducible refine fun _ => ?_)
    | ((try lift_lets); with_reducible intro x; refine (fun (hx : P x.1) => ?_) ?_; on_goal 2 => (try unfold x); on_goal 1 => clear_value x)
    | with_reducible apply eachEntry_only (hc.sub (by decide))
    | with_reducible apply blkmodeOne_only (hc.sub (by decide))
    | with_reducible apply modSect_only (hc.sub (by decide))
    | with_reducible apply p_foldl
    | split)

theorem mrgnWrite_only {P : State → Prop} (hc : ClosedOn P [.sect, .tiers, .ward, .out]) (s : State) (v : View) (t : Sec) (i : Nat)
    (part : Part) (data : W64) (hs0 : P s) :
    P (mrgnWrite s v t i part data) := by
  unfold mrgnWrite
  repeat' (first
    | with_reducible assumption
    | ((try lift_lets); with_reducible intro x; first
        | (refine (fun (hx : P x) => ?_) ?_; on_goal 2 => (try unfold x); on_goal 1 => clear_value x)
        | clear_value x)
    | with_reducible apply p_ite
    | with_reducible apply modSect_only (hc.sub (by decide))
    | with_reducible apply clearPages_only (hc.sub (by decide)))

theorem sectRole_only {P : State → Prop} (hc : ClosedOn P [.sect, .steps]) (s : State) (v : View) (t : Sec)
    (data : W32) (hs0 : P s) :
    P (sectRole s v t data) := by
  unfold sectRole
  repeat' (first
    | with_reducible assumption
    | ((try lift_lets); with_reducible intro x; first
        | (refine (fun (hx : P x) => ?_) ?_; on_goal 2 => (try unfold x); on_goal 1 => clear_value x)
        | clear_value x)
    | with_reducible apply p_ite
    | with_reducible apply modSect_only (hc.sub (by decide))
    | with_reducible apply modSteps_only (hc.sub (by decide)))

theorem setResult_only {P : State → Prop} (hc : ClosedOn P [.ward]) (s : State) (r : Nat) (hs0 : P s) :
    P (setResult s r) := by
  unfold setResult
  repeat' (first
    | with_reducible assumption
    | with_reducible apply modWard_only (hc.sub (by decide)))

theorem countDenied_only {P : State → Prop} (hc : ClosedOn P [.ward]) (s : State) (hs0 : P s) : P (countDenied s) := by
  unfold countDenied
  repeat' (first
    | with_reducible assumption
    | with_reducible apply modWard_only (hc.sub (by decide)))

theorem mailbox_only {P : State → Prop} (hc : ClosedOn P [.ward]) (s : State) (v : View) (k : State → State)
    (hs0 : P s) (hk : ∀ (s : State), P s → P (k s)) :
    P (mailbox s v k) := by
  unfold mailbox
  repeat' (first
    | with_reducible assumption
    | with_reducible apply p_ite
    | with_reducible apply modWard_only (hc.sub (by decide))
    | with_reducible apply hk)

theorem challenge_only {P : State → Prop} (hc : ClosedOn P [.ward, .fresh]) (s : State) (role : BitVec 2) (hs0 : P s) :
    P (challenge s role) := by
  unfold challenge
  repeat' (first
    | with_reducible assumption
    | (with_reducible refine fun _ => ?_)
    | with_reducible apply p_ite
    | with_reducible apply setResult_only (hc.sub (by decide))
    | with_reducible apply modWard_only (hc.sub (by decide))
    | with_reducible apply p_foldl
    | split
    | (with_reducible refine p_fst (by assumption) ?_)
    | (with_reducible refine upd_ward hc (by decide) _ ?_)
    | (with_reducible refine upd_fresh hc (by decide) _ ?_))

theorem openSession_only {P : State → Prop} (hc : ClosedOn P [.ward, .out]) (s : State) (x : Session) (k : Key)
    (role : Nat) (hs0 : P s) :
    P (openSession s x k role) := by
  unfold openSession
  repeat' (first
    | with_reducible assumption
    | ((try lift_lets); with_reducible intro x; refine (fun (hx : P x) => ?_) ?_; on_goal 2 => (try unfold x); on_goal 1 => clear_value x)
    | with_reducible apply closeSession_only (hc.sub (by decide))
    | with_reducible apply modWard_only (hc.sub (by decide))
    | with_reducible apply auditRole_only (hc.sub (by decide)))

theorem submit_only {P : State → Prop} (hc : ClosedOn P [.ward, .out]) (s : State) (hs0 : P s) : P (submit s) := by
  unfold submit
  repeat' (first
    | with_reducible assumption
    | (with_reducible refine fun _ => ?_)
    | ((try lift_lets); with_reducible intro x; first
        | (refine (fun (hx : P x) => ?_) ?_; on_goal 2 => (try unfold x); on_goal 1 => clear_value x)
        | clear_value x)
    | with_reducible apply p_ite
    | with_reducible apply setResult_only (hc.sub (by decide))
    | with_reducible apply modWard_only (hc.sub (by decide))
    | with_reducible apply countDenied_only (hc.sub (by decide))
    | with_reducible apply openSession_only (hc.sub (by decide))
    | with_reducible apply p_foldl
    | split)

theorem closeByRole_only {P : State → Prop} (hc : ClosedOn P [.ward, .out]) (s : State) (hs0 : P s) :
    P (closeByRole s) := by
  unfold closeByRole
  repeat' (first
    | with_reducible assumption
    | (with_reducible refine fun _ => ?_)
    | ((try lift_lets); with_reducible intro x; first
        | (refine (fun (hx : P x) => ?_) ?_; on_goal 2 => (try unfold x); on_goal 1 => clear_value x)
        | clear_value x)
    | with_reducible apply p_ite
    | with_reducible apply modWard_only (hc.sub (by decide))
    | with_reducible apply auditRole_only (hc.sub (by decide))
    | with_reducible apply setResult_only (hc.sub (by decide))
    | with_reducible apply countDenied_only (hc.sub (by decide))
    | split
    | (with_reducible refine p_fst (by assumption) ?_))

theorem operatorDrain_only {P : State → Prop} (hc : ClosedOn P [.ward, .out]) (s : State) (hs0 : P s) :
    P (operatorDrain s) := by
  unfold operatorDrain
  repeat' (first
    | with_reducible assumption
    | with_reducible apply suspect_only (hc.sub (by decide)))

theorem returnToService_only {P : State → Prop} (hc : ClosedOn P [.ward, .out]) (s : State) (hs0 : P s) :
    P (returnToService s) := by
  unfold returnToService
  repeat' (first
    | with_reducible assumption
    | ((try lift_lets); with_reducible intro x; refine (fun (hx : P x) => ?_) ?_; on_goal 2 => (try unfold x); on_goal 1 => clear_value x)
    | with_reducible apply setCard_only (hc.sub (by decide))
    | with_reducible apply modWard_only (hc.sub (by decide)))

theorem setAck_only {P : State → Prop} (hc : ClosedOn P [.ward]) (s : State) (x : W64) (hs0 : P s) : P (setAck s x) := by
  unfold setAck
  repeat' (first
    | with_reducible assumption
    | ((try lift_lets); with_reducible intro x; refine (fun (hx : P x) => ?_) ?_; on_goal 2 => (try unfold x); on_goal 1 => clear_value x)
    | with_reducible apply modWard_only (hc.sub (by decide)))

theorem auditRedfish_only {P : State → Prop} (hc : ClosedOn P [.ward, .out]) (s : State) (who : Client)
    (action result : Nat) (target old new : W64) (hs0 : P s) :
    P (auditRedfish s who action result target old new) := by
  unfold auditRedfish
  repeat' (first
    | with_reducible assumption
    | with_reducible apply auditRole_only (hc.sub (by decide)))

theorem rejectClient_only {P : State → Prop} (hc : ClosedOn P [.ward, .out]) (s : State) (hs0 : P s) :
    P (rejectClient s) := by
  unfold rejectClient
  repeat' (first
    | with_reducible assumption
    | with_reducible apply emit_only (hc.sub (by decide))
    | with_reducible apply modWard_only (hc.sub (by decide)))

theorem switchByRedfish_only {P : State → Prop} (hc : ClosedOn P [.links, .headers, .power]) (s : State) (headers : Bool)
    (value : W32) (hs0 : P s) :
    P (switchByRedfish s headers value).1 := by
  unfold switchByRedfish
  repeat' (first
    | with_reducible assumption
    | (with_reducible refine fun _ => ?_)
    | ((try lift_lets); with_reducible intro x; clear_value x)
    | with_reducible apply p_ite
    | with_reducible apply hdrOne_only (hc.sub (by decide))
    | with_reducible apply modPower_only (hc.sub (by decide))
    | with_reducible apply dozeTier_only (hc.sub (by decide))
    | with_reducible apply p_foldl
    | split)

theorem doAction_only {P : State → Prop} (hc : ClosedOn P [.links, .headers, .ward, .power, .out]) (s : State) (who : Client)
    (a : Action) (h : P s) : P (doAction s who a).1 := by
  unfold doAction
  split
  · exact returnToService_only (hc.sub (by decide)) _ h
  · exact switchByRedfish_only (hc.sub (by decide)) _ _ _ h
  · exact subscribe_only (hc.sub (by decide)) _ _ _ h
  · exact h

theorem redfish_only {P : State → Prop} (hc : ClosedOn P [.links, .headers, .ward, .power, .out]) (s : State) (who : Client) (a : Action) (hs0 : P s) :
    P (redfish s who a) := by
  unfold redfish
  repeat' (first
    | with_reducible assumption
    | ((try lift_lets); with_reducible intro x; first
        | (refine (fun (hx : P x) => ?_) ?_; on_goal 2 => (try unfold x); on_goal 1 => clear_value x)
        | clear_value x)
    | with_reducible apply p_ite
    | with_reducible apply emit_only (hc.sub (by decide))
    | with_reducible apply auditRedfish_only (hc.sub (by decide))
    | with_reducible apply rejectClient_only (hc.sub (by decide))
    | with_reducible apply modWard_only (hc.sub (by decide))
    | with_reducible apply doAction_only (hc.sub (by decide))
    | with_reducible apply reply_only (hc.sub (by decide))
    | split
    | (with_reducible refine p_fst (by assumption) ?_))

theorem dropSession_only {P : State → Prop} (hc : ClosedOn P [.ward, .out]) (s : State) (x : Session) (hs0 : P s) :
    P (dropSession s x) := by
  unfold dropSession
  repeat' (first
    | with_reducible assumption
    | with_reducible apply p_ite
    | with_reducible apply closeSession_only (hc.sub (by decide)))

theorem setOperator_only {P : State → Prop} (hc : ClosedOn P [.ward, .out]) (s : State) (k : Fin 8) (x : Option Key) (hs0 : P s) :
    P (setOperator s k x) := by
  unfold setOperator
  repeat' (first
    | with_reducible assumption
    | (with_reducible refine fun _ => ?_)
    | ((try lift_lets); with_reducible intro x; first
        | (refine (fun (hx : P x) => ?_) ?_; on_goal 2 => (try unfold x); on_goal 1 => clear_value x)
        | clear_value x)
    | with_reducible apply p_ite
    | with_reducible apply modWard_only (hc.sub (by decide))
    | with_reducible apply subscribe_only (hc.sub (by decide))
    | with_reducible apply dropSession_only (hc.sub (by decide)))

theorem enrol_only {P : State → Prop} (hc : ClosedOn P [.ward, .out]) (s : State) (e : Enrol) (h : P s) : P (enrol s e) := by
  unfold enrol
  split
  · exact modWard_only (hc.sub (by decide)) _ _ (subscribe_only (hc.sub (by decide)) _ _ _ (dropSession_only (hc.sub (by decide)) _ _ h))
  · exact setOperator_only (hc.sub (by decide)) _ _ _ h
  · exact setOperator_only (hc.sub (by decide)) _ _ _ h

theorem putEntry_only {P : State → Prop} (hc : ClosedOn P [.tiers, .trace]) (s : State) (t : Sec) (kind ring : Nat)
    (payload : List (BitVec 512)) (hs0 : P s) :
    P (putEntry s t kind ring payload) := by
  unfold putEntry
  repeat' (first
    | with_reducible assumption
    | ((try lift_lets); with_reducible intro x; first
        | (refine (fun (hx : P x) => ?_) ?_; on_goal 2 => (try unfold x); on_goal 1 => clear_value x)
        | clear_value x)
    | with_reducible apply wrDev_only (hc.sub (by decide))
    | with_reducible apply modTrace_only (hc.sub (by decide)))

theorem padLog_only {P : State → Prop} (hc : ClosedOn P [.tiers, .trace]) (s : State) (t : Sec) (bytes : Nat) (hs0 : P s) :
    P (padLog s t bytes) := by
  unfold padLog
  repeat' (first
    | with_reducible assumption
    | ((try lift_lets); with_reducible intro x; first
        | (refine (fun (hx : P x) => ?_) ?_; on_goal 2 => (try unfold x); on_goal 1 => clear_value x)
        | clear_value x)
    | with_reducible apply p_ite
    | with_reducible apply putEntry_only (hc.sub (by decide))
    | with_reducible apply wrDev_only (hc.sub (by decide))
    | with_reducible apply modTrace_only (hc.sub (by decide)))

theorem writeLog_only {P : State → Prop} (hc : ClosedOn P [.tiers, .trace, .budget]) (n : Nat) (s : State) (t : Sec) (h : P s) :
    P (writeLog n s t) := by
  induction n generalizing s with
  | zero => exact h
  | succ n ih =>
  unfold writeLog
  split
  · exact h
  · refine p_ite _ _ _ h (ih _ (upd_budget hc (by decide) _ ?_))
    exact putEntry_only (hc.sub (by decide)) _ _ _ _ _ (modTrace_only (hc.sub (by decide)) _ _ _
      (padLog_only (hc.sub (by decide)) _ _ _ h))

theorem recordDiv_only {P : State → Prop} (hc : ClosedOn P [.ward, .trace, .out]) (s : State) (t : Sec) (q : LogEntry)
    (off : Nat) (hs0 : P s) :
    P (recordDiv s t q off) := by
  unfold recordDiv
  repeat' (first
    | with_reducible assumption
    | ((try lift_lets); with_reducible intro x; clear_value x)
    | with_reducible apply p_ite
    | with_reducible apply modTrace_only (hc.sub (by decide))
    | with_reducible apply raiseEvent_only (hc.sub (by decide)))

theorem compareOne_only {P : State → Prop} (hc : ClosedOn P [.ward, .trace, .out]) (s : State) (t : Sec)
    (q : LogEntry) (hs0 : P s) :
    P (compareOne s t q) := by
  unfold compareOne
  repeat' (first
    | with_reducible assumption
    | (with_reducible refine fun _ => ?_)
    | ((try lift_lets); with_reducible intro x; clear_value x)
    | with_reducible apply recordDiv_only (hc.sub (by decide))
    | with_reducible apply p_foldl
    | split)

theorem putTrace_only {P : State → Prop} (hc : ClosedOn P [.tiers, .trace]) (s : State) (t : Sec) (x : TraceRec)
    (hs0 : P s) :
    P (putTrace s t x) := by
  unfold putTrace
  repeat' (first
    | with_reducible assumption
    | ((try lift_lets); with_reducible intro x; clear_value x)
    | with_reducible apply modTrace_only (hc.sub (by decide))
    | with_reducible apply wrDev_only (hc.sub (by decide)))

theorem flushTrace_only {P : State → Prop} (hc : ClosedOn P [.tiers, .trace]) (s : State) (t : Sec) (hs0 : P s) :
    P (flushTrace s t) := by
  unfold flushTrace
  repeat' (first
    | with_reducible assumption
    | (with_reducible refine fun _ => ?_)
    | ((try lift_lets); with_reducible intro x; clear_value x)
    | with_reducible apply putTrace_only (hc.sub (by decide))
    | with_reducible apply modTrace_only (hc.sub (by decide))
    | with_reducible apply p_foldl)

theorem writeTrace_only {P : State → Prop} (hc : ClosedOn P [.tiers, .trace]) (s : State) (t : Sec) (hs0 : P s) :
    P (writeTrace s t) := by
  unfold writeTrace
  repeat' (first
    | with_reducible assumption
    | ((try lift_lets); with_reducible intro x; first
        | (refine (fun (hx : P x) => ?_) ?_; on_goal 2 => (try unfold x); on_goal 1 => clear_value x)
        | clear_value x)
    | with_reducible apply p_ite
    | with_reducible apply flushTrace_only (hc.sub (by decide))
    | with_reducible apply traceRec_only (hc.sub (by decide))
    | with_reducible apply modTrace_only (hc.sub (by decide)))

theorem dozeRecord_only {P : State → Prop} (hc : ClosedOn P [.trace]) (t : Sec) (s : State) (q : Nat) (hs0 : P s) :
    P (dozeRecord t s q) := by
  unfold dozeRecord
  repeat' (first
    | with_reducible assumption
    | ((try lift_lets); with_reducible intro x; clear_value x)
    | with_reducible apply traceCore_only (hc.sub (by decide)))

theorem powerOn_only {P : State → Prop}
    (hc : ClosedOn P [.time, .sect, .slots, .slotsNow, .slotRefused, .ownRefused, .nflag, .rings, .cmds, .recs, .steps, .images, .loadPages, .cores, .store, .slate, .commons, .acc, .colls, .tiers, .links, .lctlEnable, .lctlRefused, .headers, .hif, .ward, .power, .trace, .budget, .out]) (s : State) (h : P s) :
    P (powerOn s) := by
  have h1 := upd_power hc (by decide) powerReset (upd_trace hc (by decide) (.all traceReset)
    (upd_budget hc (by decide) (.all budgetReset) (upd_out hc (by decide) [] (upd_hif hc (by decide) hifReset
    (upd_ward hc (by decide) (powerOn s).ward (upd_headers hc (by decide) (powerOn s).headers
    (upd_lctlRefused hc (by decide) false (upd_lctlEnable hc (by decide) 0xFFFFFFFFF (upd_links hc (by decide) [] h)))))))))
  have h2 := upd_mem hc (by decide) tiersReset (upd_colls hc (by decide) (.all []) (upd_acc hc (by decide) []
    (upd_commons hc (by decide) [] (upd_slate hc (by decide) [] (upd_store hc (by decide) [] (upd_cores hc (by decide) []
    (upd_loadPages hc (by decide) (.all []) (upd_images hc (by decide) (.all none) (upd_steps hc (by decide) (.all stepsReset)
    h1))))) (fun _ => rfl)) (fun _ => rfl)))) (fun _ => rfl)
  exact upd_recs hc (by decide) (.all []) (upd_cmds hc (by decide) (.all []) (upd_rings hc (by decide) []
    (upd_nflag hc (by decide) [] (upd_ownRefused hc (by decide) false (upd_slotRefused hc (by decide) false
    (upd_slotsNow hc (by decide) [] (upd_slots hc (by decide) [] (upd_sect hc (by decide) (.all sectReset) (upd_time hc (by decide) timeReset h2)))))))))

theorem activate_only {P : State → Prop} (hc : ClosedOn P [.id, .ward]) (s : State) (h : P s) : P (activate s) := by
  unfold activate
  split
  · exact h
  · exact modWard_only (hc.sub (by decide)) _ _ (upd_id hc (by decide) _ h rfl)

theorem swapBanks_only {P : State → Prop} (hc : ClosedOn P [.id]) (s : State) (h : P s) : P (swapBanks s) :=
  upd_id hc (by decide) _ h rfl

theorem stageFails_only {P : State → Prop} (hc : ClosedOn P [.ward, .out]) (s : State) (hs0 : P s) : P (stageFails s) := by
  unfold stageFails
  repeat' (first
    | with_reducible assumption
    | with_reducible apply modWard_only (hc.sub (by decide))
    | with_reducible apply suspect_only (hc.sub (by decide)))

theorem clustersOn_only {P : State → Prop} (hc : ClosedOn P [.power]) (s : State) (hs0 : P s) : P (clustersOn s) := by
  unfold clustersOn
  repeat' (first
    | with_reducible assumption
    | (with_reducible refine fun _ => ?_)
    | with_reducible apply setClusterDomain_only (hc.sub (by decide))
    | with_reducible apply p_foldl)

theorem validWrite_only {P : State → Prop} (hc : ClosedOn P [.sect, .ward, .trace]) (r : Nat)
    (s : State) (v : View) (t : Sec) (data : W64) (hs0 : P s) :
    P (validWrite r s v t data) := by
  unfold validWrite
  repeat' (first
    | with_reducible assumption
    | with_reducible apply p_ite
    | with_reducible apply clearRecord_only (hc.sub (by decide)))

theorem wmbStatus_only {P : State → Prop} (hc : ClosedOn P [.ward]) (s : State) (v : View) (data : W32) (hs0 : P s) :
    P (wmbStatus s v data) := by
  unfold wmbStatus
  repeat' (first
    | with_reducible assumption
    | with_reducible apply p_ite
    | with_reducible apply modWard_only (hc.sub (by decide)))

theorem wmbSig_only {P : State → Prop} (hc : ClosedOn P [.ward]) (s : State) (v : View) (i : Nat) (part : Part)
    (data : W64) (hs0 : P s) :
    P (wmbSig s v i part data) := by
  unfold wmbSig
  repeat' (first
    | with_reducible assumption
    | with_reducible apply p_ite
    | with_reducible apply modWard_only (hc.sub (by decide)))

theorem bellEpochPart_only {P : State → Prop} (hc : ClosedOn P [.time, .ward, .out]) (s : State) (v : View)
    (part : Part) (data : W64) (hs0 : P s) :
    P (bellEpochPart s v part data) := by
  unfold bellEpochPart
  repeat' (first
    | with_reducible assumption
    | with_reducible apply bellEpoch_only (hc.sub (by decide)))

theorem bellPeriodPart_only {P : State → Prop} (hc : ClosedOn P [.time, .ward, .out]) (s : State) (v : View)
    (part : Part) (data : W64) (hs0 : P s) :
    P (bellPeriodPart s v part data) := by
  unfold bellPeriodPart
  repeat' (first
    | with_reducible assumption
    | with_reducible apply bellPeriod_only (hc.sub (by decide)))

theorem errCardWrite_only {P : State → Prop} (hc : ClosedOn P [.ward]) (s : State) (v : View) (data : W64) (hs0 : P s) :
    P (errCardWrite s v data) := by
  unfold errCardWrite
  repeat' (first
    | with_reducible assumption
    | with_reducible apply p_ite
    | with_reducible apply modWard_only (hc.sub (by decide)))

/-- The write of the register that an offset names, where it names one, keeps P. -/
def Keeps64 (P : State → Prop) (o : Option (State → View → Part → W64 → State)) : Prop :=
  ∀ f, o = some f → ∀ s v p d, P s → P (f s v p d)

def Keeps32 (P : State → Prop) (o : Option (State → View → W32 → State)) : Prop :=
  ∀ f, o = some f → ∀ s v d, P s → P (f s v d)

theorem mem_of_firstSome {α : Type} (l : List (Option α)) (a : α) (h : firstSome l = some a) : some a ∈ l := by
  induction l with
  | nil => cases h
  | cons x l ih =>
    cases x with
    | some b => cases h; simp
    | none => exact List.mem_cons_of_mem _ (ih h)

theorem keeps64_map {P : State → Prop} {α : Type} (o : Option α) (g : α → State → View → Part → W64 → State)
    (hg : ∀ k s v p d, P s → P (g k s v p d)) : Keeps64 P (o.map g) := by
  intro f hf
  obtain ⟨k, -, rfl⟩ := Option.map_eq_some_iff.1 hf
  exact hg k

theorem keeps32_map {P : State → Prop} {α : Type} (o : Option α) (g : α → State → View → W32 → State)
    (hg : ∀ k s v d, P s → P (g k s v d)) : Keeps32 P (o.map g) := by
  intro f hf
  obtain ⟨k, -, rfl⟩ := Option.map_eq_some_iff.1 hf
  exact hg k

theorem keeps64_first {P : State → Prop} (l : List (Option (State → View → Part → W64 → State)))
    (hl : ∀ o ∈ l, Keeps64 P o) : Keeps64 P (firstSome l) :=
  fun f hf => hl _ (mem_of_firstSome l f hf) f rfl

theorem keeps32_first {P : State → Prop} (l : List (Option (State → View → W32 → State)))
    (hl : ∀ o ∈ l, Keeps32 P o) : Keeps32 P (firstSome l) :=
  fun f hf => hl _ (mem_of_firstSome l f hf) f rfl

theorem keeps64_ring {P : State → Prop} (hc : ClosedOn P [.time, .sect, .ownRefused, .rings, .cmds, .recs, .tiers, .links, .lctlPhys, .lctlEnable, .lctlRefused, .hif, .ward, .trace, .out]) (off : Nat) : Keeps64 P (ring64 off) := by
  intro f hf
  unfold ring64 at hf
  split at hf
  · split at hf <;> cases hf <;> intro s v p d h
    · exact ringAddr_only (hc.sub (by decide)) _ _ _ _ _ _ h
    · exact ringAddr_only (hc.sub (by decide)) _ _ _ _ _ _ h
    · exact ringAddr_only (hc.sub (by decide)) _ _ _ _ _ _ h
    · exact clearRingChg_only (hc.sub (by decide)) _ _ _ _ h
  · cases hf

theorem keeps64_trace {P : State → Prop} (hc : ClosedOn P [.time, .sect, .ownRefused, .rings, .cmds, .recs, .tiers, .links, .lctlPhys, .lctlEnable, .lctlRefused, .hif, .ward, .trace, .out]) (off : Nat) : Keeps64 P (trace64 off) := by
  intro f hf
  unfold trace64 at hf
  split at hf
  · split at hf <;> cases hf <;> intro s v p d h
    · exact rlcfg_only (hc.sub (by decide)) _ _ _ _ _ h
    · exact traceRccfg_only (hc.sub (by decide)) _ _ _ _ _ h
    · exact traceRef_only (hc.sub (by decide)) _ _ _ _ _ _ h
    · exact traceRef_only (hc.sub (by decide)) _ _ _ _ _ _ h
    · exact validWrite_only (hc.sub (by decide)) _ _ _ _ _ h
    · exact traceTcfg_only (hc.sub (by decide)) _ _ _ _ _ h
  · cases hf

theorem ackDo_only {P : State → Prop} (hc : ClosedOn P [.ward]) (s : State) (x : W64) (entry : State → State) (hs0 : P s) (hentry : ∀ (s : State), P s → P (entry s)) :
    P (ackDo s x entry) := by
  unfold ackDo
  repeat' (first
    | with_reducible assumption
    | (with_reducible refine fun _ => ?_)
    | ((try lift_lets); with_reducible intro x; first
        | (refine (fun (hx : P x) => ?_) ?_; on_goal 2 => (try unfold x); on_goal 1 => clear_value x)
        | clear_value x)
    | with_reducible apply p_ite
    | with_reducible apply hentry
    | with_reducible apply setAck_only (hc.sub (by decide))
    | with_reducible apply p_foldl
    | split
    | (with_reducible refine p_fst (by assumption) ?_)
    | with_reducible apply id_only (hc.sub (by decide)))

theorem ackWrite_only {P : State → Prop} (hc : ClosedOn P [.ward, .out]) (s : State) (v : View) (part : Part) (data : W64) (hs0 : P s) :
    P (ackWrite s v part data) := by
  unfold ackWrite
  repeat' (first
    | with_reducible assumption
    | (with_reducible refine fun _ => ?_)
    | ((try lift_lets); with_reducible intro x; first
        | (refine (fun (hx : P x) => ?_) ?_; on_goal 2 => (try unfold x); on_goal 1 => clear_value x)
        | clear_value x)
    | with_reducible apply p_ite
    | with_reducible apply auditRole_only (hc.sub (by decide))
    | with_reducible apply denyWrite_only (hc.sub (by decide))
    | with_reducible apply setResult_only (hc.sub (by decide))
    | with_reducible apply ackDo_only (hc.sub (by decide))
    | split
    | (with_reducible refine p_fst (by assumption) ?_))

theorem reg64_only {P : State → Prop} (hc : ClosedOn P [.time, .sect, .ownRefused, .rings, .cmds, .recs, .tiers, .links, .lctlPhys, .lctlEnable, .lctlRefused, .hif, .ward, .trace, .out]) (off : Nat) : Keeps64 P (reg64 off) := by
  refine keeps64_first _ (fun o ho => ?_)
  rcases List.mem_append.1 ho with ho | ho
  · simp only [List.mem_cons, List.not_mem_nil, or_false] at ho
    rcases ho with rfl | rfl | rfl | rfl | rfl | rfl | rfl | rfl | rfl | rfl | rfl | rfl | rfl | rfl
    · exact keeps64_ring hc off
    · exact keeps64_trace hc off
    · exact keeps64_map _ _ (fun k s v p d h => hifDir_only (hc.sub (by decide)) _ _ _ _ _ h)
    · exact keeps64_map _ _ (fun k s v p d h => mrgnWrite_only (hc.sub (by decide)) _ _ _ _ _ _ h)
    · exact keeps64_map _ _ (fun k s v p d h => fabLctl_only (hc.sub (by decide)) _ _ _ _ h)
    · exact keeps64_map _ _ (fun k s v p d h => timeCtrl_only (hc.sub (by decide)) _ _ _ _ h)
    · exact keeps64_map _ _ (fun k s v p d h => clearLockChg_only (hc.sub (by decide)) _ _ _ h)
    · exact keeps64_map _ _ (fun k s v p d h => bellEpochPart_only (hc.sub (by decide)) _ _ _ _ h)
    · exact keeps64_map _ _ (fun k s v p d h => bellPeriodPart_only (hc.sub (by decide)) _ _ _ _ h)
    · exact keeps64_map _ _ (fun k s v p d h => errCardWrite_only (hc.sub (by decide)) _ _ _ h)
    · exact keeps64_map _ _ (fun k s v p d h => validWrite_only (hc.sub (by decide)) _ _ _ _ _ h)
    · exact keeps64_map _ _ (fun k s v p d h => owncmd_only (hc.sub (by decide)) _ _ _ _ h)
    · exact keeps64_map _ _ (fun k s v p d h => wmbSig_only (hc.sub (by decide)) _ _ _ _ _ h)
    · exact keeps64_map _ _ (fun k s v p d h => ackWrite_only (hc.sub (by decide)) _ _ _ _ h)
  · obtain ⟨e, -, rfl⟩ := List.mem_map.1 ho
    exact keeps64_map _ _ (fun k s v p d h => validWrite_only (hc.sub (by decide)) _ _ _ _ _ h)

theorem auditCard_only {P : State → Prop} (hc : ClosedOn P [.ward, .out]) (s : State) (role channel action result : Nat) (kid : W64) (go : State → State) (hs0 : P s) (hgo : ∀ (s : State), P s → P (go s)) :
    P (auditCard s role channel action result kid go) := by
  unfold auditCard
  repeat' (first
    | with_reducible assumption
    | (with_reducible refine fun _ => ?_)
    | ((try lift_lets); with_reducible intro x; first
        | (refine (fun (hx : P x) => ?_) ?_; on_goal 2 => (try unfold x); on_goal 1 => clear_value x)
        | clear_value x)
    | with_reducible apply p_ite
    | with_reducible apply hgo
    | with_reducible apply auditRole_only (hc.sub (by decide))
    | with_reducible apply p_foldl
    | split
    | (with_reducible refine p_fst (by assumption) ?_)
    | with_reducible apply id_only (hc.sub (by decide)))

theorem mailboxDrain_only {P : State → Prop} (hc : ClosedOn P [.ward, .out]) (s : State) (hs0 : P s) :
    P (mailboxDrain s) := by
  unfold mailboxDrain
  repeat' (first
    | with_reducible assumption
    | (with_reducible refine fun _ => ?_)
    | ((try lift_lets); with_reducible intro x; first
        | (refine (fun (hx : P x) => ?_) ?_; on_goal 2 => (try unfold x); on_goal 1 => clear_value x)
        | clear_value x)
    | with_reducible apply p_ite
    | with_reducible apply setResult_only (hc.sub (by decide))
    | with_reducible apply countDenied_only (hc.sub (by decide))
    | with_reducible apply operatorDrain_only (hc.sub (by decide))
    | with_reducible apply auditCard_only (hc.sub (by decide)))

theorem mailboxReturn_only {P : State → Prop} (hc : ClosedOn P [.ward, .out]) (s : State) (hs0 : P s) :
    P (mailboxReturn s) := by
  unfold mailboxReturn
  repeat' (first
    | with_reducible assumption
    | (with_reducible refine fun _ => ?_)
    | ((try lift_lets); with_reducible intro x; first
        | (refine (fun (hx : P x) => ?_) ?_; on_goal 2 => (try unfold x); on_goal 1 => clear_value x)
        | clear_value x)
    | with_reducible apply p_ite
    | with_reducible apply setResult_only (hc.sub (by decide))
    | with_reducible apply countDenied_only (hc.sub (by decide))
    | with_reducible apply auditCard_only (hc.sub (by decide))
    | with_reducible apply returnToService_only (hc.sub (by decide))
    | split
    | (with_reducible refine p_fst (by assumption) ?_)
    | with_reducible apply id_only (hc.sub (by decide)))

theorem wmbCtl_only {P : State → Prop} (hc : ClosedOn P [.ward, .out, .fresh]) (s : State) (v : View) (data : W32)
    (hs0 : P s) :
    P (wmbCtl s v data) := by
  unfold wmbCtl
  repeat' (first
    | with_reducible assumption
    | (with_reducible refine fun _ => ?_)
    | ((try lift_lets); with_reducible intro x; clear_value x)
    | with_reducible apply p_ite
    | with_reducible apply mailbox_only (hc.sub (by decide))
    | with_reducible apply challenge_only (hc.sub (by decide))
    | with_reducible apply submit_only (hc.sub (by decide))
    | with_reducible apply closeByRole_only (hc.sub (by decide))
    | with_reducible apply mailboxDrain_only (hc.sub (by decide))
    | with_reducible apply mailboxReturn_only (hc.sub (by decide)))

theorem dirFree_only {P : State → Prop} (hc : ClosedOn P [.sect, .tiers, .hif, .ward, .out]) (s : State) (e : DirEntry) (hs0 : P s) :
    P (dirFree s e) := by
  unfold dirFree
  repeat' (first
    | with_reducible assumption
    | (with_reducible refine fun _ => ?_)
    | ((try lift_lets); with_reducible intro x; first
        | (refine (fun (hx : P x) => ?_) ?_; on_goal 2 => (try unfold x); on_goal 1 => clear_value x)
        | clear_value x)
    | with_reducible apply p_ite
    | with_reducible apply dirDrop_only (hc.sub (by decide))
    | with_reducible apply grantAll_only (hc.sub (by decide))
    | with_reducible apply p_foldl
    | split
    | (with_reducible refine p_fst (by assumption) ?_)
    | with_reducible apply id_only (hc.sub (by decide)))

theorem dirWrite_only {P : State → Prop} (hc : ClosedOn P [.sect, .tiers, .hif, .ward, .out]) (s : State) (line : Nat) (m : Meta) (hs0 : P s) :
    P (dirWrite s line m) := by
  unfold dirWrite
  repeat' (first
    | with_reducible assumption
    | (with_reducible refine fun _ => ?_)
    | ((try lift_lets); with_reducible intro x; first
        | (refine (fun (hx : P x) => ?_) ?_; on_goal 2 => (try unfold x); on_goal 1 => clear_value x)
        | clear_value x)
    | with_reducible apply p_ite
    | with_reducible apply dirMod_only (hc.sub (by decide))
    | with_reducible apply dirFree_only (hc.sub (by decide))
    | split
    | (with_reducible refine p_fst (by assumption) ?_))

theorem windowWrite_only {P : State → Prop} (hc : ClosedOn P [.sect, .tiers, .hif, .ward, .trace, .out]) (s : State)
    (hpa : W64) (m : Meta) (data : BitVec 512) (enable : W64) (poison : Bool) (hs0 : P s) :
    P (windowWrite s hpa m data enable poison) := by
  unfold windowWrite
  repeat' (first
    | with_reducible assumption
    | (with_reducible refine fun _ => ?_)
    | with_reducible apply p_ite
    | with_reducible apply emit_only (hc.sub (by decide))
    | with_reducible apply dirWrite_only (hc.sub (by decide))
    | with_reducible apply refuseWindow_only (hc.sub (by decide))
    | with_reducible apply bufferWrite_only (hc.sub (by decide))
    | with_reducible apply p_foldl
    | split)

theorem readLine_only {P : State → Prop} (hc : ClosedOn P [.sect, .tiers, .hif, .ward, .out]) (s : State) (a : Nat) (m : Meta) (hs0 : P s) :
    P (readLine s a m) := by
  unfold readLine
  repeat' (first
    | with_reducible assumption
    | (with_reducible refine fun _ => ?_)
    | ((try lift_lets); with_reducible intro x; first
        | (refine (fun (hx : P x) => ?_) ?_; on_goal 2 => (try unfold x); on_goal 1 => clear_value x)
        | clear_value x)
    | with_reducible apply p_ite
    | with_reducible apply refuseWindow_only (hc.sub (by decide))
    | with_reducible apply serveRead_only (hc.sub (by decide))
    | with_reducible apply poisonData_only (hc.sub (by decide))
    | with_reducible apply cachedRead_only (hc.sub (by decide))
    | with_reducible apply p_foldl
    | split
    | (with_reducible refine p_fst (by assumption) ?_)
    | with_reducible apply id_only (hc.sub (by decide)))

theorem serveReads_only {P : State → Prop} (hc : ClosedOn P [.sect, .tiers, .hif, .ward, .out]) (s : State) (hs0 : P s) :
    P (serveReads s) := by
  unfold serveReads
  repeat' (first
    | with_reducible assumption
    | (with_reducible refine fun _ => ?_)
    | ((try lift_lets); with_reducible intro x; first
        | (refine (fun (hx : P x) => ?_) ?_; on_goal 2 => (try unfold x); on_goal 1 => clear_value x)
        | clear_value x)
    | with_reducible apply p_ite
    | with_reducible apply modHif_only (hc.sub (by decide))
    | with_reducible apply readLine_only (hc.sub (by decide))
    | with_reducible apply p_foldl
    | split
    | (with_reducible refine p_fst (by assumption) ?_)
    | with_reducible apply id_only (hc.sub (by decide)))

theorem sleepCluster_only {P : State → Prop} (hc : ClosedOn P [.power]) (s : State) (c : Nat) (hs0 : P s) :
    P (sleepCluster s c) := by
  unfold sleepCluster
  repeat' (first
    | with_reducible assumption
    | (with_reducible refine fun _ => ?_)
    | ((try lift_lets); with_reducible intro x; first
        | (refine (fun (hx : P x) => ?_) ?_; on_goal 2 => (try unfold x); on_goal 1 => clear_value x)
        | clear_value x)
    | with_reducible apply p_ite
    | with_reducible apply modPower_only (hc.sub (by decide))
    | with_reducible apply setDomain_only (hc.sub (by decide))
    | with_reducible apply p_foldl
    | split
    | (with_reducible refine p_fst (by assumption) ?_)
    | with_reducible apply id_only (hc.sub (by decide)))

theorem leaveCluster_only {P : State → Prop} (hc : ClosedOn P [.cores, .store, .slate, .acc, .ward, .power, .trace, .out]) (t : Sec) (s : State) (c : Nat) (hs0 : P s) :
    P (leaveCluster t s c) := by
  unfold leaveCluster
  repeat' (first
    | with_reducible assumption
    | (with_reducible refine fun _ => ?_)
    | ((try lift_lets); with_reducible intro x; first
        | (refine (fun (hx : P x) => ?_) ?_; on_goal 2 => (try unfold x); on_goal 1 => clear_value x)
        | clear_value x)
    | with_reducible apply p_ite
    | with_reducible apply modTrace_only (hc.sub (by decide))
    | with_reducible apply modPower_only (hc.sub (by decide))
    | with_reducible apply auditDevice_only (hc.sub (by decide))
    | with_reducible apply sleepCluster_only (hc.sub (by decide))
    | with_reducible apply zeroCluster_only (hc.sub (by decide))
    | split
    | (with_reducible refine p_fst (by assumption) ?_))

theorem setClusters_only {P : State → Prop} (hc : ClosedOn P [.sect, .cores, .store, .slate, .acc, .ward, .power, .trace, .out]) (s : State) (t : Sec) (want : W16) (hs0 : P s) :
    P (setClusters s t want) := by
  unfold setClusters
  repeat' (first
    | with_reducible assumption
    | (with_reducible refine fun _ => ?_)
    | ((try lift_lets); with_reducible intro x; first
        | (refine (fun (hx : P x) => ?_) ?_; on_goal 2 => (try unfold x); on_goal 1 => clear_value x)
        | clear_value x)
    | with_reducible apply p_ite
    | with_reducible apply modSect_only (hc.sub (by decide))
    | with_reducible apply requestWake_only (hc.sub (by decide))
    | with_reducible apply leaveCluster_only (hc.sub (by decide))
    | with_reducible apply p_foldl)

theorem releaseSection_only {P : State → Prop}
    (hc : ClosedOn P [.sect, .slots, .nflag, .rings, .steps, .loadPages, .cores, .store, .slate, .commons, .acc, .colls, .tiers, .hif, .ward, .power, .trace, .out]) (s : State) (t : Sec) (hs0 : P s) :
    P (releaseSection s t) := by
  unfold releaseSection
  repeat' (first
    | with_reducible assumption
    | (with_reducible refine fun _ => ?_)
    | ((try lift_lets); with_reducible intro x; first
        | (refine (fun (hx : P x) => ?_) ?_; on_goal 2 => (try unfold x); on_goal 1 => clear_value x)
        | clear_value x)
    | with_reducible apply p_ite
    | with_reducible apply clearPages_only (hc.sub (by decide))
    | with_reducible apply leaveCluster_only (hc.sub (by decide))
    | with_reducible apply leaveSlice_only (hc.sub (by decide))
    | with_reducible apply resetSection_only (hc.sub (by decide))
    | with_reducible apply idleSlots_only (hc.sub (by decide))
    | with_reducible apply startFill_only (hc.sub (by decide))
    | with_reducible apply dropDirectory_only (hc.sub (by decide))
    | with_reducible apply auditDevice_only (hc.sub (by decide))
    | with_reducible apply p_foldl
    | split
    | (with_reducible refine p_fst (by assumption) ?_)
    | (with_reducible refine upd_sect hc (by decide) _ ?_))

theorem sectCtl_only {P : State → Prop} (hc : ClosedOn P [.sect, .slots, .nflag, .rings, .steps, .loadPages, .cores, .store, .slate, .commons, .acc, .colls, .tiers, .hif, .ward, .power, .trace, .out]) (s : State) (v : View) (t : Sec) (data : W32) (hs0 : P s) :
    P (sectCtl s v t data) := by
  unfold sectCtl
  repeat' (first
    | with_reducible assumption
    | (with_reducible refine fun _ => ?_)
    | ((try lift_lets); with_reducible intro x; first
        | (refine (fun (hx : P x) => ?_) ?_; on_goal 2 => (try unfold x); on_goal 1 => clear_value x)
        | clear_value x)
    | with_reducible apply p_ite
    | with_reducible apply installerWrite_only (hc.sub (by decide))
    | with_reducible apply refuseCtl_only (hc.sub (by decide))
    | with_reducible apply setClusters_only (hc.sub (by decide))
    | with_reducible apply releaseSection_only (hc.sub (by decide)))

theorem reg32_only {P : State → Prop} (hc : ClosedOn P [.sect, .slots, .nflag, .rings, .steps, .loadPages, .cores, .store, .slate, .commons, .acc, .colls, .tiers, .links, .headers, .hif, .ward, .power, .trace, .out, .fresh]) (off : Nat) : Keeps32 P (reg32 off) := by
  refine keeps32_first _ (fun o ho => ?_)
  simp only [List.mem_cons, List.not_mem_nil, or_false] at ho
  rcases ho with rfl | rfl | rfl | rfl | rfl | rfl | rfl | rfl | rfl | rfl | rfl | rfl | rfl | rfl
  · exact keeps32_map _ _ (fun k s v d h => winctl_only (hc.sub (by decide)) _ _ _ _ h)
  · intro f hf
    split at hf
    · cases hf; exact fun s v d h => ringCfg_only (hc.sub (by decide)) _ _ _ _ h
    · cases hf
  · exact keeps32_map _ _ (fun k s v d h => clearLinkChg_only (hc.sub (by decide)) _ _ _ _ h)
  · exact keeps32_map _ _ (fun k s v d h => rccfg_only (hc.sub (by decide)) _ _ _ _ h)
  · intro f hf
    split at hf
    · cases hf; exact fun s v d h => clearNflag_only (hc.sub (by decide)) _ _ _ _ _ h
    · cases hf
  · exact keeps32_map _ _ (fun k s v d h => validWrite_only (hc.sub (by decide)) _ _ _ _ _ h)
  · exact keeps32_map _ _ (fun k s v d h => mdoze_only (hc.sub (by decide)) _ _ _ h)
  · exact keeps32_map _ _ (fun k s v d h => hdrWrite_only (hc.sub (by decide)) _ _ _ h)
  · exact keeps32_map _ _ (fun k s v d h => cdoze_only (hc.sub (by decide)) _ _ _ _ h)
  · exact keeps32_map _ _ (fun k s v d h => sectCtl_only (hc.sub (by decide)) _ _ _ _ h)
  · exact keeps32_map _ _ (fun k s v d h => sectCommons_only (hc.sub (by decide)) _ _ _ _ h)
  · exact keeps32_map _ _ (fun k s v d h => sectRole_only (hc.sub (by decide)) _ _ _ _ h)
  · exact keeps32_map _ _ (fun k s v d h => wmbCtl_only (hc.sub (by decide)) _ _ _ h)
  · exact keeps32_map _ _ (fun k s v d h => wmbStatus_only (hc.sub (by decide)) _ _ _ h)

theorem write4_only {P : State → Prop} (hc : ClosedOn P [.time, .sect, .slots, .ownRefused, .nflag, .rings, .cmds, .recs, .steps, .loadPages, .cores, .store, .slate, .commons, .acc, .colls, .tiers, .links, .lctlPhys, .lctlEnable, .lctlRefused, .headers, .hif, .ward, .power, .trace, .out, .fresh]) (s : State) (v : View) (off : Nat) (data : W32) (h : P s) :
    P (write4 s v off data) := by
  unfold write4
  split
  · exact reg32_only (hc.sub (by decide)) _ _ (by assumption) _ _ _ h
  · split
    · exact reg64_only (hc.sub (by decide)) _ _ (by assumption) _ _ _ _ h
    · split
      · split
        · exact reg64_only (hc.sub (by decide)) _ _ (by assumption) _ _ _ _ h
        · exact h
      · exact h

theorem write8_only {P : State → Prop} (hc : ClosedOn P [.time, .sect, .slots, .ownRefused, .nflag, .rings, .cmds, .recs, .steps, .loadPages, .cores, .store, .slate, .commons, .acc, .colls, .tiers, .links, .lctlPhys, .lctlEnable, .lctlRefused, .headers, .hif, .ward, .power, .trace, .out, .fresh]) (s : State) (v : View) (off : Nat) (data : W64) (h : P s) :
    P (write8 s v off data) := by
  unfold write8
  split
  · exact reg64_only (hc.sub (by decide)) _ _ (by assumption) _ _ _ _ h
  · exact write4_only (hc.sub (by decide)) _ _ _ _ (write4_only (hc.sub (by decide)) _ _ _ _ h)

theorem viewWrite_only {P : State → Prop}
    (hc : ClosedOn P [.time, .sect, .slots, .slotRefused, .ownRefused, .nflag, .rings, .cmds, .recs, .steps, .loadPages, .cores, .store, .slate, .commons, .acc, .colls, .tiers, .links, .lctlPhys, .lctlEnable, .lctlRefused, .headers, .hif, .ward, .power, .trace, .out, .fresh]) (s : State) (v : View) (off : Nat) (wide : Bool) (data : W64) (hs0 : P s) :
    P (viewWrite s v off wide data) := by
  unfold viewWrite
  repeat' (first
    | with_reducible assumption
    | with_reducible apply p_ite
    | with_reducible apply blkcfg_only (hc.sub (by decide))
    | with_reducible apply blkmode_only (hc.sub (by decide))
    | with_reducible apply slotWrite_only (hc.sub (by decide))
    | with_reducible apply write8_only (hc.sub (by decide))
    | with_reducible apply write4_only (hc.sub (by decide)))

theorem sleepUnassigned_only {P : State → Prop} (hc : ClosedOn P [.power]) (s : State) (hs0 : P s) :
    P (sleepUnassigned s) := by
  unfold sleepUnassigned
  repeat' (first
    | with_reducible assumption
    | (with_reducible refine fun _ => ?_)
    | ((try lift_lets); with_reducible intro x; first
        | (refine (fun (hx : P x) => ?_) ?_; on_goal 2 => (try unfold x); on_goal 1 => clear_value x)
        | clear_value x)
    | with_reducible apply p_ite
    | with_reducible apply sleepCluster_only (hc.sub (by decide))
    | with_reducible apply p_foldl
    | split
    | (with_reducible refine p_fst (by assumption) ?_)
    | with_reducible apply id_only (hc.sub (by decide)))

theorem slotZeroWork_only {P : State → Prop} (hc : ClosedOn P [.sect, .slots, .nflag, .rings, .cmds, .recs, .steps, .images, .loadPages, .store, .colls, .tiers, .hif, .ward, .power, .trace, .out]) (s : State) (hs0 : P s) :
    P (slotZeroWork s) := by
  unfold slotZeroWork
  repeat' (first
    | with_reducible assumption
    | (with_reducible refine fun _ => ?_)
    | ((try lift_lets); with_reducible intro x; first
        | (refine (fun (hx : P x) => ?_) ?_; on_goal 2 => (try unfold x); on_goal 1 => clear_value x)
        | clear_value x)
    | with_reducible apply p_ite
    | with_reducible apply finishInline_only (hc.sub (by decide))
    | with_reducible apply resumeLoads_only (hc.sub (by decide))
    | with_reducible apply serveReads_only (hc.sub (by decide))
    | with_reducible apply p_foldl
    | split
    | (with_reducible refine p_fst (by assumption) ?_)
    | with_reducible apply id_only (hc.sub (by decide)))

end Sys2Proof.Machine
end

