-- ==== Sys2Proof/Laws/Kept.lean ====
section
/-!
SUPPORT. Two properties that the lemmas of the Only files are used with: a frame, and what every operation keeps (the queue,
the core map, and the canonical form of the memories).
-/
namespace Sys2Proof.Machine

/-- What no operation changes: the queue and the core map; and memories in canonical form stay so. -/
def Kept (s t : State) : Prop :=
  t.pending = s.pending ∧ t.id.cmap = s.id.cmap ∧ (memoriesOk s = true → memoriesOk t = true)

theorem Kept.refl (s : State) : Kept s s := ⟨rfl, rfl, fun h => h⟩

theorem Frame.refl (L : List Piece) (s : State) : Frame L s s := ⟨rfl, fun p _ => by cases p <;> rfl⟩

/-- A frame allows every larger list of pieces. -/
theorem Frame.mono {L M : List Piece} {s t : State} (h : Frame L s t) (hs : L ⊆ M) : Frame M s t :=
  ⟨h.1, fun p hp => h.2 p (fun hl => hp (hs hl))⟩

theorem memoriesOk_iff (s : State) :
    memoriesOk s = true ↔ swf 0 s.tiers.mem = true ∧ swf 0 s.slate = true ∧ swf 0 s.commons = true := by
  simp [memoriesOk, Memory.wf, and_assoc]

theorem closedOn_kept (s : State) (L : List Piece) : ClosedOn (Kept s) L := by
  intro p _
  cases p
  case id => exact fun u v h hv => ⟨h.1, hv.trans h.2.1, h.2.2⟩
  case tiers =>
    intro u v h hv
    refine ⟨h.1, h.2.1, fun hs => ?_⟩
    have hu := (memoriesOk_iff u).1 (h.2.2 hs)
    exact (memoriesOk_iff _).2 ⟨hv hu.1, hu.2.1, hu.2.2⟩
  case slate =>
    intro u v h hv
    refine ⟨h.1, h.2.1, fun hs => ?_⟩
    have hu := (memoriesOk_iff u).1 (h.2.2 hs)
    exact (memoriesOk_iff _).2 ⟨hu.1, hv hu.2.1, hu.2.2⟩
  case commons =>
    intro u v h hv
    refine ⟨h.1, h.2.1, fun hs => ?_⟩
    have hu := (memoriesOk_iff u).1 (h.2.2 hs)
    exact (memoriesOk_iff _).2 ⟨hu.1, hu.2.1, hv hu.2.2⟩
  all_goals exact fun u v h => ⟨h.1, h.2.1, h.2.2⟩

theorem closedOn_frame (L : List Piece) (s : State) : ClosedOn (Frame L s) L := by
  intro p hp
  cases p
  all_goals
    intro u v h
    first
      | (intro hv; refine ⟨h.1, fun q hq => ?_⟩; have hh := h.2 q hq; cases q <;> first | exact hh | exact absurd hp hq)
      | (refine ⟨h.1, fun q hq => ?_⟩; have hh := h.2 q hq; cases q <;> first | exact hh | exact absurd hp hq)

end Sys2Proof.Machine
end

