-- ==== Sys2Proof/Laws/OnlyE.lean ====
section
/-!
SUPPORT. What each command can change.
-/
namespace Sys2Proof.Machine

theorem execNop_only {P : State → Prop} (hc : ClosedOn P [.rings, .cmds, .recs, .steps, .colls, .trace, .out, .seq])
    (p : Pair) (d : Desc) (s : State) (hs0 : P s) :
    ∃ y, execNop p d s = .next y ∧ P y := by
  refine ⟨_, rfl, ?_⟩
  repeat' (first
    | with_reducible assumption
    | (with_reducible refine fun _ => ?_)
    | with_reducible apply withRead_only (hc.sub (by decide))
    | with_reducible apply withStep_only (hc.sub (by decide))
    | with_reducible apply completeRead_only (hc.sub (by decide)))

theorem execReservedOpcode_only {P : State → Prop}
    (hc : ClosedOn P [.rings, .cmds, .recs, .steps, .colls, .trace, .out, .seq]) (p : Pair) (op : BitVec 8) (d : Desc) (s : State) (hs0 : P s) :
    ∃ y, execReservedOpcode p op d s = .next y ∧ P y := by
  refine ⟨_, rfl, ?_⟩
  repeat' (first
    | with_reducible assumption
    | (with_reducible refine fun _ => ?_)
    | with_reducible apply p_ite
    | with_reducible apply withRead_only (hc.sub (by decide))
    | with_reducible apply begin_only (hc.sub (by decide)))

theorem execSeed_only {P : State → Prop} (hc : ClosedOn P [.rings, .cmds, .recs, .steps, .colls, .trace, .out, .seq])
    (p : Pair) (d : Desc) (s : State) (hs0 : P s) :
    ∃ y, execSeed p d s = .next y ∧ P y := by
  refine ⟨_, rfl, ?_⟩
  repeat' (first
    | with_reducible assumption
    | (with_reducible refine fun _ => ?_)
    | ((try lift_lets); with_reducible intro x; clear_value x)
    | with_reducible apply p_ite
    | with_reducible apply withRead_only (hc.sub (by decide))
    | with_reducible apply completeRead_only (hc.sub (by decide))
    | with_reducible apply modSteps_only (hc.sub (by decide)))

theorem execQueryStep_only {P : State → Prop}
    (hc : ClosedOn P [.rings, .cmds, .recs, .steps, .colls, .trace, .out, .seq]) (p : Pair) (d : Desc) (s : State) (hs0 : P s) :
    ∃ y, execQueryStep p d s = .next y ∧ P y := by
  refine ⟨_, rfl, ?_⟩
  repeat' (first
    | with_reducible assumption
    | with_reducible apply query_only (hc.sub (by decide)))

theorem execQueryPage_only {P : State → Prop}
    (hc : ClosedOn P [.rings, .cmds, .recs, .steps, .colls, .trace, .out, .seq]) (p : Pair) (d : Desc) (s : State) (hs0 : P s) :
    ∃ y, execQueryPage p d s = .next y ∧ P y := by
  refine ⟨_, rfl, ?_⟩
  repeat' (first
    | with_reducible assumption
    | with_reducible apply query_only (hc.sub (by decide)))

theorem execQueryLoad_only {P : State → Prop}
    (hc : ClosedOn P [.rings, .cmds, .recs, .steps, .colls, .trace, .out, .seq]) (p : Pair) (d : Desc) (s : State) (hs0 : P s) :
    ∃ y, execQueryLoad p d s = .next y ∧ P y := by
  refine ⟨_, rfl, ?_⟩
  repeat' (first
    | with_reducible assumption
    | with_reducible apply query_only (hc.sub (by decide)))

theorem execTimeMark_only {P : State → Prop}
    (hc : ClosedOn P [.rings, .cmds, .recs, .steps, .colls, .trace, .out, .seq]) (p : Pair) (d : Desc) (s : State) (hs0 : P s) :
    ∃ y, execTimeMark p d s = .next y ∧ P y := by
  refine ⟨_, rfl, ?_⟩
  repeat' (first
    | with_reducible assumption
    | (with_reducible refine fun _ => ?_)
    | ((try lift_lets); with_reducible intro x; clear_value x)
    | with_reducible apply p_ite
    | with_reducible apply withRead_only (hc.sub (by decide))
    | with_reducible apply finishMark_only (hc.sub (by decide))
    | with_reducible apply takeIn_only (hc.sub (by decide))
    | with_reducible apply completeRead_only (hc.sub (by decide)))

theorem execTimeMarkAtFrame_only {P : State → Prop}
    (hc : ClosedOn P [.rings, .cmds, .recs, .steps, .colls, .trace, .out]) (t : Sec) (s : State) (hs0 : P s) :
    ∃ y, execTimeMarkAtFrame t s = .next y ∧ P y := by
  refine ⟨_, rfl, ?_⟩
  repeat' (first
    | with_reducible assumption
    | (with_reducible refine fun _ => ?_)
    | with_reducible apply p_ite
    | with_reducible apply begin_only (hc.sub (by decide))
    | with_reducible apply finishMark_only (hc.sub (by decide))
    | with_reducible apply complete_only (hc.sub (by decide))
    | with_reducible apply p_foldl
    | split)

theorem execInlineWrite_only {P : State → Prop} (hc : ClosedOn P [.rings, .cmds, .recs, .steps, .colls, .tiers, .ward, .trace, .out, .seq]) (p : Pair) (d : Desc) (s : State) (hs0 : P s) :
    ∃ y, execInlineWrite p d s = .next y ∧ P y := by
  refine ⟨_, rfl, ?_⟩
  repeat' (first
    | with_reducible assumption
    | (with_reducible refine fun _ => ?_)
    | ((try lift_lets); with_reducible intro x; first
        | (refine (fun (hx : P x) => ?_) ?_; on_goal 2 => (try unfold x); on_goal 1 => clear_value x)
        | clear_value x)
    | with_reducible apply p_ite
    | with_reducible apply complete_only (hc.sub (by decide))
    | with_reducible apply completeRead_only (hc.sub (by decide))
    | with_reducible apply withRead_only (hc.sub (by decide))
    | with_reducible apply takeIn_only (hc.sub (by decide))
    | with_reducible apply hold_only (hc.sub (by decide))
    | with_reducible apply hostApply_only (hc.sub (by decide))
    | split
    | (with_reducible refine p_fst (by assumption) ?_))

theorem execFence_only {P : State → Prop} (hc : ClosedOn P [.rings, .cmds, .recs, .steps, .colls, .trace, .out, .seq])
    (p : Pair) (d : Desc) (s : State) (hs0 : P s) :
    ∃ y, execFence p d s = .next y ∧ P y := by
  refine ⟨_, rfl, ?_⟩
  repeat' (first
    | with_reducible assumption
    | (with_reducible refine fun _ => ?_)
    | ((try lift_lets); with_reducible intro x; first
        | (refine (fun (hx : P x) => ?_) ?_; on_goal 2 => (try unfold x); on_goal 1 => clear_value x)
        | clear_value x)
    | with_reducible apply withRead_only (hc.sub (by decide))
    | with_reducible apply takeIn_only (hc.sub (by decide))
    | with_reducible apply hold_only (hc.sub (by decide))
    | with_reducible apply modTrace_only (hc.sub (by decide)))

theorem execFenceCompletion_only {P : State → Prop}
    (hc : ClosedOn P [.rings, .cmds, .recs, .steps, .colls, .trace, .out]) (p : Pair) (s : State) (hs0 : P s) :
    ∃ y, execFenceCompletion p s = .next y ∧ P y := by
  refine ⟨_, rfl, ?_⟩
  repeat' (first
    | with_reducible assumption
    | (with_reducible refine fun _ => ?_)
    | with_reducible apply begin_only (hc.sub (by decide))
    | with_reducible apply complete_only (hc.sub (by decide))
    | with_reducible apply writeDigest_only (hc.sub (by decide))
    | with_reducible apply p_foldl
    | split)

theorem execDrain_only {P : State → Prop}
    (hc : ClosedOn P [.sect, .rings, .cmds, .recs, .steps, .colls, .tiers, .links, .ward, .trace, .out, .fresh, .seq]) (p : Pair) (d : Desc) (s : State) (hs0 : P s) :
    ∃ y, execDrain p d s = .next y ∧ P y := by
  refine ⟨_, rfl, ?_⟩
  repeat' (first
    | with_reducible assumption
    | (with_reducible refine fun _ => ?_)
    | ((try lift_lets); with_reducible intro x; first
        | (refine (fun (hx : P x) => ?_) ?_; on_goal 2 => (try unfold x); on_goal 1 => clear_value x)
        | clear_value x)
    | with_reducible apply p_ite
    | with_reducible apply withRead_only (hc.sub (by decide))
    | with_reducible apply hold_only (hc.sub (by decide))
    | with_reducible apply takeIn_only (hc.sub (by decide))
    | with_reducible apply finishDrains_only (hc.sub (by decide))
    | with_reducible apply drainTakes_only (hc.sub (by decide)))

theorem execDrainTakesEffect_only {P : State → Prop}
    (hc : ClosedOn P [.sect, .rings, .cmds, .recs, .steps, .colls, .tiers, .links, .ward, .trace, .out, .fresh]) (t : Sec) (s : State) (hs0 : P s) :
    ∃ y, execDrainTakesEffect t s = .next y ∧ P y := by
  refine ⟨_, rfl, ?_⟩
  repeat' (first
    | with_reducible assumption
    | with_reducible apply p_ite
    | with_reducible apply begin_only (hc.sub (by decide))
    | with_reducible apply finishDrains_only (hc.sub (by decide))
    | with_reducible apply drainTakes_only (hc.sub (by decide)))

theorem execDoorbellReread_only {P : State → Prop} (hc : ClosedOn P [.rings, .hif, .budget, .out]) (p : Pair) (sqTail cqHead : W32) (s : State) (hs0 : P s) :
    ∃ y, execDoorbellReread p sqTail cqHead s = .next y ∧ P y := by
  refine ⟨_, rfl, ?_⟩
  repeat' (first
    | with_reducible assumption
    | (with_reducible refine fun _ => ?_)
    | ((try lift_lets); with_reducible intro x; first
        | (refine (fun (hx : P x) => ?_) ?_; on_goal 2 => (try unfold x); on_goal 1 => clear_value x)
        | clear_value x)
    | with_reducible apply p_ite
    | with_reducible apply modRing_only (hc.sub (by decide))
    | with_reducible apply emit_only (hc.sub (by decide))
    | with_reducible apply begin_only (hc.sub (by decide))
    | with_reducible apply makeRoom_only (hc.sub (by decide))
    | with_reducible apply putLine_only (hc.sub (by decide))
    | with_reducible apply noteReread_only (hc.sub (by decide))
    | split
    | (with_reducible refine p_fst (by assumption) ?_))

theorem execCompletionRecordWrite_only {P : State → Prop}
    (hc : ClosedOn P [.rings, .cmds, .recs, .steps, .colls, .links, .hif, .trace, .budget, .out, .fresh]) (t : Sec) (s : State) (hs0 : P s) :
    ∃ y, execCompletionRecordWrite t s = .next y ∧ P y := by
  refine ⟨_, rfl, ?_⟩
  repeat' (first
    | with_reducible assumption
    | ((try lift_lets); with_reducible intro x; clear_value x)
    | with_reducible apply p_ite
    | with_reducible apply begin_only (hc.sub (by decide))
    | with_reducible apply sendIrqs_only (hc.sub (by decide))
    | with_reducible apply evictWritten_only (hc.sub (by decide))
    | with_reducible apply finishDrains_only (hc.sub (by decide))
    | with_reducible apply writeRecords_only (hc.sub (by decide)))

theorem execMsixUnmask_only {P : State → Prop} (hc : ClosedOn P [.rings, .out]) (p : Pair) (s : State) (hs0 : P s) :
    ∃ y, execMsixUnmask p s = .next y ∧ P y := by
  refine ⟨_, rfl, ?_⟩
  repeat' (first
    | with_reducible assumption
    | with_reducible apply p_ite
    | with_reducible apply begin_only (hc.sub (by decide))
    | with_reducible apply modRing_only (hc.sub (by decide))
    | with_reducible apply emit_only (hc.sub (by decide)))

theorem execLoadImage_only {P : State → Prop}
    (hc : ClosedOn P [.sect, .slots, .nflag, .rings, .cmds, .recs, .steps, .images, .loadPages, .store, .colls, .power, .trace, .out, .seq]) (p : Pair) (d : Desc) (s : State) (hs0 : P s) :
    ∃ y, execLoadImage p d s = .next y ∧ P y := by
  refine ⟨_, rfl, ?_⟩
  repeat' (first
    | with_reducible assumption
    | with_reducible apply load_only (hc.sub (by decide)))

theorem execUnloadImage_only {P : State → Prop}
    (hc : ClosedOn P [.sect, .slots, .nflag, .rings, .cmds, .recs, .steps, .images, .loadPages, .store, .colls, .power, .trace, .out, .seq]) (p : Pair) (d : Desc) (s : State) (hs0 : P s) :
    ∃ y, execUnloadImage p d s = .next y ∧ P y := by
  refine ⟨_, rfl, ?_⟩
  repeat' (first
    | with_reducible assumption
    | with_reducible apply load_only (hc.sub (by decide)))

theorem execRun_only {P : State → Prop}
    (hc : ClosedOn P [.sect, .rings, .cmds, .recs, .steps, .colls, .tiers, .hif, .ward, .power, .trace, .out, .seq]) (p : Pair) (d : Desc) (s : State) (hs0 : P s) :
    ∃ y, execRun p d s = .next y ∧ P y := by
  refine ⟨_, rfl, ?_⟩
  repeat' (first
    | with_reducible assumption
    | with_reducible apply readRun_only (hc.sub (by decide)))

theorem execRepeatRun_only {P : State → Prop}
    (hc : ClosedOn P [.sect, .rings, .cmds, .recs, .steps, .colls, .tiers, .hif, .ward, .power, .trace, .out, .seq]) (p : Pair) (d : Desc) (s : State) (hs0 : P s) :
    ∃ y, execRepeatRun p d s = .next y ∧ P y := by
  refine ⟨_, rfl, ?_⟩
  repeat' (first
    | with_reducible assumption
    | with_reducible apply readRun_only (hc.sub (by decide)))

theorem execRunStart_only {P : State → Prop} (hc : ClosedOn P [.rings, .cmds, .recs, .steps, .cores, .acc, .colls, .trace, .out]) (t : Sec) (s : State) (hs0 : P s) :
    ∃ y, execRunStart t s = .next y ∧ P y := by
  have h0 := begin_only (hc.sub (by decide)) s hs0
  refine ⟨_, rfl, ?_⟩
  split
  · refine p_ite _ _ _ (complete_only (hc.sub (by decide)) _ _ _ _ _ _ h0) ?_
    exact traceRec_only (hc.sub (by decide)) _ _ _ _ _ _ _ (modRun_only (hc.sub (by decide)) _ _ _ _
      (p_foldl _ _ h0 (fun s q h => modCore_only (hc.sub (by decide)) _ _ _
        (p_ite _ _ _ h (clearAcc_only (hc.sub (by decide)) _ _ h)))))
  · exact h0

theorem execRunCompletion_only {P : State → Prop}
    (hc : ClosedOn P [.rings, .cmds, .recs, .steps, .cores, .colls, .tiers, .ward, .trace, .out]) (t : Sec) (s : State) (hs0 : P s) :
    ∃ y, execRunCompletion t s = .next y ∧ P y := by
  refine ⟨_, rfl, ?_⟩
  repeat' (first
    | with_reducible assumption
    | (with_reducible refine fun _ => ?_)
    | ((try lift_lets); with_reducible intro x; clear_value x)
    | with_reducible apply p_ite
    | with_reducible apply begin_only (hc.sub (by decide))
    | with_reducible apply endRun_only (hc.sub (by decide))
    | with_reducible apply p_foldl
    | split)

theorem execGrove_only {P : State → Prop}
    (hc : ClosedOn P [.sect, .rings, .cmds, .recs, .steps, .colls, .tiers, .hif, .ward, .trace, .out, .seq]) (p : Pair) (d : Desc) (s : State) (hs0 : P s) :
    ∃ y, execGrove p d s = .next y ∧ P y := by
  refine ⟨_, rfl, ?_⟩
  repeat' (first
    | with_reducible assumption
    | (with_reducible refine fun _ => ?_)
    | with_reducible apply p_ite
    | with_reducible apply withRead_only (hc.sub (by decide))
    | with_reducible apply groveRead_only (hc.sub (by decide))
    | with_reducible apply withStep_only (hc.sub (by decide)))

theorem execGroveStart_only {P : State → Prop} (hc : ClosedOn P [.nflag, .rings, .cmds, .recs, .steps, .colls, .trace, .out]) (t : Sec) (s : State) (hs0 : P s) :
    ∃ y, execGroveStart t s = .next y ∧ P y := by
  refine ⟨_, rfl, ?_⟩
  repeat' (first
    | with_reducible assumption
    | (with_reducible refine fun _ => ?_)
    | ((try lift_lets); with_reducible intro x; first
        | (refine (fun (hx : P x) => ?_) ?_; on_goal 2 => (try unfold x); on_goal 1 => clear_value x)
        | clear_value x)
    | with_reducible apply p_ite
    | with_reducible apply begin_only (hc.sub (by decide))
    | with_reducible apply traceRec_only (hc.sub (by decide))
    | with_reducible apply complete_only (hc.sub (by decide))
    | with_reducible apply modGrove_only (hc.sub (by decide))
    | with_reducible apply delayGrove_only (hc.sub (by decide))
    | with_reducible apply groveFlush_only (hc.sub (by decide))
    | split
    | (with_reducible refine p_fst (by assumption) ?_)
    | with_reducible apply id_only (hc.sub (by decide)))

theorem execGroveCompletion_only {P : State → Prop}
    (hc : ClosedOn P [.nflag, .rings, .cmds, .recs, .steps, .colls, .tiers, .ward, .trace, .out]) (t : Sec) (s : State) (hs0 : P s) :
    ∃ y, execGroveCompletion t s = .next y ∧ P y := by
  refine ⟨_, rfl, ?_⟩
  repeat' (first
    | with_reducible assumption
    | (with_reducible refine fun _ => ?_)
    | ((try lift_lets); with_reducible intro x; first
        | (refine (fun (hx : P x) => ?_) ?_; on_goal 2 => (try unfold x); on_goal 1 => clear_value x)
        | clear_value x)
    | with_reducible apply p_ite
    | with_reducible apply begin_only (hc.sub (by decide))
    | with_reducible apply applyItem_only (hc.sub (by decide))
    | with_reducible apply scanStep_only (hc.sub (by decide))
    | with_reducible apply finishArea_only (hc.sub (by decide))
    | with_reducible apply complete_only (hc.sub (by decide))
    | with_reducible apply p_foldl
    | split)

theorem execPageSwitch_only {P : State → Prop}
    (hc : ClosedOn P [.sect, .rings, .cmds, .recs, .steps, .colls, .tiers, .hif, .ward, .trace, .out]) (page : W64) (s : State) (hs0 : P s) :
    ∃ y, execPageSwitch page s = .next y ∧ P y := by
  refine ⟨_, rfl, ?_⟩
  repeat' (first
    | with_reducible assumption
    | (with_reducible refine fun _ => ?_)
    | ((try lift_lets); with_reducible intro x; refine (fun (hx : P x) => ?_) ?_; on_goal 2 => (try unfold x); on_goal 1 => clear_value x)
    | with_reducible apply p_ite
    | with_reducible apply begin_only (hc.sub (by decide))
    | with_reducible apply countMove_only (hc.sub (by decide))
    | with_reducible apply releaseHeld_only (hc.sub (by decide))
    | with_reducible apply applyMove_only (hc.sub (by decide))
    | with_reducible apply pumpMoves_only (hc.sub (by decide))
    | with_reducible apply finishInline_only (hc.sub (by decide))
    | with_reducible apply p_foldl
    | split)

theorem execMigrate_only {P : State → Prop}
    (hc : ClosedOn P [.rings, .cmds, .recs, .steps, .colls, .tiers, .hif, .trace, .out, .seq]) (p : Pair) (d : Desc) (s : State) (hs0 : P s) :
    ∃ y, execMigrate p d s = .next y ∧ P y := by
  refine ⟨_, rfl, ?_⟩
  repeat' (first
    | with_reducible assumption
    | (with_reducible refine fun _ => ?_)
    | with_reducible apply withRead_only (hc.sub (by decide))
    | with_reducible apply migrateRead_only (hc.sub (by decide)))

theorem execPreferCanopy_only {P : State → Prop}
    (hc : ClosedOn P [.rings, .cmds, .recs, .steps, .colls, .tiers, .hif, .trace, .out, .seq]) (p : Pair) (d : Desc) (s : State) (hs0 : P s) :
    ∃ y, execPreferCanopy p d s = .next y ∧ P y := by
  refine ⟨_, rfl, ?_⟩
  repeat' (first
    | with_reducible assumption
    | with_reducible apply hint_only (hc.sub (by decide)))

theorem execPreferUnder_only {P : State → Prop}
    (hc : ClosedOn P [.rings, .cmds, .recs, .steps, .colls, .tiers, .hif, .trace, .out, .seq]) (p : Pair) (d : Desc) (s : State) (hs0 : P s) :
    ∃ y, execPreferUnder p d s = .next y ∧ P y := by
  refine ⟨_, rfl, ?_⟩
  repeat' (first
    | with_reducible assumption
    | with_reducible apply hint_only (hc.sub (by decide)))

theorem execPin_only {P : State → Prop}
    (hc : ClosedOn P [.rings, .cmds, .recs, .steps, .colls, .tiers, .hif, .trace, .out, .seq]) (p : Pair) (d : Desc) (s : State) (hs0 : P s) :
    ∃ y, execPin p d s = .next y ∧ P y := by
  refine ⟨_, rfl, ?_⟩
  repeat' (first
    | with_reducible assumption
    | with_reducible apply hint_only (hc.sub (by decide)))

theorem execUnpin_only {P : State → Prop}
    (hc : ClosedOn P [.rings, .cmds, .recs, .steps, .colls, .tiers, .hif, .trace, .out, .seq]) (p : Pair) (d : Desc) (s : State) (hs0 : P s) :
    ∃ y, execUnpin p d s = .next y ∧ P y := by
  refine ⟨_, rfl, ?_⟩
  repeat' (first
    | with_reducible assumption
    | with_reducible apply hint_only (hc.sub (by decide)))

theorem execWillneed_only {P : State → Prop}
    (hc : ClosedOn P [.rings, .cmds, .recs, .steps, .colls, .tiers, .hif, .trace, .out, .seq]) (p : Pair) (d : Desc) (s : State) (hs0 : P s) :
    ∃ y, execWillneed p d s = .next y ∧ P y := by
  refine ⟨_, rfl, ?_⟩
  repeat' (first
    | with_reducible assumption
    | with_reducible apply hint_only (hc.sub (by decide)))

theorem execCold_only {P : State → Prop}
    (hc : ClosedOn P [.rings, .cmds, .recs, .steps, .colls, .tiers, .hif, .trace, .out, .seq]) (p : Pair) (d : Desc) (s : State) (hs0 : P s) :
    ∃ y, execCold p d s = .next y ∧ P y := by
  refine ⟨_, rfl, ?_⟩
  repeat' (first
    | with_reducible assumption
    | with_reducible apply hint_only (hc.sub (by decide)))

theorem execCheckpoint_only {P : State → Prop}
    (hc : ClosedOn P [.rings, .cmds, .recs, .steps, .colls, .tiers, .hif, .trace, .out, .seq]) (p : Pair) (d : Desc) (s : State) (hs0 : P s) :
    ∃ y, execCheckpoint p d s = .next y ∧ P y := by
  refine ⟨_, rfl, ?_⟩
  repeat' (first
    | with_reducible assumption
    | (with_reducible refine fun _ => ?_)
    | ((try lift_lets); with_reducible intro x; clear_value x)
    | with_reducible apply withRead_only (hc.sub (by decide))
    | with_reducible apply completeRead_only (hc.sub (by decide))
    | (with_reducible refine makeResident_only (hc.sub (by decide)) ?_ (by assumption))
    | with_reducible apply addRecalls_only (hc.sub (by decide))
    | with_reducible apply touchPages_only (hc.sub (by decide))
    | with_reducible apply takeIn_only (hc.sub (by decide))
    | with_reducible apply p_foldl
    | split)

theorem execCheckpointCopyStart_only {P : State → Prop} (hc : ClosedOn P [.cmds, .tiers, .out]) (t : Sec) (s : State)
    (hs0 : P s) :
    ∃ y, execCheckpointCopyStart t s = .next y ∧ P y := by
  refine ⟨_, rfl, ?_⟩
  repeat' (first
    | with_reducible assumption
    | (with_reducible refine fun _ => ?_)
    | ((try lift_lets); with_reducible intro x; refine (fun (hx : P x) => ?_) ?_; on_goal 2 => (try unfold x); on_goal 1 => clear_value x)
    | with_reducible apply p_ite
    | with_reducible apply begin_only (hc.sub (by decide))
    | with_reducible apply wrDev_only (hc.sub (by decide))
    | with_reducible apply modCmd_only (hc.sub (by decide))
    | with_reducible apply p_foldl
    | split)

theorem execTrancheDigestWrite_only {P : State → Prop}
    (hc : ClosedOn P [.sect, .rings, .cmds, .recs, .steps, .colls, .tiers, .ward, .trace, .out]) (t : Sec) (s : State) (hs0 : P s) :
    ∃ y, execTrancheDigestWrite t s = .next y ∧ P y := by
  refine ⟨_, rfl, ?_⟩
  repeat' (first
    | with_reducible assumption
    | (with_reducible refine fun _ => ?_)
    | ((try lift_lets); with_reducible intro x; first
        | (refine (fun (hx : P x) => ?_) ?_; on_goal 2 => (try unfold x); on_goal 1 => clear_value x)
        | clear_value x)
    | with_reducible apply begin_only (hc.sub (by decide))
    | with_reducible apply ckptCopyAll_only (hc.sub (by decide))
    | with_reducible apply wrDev_only (hc.sub (by decide))
    | with_reducible apply complete_only (hc.sub (by decide))
    | with_reducible apply p_foldl
    | split)

theorem clearUpset_only {P : State → Prop} (hc : ClosedOn P [.tiers]) (s : State) (g : Nat) (hs0 : P s) : P (clearUpset s g) :=
  upd_tiers hc (by decide) _ hs0 rfl

theorem execPatrolScrub_only {P : State → Prop} (hc : ClosedOn P [.sect, .tiers, .ward, .out]) (granule : BitVec 40)
    (r : ScrubFind) (s : State) (hs0 : P s) :
    ∃ y, execPatrolScrub granule r s = .next y ∧ P y := by
  refine ⟨_, rfl, ?_⟩
  repeat' (first
    | with_reducible assumption
    | (with_reducible refine fun _ => ?_)
    | ((try lift_lets); with_reducible intro x; first
        | (refine (fun (hx : P x) => ?_) ?_; on_goal 2 => (try unfold x); on_goal 1 => clear_value x)
        | (refine (fun (hx : (x : Tiers) = x) => ?_) rfl; clear hx)
        | clear_value x)
    | with_reducible apply p_ite
    | with_reducible apply begin_only (hc.sub (by decide))
    | with_reducible apply logClass_only (hc.sub (by decide))
    | with_reducible apply clearUpset_only (hc.sub (by decide))
    | with_reducible apply addCe_only (hc.sub (by decide))
    | with_reducible apply poisonGranule_only (hc.sub (by decide))
    | with_reducible apply capMem_only (hc.sub (by decide))
    | with_reducible apply p_foldl
    | split
    | (with_reducible refine p_fst (by assumption) ?_)
    | (with_reducible refine upd_tiers hc (by decide) _ ?_ rfl))

theorem execMicroBatchStart_only {P : State → Prop}
    (hc : ClosedOn P [.sect, .nflag, .cmds, .cores, .colls, .tiers, .links, .ward, .trace, .out]) (t : Sec) (s : State) (hs0 : P s) :
    ∃ y, execMicroBatchStart t s = .next y ∧ P y := by
  refine ⟨_, rfl, ?_⟩
  repeat' (first
    | with_reducible assumption
    | (with_reducible refine fun _ => ?_)
    | ((try lift_lets); with_reducible intro x; first
        | (refine (fun (hx : P x) => ?_) ?_; on_goal 2 => (try unfold x); on_goal 1 => clear_value x)
        | clear_value x)
    | with_reducible apply p_ite
    | with_reducible apply begin_only (hc.sub (by decide))
    | with_reducible apply modRun_only (hc.sub (by decide))
    | with_reducible apply traceRec_only (hc.sub (by decide))
    | with_reducible apply pumpSection_only (hc.sub (by decide))
    | with_reducible apply restartCore_only (hc.sub (by decide))
    | with_reducible apply p_foldl
    | split
    | (with_reducible refine p_fst (by assumption) ?_)
    | (with_reducible refine upd_colls hc (by decide) _ ?_))

theorem execBundleIssue_only {P : State → Prop}
    (hc : ClosedOn P [.sect, .nflag, .cmds, .cores, .slate, .commons, .acc, .colls, .tiers, .links, .ward, .trace, .out]) (q : Fin 128) (s : State) (hs0 : P s) :
    ∃ y, execBundleIssue q s = .next y ∧ P y := by
  refine ⟨_, rfl, ?_⟩
  repeat' (first
    | with_reducible assumption
    | (with_reducible refine fun _ => ?_)
    | with_reducible apply begin_only (hc.sub (by decide))
    | with_reducible apply issueBundle_only (hc.sub (by decide))
    | with_reducible apply modCore_only (hc.sub (by decide))
    | with_reducible apply p_foldl
    | split)

theorem execBundleRetire_only {P : State → Prop} (hc : ClosedOn P [.cores, .slate, .commons, .tiers, .links, .out])
    (q : Fin 128) (k : Nat) (s : State) (hs0 : P s) :
    ∃ y, execBundleRetire q k s = .next y ∧ P y := by
  refine ⟨_, rfl, ?_⟩
  repeat' (first
    | with_reducible assumption
    | (with_reducible refine fun _ => ?_)
    | ((try lift_lets); with_reducible intro x; refine (fun (hx : P x) => ?_) ?_; on_goal 2 => (try unfold x); on_goal 1 => clear_value x)
    | with_reducible apply p_ite
    | with_reducible apply begin_only (hc.sub (by decide))
    | with_reducible apply modCore_only (hc.sub (by decide))
    | with_reducible apply consumeTile_only (hc.sub (by decide))
    | with_reducible apply postTile_only (hc.sub (by decide))
    | with_reducible apply releaseChunk_only (hc.sub (by decide))
    | with_reducible apply endStreams_only (hc.sub (by decide))
    | with_reducible apply p_foldl
    | split)

theorem execArrangementSwitch_only {P : State → Prop} (hc : ClosedOn P [.cores, .out]) (q : Fin 128) (s : State)
    (hs0 : P s) :
    ∃ y, execArrangementSwitch q s = .next y ∧ P y := by
  refine ⟨_, rfl, ?_⟩
  repeat' (first
    | with_reducible assumption
    | (with_reducible refine fun _ => ?_)
    | with_reducible apply p_ite
    | with_reducible apply begin_only (hc.sub (by decide))
    | with_reducible apply modCore_only (hc.sub (by decide))
    | with_reducible apply p_foldl
    | split)

theorem execChunkRequest_only {P : State → Prop} (hc : ClosedOn P [.cores, .out]) (q : Fin 128) (n : Fin 256)
    (s : State) (hs0 : P s) :
    ∃ y, execChunkRequest q n s = .next y ∧ P y := by
  refine ⟨_, rfl, ?_⟩
  repeat' (first
    | with_reducible assumption
    | (with_reducible refine fun _ => ?_)
    | with_reducible apply p_ite
    | with_reducible apply begin_only (hc.sub (by decide))
    | with_reducible apply modStream_only (hc.sub (by decide))
    | with_reducible apply p_foldl
    | split)

theorem execChunkFilled_only {P : State → Prop}
    (hc : ClosedOn P [.sect, .nflag, .cmds, .cores, .slate, .commons, .tiers, .ward, .out]) (q : Fin 128) (n : Fin 256) (s : State) (hs0 : P s) :
    ∃ y, execChunkFilled q n s = .next y ∧ P y := by
  refine ⟨_, rfl, ?_⟩
  repeat' (first
    | with_reducible assumption
    | (with_reducible refine fun _ => ?_)
    | ((try lift_lets); with_reducible intro x; clear_value x)
    | with_reducible apply p_ite
    | with_reducible apply begin_only (hc.sub (by decide))
    | with_reducible apply modStream_only (hc.sub (by decide))
    | with_reducible apply copyChunk_only (hc.sub (by decide))
    | with_reducible apply p_foldl
    | split)

theorem execReshard_only {P : State → Prop}
    (hc : ClosedOn P [.sect, .rings, .cmds, .recs, .steps, .colls, .tiers, .hif, .ward, .trace, .out, .seq]) (p : Pair) (d : Desc) (s : State) (hs0 : P s) :
    ∃ y, execReshard p d s = .next y ∧ P y := by
  refine ⟨_, rfl, ?_⟩
  repeat' (first
    | with_reducible assumption
    | (with_reducible refine fun _ => ?_)
    | ((try lift_lets); with_reducible intro x; clear_value x)
    | with_reducible apply p_ite
    | with_reducible apply withRead_only (hc.sub (by decide))
    | with_reducible apply completeRead_only (hc.sub (by decide))
    | with_reducible apply capLate_only (hc.sub (by decide))
    | with_reducible apply admitReshard_only (hc.sub (by decide))
    | with_reducible apply p_foldl
    | split)

theorem execReshardStart_only {P : State → Prop}
    (hc : ClosedOn P [.sect, .nflag, .cmds, .colls, .tiers, .links, .ward, .out]) (t : Sec) (s : State) (hs0 : P s) :
    ∃ y, execReshardStart t s = .next y ∧ P y := by
  refine ⟨_, rfl, ?_⟩
  repeat' (first
    | with_reducible assumption
    | (with_reducible refine fun _ => ?_)
    | with_reducible apply p_ite
    | with_reducible apply begin_only (hc.sub (by decide))
    | with_reducible apply pumpSection_only (hc.sub (by decide))
    | with_reducible apply modCmd_only (hc.sub (by decide))
    | with_reducible apply p_foldl
    | split)

theorem execSyncMessage_only {P : State → Prop} (hc : ClosedOn P [.time, .cmds, .ward, .trace, .out]) (gm : W64)
    (domain : BitVec 8) (offset : W32) (s : State) (hs0 : P s) :
    ∃ y, execSyncMessage gm domain offset s = .next y ∧ P y := by
  refine ⟨_, rfl, ?_⟩
  repeat' (first
    | with_reducible assumption
    | with_reducible apply p_ite
    | with_reducible apply begin_only (hc.sub (by decide))
    | with_reducible apply syncMsg_only (hc.sub (by decide)))

theorem execSyncTimeout_only {P : State → Prop} (hc : ClosedOn P [.time, .cmds, .ward, .trace, .out]) (s : State)
    (hs0 : P s) :
    ∃ y, execSyncTimeout s = .next y ∧ P y := by
  refine ⟨_, rfl, ?_⟩
  repeat' (first
    | with_reducible assumption
    | (with_reducible refine fun _ => ?_)
    | with_reducible apply begin_only (hc.sub (by decide))
    | with_reducible apply setLock_only (hc.sub (by decide))
    | with_reducible apply p_foldl
    | split)

theorem execHoldoverLimit_only {P : State → Prop} (hc : ClosedOn P [.time, .cmds, .ward, .trace, .out]) (s : State) (hs0 : P s) :
    ∃ y, execHoldoverLimit s = .next y ∧ P y := by
  refine ⟨_, rfl, ?_⟩
  repeat' (first
    | with_reducible assumption
    | (with_reducible refine fun _ => ?_)
    | ((try lift_lets); with_reducible intro x; first
        | (refine (fun (hx : P x) => ?_) ?_; on_goal 2 => (try unfold x); on_goal 1 => clear_value x)
        | clear_value x)
    | with_reducible apply p_ite
    | with_reducible apply modTime_only (hc.sub (by decide))
    | with_reducible apply begin_only (hc.sub (by decide))
    | with_reducible apply setLock_only (hc.sub (by decide)))

theorem execTimeNowRead_only {P : State → Prop} (hc : ClosedOn P [.time, .cmds, .ward, .trace, .out]) (ns : W64) (frac : W32) (s : State) (hs0 : P s) :
    ∃ y, execTimeNowRead ns frac s = .next y ∧ P y := by
  refine ⟨_, rfl, ?_⟩
  repeat' (first
    | with_reducible assumption
    | (with_reducible refine fun _ => ?_)
    | ((try lift_lets); with_reducible intro x; first
        | (refine (fun (hx : P x) => ?_) ?_; on_goal 2 => (try unfold x); on_goal 1 => clear_value x)
        | clear_value x)
    | with_reducible apply p_ite
    | with_reducible apply modTime_only (hc.sub (by decide))
    | with_reducible apply emit_only (hc.sub (by decide))
    | with_reducible apply begin_only (hc.sub (by decide))
    | with_reducible apply endHoldover_only (hc.sub (by decide)))

theorem execFecLockLoss_only {P : State → Prop} (hc : ClosedOn P [.links, .wear, .ward, .out]) (e : FecLoss) (s : State) (hs0 : P s) :
    ∃ y, execFecLockLoss e s = .next y ∧ P y := by
  refine ⟨_, rfl, ?_⟩
  repeat' (first
    | with_reducible assumption
    | ((try lift_lets); with_reducible intro x; first
        | (refine (fun (hx : P x) => ?_) ?_; on_goal 2 => (try unfold x); on_goal 1 => clear_value x)
        | clear_value x)
    | with_reducible apply p_ite
    | with_reducible apply begin_only (hc.sub (by decide))
    | with_reducible apply noteFec_only (hc.sub (by decide))
    | with_reducible apply retrain_only (hc.sub (by decide)))

theorem execPhyTraining_only {P : State → Prop} (hc : ClosedOn P [.links, .out]) (l : Link) (s : State) (hs0 : P s) :
    ∃ y, execPhyTraining l s = .next y ∧ P y := by
  refine ⟨_, rfl, ?_⟩
  repeat' (first
    | with_reducible assumption
    | ((try lift_lets); with_reducible intro x; refine (fun (hx : P x) => ?_) ?_; on_goal 2 => (try unfold x); on_goal 1 => clear_value x)
    | with_reducible apply p_ite
    | with_reducible apply begin_only (hc.sub (by decide))
    | with_reducible apply modLink_only (hc.sub (by decide))
    | with_reducible apply goLink_only (hc.sub (by decide))
    | with_reducible apply clearLink_only (hc.sub (by decide))
    | with_reducible apply pushFlit_only (hc.sub (by decide)))

theorem execDelayMeasurement_only {P : State → Prop} (hc : ClosedOn P [.links, .out]) (l : Link) (s : State) (hs0 : P s) :
    ∃ y, execDelayMeasurement l s = .next y ∧ P y := by
  refine ⟨_, rfl, ?_⟩
  repeat' (first
    | with_reducible assumption
    | with_reducible apply p_ite
    | with_reducible apply begin_only (hc.sub (by decide))
    | with_reducible apply leaveLink_only (hc.sub (by decide))
    | with_reducible apply modLink_only (hc.sub (by decide))
    | with_reducible apply goLink_only (hc.sub (by decide))
    | with_reducible apply clearLink_only (hc.sub (by decide)))

theorem execCableDelayUpdate_only {P : State → Prop} (hc : ClosedOn P [.links, .out]) (l : Link) (s : State) (hs0 : P s) :
    ∃ y, execCableDelayUpdate l s = .next y ∧ P y := by
  refine ⟨_, rfl, ?_⟩
  repeat' (first
    | with_reducible assumption
    | with_reducible apply p_ite
    | with_reducible apply begin_only (hc.sub (by decide))
    | with_reducible apply modLink_only (hc.sub (by decide)))

theorem execLinkStateLimit_only {P : State → Prop} (hc : ClosedOn P [.links, .out]) (l : Link) (s : State) (hs0 : P s) :
    ∃ y, execLinkStateLimit l s = .next y ∧ P y := by
  refine ⟨_, rfl, ?_⟩
  repeat' (first
    | with_reducible assumption
    | with_reducible apply p_ite
    | with_reducible apply begin_only (hc.sub (by decide))
    | with_reducible apply leaveLink_only (hc.sub (by decide))
    | with_reducible apply phyFail_only (hc.sub (by decide)))

theorem execPresenceChange_only {P : State → Prop} (hc : ClosedOn P [.links, .headers, .out]) (h : Fin 9)
    (present : Bool) (s : State) (hs0 : P s) :
    ∃ y, execPresenceChange h present s = .next y ∧ P y := by
  refine ⟨_, rfl, ?_⟩
  repeat' (first
    | with_reducible assumption
    | (with_reducible refine fun _ => ?_)
    | ((try lift_lets); with_reducible intro x; first
        | (refine (fun (hx : P x) => ?_) ?_; on_goal 2 => (try unfold x); on_goal 1 => clear_value x)
        | clear_value x)
    | with_reducible apply p_ite
    | with_reducible apply begin_only (hc.sub (by decide))
    | with_reducible apply modHeader_only (hc.sub (by decide))
    | with_reducible apply startDetect_only (hc.sub (by decide))
    | with_reducible apply setCause_only (hc.sub (by decide))
    | with_reducible apply p_foldl)

theorem execCmisIdentityRead_only {P : State → Prop} (hc : ClosedOn P [.links, .headers, .wear, .ward, .out]) (h : Fin 9) (c : CableRec) (s : State) (hs0 : P s) :
    ∃ y, execCmisIdentityRead h c s = .next y ∧ P y := by
  refine ⟨_, rfl, ?_⟩
  repeat' (first
    | with_reducible assumption
    | (with_reducible refine fun _ => ?_)
    | ((try lift_lets); with_reducible intro x; first
        | (refine (fun (hx : P x) => ?_) ?_; on_goal 2 => (try unfold x); on_goal 1 => clear_value x)
        | clear_value x)
    | with_reducible apply p_ite
    | with_reducible apply begin_only (hc.sub (by decide))
    | with_reducible apply goLink_only (hc.sub (by decide))
    | with_reducible apply leaveLink_only (hc.sub (by decide))
    | with_reducible apply modHeader_only (hc.sub (by decide))
    | with_reducible apply readWear_only (hc.sub (by decide))
    | with_reducible apply writeBack_only (hc.sub (by decide))
    | with_reducible apply p_foldl
    | split
    | (with_reducible refine p_fst (by assumption) ?_))

theorem execHeaderOvercurrent_only {P : State → Prop} (hc : ClosedOn P [.links, .headers, .power, .out]) (e : Overcurrent) (s : State) (hs0 : P s) :
    ∃ y, execHeaderOvercurrent e s = .next y ∧ P y := by
  refine ⟨_, rfl, ?_⟩
  repeat' (first
    | with_reducible assumption
    | (with_reducible refine fun _ => ?_)
    | ((try lift_lets); with_reducible intro x; first
        | (refine (fun (hx : P x) => ?_) ?_; on_goal 2 => (try unfold x); on_goal 1 => clear_value x)
        | clear_value x)
    | with_reducible apply p_ite
    | with_reducible apply begin_only (hc.sub (by decide))
    | with_reducible apply modHeader_only (hc.sub (by decide))
    | with_reducible apply headerOff_only (hc.sub (by decide))
    | split
    | (with_reducible refine p_fst (by assumption) ?_))

theorem execPowerOnHour_only {P : State → Prop} (hc : ClosedOn P [.headers, .wear, .ward, .out]) (h : Fin 9) (s : State) (hs0 : P s) :
    ∃ y, execPowerOnHour h s = .next y ∧ P y := by
  refine ⟨_, rfl, ?_⟩
  repeat' (first
    | with_reducible assumption
    | (with_reducible refine fun _ => ?_)
    | ((try lift_lets); with_reducible intro x; first
        | (refine (fun (hx : P x) => ?_) ?_; on_goal 2 => (try unfold x); on_goal 1 => clear_value x)
        | clear_value x)
    | with_reducible apply p_ite
    | with_reducible apply begin_only (hc.sub (by decide))
    | with_reducible apply modWear_only (hc.sub (by decide))
    | with_reducible apply wearEvents_only (hc.sub (by decide))
    | with_reducible apply writeBack_only (hc.sub (by decide))
    | split
    | (with_reducible refine p_fst (by assumption) ?_))

theorem execReplayTimeout_only {P : State → Prop} (hc : ClosedOn P [.links, .wear, .out]) (l : Link) (k : Fin 5)
    (s : State) (hs0 : P s) :
    ∃ y, execReplayTimeout l k s = .next y ∧ P y := by
  refine ⟨_, rfl, ?_⟩
  repeat' (first
    | with_reducible assumption
    | ((try lift_lets); with_reducible intro x; refine (fun (hx : P x) => ?_) ?_; on_goal 2 => (try unfold x); on_goal 1 => clear_value x)
    | with_reducible apply p_ite
    | with_reducible apply begin_only (hc.sub (by decide))
    | with_reducible apply addLcnt_only (hc.sub (by decide))
    | with_reducible apply startReplay_only (hc.sub (by decide))
    | with_reducible apply modLink_only (hc.sub (by decide))
    | with_reducible apply retrain_only (hc.sub (by decide)))

theorem execLinkUnitSend_only {P : State → Prop} (hc : ClosedOn P [.links, .out]) (l : Link) (s : State) (hs0 : P s) :
    ∃ y, execLinkUnitSend l s = .next y ∧ P y := by
  refine ⟨_, rfl, ?_⟩
  repeat' (first
    | with_reducible assumption
    | ((try lift_lets); with_reducible intro x; refine (fun (hx : P x) => ?_) ?_; on_goal 2 => (try unfold x); on_goal 1 => clear_value x)
    | with_reducible apply p_ite
    | with_reducible apply begin_only (hc.sub (by decide))
    | with_reducible apply emit_only (hc.sub (by decide))
    | with_reducible apply modLink_only (hc.sub (by decide)))

theorem execLinkUnit_only {P : State → Prop} (hc : ClosedOn P [.links, .wear, .ward, .out]) (l : Link) (u : Unit256) (s : State) (hs0 : P s) :
    ∃ y, execLinkUnit l u s = .next y ∧ P y := by
  refine ⟨_, rfl, ?_⟩
  repeat' (first
    | with_reducible assumption
    | (with_reducible refine fun _ => ?_)
    | ((try lift_lets); with_reducible intro x; first
        | (refine (fun (hx : P x) => ?_) ?_; on_goal 2 => (try unfold x); on_goal 1 => clear_value x)
        | clear_value x)
    | with_reducible apply p_ite
    | with_reducible apply modLink_only (hc.sub (by decide))
    | with_reducible apply begin_only (hc.sub (by decide))
    | with_reducible apply noteFec_only (hc.sub (by decide))
    | with_reducible apply retrain_only (hc.sub (by decide))
    | with_reducible apply startReplay_only (hc.sub (by decide))
    | with_reducible apply ackLink_only (hc.sub (by decide))
    | with_reducible apply addSample_only (hc.sub (by decide))
    | with_reducible apply noteDepart_only (hc.sub (by decide))
    | with_reducible apply p_foldl
    | split
    | (with_reducible refine p_fst (by assumption) ?_))

theorem execFlitSend_only {P : State → Prop} (hc : ClosedOn P [.nflag, .cmds, .colls, .tiers, .links, .ward, .out]) (l : Link) (slot : Fin 50) (s : State) (hs0 : P s) :
    ∃ y, execFlitSend l slot s = .next y ∧ P y := by
  refine ⟨_, rfl, ?_⟩
  repeat' (first
    | with_reducible assumption
    | (with_reducible refine fun _ => ?_)
    | ((try lift_lets); with_reducible intro x; first
        | (refine (fun (hx : P x) => ?_) ?_; on_goal 2 => (try unfold x); on_goal 1 => clear_value x)
        | clear_value x)
    | with_reducible apply p_ite
    | with_reducible apply modLink_only (hc.sub (by decide))
    | with_reducible apply emit_only (hc.sub (by decide))
    | with_reducible apply begin_only (hc.sub (by decide))
    | with_reducible apply sendActive_only (hc.sub (by decide))
    | with_reducible apply leaveDeparted_only (hc.sub (by decide))
    | split
    | (with_reducible refine p_fst (by assumption) ?_))

theorem execCorruptedFlit_only {P : State → Prop} (hc : ClosedOn P [.links, .ward, .out]) (l : Link) (s : State)
    (hs0 : P s) :
    ∃ y, execCorruptedFlit l s = .next y ∧ P y := by
  refine ⟨_, rfl, ?_⟩
  repeat' (first
    | with_reducible assumption
    | with_reducible apply p_ite
    | with_reducible apply begin_only (hc.sub (by decide))
    | with_reducible apply badFlit_only (hc.sub (by decide)))

theorem execDataFlit_only {P : State → Prop} (hc : ClosedOn P [.slate, .commons, .tiers, .links, .wear, .ward, .out]) (l : Link) (f : Flit) (s : State) (hs0 : P s) :
    ∃ y, execDataFlit l f s = .next y ∧ P y :=
  received_only (hc.sub (by decide)) _ _ _ _ _ hs0 (fun s h => deliverData_only (hc.sub (by decide)) _ _ h)

theorem execTokenFlit_only {P : State → Prop} (hc : ClosedOn P [.cores, .links, .wear, .ward, .out]) (l : Link) (f : Flit) (s : State) (hs0 : P s) :
    ∃ y, execTokenFlit l f s = .next y ∧ P y :=
  received_only (hc.sub (by decide)) _ _ _ _ _ hs0 (fun s h => deliverToken_only (hc.sub (by decide)) _ _ h)

theorem execCollFlit_only {P : State → Prop} (hc : ClosedOn P [.sect, .nflag, .cmds, .colls, .tiers, .links, .wear, .ward, .out]) (l : Link) (f : Flit) (s : State) (hs0 : P s) :
    ∃ y, execCollFlit l f s = .next y ∧ P y :=
  received_only (hc.sub (by decide)) _ _ _ _ _ hs0 (fun s h => collReceive_only (hc.sub (by decide)) _ _ _ _ h)

theorem execTimeFlit_only {P : State → Prop} (hc : ClosedOn P [.time, .cmds, .links, .wear, .ward, .trace, .out]) (l : Link) (f : Flit) (ns : W64) (frac : W32)
    (s : State) (hs0 : P s) : ∃ y, execTimeFlit l f ns frac s = .next y ∧ P y :=
  received_only (hc.sub (by decide)) _ _ _ _ _ hs0
    (fun s h => p_ite _ _ _ (timeMsg_only (hc.sub (by decide)) _ _ _ _ h) h)

theorem execMgmtFlit_only {P : State → Prop} (hc : ClosedOn P [.links, .wear, .ward, .out]) (l : Link) (f : Flit) (s : State) (hs0 : P s) :
    ∃ y, execMgmtFlit l f s = .next y ∧ P y :=
  received_only (hc.sub (by decide)) _ _ _ _ _ hs0 (fun s h => p_ite _ _ _ (takeCaps_only (hc.sub (by decide)) _ _ _ h) h)

theorem execDrainFlit_only {P : State → Prop} (hc : ClosedOn P [.sect, .rings, .cmds, .recs, .steps, .colls, .tiers, .links, .wear, .ward, .trace, .out, .fresh, .seq]) (l : Link) (f : Flit) (s : State) (hs0 : P s) :
    ∃ y, execDrainFlit l f s = .next y ∧ P y :=
  received_only (hc.sub (by decide)) _ _ _ _ _ hs0 (fun s h => takeDrain_only (hc.sub (by decide)) _ _ _ h)

theorem execDepartFlit_only {P : State → Prop} (hc : ClosedOn P [.links, .wear, .ward, .trace, .out]) (l : Link) (f : Flit) (s : State) (hs0 : P s) :
    ∃ y, execDepartFlit l f s = .next y ∧ P y :=
  received_only (hc.sub (by decide)) _ _ _ _ _ hs0 (fun s h => p_ite _ _ _
    (partnerGone_only (hc.sub (by decide)) _ _ (noteDeparture_only (hc.sub (by decide)) _ _ _ h))
    (noteDeparture_only (hc.sub (by decide)) _ _ _ h))

theorem execSramUncorrectable_only {P : State → Prop} (hc : ClosedOn P [.nflag, .cmds, .cores, .slate, .commons, .acc, .colls, .links, .wear, .ward, .out]) (e : SramWord) (s : State) (hs0 : P s) :
    ∃ y, execSramUncorrectable e s = .next y ∧ P y := by
  refine ⟨_, rfl, ?_⟩
  repeat' (first
    | with_reducible assumption
    | ((try lift_lets); with_reducible intro x; first
        | (refine (fun (hx : P x) => ?_) ?_; on_goal 2 => (try unfold x); on_goal 1 => clear_value x)
        | clear_value x)
    | with_reducible apply p_ite
    | with_reducible apply begin_only (hc.sub (by decide))
    | with_reducible apply sramFixed_only (hc.sub (by decide))
    | with_reducible apply sramLost_only (hc.sub (by decide)))

theorem execRollcallContribution_only {P : State → Prop} (hc : ClosedOn P [.steps, .tiers, .ward, .out]) (t : Sec) (s : State) (hs0 : P s) :
    ∃ y, execRollcallContribution t s = .next y ∧ P y := by
  refine ⟨_, rfl, ?_⟩
  repeat' (first
    | with_reducible assumption
    | (with_reducible refine fun _ => ?_)
    | with_reducible apply eachPend_only (hc.sub (by decide))
    | with_reducible apply begin_only (hc.sub (by decide))
    | with_reducible apply contribute_only (hc.sub (by decide)))

theorem execRollcallLevelSend_only {P : State → Prop} (hc : ClosedOn P [.steps, .links, .out]) (t : Sec) (s : State)
    (hs0 : P s) :
    ∃ y, execRollcallLevelSend t s = .next y ∧ P y := by
  refine ⟨_, rfl, ?_⟩
  repeat' (first
    | with_reducible assumption
    | (with_reducible refine fun _ => ?_)
    | with_reducible apply eachPend_only (hc.sub (by decide))
    | with_reducible apply begin_only (hc.sub (by decide))
    | with_reducible apply sendLevel_only (hc.sub (by decide)))

theorem execRollcallCombine_only {P : State → Prop} (hc : ClosedOn P [.steps, .out]) (t : Sec) (s : State) (hs0 : P s) :
    ∃ y, execRollcallCombine t s = .next y ∧ P y := by
  refine ⟨_, rfl, ?_⟩
  repeat' (first
    | with_reducible assumption
    | (with_reducible refine fun _ => ?_)
    | with_reducible apply eachPend_only (hc.sub (by decide))
    | with_reducible apply begin_only (hc.sub (by decide))
    | with_reducible apply combineLevel_only (hc.sub (by decide)))

theorem execRollcallResultSend_only {P : State → Prop} (hc : ClosedOn P [.steps, .links, .out]) (t : Sec) (s : State)
    (hs0 : P s) :
    ∃ y, execRollcallResultSend t s = .next y ∧ P y := by
  refine ⟨_, rfl, ?_⟩
  repeat' (first
    | with_reducible assumption
    | (with_reducible refine fun _ => ?_)
    | with_reducible apply eachPend_only (hc.sub (by decide))
    | with_reducible apply begin_only (hc.sub (by decide))
    | with_reducible apply sendResult_only (hc.sub (by decide)))

theorem execRollcallResult_only {P : State → Prop} (hc : ClosedOn P [.steps, .out]) (t : Sec) (s : State) (hs0 : P s) :
    ∃ y, execRollcallResult t s = .next y ∧ P y := by
  refine ⟨_, rfl, ?_⟩
  repeat' (first
    | with_reducible assumption
    | (with_reducible refine fun _ => ?_)
    | with_reducible apply eachPend_only (hc.sub (by decide))
    | with_reducible apply begin_only (hc.sub (by decide))
    | with_reducible apply takeResult_only (hc.sub (by decide)))

theorem execRollcallFlit_only {P : State → Prop} (hc : ClosedOn P [.steps, .links, .wear, .ward, .out]) (l : Link) (f : Flit) (s : State) (hs0 : P s) :
    ∃ y, execRollcallFlit l f s = .next y ∧ P y := by
  refine received_only (hc.sub (by decide)) _ _ _ _ _ hs0 (fun s h => ?_)
  split
  · exact keepVote_only (hc.sub (by decide)) _ _ _ _ h
  · exact h

theorem execRollcallReturn_only {P : State → Prop}
    (hc : ClosedOn P [.sect, .rings, .cmds, .recs, .steps, .colls, .ward, .trace, .out]) (t : Sec) (s : State) (hs0 : P s) :
    ∃ y, execRollcallReturn t s = .next y ∧ P y := by
  refine ⟨_, rfl, ?_⟩
  repeat' (first
    | with_reducible assumption
    | (with_reducible refine fun _ => ?_)
    | with_reducible apply eachPend_only (hc.sub (by decide))
    | with_reducible apply begin_only (hc.sub (by decide))
    | with_reducible apply returnStep_only (hc.sub (by decide)))

theorem execCardDrain_only {P : State → Prop}
    (hc : ClosedOn P [.sect, .rings, .cmds, .recs, .steps, .colls, .tiers, .links, .ward, .trace, .out, .fresh]) (s : State) (hs0 : P s) :
    ∃ y, execCardDrain s = .next y ∧ P y := by
  refine ⟨_, rfl, ?_⟩
  repeat' (first
    | with_reducible assumption
    | with_reducible apply p_ite
    | with_reducible apply begin_only (hc.sub (by decide))
    | with_reducible apply drainCard_only (hc.sub (by decide)))

theorem execDepartSend_only {P : State → Prop} (hc : ClosedOn P [.links, .ward, .out]) (s : State) (hs0 : P s) :
    ∃ y, execDepartSend s = .next y ∧ P y := by
  refine ⟨_, rfl, ?_⟩
  repeat' (first
    | with_reducible assumption
    | with_reducible apply p_ite
    | with_reducible apply begin_only (hc.sub (by decide))
    | with_reducible apply depart_only (hc.sub (by decide)))

theorem execSentryKick_only {P : State → Prop}
    (hc : ClosedOn P [.sect, .rings, .cmds, .recs, .steps, .colls, .tiers, .links, .ward, .trace, .out, .fresh]) (word : W64) (s : State) (hs0 : P s) :
    ∃ y, execSentryKick word s = .next y ∧ P y := by
  refine ⟨_, rfl, ?_⟩
  repeat' (first
    | with_reducible assumption
    | ((try lift_lets); with_reducible intro x; refine (fun (hx : P x) => ?_) ?_; on_goal 2 => (try unfold x); on_goal 1 => clear_value x)
    | with_reducible apply p_ite
    | with_reducible apply begin_only (hc.sub (by decide))
    | with_reducible apply modWard_only (hc.sub (by decide))
    | with_reducible apply sentryActs_only (hc.sub (by decide)))

theorem execSentryDeadline_only {P : State → Prop}
    (hc : ClosedOn P [.sect, .rings, .cmds, .recs, .steps, .colls, .tiers, .links, .ward, .trace, .out, .fresh]) (s : State) (hs0 : P s) :
    ∃ y, execSentryDeadline s = .next y ∧ P y := by
  refine ⟨_, rfl, ?_⟩
  repeat' (first
    | with_reducible assumption
    | with_reducible apply p_ite
    | with_reducible apply begin_only (hc.sub (by decide))
    | with_reducible apply sentryActs_only (hc.sub (by decide))
    | with_reducible apply modWard_only (hc.sub (by decide)))

theorem execHeartbeat_only {P : State → Prop} (hc : ClosedOn P [.out]) (data : BitVec 128) (s : State) (hs0 : P s) :
    ∃ y, execHeartbeat data s = .next y ∧ P y := by
  refine ⟨_, rfl, ?_⟩
  repeat' (first
    | with_reducible assumption
    | with_reducible apply p_ite
    | with_reducible apply begin_only (hc.sub (by decide))
    | with_reducible apply emit_only (hc.sub (by decide)))

theorem execPowerFailure_only {P : State → Prop}
    (hc : ClosedOn P [.time, .rings, .cmds, .recs, .cores, .store, .slate, .commons, .acc, .colls, .tiers, .links, .hif, .ward, .power, .out]) (s : State) (hs0 : P s) :
    ∃ y, execPowerFailure s = .next y ∧ P y := by
  refine ⟨_, rfl, ?_⟩
  repeat' (first
    | with_reducible assumption
    | with_reducible apply powerFails_only (hc.sub (by decide))
    | with_reducible apply begin_only (hc.sub (by decide)))

theorem execHoldUpEnd_only {P : State → Prop} (hc : ClosedOn P [.links, .ward, .out, .fresh]) (s : State) (hs0 : P s) :
    ∃ y, execHoldUpEnd s = .next y ∧ P y := by
  have h0 := begin_only (hc.sub (by decide)) s hs0
  have h1 := upd_links hc (by decide) [] (upd_fresh hc (by decide) ((begin s).fresh + 1) h0)
  exact ⟨_, rfl, p_ite _ _ _ h0 (modWard_only (hc.sub (by decide)) _ _ h1)⟩

theorem execInputOvervoltage_only {P : State → Prop}
    (hc : ClosedOn P [.time, .rings, .cmds, .recs, .cores, .store, .slate, .commons, .acc, .colls, .tiers, .links, .hif, .ward, .power, .out]) (mv : W16) (s : State) (hs0 : P s) :
    ∃ y, execInputOvervoltage mv s = .next y ∧ P y := by
  refine ⟨_, rfl, ?_⟩
  repeat' (first
    | with_reducible assumption
    | with_reducible apply p_ite
    | with_reducible apply modPower_only (hc.sub (by decide))
    | with_reducible apply begin_only (hc.sub (by decide))
    | with_reducible apply powerFails_only (hc.sub (by decide))
    | with_reducible apply limitReached_only (hc.sub (by decide)))

theorem execRailOvercurrent_only {P : State → Prop} (hc : ClosedOn P [.ward, .power, .out]) (k : Fin 41) (amps : W16)
    (s : State) (hs0 : P s) :
    ∃ y, execRailOvercurrent k amps s = .next y ∧ P y := by
  refine ⟨_, rfl, ?_⟩
  repeat' (first
    | with_reducible assumption
    | with_reducible apply p_ite
    | with_reducible apply modPower_only (hc.sub (by decide))
    | with_reducible apply begin_only (hc.sub (by decide))
    | with_reducible apply limitReached_only (hc.sub (by decide)))

theorem execThermalLimit_only {P : State → Prop} (hc : ClosedOn P [.ward, .power, .out]) (k : Fin 16) (reading : W16)
    (s : State) (hs0 : P s) :
    ∃ y, execThermalLimit k reading s = .next y ∧ P y := by
  refine ⟨_, rfl, ?_⟩
  repeat' (first
    | with_reducible assumption
    | with_reducible apply p_ite
    | with_reducible apply modPower_only (hc.sub (by decide))
    | with_reducible apply begin_only (hc.sub (by decide))
    | with_reducible apply limitReached_only (hc.sub (by decide)))

theorem execGuardBand_only {P : State → Prop} (hc : ClosedOn P [.time, .sect, .cmds, .links, .ward, .trace, .out])
    (s : State) (hs0 : P s) :
    ∃ y, execGuardBand s = .next y ∧ P y := by
  refine ⟨_, rfl, ?_⟩
  repeat' (first
    | with_reducible assumption
    | with_reducible apply guardWork_only (hc.sub (by decide))
    | with_reducible apply begin_only (hc.sub (by decide)))

theorem execTick_only {P : State → Prop} (hc : ClosedOn P [.time, .sect, .slots, .slotsNow, .nflag, .rings, .cmds, .recs, .steps, .images, .loadPages, .cores, .store, .slate, .commons, .colls, .tiers, .links, .hif, .ward, .power, .trace, .budget, .out, .fresh]) (s : State) (hs0 : P s) :
    ∃ y, execTick s = .next y ∧ P y := by
  refine ⟨_, rfl, ?_⟩
  repeat' (first
    | with_reducible assumption
    | ((try lift_lets); with_reducible intro x; first
        | (refine (fun (hx : P x) => ?_) ?_; on_goal 2 => (try unfold x); on_goal 1 => clear_value x)
        | clear_value x)
    | with_reducible apply p_ite
    | with_reducible apply begin_only (hc.sub (by decide))
    | with_reducible apply tickWork_only (hc.sub (by decide))
    | with_reducible apply slotZeroWork_only (hc.sub (by decide)))

theorem execHostLinkTraining_only {P : State → Prop} (hc : ClosedOn P [.hif, .out]) (speed : BitVec 4)
    (width : BitVec 5) (cacheEn memEn : Bool) (s : State) (hs0 : P s) :
    ∃ y, execHostLinkTraining speed width cacheEn memEn s = .next y ∧ P y := by
  refine ⟨_, rfl, ?_⟩
  repeat' (first
    | with_reducible assumption
    | with_reducible apply p_ite
    | with_reducible apply begin_only (hc.sub (by decide))
    | with_reducible apply modHif_only (hc.sub (by decide)))

theorem execConfigurationWrite_only {P : State → Prop} (hc : ClosedOn P [.hif, .out]) (rid : W16) (s : State) (hs0 : P s) :
    ∃ y, execConfigurationWrite rid s = .next y ∧ P y := by
  refine ⟨_, rfl, ?_⟩
  repeat' (first
    | with_reducible assumption
    | with_reducible apply p_ite
    | with_reducible apply begin_only (hc.sub (by decide))
    | with_reducible apply modHif_only (hc.sub (by decide)))

theorem execCxlIoMemoryRequest_only {P : State → Prop} (hc : ClosedOn P [.ward, .out]) (rid : W16) (posted : Bool)
    (s : State) (hs0 : P s) :
    ∃ y, execCxlIoMemoryRequest rid posted s = .next y ∧ P y := by
  refine ⟨_, rfl, ?_⟩
  repeat' (first
    | with_reducible assumption
    | ((try lift_lets); with_reducible intro x; refine (fun (hx : P x) => ?_) ?_; on_goal 2 => (try unfold x); on_goal 1 => clear_value x)
    | with_reducible apply p_ite
    | with_reducible apply begin_only (hc.sub (by decide))
    | with_reducible apply emit_only (hc.sub (by decide))
    | with_reducible apply logError_only (hc.sub (by decide)))

theorem execMisalignedAccess_only {P : State → Prop} (hc : ClosedOn P [.out]) (addr : BitVec 25) (bytes : Nat)
    (_write : Bool) (s : State) (hs0 : P s) :
    ∃ y, execMisalignedAccess addr bytes _write s = .next y ∧ P y := by
  refine ⟨_, rfl, ?_⟩
  repeat' (first
    | with_reducible assumption
    | with_reducible apply p_ite
    | with_reducible apply begin_only (hc.sub (by decide))
    | with_reducible apply emit_only (hc.sub (by decide)))

theorem execHdmDecoderCommit_only {P : State → Prop} (hc : ClosedOn P [.hif, .out]) (k : Fin 2) (base : W64)
    (ways : Nat) (s : State) (hs0 : P s) :
    ∃ y, execHdmDecoderCommit k base ways s = .next y ∧ P y := by
  refine ⟨_, rfl, ?_⟩
  repeat' (first
    | with_reducible assumption
    | with_reducible apply p_ite
    | with_reducible apply begin_only (hc.sub (by decide))
    | with_reducible apply modHif_only (hc.sub (by decide)))

theorem execSnpData_only {P : State → Prop} (hc : ClosedOn P [.hif, .out]) (line : W64) (s : State) (hs0 : P s) :
    ∃ y, execSnpData line s = .next y ∧ P y := by
  refine ⟨_, rfl, ?_⟩
  repeat' (first
    | with_reducible assumption
    | (with_reducible refine fun _ => ?_)
    | with_reducible apply p_ite
    | with_reducible apply begin_only (hc.sub (by decide))
    | with_reducible apply emit_only (hc.sub (by decide))
    | with_reducible apply setLineSt_only (hc.sub (by decide))
    | with_reducible apply p_foldl
    | split)

theorem execSnpInv_only {P : State → Prop} (hc : ClosedOn P [.rings, .hif, .out]) (line : W64) (s : State) (hs0 : P s) :
    ∃ y, execSnpInv line s = .next y ∧ P y := by
  refine ⟨_, rfl, ?_⟩
  repeat' (first
    | with_reducible assumption
    | (with_reducible refine fun _ => ?_)
    | with_reducible apply p_ite
    | with_reducible apply begin_only (hc.sub (by decide))
    | with_reducible apply emit_only (hc.sub (by decide))
    | with_reducible apply ringBell_only (hc.sub (by decide))
    | with_reducible apply dropLine_only (hc.sub (by decide))
    | with_reducible apply setLineSt_only (hc.sub (by decide))
    | with_reducible apply p_foldl
    | split)

theorem execSnpCur_only {P : State → Prop} (hc : ClosedOn P [.hif, .out]) (line : W64) (s : State) (hs0 : P s) :
    ∃ y, execSnpCur line s = .next y ∧ P y := by
  refine ⟨_, rfl, ?_⟩
  repeat' (first
    | with_reducible assumption
    | (with_reducible refine fun _ => ?_)
    | with_reducible apply p_ite
    | with_reducible apply begin_only (hc.sub (by decide))
    | with_reducible apply emit_only (hc.sub (by decide))
    | with_reducible apply setLineSt_only (hc.sub (by decide))
    | with_reducible apply p_foldl
    | split)

theorem execGoWritePull_only {P : State → Prop} (hc : ClosedOn P [.hif, .out]) (line : W64) (s : State) (hs0 : P s) :
    ∃ y, execGoWritePull line s = .next y ∧ P y := by
  refine ⟨_, rfl, ?_⟩
  repeat' (first
    | with_reducible assumption
    | (with_reducible refine fun _ => ?_)
    | with_reducible apply p_ite
    | with_reducible apply begin_only (hc.sub (by decide))
    | with_reducible apply emit_only (hc.sub (by decide))
    | with_reducible apply dropStale_only (hc.sub (by decide))
    | with_reducible apply dropLine_only (hc.sub (by decide))
    | with_reducible apply p_foldl
    | split)

theorem execGoWritePullDrop_only {P : State → Prop} (hc : ClosedOn P [.hif, .out]) (line : W64) (s : State) (hs0 : P s) :
    ∃ y, execGoWritePullDrop line s = .next y ∧ P y := by
  refine ⟨_, rfl, ?_⟩
  repeat' (first
    | with_reducible assumption
    | (with_reducible refine fun _ => ?_)
    | with_reducible apply p_ite
    | with_reducible apply begin_only (hc.sub (by decide))
    | with_reducible apply dropStale_only (hc.sub (by decide))
    | with_reducible apply dropLine_only (hc.sub (by decide))
    | with_reducible apply p_foldl
    | split)

theorem execMemRd_only {P : State → Prop} (hc : ClosedOn P [.sect, .tiers, .hif, .ward, .out]) (hpa : W64) (m : Meta) (s : State) (hs0 : P s) :
    ∃ y, execMemRd hpa m s = .next y ∧ P y := by
  refine ⟨_, rfl, ?_⟩
  repeat' (first
    | with_reducible assumption
    | ((try lift_lets); with_reducible intro x; first
        | (refine (fun (hx : P x) => ?_) ?_; on_goal 2 => (try unfold x); on_goal 1 => clear_value x)
        | clear_value x)
    | with_reducible apply p_ite
    | with_reducible apply begin_only (hc.sub (by decide))
    | with_reducible apply readLine_only (hc.sub (by decide))
    | split
    | (with_reducible refine p_fst (by assumption) ?_))

theorem execMemWr_only {P : State → Prop} (hc : ClosedOn P [.sect, .tiers, .hif, .ward, .trace, .out]) (hpa : W64) (m : Meta)
    (data : BitVec 512) (poison : Bool) (s : State) (hs0 : P s) :
    ∃ y, execMemWr hpa m data poison s = .next y ∧ P y := by
  refine ⟨_, rfl, ?_⟩
  repeat' (first
    | with_reducible assumption
    | with_reducible apply windowWrite_only (hc.sub (by decide))
    | with_reducible apply begin_only (hc.sub (by decide)))

theorem execMemWrPtl_only {P : State → Prop} (hc : ClosedOn P [.sect, .tiers, .hif, .ward, .trace, .out]) (hpa : W64)
    (m : Meta) (data : BitVec 512) (enable : W64) (poison : Bool) (s : State) (hs0 : P s) :
    ∃ y, execMemWrPtl hpa m data enable poison s = .next y ∧ P y := by
  refine ⟨_, rfl, ?_⟩
  repeat' (first
    | with_reducible assumption
    | with_reducible apply windowWrite_only (hc.sub (by decide))
    | with_reducible apply begin_only (hc.sub (by decide)))

theorem execMemInv_only {P : State → Prop} (hc : ClosedOn P [.sect, .tiers, .hif, .ward, .out]) (hpa : W64) (s : State) (hs0 : P s) :
    ∃ y, execMemInv hpa s = .next y ∧ P y := by
  refine ⟨_, rfl, ?_⟩
  repeat' (first
    | with_reducible assumption
    | ((try lift_lets); with_reducible intro x; first
        | (refine (fun (hx : P x) => ?_) ?_; on_goal 2 => (try unfold x); on_goal 1 => clear_value x)
        | clear_value x)
    | with_reducible apply p_ite
    | with_reducible apply emit_only (hc.sub (by decide))
    | with_reducible apply begin_only (hc.sub (by decide))
    | with_reducible apply dirFree_only (hc.sub (by decide))
    | split
    | (with_reducible refine p_fst (by assumption) ?_))

theorem execInboundBufferDrain_only {P : State → Prop} (hc : ClosedOn P [.tiers, .hif, .ward, .out]) (lines : Nat) (s : State) (hs0 : P s) :
    ∃ y, execInboundBufferDrain lines s = .next y ∧ P y := by
  refine ⟨_, rfl, ?_⟩
  repeat' (first
    | with_reducible assumption
    | ((try lift_lets); with_reducible intro x; first
        | (refine (fun (hx : P x) => ?_) ?_; on_goal 2 => (try unfold x); on_goal 1 => clear_value x)
        | clear_value x)
    | with_reducible apply p_ite
    | with_reducible apply begin_only (hc.sub (by decide))
    | with_reducible apply drainLines_only (hc.sub (by decide)))

theorem execBackInvalidateRecall_only {P : State → Prop} (hc : ClosedOn P [.hif, .budget, .out]) (t : Sec) (s : State) (hs0 : P s) :
    ∃ y, execBackInvalidateRecall t s = .next y ∧ P y := by
  refine ⟨_, rfl, ?_⟩
  repeat' (first
    | with_reducible assumption
    | (with_reducible refine fun _ => ?_)
    | ((try lift_lets); with_reducible intro x; first
        | (refine (fun (hx : P x) => ?_) ?_; on_goal 2 => (try unfold x); on_goal 1 => clear_value x)
        | clear_value x)
    | with_reducible apply p_ite
    | with_reducible apply modHif_only (hc.sub (by decide))
    | with_reducible apply begin_only (hc.sub (by decide))
    | with_reducible apply recallMoves_only (hc.sub (by decide))
    | with_reducible apply sendSnoop_only (hc.sub (by decide))
    | with_reducible apply p_foldl
    | split
    | (with_reducible refine p_fst (by assumption) ?_)
    | (with_reducible refine upd_budget hc (by decide) _ ?_))

theorem execBirsp_only {P : State → Prop} (hc : ClosedOn P [.sect, .tiers, .hif, .ward, .out]) (r : BirspIn) (s : State) (hs0 : P s) :
    ∃ y, execBirsp r s = .next y ∧ P y := by
  refine ⟨_, rfl, ?_⟩
  repeat' (first
    | with_reducible assumption
    | (with_reducible refine fun _ => ?_)
    | ((try lift_lets); with_reducible intro x; first
        | (refine (fun (hx : P x) => ?_) ?_; on_goal 2 => (try unfold x); on_goal 1 => clear_value x)
        | clear_value x)
    | with_reducible apply p_ite
    | with_reducible apply begin_only (hc.sub (by decide))
    | with_reducible apply dirMod_only (hc.sub (by decide))
    | with_reducible apply dirFree_only (hc.sub (by decide))
    | split
    | (with_reducible refine p_fst (by assumption) ?_))

theorem execBirspOverdue_only {P : State → Prop} (hc : ClosedOn P [.sect, .hif, .out]) (line : W64) (s : State) (hs0 : P s) :
    ∃ y, execBirspOverdue line s = .next y ∧ P y := by
  refine ⟨_, rfl, ?_⟩
  repeat' (first
    | with_reducible assumption
    | (with_reducible refine fun _ => ?_)
    | with_reducible apply p_ite
    | with_reducible apply begin_only (hc.sub (by decide))
    | with_reducible apply capHif_only (hc.sub (by decide))
    | with_reducible apply dirMod_only (hc.sub (by decide))
    | with_reducible apply p_foldl
    | split)

theorem execDlDown_only {P : State → Prop}
    (hc : ClosedOn P [.sect, .rings, .cmds, .recs, .steps, .colls, .tiers, .links, .hif, .ward, .trace, .out, .fresh]) (s : State) (hs0 : P s) :
    ∃ y, execDlDown s = .next y ∧ P y := by
  refine ⟨_, rfl, ?_⟩
  repeat' (first
    | with_reducible assumption
    | with_reducible apply p_ite
    | with_reducible apply begin_only (hc.sub (by decide))
    | with_reducible apply linkDown_only (hc.sub (by decide))
    | with_reducible apply hostLoss_only (hc.sub (by decide)))

theorem execSecondaryBusReset_only {P : State → Prop}
    (hc : ClosedOn P [.sect, .rings, .cmds, .recs, .steps, .colls, .tiers, .links, .hif, .ward, .trace, .out, .fresh]) (s : State) (hs0 : P s) :
    ∃ y, execSecondaryBusReset s = .next y ∧ P y := by
  refine ⟨_, rfl, ?_⟩
  repeat' (first
    | with_reducible assumption
    | with_reducible apply linkDown_only (hc.sub (by decide))
    | with_reducible apply hostLoss_only (hc.sub (by decide))
    | with_reducible apply begin_only (hc.sub (by decide)))

theorem execD3hotEntry_only {P : State → Prop}
    (hc : ClosedOn P [.sect, .rings, .cmds, .recs, .steps, .colls, .tiers, .links, .hif, .ward, .trace, .out, .fresh]) (s : State) (hs0 : P s) :
    ∃ y, execD3hotEntry s = .next y ∧ P y := by
  refine ⟨_, rfl, ?_⟩
  repeat' (first
    | with_reducible assumption
    | with_reducible apply hostLoss_only (hc.sub (by decide))
    | with_reducible apply begin_only (hc.sub (by decide)))

theorem execPerst_only {P : State → Prop}
    (hc : ClosedOn P [.sect, .rings, .cmds, .recs, .steps, .colls, .tiers, .links, .hif, .ward, .trace, .out, .fresh]) (s : State) (hs0 : P s) :
    ∃ y, execPerst s = .next y ∧ P y := by
  refine ⟨_, rfl, ?_⟩
  repeat' (first
    | with_reducible assumption
    | with_reducible apply linkDown_only (hc.sub (by decide))
    | with_reducible apply hostLoss_only (hc.sub (by decide))
    | with_reducible apply begin_only (hc.sub (by decide))
    | with_reducible apply maskVectors_only (hc.sub (by decide))
    | with_reducible apply modHif_only (hc.sub (by decide)))

theorem execTimeBellEpochWrite_only {P : State → Prop} (hc : ClosedOn P [.time, .ward, .out]) (v : View) (data : W64)
    (s : State) (hs0 : P s) :
    ∃ y, execTimeBellEpochWrite v data s = .next y ∧ P y := by
  refine ⟨_, rfl, ?_⟩
  repeat' (first
    | with_reducible assumption
    | with_reducible apply bellEpoch_only (hc.sub (by decide))
    | with_reducible apply begin_only (hc.sub (by decide)))

theorem execTimeBellPeriodWrite_only {P : State → Prop} (hc : ClosedOn P [.time, .ward, .out]) (v : View) (data : W64)
    (s : State) (hs0 : P s) :
    ∃ y, execTimeBellPeriodWrite v data s = .next y ∧ P y := by
  refine ⟨_, rfl, ?_⟩
  repeat' (first
    | with_reducible assumption
    | with_reducible apply bellPeriod_only (hc.sub (by decide))
    | with_reducible apply begin_only (hc.sub (by decide)))

theorem execTimeCtrlWrite_only {P : State → Prop} (hc : ClosedOn P [.time, .cmds, .ward, .trace, .out]) (v : View)
    (part : Part) (data : W64) (s : State) (hs0 : P s) :
    ∃ y, execTimeCtrlWrite v part data s = .next y ∧ P y := by
  refine ⟨_, rfl, ?_⟩
  repeat' (first
    | with_reducible assumption
    | with_reducible apply timeCtrl_only (hc.sub (by decide))
    | with_reducible apply begin_only (hc.sub (by decide)))

theorem execErrNflagClear_only {P : State → Prop} (hc : ClosedOn P [.nflag, .out]) (v : View) (t : Sec) (n : Fin 556)
    (mask : BitVec 5) (s : State) (hs0 : P s) :
    ∃ y, execErrNflagClear v t n mask s = .next y ∧ P y := by
  refine ⟨_, rfl, ?_⟩
  repeat' (first
    | with_reducible assumption
    | with_reducible apply clearNflag_only (hc.sub (by decide))
    | with_reducible apply begin_only (hc.sub (by decide)))

theorem execRecordClear_only {P : State → Prop} (hc : ClosedOn P [.sect, .ward, .trace, .out]) (v : View)
    (r : BitVec 4) (t : Sec) (valid : Bool) (s : State) (hs0 : P s) :
    ∃ y, execRecordClear v r t valid s = .next y ∧ P y := by
  refine ⟨_, rfl, ?_⟩
  repeat' (first
    | with_reducible assumption
    | with_reducible apply p_ite
    | with_reducible apply begin_only (hc.sub (by decide))
    | with_reducible apply clearRecord_only (hc.sub (by decide)))

theorem execHifWinctlWrite_only {P : State → Prop} (hc : ClosedOn P [.sect, .tiers, .hif, .ward, .out]) (v : View) (t : Sec)
    (data : W32) (s : State) (hs0 : P s) :
    ∃ y, execHifWinctlWrite v t data s = .next y ∧ P y := by
  refine ⟨_, rfl, ?_⟩
  repeat' (first
    | with_reducible assumption
    | with_reducible apply winctl_only (hc.sub (by decide))
    | with_reducible apply begin_only (hc.sub (by decide)))

theorem execHifDirWrite_only {P : State → Prop} (hc : ClosedOn P [.sect, .tiers, .hif, .ward, .out]) (v : View) (t : Sec)
    (part : Part) (data : W64) (s : State) (hs0 : P s) :
    ∃ y, execHifDirWrite v t part data s = .next y ∧ P y := by
  refine ⟨_, rfl, ?_⟩
  repeat' (first
    | with_reducible assumption
    | with_reducible apply hifDir_only (hc.sub (by decide))
    | with_reducible apply begin_only (hc.sub (by decide)))

theorem execRingEnable_only {P : State → Prop} (hc : ClosedOn P [.rings, .out]) (v : View) (p : Pair) (data : W32)
    (s : State) (hs0 : P s) :
    ∃ y, execRingEnable v p data s = .next y ∧ P y := by
  refine ⟨_, rfl, ?_⟩
  repeat' (first
    | with_reducible assumption
    | with_reducible apply ringCfg_only (hc.sub (by decide))
    | with_reducible apply begin_only (hc.sub (by decide)))

theorem execRingDisable_only {P : State → Prop} (hc : ClosedOn P [.rings, .out]) (v : View) (p : Pair) (data : W32)
    (s : State) (hs0 : P s) :
    ∃ y, execRingDisable v p data s = .next y ∧ P y := by
  refine ⟨_, rfl, ?_⟩
  repeat' (first
    | with_reducible assumption
    | with_reducible apply ringCfg_only (hc.sub (by decide))
    | with_reducible apply begin_only (hc.sub (by decide)))

theorem execFabLctlWrite_only {P : State → Prop}
    (hc : ClosedOn P [.links, .lctlPhys, .lctlEnable, .lctlRefused, .ward, .out]) (v : View) (part : Part) (data : W64) (s : State) (hs0 : P s) :
    ∃ y, execFabLctlWrite v part data s = .next y ∧ P y := by
  refine ⟨_, rfl, ?_⟩
  repeat' (first
    | with_reducible assumption
    | with_reducible apply fabLctl_only (hc.sub (by decide))
    | with_reducible apply begin_only (hc.sub (by decide)))

theorem execFabRccfgWrite_only {P : State → Prop} (hc : ClosedOn P [.sect, .out]) (v : View) (t : Sec) (data : W32)
    (s : State) (hs0 : P s) :
    ∃ y, execFabRccfgWrite v t data s = .next y ∧ P y := by
  refine ⟨_, rfl, ?_⟩
  repeat' (first
    | with_reducible assumption
    | with_reducible apply rccfg_only (hc.sub (by decide))
    | with_reducible apply begin_only (hc.sub (by decide)))

theorem execTraceRlcfgWrite_only {P : State → Prop} (hc : ClosedOn P [.trace, .out]) (v : View) (t : Sec)
    (part : Part) (data : W64) (s : State) (hs0 : P s) :
    ∃ y, execTraceRlcfgWrite v t part data s = .next y ∧ P y := by
  refine ⟨_, rfl, ?_⟩
  repeat' (first
    | with_reducible assumption
    | with_reducible apply rlcfg_only (hc.sub (by decide))
    | with_reducible apply begin_only (hc.sub (by decide)))

theorem execTraceRccfgWrite_only {P : State → Prop} (hc : ClosedOn P [.cmds, .recs, .trace, .out]) (v : View)
    (t : Sec) (part : Part) (data : W64) (s : State) (hs0 : P s) :
    ∃ y, execTraceRccfgWrite v t part data s = .next y ∧ P y := by
  refine ⟨_, rfl, ?_⟩
  repeat' (first
    | with_reducible assumption
    | with_reducible apply traceRccfg_only (hc.sub (by decide))
    | with_reducible apply begin_only (hc.sub (by decide)))

theorem execTraceTcfgWrite_only {P : State → Prop} (hc : ClosedOn P [.trace, .out]) (v : View) (t : Sec) (part : Part)
    (data : W64) (s : State) (hs0 : P s) :
    ∃ y, execTraceTcfgWrite v t part data s = .next y ∧ P y := by
  refine ⟨_, rfl, ?_⟩
  repeat' (first
    | with_reducible assumption
    | with_reducible apply traceTcfg_only (hc.sub (by decide))
    | with_reducible apply begin_only (hc.sub (by decide)))

theorem execPwrCdozeWrite_only {P : State → Prop} (hc : ClosedOn P [.sect, .power, .out]) (v : View) (t : Sec)
    (data : W32) (s : State) (hs0 : P s) :
    ∃ y, execPwrCdozeWrite v t data s = .next y ∧ P y := by
  refine ⟨_, rfl, ?_⟩
  repeat' (first
    | with_reducible assumption
    | with_reducible apply cdoze_only (hc.sub (by decide))
    | with_reducible apply begin_only (hc.sub (by decide)))

theorem execPwrMdozeWrite_only {P : State → Prop} (hc : ClosedOn P [.ward, .power, .out]) (v : View) (data : W32)
    (s : State) (hs0 : P s) :
    ∃ y, execPwrMdozeWrite v data s = .next y ∧ P y := by
  refine ⟨_, rfl, ?_⟩
  repeat' (first
    | with_reducible assumption
    | with_reducible apply mdoze_only (hc.sub (by decide))
    | with_reducible apply begin_only (hc.sub (by decide)))

theorem execPwrHdrWrite_only {P : State → Prop} (hc : ClosedOn P [.links, .headers, .ward, .power, .out]) (v : View)
    (data : W32) (s : State) (hs0 : P s) :
    ∃ y, execPwrHdrWrite v data s = .next y ∧ P y := by
  refine ⟨_, rfl, ?_⟩
  repeat' (first
    | with_reducible assumption
    | with_reducible apply hdrWrite_only (hc.sub (by decide))
    | with_reducible apply begin_only (hc.sub (by decide)))

theorem execBlockFillComplete_only {P : State → Prop} (hc : ClosedOn P [.sect, .tiers, .ward, .out]) (b : Fin 40960)
    (s : State) (hs0 : P s) :
    ∃ y, execBlockFillComplete b s = .next y ∧ P y := by
  refine ⟨_, rfl, ?_⟩
  repeat' (first
    | with_reducible assumption
    | (with_reducible refine fun _ => ?_)
    | ((try lift_lets); with_reducible intro x; first
        | (refine (fun (hx : P x) => ?_) ?_; on_goal 2 => (try unfold x); on_goal 1 => clear_value x)
        | clear_value x)
    | with_reducible apply p_ite
    | with_reducible apply begin_only (hc.sub (by decide))
    | with_reducible apply setGblk_only (hc.sub (by decide))
    | with_reducible apply setBlk_only (hc.sub (by decide))
    | with_reducible apply freeSection_only (hc.sub (by decide))
    | with_reducible apply modSect_only (hc.sub (by decide))
    | with_reducible apply p_foldl)

theorem execSectionScrubDone_only {P : State → Prop} (hc : ClosedOn P [.sect, .tiers, .ward, .out]) (t : Sec) (s : State)
    (hs0 : P s) :
    ∃ y, execSectionScrubDone t s = .next y ∧ P y := by
  refine ⟨_, rfl, ?_⟩
  repeat' (first
    | with_reducible assumption
    | (with_reducible refine fun _ => ?_)
    | ((try lift_lets); with_reducible intro x; refine (fun (hx : P x) => ?_) ?_; on_goal 2 => (try unfold x); on_goal 1 => clear_value x)
    | with_reducible apply p_ite
    | with_reducible apply begin_only (hc.sub (by decide))
    | with_reducible apply setBlk_only (hc.sub (by decide))
    | with_reducible apply freeSection_only (hc.sub (by decide))
    | with_reducible apply p_foldl)

theorem execClusterScrubComplete_only {P : State → Prop} (hc : ClosedOn P [.power, .out]) (x : Scrub) (s : State)
    (hs0 : P s) :
    ∃ y, execClusterScrubComplete x s = .next y ∧ P y := by
  refine ⟨_, rfl, ?_⟩
  repeat' (first
    | with_reducible assumption
    | with_reducible apply modPower_only (hc.sub (by decide))
    | with_reducible apply begin_only (hc.sub (by decide)))

theorem execSectCtlClustersWrite_only {P : State → Prop}
    (hc : ClosedOn P [.sect, .slots, .nflag, .rings, .steps, .loadPages, .cores, .store, .slate, .commons, .acc, .colls, .tiers, .hif, .ward, .power, .trace, .out]) (v : View) (t : Sec) (data : W32) (s : State) (hs0 : P s) :
    ∃ y, execSectCtlClustersWrite v t data s = .next y ∧ P y := by
  refine ⟨_, rfl, ?_⟩
  repeat' (first
    | with_reducible assumption
    | with_reducible apply sectCtl_only (hc.sub (by decide))
    | with_reducible apply begin_only (hc.sub (by decide)))

theorem execRelease_only {P : State → Prop}
    (hc : ClosedOn P [.sect, .slots, .nflag, .rings, .steps, .loadPages, .cores, .store, .slate, .commons, .acc, .colls, .tiers, .hif, .ward, .power, .trace, .out]) (v : View) (t : Sec) (data : W32) (s : State) (hs0 : P s) :
    ∃ y, execRelease v t data s = .next y ∧ P y := by
  refine ⟨_, rfl, ?_⟩
  repeat' (first
    | with_reducible assumption
    | with_reducible apply sectCtl_only (hc.sub (by decide))
    | with_reducible apply begin_only (hc.sub (by decide)))

theorem execSectCommonsWrite_only {P : State → Prop} (hc : ClosedOn P [.sect, .commons, .ward, .power, .out])
    (v : View) (t : Sec) (data : W32) (s : State) (hs0 : P s) :
    ∃ y, execSectCommonsWrite v t data s = .next y ∧ P y := by
  refine ⟨_, rfl, ?_⟩
  repeat' (first
    | with_reducible assumption
    | with_reducible apply sectCommons_only (hc.sub (by decide))
    | with_reducible apply begin_only (hc.sub (by decide)))

theorem execSectOwncmd_only {P : State → Prop} (hc : ClosedOn P [.ownRefused, .tiers, .hif, .ward, .out]) (v : View)
    (wide : Bool) (data : W64) (s : State) (hs0 : P s) :
    ∃ y, execSectOwncmd v wide data s = .next y ∧ P y := by
  refine ⟨_, rfl, ?_⟩
  repeat' (first
    | with_reducible assumption
    | with_reducible apply owncmd_only (hc.sub (by decide))
    | with_reducible apply begin_only (hc.sub (by decide)))

theorem execSectSlotWrite_only {P : State → Prop} (hc : ClosedOn P [.slots, .slotRefused, .ward, .out]) (v : View)
    (off : BitVec 12) (wide : Bool) (data : W64) (s : State) (hs0 : P s) :
    ∃ y, execSectSlotWrite v off wide data s = .next y ∧ P y := by
  refine ⟨_, rfl, ?_⟩
  repeat' (first
    | with_reducible assumption
    | with_reducible apply slotWrite_only (hc.sub (by decide))
    | with_reducible apply begin_only (hc.sub (by decide)))

theorem execMemBlkcfgWrite_only {P : State → Prop} (hc : ClosedOn P [.sect, .tiers, .hif, .ward, .out]) (v : View)
    (off : W16) (wide : Bool) (data : W64) (s : State) (hs0 : P s) :
    ∃ y, execMemBlkcfgWrite v off wide data s = .next y ∧ P y := by
  refine ⟨_, rfl, ?_⟩
  repeat' (first
    | with_reducible assumption
    | with_reducible apply blkcfg_only (hc.sub (by decide))
    | with_reducible apply begin_only (hc.sub (by decide)))

theorem execGroveBlkmodeWrite_only {P : State → Prop} (hc : ClosedOn P [.sect, .tiers, .hif, .ward, .out]) (v : View)
    (off : BitVec 13) (wide : Bool) (data : W64) (s : State) (hs0 : P s) :
    ∃ y, execGroveBlkmodeWrite v off wide data s = .next y ∧ P y := by
  refine ⟨_, rfl, ?_⟩
  repeat' (first
    | with_reducible assumption
    | with_reducible apply blkmode_only (hc.sub (by decide))
    | with_reducible apply begin_only (hc.sub (by decide)))

theorem execMemMrgnWrite_only {P : State → Prop} (hc : ClosedOn P [.sect, .tiers, .ward, .out]) (v : View) (t : Sec)
    (i : Fin 16) (part : Part) (data : W64) (s : State) (hs0 : P s) :
    ∃ y, execMemMrgnWrite v t i part data s = .next y ∧ P y := by
  refine ⟨_, rfl, ?_⟩
  repeat' (first
    | with_reducible assumption
    | with_reducible apply mrgnWrite_only (hc.sub (by decide))
    | with_reducible apply begin_only (hc.sub (by decide)))

theorem execSectRoleWrite_only {P : State → Prop} (hc : ClosedOn P [.sect, .steps, .out]) (v : View) (t : Sec)
    (data : W32) (s : State) (hs0 : P s) :
    ∃ y, execSectRoleWrite v t data s = .next y ∧ P y := by
  refine ⟨_, rfl, ?_⟩
  repeat' (first
    | with_reducible assumption
    | with_reducible apply sectRole_only (hc.sub (by decide))
    | with_reducible apply begin_only (hc.sub (by decide)))

theorem execChallenge_only {P : State → Prop} (hc : ClosedOn P [.ward, .out, .fresh]) (v : View) (role : BitVec 2)
    (s : State) (hs0 : P s) :
    ∃ y, execChallenge v role s = .next y ∧ P y := by
  refine ⟨_, rfl, ?_⟩
  repeat' (first
    | with_reducible assumption
    | (with_reducible refine fun _ => ?_)
    | with_reducible apply mailbox_only (hc.sub (by decide))
    | with_reducible apply begin_only (hc.sub (by decide))
    | with_reducible apply challenge_only (hc.sub (by decide)))

theorem execSubmit_only {P : State → Prop} (hc : ClosedOn P [.ward, .out]) (v : View) (s : State) (hs0 : P s) :
    ∃ y, execSubmit v s = .next y ∧ P y := by
  refine ⟨_, rfl, ?_⟩
  repeat' (first
    | with_reducible assumption
    | (with_reducible refine fun _ => ?_)
    | with_reducible apply mailbox_only (hc.sub (by decide))
    | with_reducible apply begin_only (hc.sub (by decide))
    | with_reducible apply submit_only (hc.sub (by decide)))

theorem execClose_only {P : State → Prop} (hc : ClosedOn P [.ward, .out]) (v : View) (s : State) (hs0 : P s) :
    ∃ y, execClose v s = .next y ∧ P y := by
  refine ⟨_, rfl, ?_⟩
  repeat' (first
    | with_reducible assumption
    | (with_reducible refine fun _ => ?_)
    | with_reducible apply mailbox_only (hc.sub (by decide))
    | with_reducible apply begin_only (hc.sub (by decide))
    | with_reducible apply closeByRole_only (hc.sub (by decide)))

theorem execSessionTimeout_only {P : State → Prop} (hc : ClosedOn P [.ward, .out]) (s : State) (hs0 : P s) :
    ∃ y, execSessionTimeout s = .next y ∧ P y := by
  refine ⟨_, rfl, ?_⟩
  repeat' (first
    | with_reducible assumption
    | with_reducible apply closeSession_only (hc.sub (by decide))
    | with_reducible apply begin_only (hc.sub (by decide)))

theorem execMailboxDrain_only {P : State → Prop} (hc : ClosedOn P [.ward, .out]) (v : View) (s : State) (hs0 : P s) :
    ∃ y, execMailboxDrain v s = .next y ∧ P y := by
  refine ⟨_, rfl, ?_⟩
  repeat' (first
    | with_reducible assumption
    | (with_reducible refine fun _ => ?_)
    | with_reducible apply mailbox_only (hc.sub (by decide))
    | with_reducible apply begin_only (hc.sub (by decide))
    | with_reducible apply mailboxDrain_only (hc.sub (by decide)))

theorem execMailboxReturn_only {P : State → Prop} (hc : ClosedOn P [.ward, .out]) (v : View) (s : State) (hs0 : P s) :
    ∃ y, execMailboxReturn v s = .next y ∧ P y := by
  refine ⟨_, rfl, ?_⟩
  repeat' (first
    | with_reducible assumption
    | (with_reducible refine fun _ => ?_)
    | with_reducible apply mailbox_only (hc.sub (by decide))
    | with_reducible apply begin_only (hc.sub (by decide))
    | with_reducible apply mailboxReturn_only (hc.sub (by decide)))

theorem execAuditAckWrite_only {P : State → Prop} (hc : ClosedOn P [.ward, .out]) (v : View) (part : Part)
    (data : W64) (s : State) (hs0 : P s) :
    ∃ y, execAuditAckWrite v part data s = .next y ∧ P y := by
  refine ⟨_, rfl, ?_⟩
  repeat' (first
    | with_reducible assumption
    | with_reducible apply ackWrite_only (hc.sub (by decide))
    | with_reducible apply begin_only (hc.sub (by decide)))

theorem execRedfishRequest_only {P : State → Prop} (hc : ClosedOn P [.links, .headers, .ward, .power, .out]) (who : Client)
    (a : Action) (s : State) (hs0 : P s) :
    ∃ y, execRedfishRequest who a s = .next y ∧ P y := by
  refine ⟨_, rfl, ?_⟩
  repeat' (first
    | with_reducible assumption
    | with_reducible apply redfish_only (hc.sub (by decide))
    | with_reducible apply begin_only (hc.sub (by decide)))

theorem execRedfishDrain_only {P : State → Prop} (hc : ClosedOn P [.ward, .out]) (who : Client) (s : State) (hs0 : P s) :
    ∃ y, execRedfishDrain who s = .next y ∧ P y := by
  refine ⟨_, rfl, ?_⟩
  repeat' (first
    | with_reducible assumption
    | (with_reducible refine fun _ => ?_)
    | ((try lift_lets); with_reducible intro x; first
        | (refine (fun (hx : P x) => ?_) ?_; on_goal 2 => (try unfold x); on_goal 1 => clear_value x)
        | clear_value x)
    | with_reducible apply p_ite
    | with_reducible apply emit_only (hc.sub (by decide))
    | with_reducible apply begin_only (hc.sub (by decide))
    | with_reducible apply operatorDrain_only (hc.sub (by decide))
    | with_reducible apply auditCard_only (hc.sub (by decide))
    | with_reducible apply rejectClient_only (hc.sub (by decide))
    | split
    | (with_reducible refine p_fst (by assumption) ?_)
    | with_reducible apply id_only (hc.sub (by decide)))

theorem execExportAcknowledgement_only {P : State → Prop} (hc : ClosedOn P [.ward, .out]) (who : Client) (seq : W64) (s : State) (hs0 : P s) :
    ∃ y, execExportAcknowledgement who seq s = .next y ∧ P y := by
  refine ⟨_, rfl, ?_⟩
  repeat' (first
    | with_reducible assumption
    | (with_reducible refine fun _ => ?_)
    | ((try lift_lets); with_reducible intro x; first
        | (refine (fun (hx : P x) => ?_) ?_; on_goal 2 => (try unfold x); on_goal 1 => clear_value x)
        | clear_value x)
    | with_reducible apply p_ite
    | with_reducible apply emit_only (hc.sub (by decide))
    | with_reducible apply begin_only (hc.sub (by decide))
    | with_reducible apply ackDo_only (hc.sub (by decide))
    | with_reducible apply auditRedfish_only (hc.sub (by decide))
    | with_reducible apply rejectClient_only (hc.sub (by decide))
    | split
    | (with_reducible refine p_fst (by assumption) ?_))

theorem execKeyEnrolment_only {P : State → Prop} (hc : ClosedOn P [.ward, .out]) (byMaker : Bool) (r sig : BitVec 384)
    (e : Enrol) (s : State) (hs0 : P s) :
    ∃ y, execKeyEnrolment byMaker r sig e s = .next y ∧ P y := by
  refine ⟨_, rfl, ?_⟩
  repeat' (first
    | with_reducible assumption
    | (with_reducible refine fun _ => ?_)
    | with_reducible apply p_ite
    | with_reducible apply begin_only (hc.sub (by decide))
    | with_reducible apply rejectClient_only (hc.sub (by decide))
    | with_reducible apply emit_only (hc.sub (by decide))
    | with_reducible apply auditRole_only (hc.sub (by decide))
    | with_reducible apply enrol_only (hc.sub (by decide))
    | with_reducible apply p_foldl
    | split)

theorem execFirmwareStage_only {P : State → Prop} (hc : ClosedOn P [.id, .ward, .out]) (who : Client)
    (version : BitVec 6) (namesCard : Bool) (package : Package) (s : State) (hs0 : P s) :
    ∃ y, execFirmwareStage who version namesCard package s = .next y ∧ P y := by
  refine ⟨_, rfl, ?_⟩
  repeat' (first
    | with_reducible assumption
    | (with_reducible refine fun _ => ?_)
    | ((try lift_lets); with_reducible intro x; first
        | (refine (fun (hx : P x) => ?_) ?_; on_goal 2 => (try unfold x); on_goal 1 => clear_value x)
        | (refine (fun (hx : (x : Ident) = x) => ?_) rfl; clear hx)
        | clear_value x)
    | with_reducible apply p_ite
    | with_reducible apply begin_only (hc.sub (by decide))
    | with_reducible apply rejectClient_only (hc.sub (by decide))
    | with_reducible apply auditRedfish_only (hc.sub (by decide))
    | with_reducible apply emit_only (hc.sub (by decide))
    | with_reducible apply modWard_only (hc.sub (by decide))
    | with_reducible apply id_only (hc.sub (by decide))
    | with_reducible apply p_foldl
    | split
    | (with_reducible refine p_fst (by assumption) ?_)
    | (with_reducible refine upd_id hc (by decide) _ ?_ rfl))

theorem execEventRetryExpiry_only {P : State → Prop} (hc : ClosedOn P [.ward, .out]) (s : State) (hs0 : P s) :
    ∃ y, execEventRetryExpiry s = .next y ∧ P y := by
  refine ⟨_, rfl, ?_⟩
  repeat' (first
    | with_reducible assumption
    | (with_reducible refine fun _ => ?_)
    | ((try lift_lets); with_reducible intro x; first
        | (refine (fun (hx : P x) => ?_) ?_; on_goal 2 => (try unfold x); on_goal 1 => clear_value x)
        | clear_value x)
    | with_reducible apply p_ite
    | with_reducible apply modWard_only (hc.sub (by decide))
    | with_reducible apply begin_only (hc.sub (by decide))
    | split
    | (with_reducible refine p_fst (by assumption) ?_))

theorem execPldmRequest_only {P : State → Prop} (hc : ClosedOn P [.out]) (q : Pldm) (s : State) (hs0 : P s) :
    ∃ y, execPldmRequest q s = .next y ∧ P y := by
  refine ⟨_, rfl, ?_⟩
  repeat' (first
    | with_reducible assumption
    | (with_reducible refine fun _ => ?_)
    | with_reducible apply p_ite
    | with_reducible apply begin_only (hc.sub (by decide))
    | with_reducible apply emit_only (hc.sub (by decide))
    | with_reducible apply p_foldl
    | split)

theorem execLogEntryWrite_only {P : State → Prop} (hc : ClosedOn P [.tiers, .trace, .budget, .out]) (t : Sec)
    (s : State) (hs0 : P s) :
    ∃ y, execLogEntryWrite t s = .next y ∧ P y := by
  refine ⟨_, rfl, ?_⟩
  repeat' (first
    | with_reducible assumption
    | with_reducible apply p_ite
    | with_reducible apply begin_only (hc.sub (by decide))
    | with_reducible apply writeLog_only (hc.sub (by decide)))

theorem execReplayComparison_only {P : State → Prop} (hc : ClosedOn P [.ward, .trace, .out]) (t : Sec)
    (s : State) (hs0 : P s) :
    ∃ y, execReplayComparison t s = .next y ∧ P y := by
  refine ⟨_, rfl, ?_⟩
  repeat' (first
    | with_reducible assumption
    | (with_reducible refine fun _ => ?_)
    | with_reducible apply p_ite
    | with_reducible apply begin_only (hc.sub (by decide))
    | with_reducible apply modTrace_only (hc.sub (by decide))
    | with_reducible apply rccfg_only (hc.sub (by decide))
    | with_reducible apply compareOne_only (hc.sub (by decide))
    | with_reducible apply p_foldl)

theorem execTraceRecordWrite_only {P : State → Prop} (hc : ClosedOn P [.tiers, .trace, .out]) (t : Sec) (s : State)
    (hs0 : P s) :
    ∃ y, execTraceRecordWrite t s = .next y ∧ P y := by
  refine ⟨_, rfl, ?_⟩
  repeat' (first
    | with_reducible assumption
    | with_reducible apply p_ite
    | with_reducible apply begin_only (hc.sub (by decide))
    | with_reducible apply writeTrace_only (hc.sub (by decide)))

theorem execClusterDoze_only {P : State → Prop} (hc : ClosedOn P [.cores, .store, .slate, .acc, .power, .trace, .out]) (c : Fin 16) (s : State) (hs0 : P s) :
    ∃ y, execClusterDoze c s = .next y ∧ P y := by
  refine ⟨_, rfl, ?_⟩
  repeat' (first
    | with_reducible assumption
    | (with_reducible refine fun _ => ?_)
    | ((try lift_lets); with_reducible intro x; first
        | (refine (fun (hx : P x) => ?_) ?_; on_goal 2 => (try unfold x); on_goal 1 => clear_value x)
        | clear_value x)
    | with_reducible apply p_ite
    | with_reducible apply begin_only (hc.sub (by decide))
    | with_reducible apply sleepCluster_only (hc.sub (by decide))
    | with_reducible apply zeroCluster_only (hc.sub (by decide))
    | with_reducible apply dozeRecord_only (hc.sub (by decide))
    | with_reducible apply p_foldl
    | split
    | (with_reducible refine p_fst (by assumption) ?_))

theorem execClusterWake_only {P : State → Prop} (hc : ClosedOn P [.sect, .power, .trace, .out]) (c : Fin 16) (s : State) (hs0 : P s) :
    ∃ y, execClusterWake c s = .next y ∧ P y := by
  refine ⟨_, rfl, ?_⟩
  repeat' (first
    | with_reducible assumption
    | (with_reducible refine fun _ => ?_)
    | ((try lift_lets); with_reducible intro x; first
        | (refine (fun (hx : P x) => ?_) ?_; on_goal 2 => (try unfold x); on_goal 1 => clear_value x)
        | clear_value x)
    | with_reducible apply p_ite
    | with_reducible apply modSect_only (hc.sub (by decide))
    | with_reducible apply modPower_only (hc.sub (by decide))
    | with_reducible apply begin_only (hc.sub (by decide))
    | with_reducible apply setClusterDomain_only (hc.sub (by decide))
    | with_reducible apply wakeRecord_only (hc.sub (by decide))
    | with_reducible apply p_foldl
    | split
    | (with_reducible refine p_fst (by assumption) ?_))

theorem execTierWakeComplete_only {P : State → Prop} (hc : ClosedOn P [.power, .out]) (bridge : Bool) (s : State)
    (hs0 : P s) :
    ∃ y, execTierWakeComplete bridge s = .next y ∧ P y := by
  refine ⟨_, rfl, ?_⟩
  repeat' (first
    | with_reducible assumption
    | (with_reducible refine fun _ => ?_)
    | ((try lift_lets); with_reducible intro x; refine (fun (hx : P x) => ?_) ?_; on_goal 2 => (try unfold x); on_goal 1 => clear_value x)
    | with_reducible apply p_ite
    | with_reducible apply begin_only (hc.sub (by decide))
    | with_reducible apply modPower_only (hc.sub (by decide))
    | with_reducible apply setDomain_only (hc.sub (by decide))
    | with_reducible apply p_foldl)

theorem execAssembly_only {P : State → Prop} (hc : ClosedOn P [.sect, .power, .out]) (s : State) (hs0 : P s) :
    ∃ y, execAssembly s = .next y ∧ P y := by
  refine ⟨_, rfl, ?_⟩
  repeat' (first
    | with_reducible assumption
    | with_reducible apply begin_only (hc.sub (by decide))
    | with_reducible apply requestWake_only (hc.sub (by decide))
    | with_reducible apply modPower_only (hc.sub (by decide)))

theorem execAssemblyComplete_only {P : State → Prop} (hc : ClosedOn P [.power, .out]) (s : State) (hs0 : P s) :
    ∃ y, execAssemblyComplete s = .next y ∧ P y := by
  refine ⟨_, rfl, ?_⟩
  repeat' (first
    | with_reducible assumption
    | (with_reducible refine fun _ => ?_)
    | ((try lift_lets); with_reducible intro x; first
        | (refine (fun (hx : P x) => ?_) ?_; on_goal 2 => (try unfold x); on_goal 1 => clear_value x)
        | clear_value x)
    | with_reducible apply p_ite
    | with_reducible apply modPower_only (hc.sub (by decide))
    | with_reducible apply begin_only (hc.sub (by decide))
    | with_reducible apply sleepUnassigned_only (hc.sub (by decide)))

theorem execAssemblyTimeout_only {P : State → Prop} (hc : ClosedOn P [.ward, .power, .out]) (s : State) (hs0 : P s) :
    ∃ y, execAssemblyTimeout s = .next y ∧ P y := by
  refine ⟨_, rfl, ?_⟩
  repeat' (first
    | with_reducible assumption
    | (with_reducible refine fun _ => ?_)
    | ((try lift_lets); with_reducible intro x; first
        | (refine (fun (hx : P x) => ?_) ?_; on_goal 2 => (try unfold x); on_goal 1 => clear_value x)
        | clear_value x)
    | with_reducible apply p_ite
    | with_reducible apply modWard_only (hc.sub (by decide))
    | with_reducible apply modPower_only (hc.sub (by decide))
    | with_reducible apply begin_only (hc.sub (by decide))
    | with_reducible apply suspect_only (hc.sub (by decide))
    | with_reducible apply sleepUnassigned_only (hc.sub (by decide)))

theorem execPresent_only {P : State → Prop}
    (hc : ClosedOn P [.time, .sect, .slots, .slotsNow, .slotRefused, .ownRefused, .nflag, .rings, .cmds, .recs, .steps, .images, .loadPages, .cores, .store, .slate, .commons, .acc, .colls, .tiers, .links, .lctlEnable, .lctlRefused, .headers, .hif, .ward, .power, .trace, .budget, .out]) (heldMs : Nat) (s : State) (hs0 : P s) :
    ∃ y, execPresent heldMs s = .next y ∧ P y := by
  refine ⟨_, rfl, ?_⟩
  repeat' (first
    | with_reducible assumption
    | with_reducible apply p_ite
    | with_reducible apply begin_only (hc.sub (by decide))
    | with_reducible apply modWard_only (hc.sub (by decide))
    | with_reducible apply powerOn_only (hc.sub (by decide)))

theorem execBoot_only {P : State → Prop} (hc : ClosedOn P [.id, .time, .ward, .out]) (activeOk otherOk : Bool)
    (s : State) (hs0 : P s) :
    ∃ y, execBoot activeOk otherOk s = .next y ∧ P y := by
  refine ⟨_, rfl, ?_⟩
  repeat' (first
    | with_reducible assumption
    | (with_reducible refine fun _ => ?_)
    | ((try lift_lets); with_reducible intro x; first
        | (refine (fun (hx : P x) => ?_) ?_; on_goal 2 => (try unfold x); on_goal 1 => clear_value x)
        | clear_value x)
    | with_reducible apply p_ite
    | with_reducible apply begin_only (hc.sub (by decide))
    | with_reducible apply modWard_only (hc.sub (by decide))
    | with_reducible apply activate_only (hc.sub (by decide))
    | with_reducible apply swapBanks_only (hc.sub (by decide))
    | with_reducible apply auditDevice_only (hc.sub (by decide))
    | with_reducible apply p_foldl
    | split
    | (with_reducible refine p_fst (by assumption) ?_)
    | (with_reducible refine upd_time hc (by decide) _ ?_))

theorem execMeasure_only {P : State → Prop}
    (hc : ClosedOn P [.time, .rings, .cmds, .recs, .cores, .store, .slate, .commons, .acc, .colls, .tiers, .links, .hif, .ward, .power, .out]) (mv inlet outlet : W16) (s : State) (hs0 : P s) :
    ∃ y, execMeasure mv inlet outlet s = .next y ∧ P y := by
  refine ⟨_, rfl, ?_⟩
  repeat' (first
    | with_reducible assumption
    | ((try lift_lets); with_reducible intro x; first
        | (refine (fun (hx : P x) => ?_) ?_; on_goal 2 => (try unfold x); on_goal 1 => clear_value x)
        | clear_value x)
    | with_reducible apply p_ite
    | with_reducible apply begin_only (hc.sub (by decide))
    | with_reducible apply modPower_only (hc.sub (by decide))
    | with_reducible apply modWard_only (hc.sub (by decide))
    | with_reducible apply powerFails_only (hc.sub (by decide))
    | with_reducible apply limitReached_only (hc.sub (by decide)))

theorem execMemory_only {P : State → Prop} (hc : ClosedOn P [.tiers, .ward, .power, .out]) (ok : Bool) (s : State) (hs0 : P s) :
    ∃ y, execMemory ok s = .next y ∧ P y := by
  have h0 := begin_only (hc.sub (by decide)) s hs0
  have h1 := modPower_only (hc.sub (by decide)) (begin s) (fun w => { w with on := w.on ||| 0xFFF0000 }) h0
  have h2 := upd_mem hc (by decide) { (begin s).tiers with mem := [], poison := [], upset := [] } h1 (fun _ => rfl)
  refine ⟨_, rfl, p_ite _ _ _ h0 ?_⟩
  exact p_ite _ _ _ (modWard_only (hc.sub (by decide)) _ _ h2) (stageFails_only (hc.sub (by decide)) _ h2)

theorem execCore_only {P : State → Prop} (hc : ClosedOn P [.id, .ward, .power, .out]) (answersOk : Bool) (s : State)
    (hs0 : P s) :
    ∃ y, execCore answersOk s = .next y ∧ P y := by
  refine ⟨_, rfl, ?_⟩
  repeat' (first
    | with_reducible assumption
    | (with_reducible refine fun _ => ?_)
    | ((try lift_lets); with_reducible intro x; first
        | (refine (fun (hx : P x) => ?_) ?_; on_goal 2 => (try unfold x); on_goal 1 => clear_value x)
        | (refine (fun (hx : (x : Ident) = x) => ?_) rfl; clear hx))
    | with_reducible apply p_ite
    | with_reducible apply begin_only (hc.sub (by decide))
    | with_reducible apply clustersOn_only (hc.sub (by decide))
    | with_reducible apply stageFails_only (hc.sub (by decide))
    | with_reducible apply id_only (hc.sub (by decide))
    | with_reducible apply modWard_only (hc.sub (by decide))
    | with_reducible apply p_foldl
    | split
    | (with_reducible refine p_fst (by assumption) ?_)
    | (with_reducible refine upd_id hc (by decide) _ ?_ rfl))

theorem execLinks_only {P : State → Prop} (hc : ClosedOn P [.links, .ward, .power, .out]) (s : State) (hs0 : P s) :
    ∃ y, execLinks s = .next y ∧ P y := by
  refine ⟨_, rfl, ?_⟩
  repeat' (first
    | with_reducible assumption
    | (with_reducible refine fun _ => ?_)
    | ((try lift_lets); with_reducible intro x; first
        | (refine (fun (hx : P x) => ?_) ?_; on_goal 2 => (try unfold x); on_goal 1 => clear_value x)
        | clear_value x)
    | with_reducible apply p_ite
    | with_reducible apply modWard_only (hc.sub (by decide))
    | with_reducible apply begin_only (hc.sub (by decide))
    | with_reducible apply headerOn_only (hc.sub (by decide))
    | with_reducible apply sleepUnassigned_only (hc.sub (by decide))
    | with_reducible apply p_foldl
    | split
    | (with_reducible refine p_fst (by assumption) ?_))

theorem execRegisterWrite_only {P : State → Prop}
    (hc : ClosedOn P [.time, .sect, .slots, .slotRefused, .ownRefused, .nflag, .rings, .cmds, .recs, .steps, .loadPages, .cores, .store, .slate, .commons, .acc, .colls, .tiers, .links, .lctlPhys, .lctlEnable, .lctlRefused, .headers, .hif, .ward, .power, .trace, .out, .fresh]) (addr : BitVec 25) (wide : Bool) (data : W64) (s : State) (hs0 : P s) :
    ∃ y, execRegisterWrite addr wide data s = .next y ∧ P y := by
  refine ⟨_, rfl, ?_⟩
  repeat' (first
    | with_reducible assumption
    | (with_reducible refine fun _ => ?_)
    | with_reducible apply p_ite
    | with_reducible apply begin_only (hc.sub (by decide))
    | with_reducible apply emit_only (hc.sub (by decide))
    | with_reducible apply viewWrite_only (hc.sub (by decide))
    | with_reducible apply p_foldl
    | split)

end Sys2Proof.Machine
end

