-- ==== Sys2Proof/Laws/PerInstr.lean ====
section
/-!
SUPPORT. What the fields of every well-formed command keep to, one lemma for each command.
-/
namespace Sys2Proof.Laws.Fields

/-- The descriptor that a command carries. -/
def descOf : Instr → Option Desc
  | .nop _ x => some x
  | .fence _ x => some x
  | .fenceCompletion _ => none
  | .loadImage _ x => some x
  | .unloadImage _ x => some x
  | .run _ x => some x
  | .repeatRun _ x => some x
  | .runStart _ => none
  | .microBatchStart _ => none
  | .runCompletion _ => none
  | .grove _ x => some x
  | .groveStart _ => none
  | .groveCompletion _ => none
  | .migrate _ x => some x
  | .preferCanopy _ x => some x
  | .preferUnder _ x => some x
  | .pin _ x => some x
  | .unpin _ x => some x
  | .willneed _ x => some x
  | .cold _ x => some x
  | .checkpoint _ x => some x
  | .checkpointCopyStart _ => none
  | .trancheDigestWrite _ => none
  | .inlineWrite _ x => some x
  | .seed _ x => some x
  | .timeMark _ x => some x
  | .timeMarkAtFrame _ => none
  | .reshard _ x => some x
  | .reshardStart _ => none
  | .drain _ x => some x
  | .drainTakesEffect _ => none
  | .queryStep _ x => some x
  | .queryPage _ x => some x
  | .queryLoad _ x => some x
  | .reservedOpcode _ _ x => some x
  | .doorbellReread _ _ _ => none
  | .completionRecordWrite _ => none
  | .snpData _ => none
  | .snpInv _ => none
  | .snpCur _ => none
  | .goWritePull _ => none
  | .goWritePullDrop _ => none
  | .memRd _ _ => none
  | .memWr _ _ _ _ => none
  | .memWrPtl _ _ _ _ _ => none
  | .memInv _ => none
  | .inboundBufferDrain _ => none
  | .backInvalidateRecall _ => none
  | .birsp _ => none
  | .birspOverdue _ => none
  | .configurationWrite _ => none
  | .cxlIoMemoryRequest _ _ => none
  | .hostLinkTraining _ _ _ _ => none
  | .dlDown => none
  | .secondaryBusReset => none
  | .d3hotEntry => none
  | .perst => none
  | .hdmDecoderCommit _ _ _ => none
  | .msixUnmask _ => none
  | .misalignedAccess _ _ _ => none
  | .registerWrite _ _ _ => none
  | .timeNowRead _ _ => none
  | .timeBellEpochWrite _ _ => none
  | .timeBellPeriodWrite _ _ => none
  | .timeCtrlWrite _ _ _ => none
  | .errNflagClear _ _ _ _ => none
  | .recordClear _ _ _ _ => none
  | .sectCtlClustersWrite _ _ _ => none
  | .release _ _ _ => none
  | .sectionScrubDone _ => none
  | .sectCommonsWrite _ _ _ => none
  | .sectOwncmd _ _ _ => none
  | .sectSlotWrite _ _ _ _ => none
  | .memBlkcfgWrite _ _ _ _ => none
  | .blockFillComplete _ => none
  | .groveBlkmodeWrite _ _ _ _ => none
  | .memMrgnWrite _ _ _ _ _ => none
  | .sectRoleWrite _ _ _ => none
  | .fabLctlWrite _ _ _ => none
  | .fabRccfgWrite _ _ _ => none
  | .hifWinctlWrite _ _ _ => none
  | .hifDirWrite _ _ _ _ => none
  | .ringEnable _ _ _ => none
  | .ringDisable _ _ _ => none
  | .traceRlcfgWrite _ _ _ _ => none
  | .traceRccfgWrite _ _ _ _ => none
  | .traceTcfgWrite _ _ _ _ => none
  | .pwrCdozeWrite _ _ _ => none
  | .pwrMdozeWrite _ _ => none
  | .pwrHdrWrite _ _ => none
  | .auditAckWrite _ _ _ => none
  | .challenge _ _ => none
  | .submit _ => none
  | .close _ => none
  | .mailboxDrain _ => none
  | .mailboxReturn _ => none
  | .sessionTimeout => none
  | .clusterScrubComplete _ => none
  | .tick => none
  | .guardBand => none
  | .syncMessage _ _ _ => none
  | .syncTimeout => none
  | .holdoverLimit => none
  | .bundleIssue _ => none
  | .bundleRetire _ _ => none
  | .arrangementSwitch _ => none
  | .chunkRequest _ _ => none
  | .chunkFilled _ _ => none
  | .linkUnitSend _ => none
  | .flitSend _ _ => none
  | .linkUnit _ _ => none
  | .dataFlit _ _ => none
  | .tokenFlit _ _ => none
  | .collFlit _ _ => none
  | .rollcallFlit _ _ => none
  | .timeFlit _ _ _ _ => none
  | .mgmtFlit _ _ => none
  | .drainFlit _ _ => none
  | .departFlit _ _ => none
  | .corruptedFlit _ => none
  | .replayTimeout _ _ => none
  | .fecLockLoss _ => none
  | .presenceChange _ _ => none
  | .phyTraining _ => none
  | .delayMeasurement _ => none
  | .linkStateLimit _ => none
  | .cableDelayUpdate _ => none
  | .headerOvercurrent _ => none
  | .powerOnHour _ => none
  | .rollcallContribution _ => none
  | .rollcallLevelSend _ => none
  | .rollcallCombine _ => none
  | .rollcallResultSend _ => none
  | .rollcallResult _ => none
  | .rollcallReturn _ => none
  | .pageSwitch _ => none
  | .patrolScrub _ _ => none
  | .sramUncorrectable _ => none
  | .logEntryWrite _ => none
  | .replayComparison _ => none
  | .traceRecordWrite _ => none
  | .clusterDoze _ => none
  | .clusterWake _ => none
  | .tierWakeComplete _ => none
  | .assembly => none
  | .assemblyComplete => none
  | .assemblyTimeout => none
  | .cardDrain => none
  | .departSend => none
  | .sentryKick _ => none
  | .sentryDeadline => none
  | .heartbeat _ => none
  | .powerFailure => none
  | .holdUpEnd => none
  | .inputOvervoltage _ => none
  | .railOvercurrent _ _ => none
  | .thermalLimit _ _ => none
  | .redfishRequest _ _ => none
  | .redfishDrain _ => none
  | .exportAcknowledgement _ _ => none
  | .keyEnrolment _ _ _ _ => none
  | .firmwareStage _ _ _ _ => none
  | .eventRetryExpiry => none
  | .pldmRequest _ => none
  | .present _ => none
  | .boot _ _ => none
  | .measure _ _ _ => none
  | .memory _ => none
  | .core _ => none
  | .links => none
  | .cmisIdentityRead _ _ => none

/-- The flit that a command carries. -/
def flitOf : Instr → Option Flit
  | .nop _ _ => none
  | .fence _ _ => none
  | .fenceCompletion _ => none
  | .loadImage _ _ => none
  | .unloadImage _ _ => none
  | .run _ _ => none
  | .repeatRun _ _ => none
  | .runStart _ => none
  | .microBatchStart _ => none
  | .runCompletion _ => none
  | .grove _ _ => none
  | .groveStart _ => none
  | .groveCompletion _ => none
  | .migrate _ _ => none
  | .preferCanopy _ _ => none
  | .preferUnder _ _ => none
  | .pin _ _ => none
  | .unpin _ _ => none
  | .willneed _ _ => none
  | .cold _ _ => none
  | .checkpoint _ _ => none
  | .checkpointCopyStart _ => none
  | .trancheDigestWrite _ => none
  | .inlineWrite _ _ => none
  | .seed _ _ => none
  | .timeMark _ _ => none
  | .timeMarkAtFrame _ => none
  | .reshard _ _ => none
  | .reshardStart _ => none
  | .drain _ _ => none
  | .drainTakesEffect _ => none
  | .queryStep _ _ => none
  | .queryPage _ _ => none
  | .queryLoad _ _ => none
  | .reservedOpcode _ _ _ => none
  | .doorbellReread _ _ _ => none
  | .completionRecordWrite _ => none
  | .snpData _ => none
  | .snpInv _ => none
  | .snpCur _ => none
  | .goWritePull _ => none
  | .goWritePullDrop _ => none
  | .memRd _ _ => none
  | .memWr _ _ _ _ => none
  | .memWrPtl _ _ _ _ _ => none
  | .memInv _ => none
  | .inboundBufferDrain _ => none
  | .backInvalidateRecall _ => none
  | .birsp _ => none
  | .birspOverdue _ => none
  | .configurationWrite _ => none
  | .cxlIoMemoryRequest _ _ => none
  | .hostLinkTraining _ _ _ _ => none
  | .dlDown => none
  | .secondaryBusReset => none
  | .d3hotEntry => none
  | .perst => none
  | .hdmDecoderCommit _ _ _ => none
  | .msixUnmask _ => none
  | .misalignedAccess _ _ _ => none
  | .registerWrite _ _ _ => none
  | .timeNowRead _ _ => none
  | .timeBellEpochWrite _ _ => none
  | .timeBellPeriodWrite _ _ => none
  | .timeCtrlWrite _ _ _ => none
  | .errNflagClear _ _ _ _ => none
  | .recordClear _ _ _ _ => none
  | .sectCtlClustersWrite _ _ _ => none
  | .release _ _ _ => none
  | .sectionScrubDone _ => none
  | .sectCommonsWrite _ _ _ => none
  | .sectOwncmd _ _ _ => none
  | .sectSlotWrite _ _ _ _ => none
  | .memBlkcfgWrite _ _ _ _ => none
  | .blockFillComplete _ => none
  | .groveBlkmodeWrite _ _ _ _ => none
  | .memMrgnWrite _ _ _ _ _ => none
  | .sectRoleWrite _ _ _ => none
  | .fabLctlWrite _ _ _ => none
  | .fabRccfgWrite _ _ _ => none
  | .hifWinctlWrite _ _ _ => none
  | .hifDirWrite _ _ _ _ => none
  | .ringEnable _ _ _ => none
  | .ringDisable _ _ _ => none
  | .traceRlcfgWrite _ _ _ _ => none
  | .traceRccfgWrite _ _ _ _ => none
  | .traceTcfgWrite _ _ _ _ => none
  | .pwrCdozeWrite _ _ _ => none
  | .pwrMdozeWrite _ _ => none
  | .pwrHdrWrite _ _ => none
  | .auditAckWrite _ _ _ => none
  | .challenge _ _ => none
  | .submit _ => none
  | .close _ => none
  | .mailboxDrain _ => none
  | .mailboxReturn _ => none
  | .sessionTimeout => none
  | .clusterScrubComplete _ => none
  | .tick => none
  | .guardBand => none
  | .syncMessage _ _ _ => none
  | .syncTimeout => none
  | .holdoverLimit => none
  | .bundleIssue _ => none
  | .bundleRetire _ _ => none
  | .arrangementSwitch _ => none
  | .chunkRequest _ _ => none
  | .chunkFilled _ _ => none
  | .linkUnitSend _ => none
  | .flitSend _ _ => none
  | .linkUnit _ _ => none
  | .dataFlit _ x => some x
  | .tokenFlit _ x => some x
  | .collFlit _ x => some x
  | .rollcallFlit _ x => some x
  | .timeFlit _ x _ _ => some x
  | .mgmtFlit _ x => some x
  | .drainFlit _ x => some x
  | .departFlit _ x => some x
  | .corruptedFlit _ => none
  | .replayTimeout _ _ => none
  | .fecLockLoss _ => none
  | .presenceChange _ _ => none
  | .phyTraining _ => none
  | .delayMeasurement _ => none
  | .linkStateLimit _ => none
  | .cableDelayUpdate _ => none
  | .headerOvercurrent _ => none
  | .powerOnHour _ => none
  | .rollcallContribution _ => none
  | .rollcallLevelSend _ => none
  | .rollcallCombine _ => none
  | .rollcallResultSend _ => none
  | .rollcallResult _ => none
  | .rollcallReturn _ => none
  | .pageSwitch _ => none
  | .patrolScrub _ _ => none
  | .sramUncorrectable _ => none
  | .logEntryWrite _ => none
  | .replayComparison _ => none
  | .traceRecordWrite _ => none
  | .clusterDoze _ => none
  | .clusterWake _ => none
  | .tierWakeComplete _ => none
  | .assembly => none
  | .assemblyComplete => none
  | .assemblyTimeout => none
  | .cardDrain => none
  | .departSend => none
  | .sentryKick _ => none
  | .sentryDeadline => none
  | .heartbeat _ => none
  | .powerFailure => none
  | .holdUpEnd => none
  | .inputOvervoltage _ => none
  | .railOvercurrent _ _ => none
  | .thermalLimit _ _ => none
  | .redfishRequest _ _ => none
  | .redfishDrain _ => none
  | .exportAcknowledgement _ _ => none
  | .keyEnrolment _ _ _ _ => none
  | .firmwareStage _ _ _ _ => none
  | .eventRetryExpiry => none
  | .pldmRequest _ => none
  | .present _ => none
  | .boot _ _ => none
  | .measure _ _ _ => none
  | .memory _ => none
  | .core _ => none
  | .links => none
  | .cmisIdentityRead _ _ => none

/-- The host line that a command names. -/
def lineOf : Instr → Option W64
  | .nop _ _ => none
  | .fence _ _ => none
  | .fenceCompletion _ => none
  | .loadImage _ _ => none
  | .unloadImage _ _ => none
  | .run _ _ => none
  | .repeatRun _ _ => none
  | .runStart _ => none
  | .microBatchStart _ => none
  | .runCompletion _ => none
  | .grove _ _ => none
  | .groveStart _ => none
  | .groveCompletion _ => none
  | .migrate _ _ => none
  | .preferCanopy _ _ => none
  | .preferUnder _ _ => none
  | .pin _ _ => none
  | .unpin _ _ => none
  | .willneed _ _ => none
  | .cold _ _ => none
  | .checkpoint _ _ => none
  | .checkpointCopyStart _ => none
  | .trancheDigestWrite _ => none
  | .inlineWrite _ _ => none
  | .seed _ _ => none
  | .timeMark _ _ => none
  | .timeMarkAtFrame _ => none
  | .reshard _ _ => none
  | .reshardStart _ => none
  | .drain _ _ => none
  | .drainTakesEffect _ => none
  | .queryStep _ _ => none
  | .queryPage _ _ => none
  | .queryLoad _ _ => none
  | .reservedOpcode _ _ _ => none
  | .doorbellReread _ _ _ => none
  | .completionRecordWrite _ => none
  | .snpData x => some x
  | .snpInv x => some x
  | .snpCur x => some x
  | .goWritePull x => some x
  | .goWritePullDrop x => some x
  | .memRd x _ => some x
  | .memWr x _ _ _ => some x
  | .memWrPtl x _ _ _ _ => some x
  | .memInv x => some x
  | .inboundBufferDrain _ => none
  | .backInvalidateRecall _ => none
  | .birsp x => some x.line
  | .birspOverdue x => some x
  | .configurationWrite _ => none
  | .cxlIoMemoryRequest _ _ => none
  | .hostLinkTraining _ _ _ _ => none
  | .dlDown => none
  | .secondaryBusReset => none
  | .d3hotEntry => none
  | .perst => none
  | .hdmDecoderCommit _ _ _ => none
  | .msixUnmask _ => none
  | .misalignedAccess _ _ _ => none
  | .registerWrite _ _ _ => none
  | .timeNowRead _ _ => none
  | .timeBellEpochWrite _ _ => none
  | .timeBellPeriodWrite _ _ => none
  | .timeCtrlWrite _ _ _ => none
  | .errNflagClear _ _ _ _ => none
  | .recordClear _ _ _ _ => none
  | .sectCtlClustersWrite _ _ _ => none
  | .release _ _ _ => none
  | .sectionScrubDone _ => none
  | .sectCommonsWrite _ _ _ => none
  | .sectOwncmd _ _ _ => none
  | .sectSlotWrite _ _ _ _ => none
  | .memBlkcfgWrite _ _ _ _ => none
  | .blockFillComplete _ => none
  | .groveBlkmodeWrite _ _ _ _ => none
  | .memMrgnWrite _ _ _ _ _ => none
  | .sectRoleWrite _ _ _ => none
  | .fabLctlWrite _ _ _ => none
  | .fabRccfgWrite _ _ _ => none
  | .hifWinctlWrite _ _ _ => none
  | .hifDirWrite _ _ _ _ => none
  | .ringEnable _ _ _ => none
  | .ringDisable _ _ _ => none
  | .traceRlcfgWrite _ _ _ _ => none
  | .traceRccfgWrite _ _ _ _ => none
  | .traceTcfgWrite _ _ _ _ => none
  | .pwrCdozeWrite _ _ _ => none
  | .pwrMdozeWrite _ _ => none
  | .pwrHdrWrite _ _ => none
  | .auditAckWrite _ _ _ => none
  | .challenge _ _ => none
  | .submit _ => none
  | .close _ => none
  | .mailboxDrain _ => none
  | .mailboxReturn _ => none
  | .sessionTimeout => none
  | .clusterScrubComplete _ => none
  | .tick => none
  | .guardBand => none
  | .syncMessage _ _ _ => none
  | .syncTimeout => none
  | .holdoverLimit => none
  | .bundleIssue _ => none
  | .bundleRetire _ _ => none
  | .arrangementSwitch _ => none
  | .chunkRequest _ _ => none
  | .chunkFilled _ _ => none
  | .linkUnitSend _ => none
  | .flitSend _ _ => none
  | .linkUnit _ _ => none
  | .dataFlit _ _ => none
  | .tokenFlit _ _ => none
  | .collFlit _ _ => none
  | .rollcallFlit _ _ => none
  | .timeFlit _ _ _ _ => none
  | .mgmtFlit _ _ => none
  | .drainFlit _ _ => none
  | .departFlit _ _ => none
  | .corruptedFlit _ => none
  | .replayTimeout _ _ => none
  | .fecLockLoss _ => none
  | .presenceChange _ _ => none
  | .phyTraining _ => none
  | .delayMeasurement _ => none
  | .linkStateLimit _ => none
  | .cableDelayUpdate _ => none
  | .headerOvercurrent _ => none
  | .powerOnHour _ => none
  | .rollcallContribution _ => none
  | .rollcallLevelSend _ => none
  | .rollcallCombine _ => none
  | .rollcallResultSend _ => none
  | .rollcallResult _ => none
  | .rollcallReturn _ => none
  | .pageSwitch _ => none
  | .patrolScrub _ _ => none
  | .sramUncorrectable _ => none
  | .logEntryWrite _ => none
  | .replayComparison _ => none
  | .traceRecordWrite _ => none
  | .clusterDoze _ => none
  | .clusterWake _ => none
  | .tierWakeComplete _ => none
  | .assembly => none
  | .assemblyComplete => none
  | .assemblyTimeout => none
  | .cardDrain => none
  | .departSend => none
  | .sentryKick _ => none
  | .sentryDeadline => none
  | .heartbeat _ => none
  | .powerFailure => none
  | .holdUpEnd => none
  | .inputOvervoltage _ => none
  | .railOvercurrent _ _ => none
  | .thermalLimit _ _ => none
  | .redfishRequest _ _ => none
  | .redfishDrain _ => none
  | .exportAcknowledgement _ _ => none
  | .keyEnrolment _ _ _ _ => none
  | .firmwareStage _ _ _ _ => none
  | .eventRetryExpiry => none
  | .pldmRequest _ => none
  | .present _ => none
  | .boot _ _ => none
  | .measure _ _ _ => none
  | .memory _ => none
  | .core _ => none
  | .links => none
  | .cmisIdentityRead _ _ => none

/-- R397, R266, R374: a descriptor has at most seven follow-on slots, a flit at most 240 bytes in one of five sequence
spaces, and a host line starts on 64 bytes. -/
def Statement (i : Instr) : Prop :=
  wellFormed i = true → (∀ d, descOf i = some d → d.follow.length < 8) ∧
    (∀ f, flitOf i = some f → f.len.toNat ≤ 240 ∧ f.space.toNat < 5) ∧ ∀ a, lineOf i = some a → a.toNat % 64 = 0

/-- A command without descriptor, flit or line. -/
theorem plain {i : Instr} (hd : descOf i = none) (hf : flitOf i = none) (hl : lineOf i = none) : Statement i := by
  simp [Statement, hd, hf, hl]

/-- A descriptor that comes with its follow-on slots has at most seven. -/
theorem desc {i : Instr} {d : Desc} (hd : descOf i = some d) (hf : flitOf i = none) (hl : lineOf i = none)
    (h : wellFormed i = true → d.wf = true) : Statement i := by
  intro hw
  have h2 := h hw
  simp only [Desc.wf, beq_iff_eq] at h2
  have h3 := (d.inline.extractLsb' 0 3).isLt
  simp only [hd, hf, hl]
  refine ⟨?_, by simp, by simp⟩
  rintro _ ⟨⟩
  omega

/-- A flit. -/
theorem flit {i : Instr} {f : Flit} (hd : descOf i = none) (hf : flitOf i = some f) (hl : lineOf i = none)
    (h : wellFormed i = f.wf) : Statement i := by
  intro hw
  rw [h] at hw
  simp only [Flit.wf, Bool.and_eq_true, decide_eq_true_eq] at hw
  simp only [hd, hf, hl]
  refine ⟨by simp, ?_, by simp⟩
  rintro _ ⟨⟩
  exact hw

/-- A line. -/
theorem line {i : Instr} {a : W64} (hd : descOf i = none) (hf : flitOf i = none) (hl : lineOf i = some a)
    (h : wellFormed i = (a.toNat % 64 == 0)) : Statement i := by
  intro hw
  rw [h] at hw
  simp only [hd, hf, hl]
  refine ⟨by simp, by simp, ?_⟩
  rintro _ ⟨⟩
  simpa using hw

theorem nop (x0 : Pair) (x1 : Desc) : Statement (.nop x0 x1) := desc rfl rfl rfl id
theorem fence (x0 : Pair) (x1 : Desc) : Statement (.fence x0 x1) := desc rfl rfl rfl id
theorem fenceCompletion (x0 : Pair) : Statement (.fenceCompletion x0) := plain rfl rfl rfl
theorem loadImage (x0 : Pair) (x1 : Desc) : Statement (.loadImage x0 x1) := desc rfl rfl rfl id
theorem unloadImage (x0 : Pair) (x1 : Desc) : Statement (.unloadImage x0 x1) := desc rfl rfl rfl id
theorem run (x0 : Pair) (x1 : Desc) : Statement (.run x0 x1) := desc rfl rfl rfl id
theorem repeatRun (x0 : Pair) (x1 : Desc) : Statement (.repeatRun x0 x1) := desc rfl rfl rfl id
theorem runStart (x0 : Sec) : Statement (.runStart x0) := plain rfl rfl rfl
theorem microBatchStart (x0 : Sec) : Statement (.microBatchStart x0) := plain rfl rfl rfl
theorem runCompletion (x0 : Sec) : Statement (.runCompletion x0) := plain rfl rfl rfl
theorem grove (x0 : Pair) (x1 : Desc) : Statement (.grove x0 x1) := desc rfl rfl rfl id
theorem groveStart (x0 : Sec) : Statement (.groveStart x0) := plain rfl rfl rfl
theorem groveCompletion (x0 : Sec) : Statement (.groveCompletion x0) := plain rfl rfl rfl
theorem migrate (x0 : Pair) (x1 : Desc) : Statement (.migrate x0 x1) := desc rfl rfl rfl id
theorem preferCanopy (x0 : Pair) (x1 : Desc) : Statement (.preferCanopy x0 x1) := desc rfl rfl rfl id
theorem preferUnder (x0 : Pair) (x1 : Desc) : Statement (.preferUnder x0 x1) := desc rfl rfl rfl id
theorem pin (x0 : Pair) (x1 : Desc) : Statement (.pin x0 x1) := desc rfl rfl rfl id
theorem unpin (x0 : Pair) (x1 : Desc) : Statement (.unpin x0 x1) := desc rfl rfl rfl id
theorem willneed (x0 : Pair) (x1 : Desc) : Statement (.willneed x0 x1) := desc rfl rfl rfl id
theorem cold (x0 : Pair) (x1 : Desc) : Statement (.cold x0 x1) := desc rfl rfl rfl id
theorem checkpoint (x0 : Pair) (x1 : Desc) : Statement (.checkpoint x0 x1) := desc rfl rfl rfl id
theorem checkpointCopyStart (x0 : Sec) : Statement (.checkpointCopyStart x0) := plain rfl rfl rfl
theorem trancheDigestWrite (x0 : Sec) : Statement (.trancheDigestWrite x0) := plain rfl rfl rfl
theorem inlineWrite (x0 : Pair) (x1 : Desc) : Statement (.inlineWrite x0 x1) := desc rfl rfl rfl id
theorem seed (x0 : Pair) (x1 : Desc) : Statement (.seed x0 x1) := desc rfl rfl rfl id
theorem timeMark (x0 : Pair) (x1 : Desc) : Statement (.timeMark x0 x1) := desc rfl rfl rfl id
theorem timeMarkAtFrame (x0 : Sec) : Statement (.timeMarkAtFrame x0) := plain rfl rfl rfl
theorem reshard (x0 : Pair) (x1 : Desc) : Statement (.reshard x0 x1) := desc rfl rfl rfl id
theorem reshardStart (x0 : Sec) : Statement (.reshardStart x0) := plain rfl rfl rfl
theorem drain (x0 : Pair) (x1 : Desc) : Statement (.drain x0 x1) := desc rfl rfl rfl id
theorem drainTakesEffect (x0 : Sec) : Statement (.drainTakesEffect x0) := plain rfl rfl rfl
theorem queryStep (x0 : Pair) (x1 : Desc) : Statement (.queryStep x0 x1) := desc rfl rfl rfl id
theorem queryPage (x0 : Pair) (x1 : Desc) : Statement (.queryPage x0 x1) := desc rfl rfl rfl id
theorem queryLoad (x0 : Pair) (x1 : Desc) : Statement (.queryLoad x0 x1) := desc rfl rfl rfl id
theorem reservedOpcode (x0 : Pair) (x1 : BitVec 8) (x2 : Desc) : Statement (.reservedOpcode x0 x1 x2) :=
  desc rfl rfl rfl (fun h => (Bool.and_eq_true _ _ ▸ h).2)
theorem doorbellReread (x0 : Pair) (x1 : W32) (x2 : W32) : Statement (.doorbellReread x0 x1 x2) := plain rfl rfl rfl
theorem completionRecordWrite (x0 : Sec) : Statement (.completionRecordWrite x0) := plain rfl rfl rfl
theorem snpData (x0 : W64) : Statement (.snpData x0) := line rfl rfl rfl rfl
theorem snpInv (x0 : W64) : Statement (.snpInv x0) := line rfl rfl rfl rfl
theorem snpCur (x0 : W64) : Statement (.snpCur x0) := line rfl rfl rfl rfl
theorem goWritePull (x0 : W64) : Statement (.goWritePull x0) := line rfl rfl rfl rfl
theorem goWritePullDrop (x0 : W64) : Statement (.goWritePullDrop x0) := line rfl rfl rfl rfl
theorem memRd (x0 : W64) (x1 : Meta) : Statement (.memRd x0 x1) := line rfl rfl rfl rfl
theorem memWr (x0 : W64) (x1 : Meta) (x2 : BitVec 512) (x3 : Bool) : Statement (.memWr x0 x1 x2 x3) :=
  line rfl rfl rfl rfl
theorem memWrPtl (x0 : W64) (x1 : Meta) (x2 : BitVec 512) (x3 : W64) (x4 : Bool) : Statement (.memWrPtl x0 x1 x2 x3 x4) :=
  line rfl rfl rfl rfl
theorem memInv (x0 : W64) : Statement (.memInv x0) := line rfl rfl rfl rfl
theorem inboundBufferDrain (x0 : Nat) : Statement (.inboundBufferDrain x0) := plain rfl rfl rfl
theorem backInvalidateRecall (x0 : Sec) : Statement (.backInvalidateRecall x0) := plain rfl rfl rfl
theorem birsp (x0 : BirspIn) : Statement (.birsp x0) := line rfl rfl rfl rfl
theorem birspOverdue (x0 : W64) : Statement (.birspOverdue x0) := line rfl rfl rfl rfl
theorem configurationWrite (x0 : W16) : Statement (.configurationWrite x0) := plain rfl rfl rfl
theorem cxlIoMemoryRequest (x0 : W16) (x1 : Bool) : Statement (.cxlIoMemoryRequest x0 x1) := plain rfl rfl rfl
theorem hostLinkTraining (x0 : BitVec 4) (x1 : BitVec 5) (x2 : Bool) (x3 : Bool) : Statement (.hostLinkTraining x0 x1 x2 x3) :=
  plain rfl rfl rfl
theorem dlDown : Statement (.dlDown) := plain rfl rfl rfl
theorem secondaryBusReset : Statement (.secondaryBusReset) := plain rfl rfl rfl
theorem d3hotEntry : Statement (.d3hotEntry) := plain rfl rfl rfl
theorem perst : Statement (.perst) := plain rfl rfl rfl
theorem hdmDecoderCommit (x0 : Fin 2) (x1 : W64) (x2 : Nat) : Statement (.hdmDecoderCommit x0 x1 x2) :=
  plain rfl rfl rfl
theorem msixUnmask (x0 : Pair) : Statement (.msixUnmask x0) := plain rfl rfl rfl
theorem misalignedAccess (x0 : BitVec 25) (x1 : Nat) (x2 : Bool) : Statement (.misalignedAccess x0 x1 x2) :=
  plain rfl rfl rfl
theorem registerWrite (x0 : BitVec 25) (x1 : Bool) (x2 : W64) : Statement (.registerWrite x0 x1 x2) :=
  plain rfl rfl rfl
theorem timeNowRead (x0 : W64) (x1 : W32) : Statement (.timeNowRead x0 x1) := plain rfl rfl rfl
theorem timeBellEpochWrite (x0 : View) (x1 : W64) : Statement (.timeBellEpochWrite x0 x1) := plain rfl rfl rfl
theorem timeBellPeriodWrite (x0 : View) (x1 : W64) : Statement (.timeBellPeriodWrite x0 x1) := plain rfl rfl rfl
theorem timeCtrlWrite (x0 : View) (x1 : Part) (x2 : W64) : Statement (.timeCtrlWrite x0 x1 x2) := plain rfl rfl rfl
theorem errNflagClear (x0 : View) (x1 : Sec) (x2 : Fin 556) (x3 : BitVec 5) : Statement (.errNflagClear x0 x1 x2 x3) :=
  plain rfl rfl rfl
theorem recordClear (x0 : View) (x1 : BitVec 4) (x2 : Sec) (x3 : Bool) : Statement (.recordClear x0 x1 x2 x3) :=
  plain rfl rfl rfl
theorem sectCtlClustersWrite (x0 : View) (x1 : Sec) (x2 : W32) : Statement (.sectCtlClustersWrite x0 x1 x2) :=
  plain rfl rfl rfl
theorem release (x0 : View) (x1 : Sec) (x2 : W32) : Statement (.release x0 x1 x2) := plain rfl rfl rfl
theorem sectionScrubDone (x0 : Sec) : Statement (.sectionScrubDone x0) := plain rfl rfl rfl
theorem sectCommonsWrite (x0 : View) (x1 : Sec) (x2 : W32) : Statement (.sectCommonsWrite x0 x1 x2) :=
  plain rfl rfl rfl
theorem sectOwncmd (x0 : View) (x1 : Bool) (x2 : W64) : Statement (.sectOwncmd x0 x1 x2) := plain rfl rfl rfl
theorem sectSlotWrite (x0 : View) (x1 : BitVec 12) (x2 : Bool) (x3 : W64) : Statement (.sectSlotWrite x0 x1 x2 x3) :=
  plain rfl rfl rfl
theorem memBlkcfgWrite (x0 : View) (x1 : W16) (x2 : Bool) (x3 : W64) : Statement (.memBlkcfgWrite x0 x1 x2 x3) :=
  plain rfl rfl rfl
theorem blockFillComplete (x0 : Fin 40960) : Statement (.blockFillComplete x0) := plain rfl rfl rfl
theorem groveBlkmodeWrite (x0 : View) (x1 : BitVec 13) (x2 : Bool) (x3 : W64) : Statement (.groveBlkmodeWrite x0 x1 x2 x3) :=
  plain rfl rfl rfl
theorem memMrgnWrite (x0 : View) (x1 : Sec) (x2 : Fin 16) (x3 : Part) (x4 : W64) : Statement (.memMrgnWrite x0 x1 x2 x3 x4) :=
  plain rfl rfl rfl
theorem sectRoleWrite (x0 : View) (x1 : Sec) (x2 : W32) : Statement (.sectRoleWrite x0 x1 x2) := plain rfl rfl rfl
theorem fabLctlWrite (x0 : View) (x1 : Part) (x2 : W64) : Statement (.fabLctlWrite x0 x1 x2) := plain rfl rfl rfl
theorem fabRccfgWrite (x0 : View) (x1 : Sec) (x2 : W32) : Statement (.fabRccfgWrite x0 x1 x2) := plain rfl rfl rfl
theorem hifWinctlWrite (x0 : View) (x1 : Sec) (x2 : W32) : Statement (.hifWinctlWrite x0 x1 x2) := plain rfl rfl rfl
theorem hifDirWrite (x0 : View) (x1 : Sec) (x2 : Part) (x3 : W64) : Statement (.hifDirWrite x0 x1 x2 x3) :=
  plain rfl rfl rfl
theorem ringEnable (x0 : View) (x1 : Pair) (x2 : W32) : Statement (.ringEnable x0 x1 x2) := plain rfl rfl rfl
theorem ringDisable (x0 : View) (x1 : Pair) (x2 : W32) : Statement (.ringDisable x0 x1 x2) := plain rfl rfl rfl
theorem traceRlcfgWrite (x0 : View) (x1 : Sec) (x2 : Part) (x3 : W64) : Statement (.traceRlcfgWrite x0 x1 x2 x3) :=
  plain rfl rfl rfl
theorem traceRccfgWrite (x0 : View) (x1 : Sec) (x2 : Part) (x3 : W64) : Statement (.traceRccfgWrite x0 x1 x2 x3) :=
  plain rfl rfl rfl
theorem traceTcfgWrite (x0 : View) (x1 : Sec) (x2 : Part) (x3 : W64) : Statement (.traceTcfgWrite x0 x1 x2 x3) :=
  plain rfl rfl rfl
theorem pwrCdozeWrite (x0 : View) (x1 : Sec) (x2 : W32) : Statement (.pwrCdozeWrite x0 x1 x2) := plain rfl rfl rfl
theorem pwrMdozeWrite (x0 : View) (x1 : W32) : Statement (.pwrMdozeWrite x0 x1) := plain rfl rfl rfl
theorem pwrHdrWrite (x0 : View) (x1 : W32) : Statement (.pwrHdrWrite x0 x1) := plain rfl rfl rfl
theorem auditAckWrite (x0 : View) (x1 : Part) (x2 : W64) : Statement (.auditAckWrite x0 x1 x2) := plain rfl rfl rfl
theorem challenge (x0 : View) (x1 : BitVec 2) : Statement (.challenge x0 x1) := plain rfl rfl rfl
theorem submit (x0 : View) : Statement (.submit x0) := plain rfl rfl rfl
theorem close (x0 : View) : Statement (.close x0) := plain rfl rfl rfl
theorem mailboxDrain (x0 : View) : Statement (.mailboxDrain x0) := plain rfl rfl rfl
theorem mailboxReturn (x0 : View) : Statement (.mailboxReturn x0) := plain rfl rfl rfl
theorem sessionTimeout : Statement (.sessionTimeout) := plain rfl rfl rfl
theorem clusterScrubComplete (x0 : Scrub) : Statement (.clusterScrubComplete x0) := plain rfl rfl rfl
theorem tick : Statement (.tick) := plain rfl rfl rfl
theorem guardBand : Statement (.guardBand) := plain rfl rfl rfl
theorem syncMessage (x0 : W64) (x1 : BitVec 8) (x2 : W32) : Statement (.syncMessage x0 x1 x2) := plain rfl rfl rfl
theorem syncTimeout : Statement (.syncTimeout) := plain rfl rfl rfl
theorem holdoverLimit : Statement (.holdoverLimit) := plain rfl rfl rfl
theorem bundleIssue (x0 : Fin 128) : Statement (.bundleIssue x0) := plain rfl rfl rfl
theorem bundleRetire (x0 : Fin 128) (x1 : Nat) : Statement (.bundleRetire x0 x1) := plain rfl rfl rfl
theorem arrangementSwitch (x0 : Fin 128) : Statement (.arrangementSwitch x0) := plain rfl rfl rfl
theorem chunkRequest (x0 : Fin 128) (x1 : Fin 256) : Statement (.chunkRequest x0 x1) := plain rfl rfl rfl
theorem chunkFilled (x0 : Fin 128) (x1 : Fin 256) : Statement (.chunkFilled x0 x1) := plain rfl rfl rfl
theorem linkUnitSend (x0 : Link) : Statement (.linkUnitSend x0) := plain rfl rfl rfl
theorem flitSend (x0 : Link) (x1 : Fin 50) : Statement (.flitSend x0 x1) := plain rfl rfl rfl
theorem linkUnit (x0 : Link) (x1 : Unit256) : Statement (.linkUnit x0 x1) := plain rfl rfl rfl
theorem dataFlit (x0 : Link) (x1 : Flit) : Statement (.dataFlit x0 x1) := flit rfl rfl rfl rfl
theorem tokenFlit (x0 : Link) (x1 : Flit) : Statement (.tokenFlit x0 x1) := flit rfl rfl rfl rfl
theorem collFlit (x0 : Link) (x1 : Flit) : Statement (.collFlit x0 x1) := flit rfl rfl rfl rfl
theorem rollcallFlit (x0 : Link) (x1 : Flit) : Statement (.rollcallFlit x0 x1) := flit rfl rfl rfl rfl
theorem timeFlit (x0 : Link) (x1 : Flit) (x2 : W64) (x3 : W32) : Statement (.timeFlit x0 x1 x2 x3) :=
  flit rfl rfl rfl rfl
theorem mgmtFlit (x0 : Link) (x1 : Flit) : Statement (.mgmtFlit x0 x1) := flit rfl rfl rfl rfl
theorem drainFlit (x0 : Link) (x1 : Flit) : Statement (.drainFlit x0 x1) := flit rfl rfl rfl rfl
theorem departFlit (x0 : Link) (x1 : Flit) : Statement (.departFlit x0 x1) := flit rfl rfl rfl rfl
theorem corruptedFlit (x0 : Link) : Statement (.corruptedFlit x0) := plain rfl rfl rfl
theorem replayTimeout (x0 : Link) (x1 : Fin 5) : Statement (.replayTimeout x0 x1) := plain rfl rfl rfl
theorem fecLockLoss (x0 : FecLoss) : Statement (.fecLockLoss x0) := plain rfl rfl rfl
theorem presenceChange (x0 : Fin 9) (x1 : Bool) : Statement (.presenceChange x0 x1) := plain rfl rfl rfl
theorem phyTraining (x0 : Link) : Statement (.phyTraining x0) := plain rfl rfl rfl
theorem delayMeasurement (x0 : Link) : Statement (.delayMeasurement x0) := plain rfl rfl rfl
theorem linkStateLimit (x0 : Link) : Statement (.linkStateLimit x0) := plain rfl rfl rfl
theorem cableDelayUpdate (x0 : Link) : Statement (.cableDelayUpdate x0) := plain rfl rfl rfl
theorem headerOvercurrent (x0 : Overcurrent) : Statement (.headerOvercurrent x0) := plain rfl rfl rfl
theorem powerOnHour (x0 : Fin 9) : Statement (.powerOnHour x0) := plain rfl rfl rfl
theorem rollcallContribution (x0 : Sec) : Statement (.rollcallContribution x0) := plain rfl rfl rfl
theorem rollcallLevelSend (x0 : Sec) : Statement (.rollcallLevelSend x0) := plain rfl rfl rfl
theorem rollcallCombine (x0 : Sec) : Statement (.rollcallCombine x0) := plain rfl rfl rfl
theorem rollcallResultSend (x0 : Sec) : Statement (.rollcallResultSend x0) := plain rfl rfl rfl
theorem rollcallResult (x0 : Sec) : Statement (.rollcallResult x0) := plain rfl rfl rfl
theorem rollcallReturn (x0 : Sec) : Statement (.rollcallReturn x0) := plain rfl rfl rfl
theorem pageSwitch (x0 : W64) : Statement (.pageSwitch x0) := plain rfl rfl rfl
theorem patrolScrub (x0 : BitVec 40) (x1 : ScrubFind) : Statement (.patrolScrub x0 x1) := plain rfl rfl rfl
theorem sramUncorrectable (x0 : SramWord) : Statement (.sramUncorrectable x0) := plain rfl rfl rfl
theorem logEntryWrite (x0 : Sec) : Statement (.logEntryWrite x0) := plain rfl rfl rfl
theorem replayComparison (x0 : Sec) : Statement (.replayComparison x0) := plain rfl rfl rfl
theorem traceRecordWrite (x0 : Sec) : Statement (.traceRecordWrite x0) := plain rfl rfl rfl
theorem clusterDoze (x0 : Fin 16) : Statement (.clusterDoze x0) := plain rfl rfl rfl
theorem clusterWake (x0 : Fin 16) : Statement (.clusterWake x0) := plain rfl rfl rfl
theorem tierWakeComplete (x0 : Bool) : Statement (.tierWakeComplete x0) := plain rfl rfl rfl
theorem assembly : Statement (.assembly) := plain rfl rfl rfl
theorem assemblyComplete : Statement (.assemblyComplete) := plain rfl rfl rfl
theorem assemblyTimeout : Statement (.assemblyTimeout) := plain rfl rfl rfl
theorem cardDrain : Statement (.cardDrain) := plain rfl rfl rfl
theorem departSend : Statement (.departSend) := plain rfl rfl rfl
theorem sentryKick (x0 : W64) : Statement (.sentryKick x0) := plain rfl rfl rfl
theorem sentryDeadline : Statement (.sentryDeadline) := plain rfl rfl rfl
theorem heartbeat (x0 : BitVec 128) : Statement (.heartbeat x0) := plain rfl rfl rfl
theorem powerFailure : Statement (.powerFailure) := plain rfl rfl rfl
theorem holdUpEnd : Statement (.holdUpEnd) := plain rfl rfl rfl
theorem inputOvervoltage (x0 : W16) : Statement (.inputOvervoltage x0) := plain rfl rfl rfl
theorem railOvercurrent (x0 : Fin 41) (x1 : W16) : Statement (.railOvercurrent x0 x1) := plain rfl rfl rfl
theorem thermalLimit (x0 : Fin 16) (x1 : W16) : Statement (.thermalLimit x0 x1) := plain rfl rfl rfl
theorem redfishRequest (x0 : Client) (x1 : Action) : Statement (.redfishRequest x0 x1) := plain rfl rfl rfl
theorem redfishDrain (x0 : Client) : Statement (.redfishDrain x0) := plain rfl rfl rfl
theorem exportAcknowledgement (x0 : Client) (x1 : W64) : Statement (.exportAcknowledgement x0 x1) := plain rfl rfl rfl
theorem keyEnrolment (x0 : Bool) (x1 : BitVec 384) (x2 : BitVec 384) (x3 : Enrol) : Statement (.keyEnrolment x0 x1 x2 x3) :=
  plain rfl rfl rfl
theorem firmwareStage (x0 : Client) (x1 : BitVec 6) (x2 : Bool) (x3 : Package) :
    Statement (.firmwareStage x0 x1 x2 x3) :=
  plain rfl rfl rfl
theorem eventRetryExpiry : Statement (.eventRetryExpiry) := plain rfl rfl rfl
theorem pldmRequest (x0 : Pldm) : Statement (.pldmRequest x0) := plain rfl rfl rfl
theorem present (x0 : Nat) : Statement (.present x0) := plain rfl rfl rfl
theorem boot (x0 : Bool) (x1 : Bool) : Statement (.boot x0 x1) := plain rfl rfl rfl
theorem measure (x0 : W16) (x1 : W16) (x2 : W16) : Statement (.measure x0 x1 x2) := plain rfl rfl rfl
theorem memory (x0 : Bool) : Statement (.memory x0) := plain rfl rfl rfl
theorem core (x0 : Bool) : Statement (.core x0) := plain rfl rfl rfl
theorem links : Statement (.links) := plain rfl rfl rfl
theorem cmisIdentityRead (x0 : Fin 9) (x1 : CableRec) : Statement (.cmisIdentityRead x0 x1) := plain rfl rfl rfl

end Sys2Proof.Laws.Fields
end

