-- ==== Sys2Proof/Machine/RegRead.lean ====
section
/-!
DEFINITION. The register map as a reader sees it (R502-R506, R510-R524): the word that each register shows, and what a BAR0
read through a view returns. No row of the table is such a read, but for TIME_NOW_READ: a read changes nothing (log entry 33).
-/
namespace Sys2Proof.Machine

/-! ### Words of the registers -/

/-- Table 18.5. -/
def idDevice (s : State) : Nat := 0x4C31 * 2 ^ 16 + s.id.grade.toNat * 2 ^ 8 + s.id.stepping.toNat
def idFused (s : State) : Nat := s.id.site1.toNat * 2 ^ 4 + s.id.site0.toNat
def idFw (s : State) : Nat :=
  s.id.activeSvn.toNat * 2 ^ 24 + s.id.minSvn.toNat * 2 ^ 16 + s.id.stagedSvn.toNat * 2 ^ 8 + b2n s.id.bank

/-- Table 13.4. -/
def hifLstat (s : State) : Nat :=
  let h := s.hif
  h.mode.toNat * 2 ^ 28 + h.speed.toNat * 2 ^ 24 + h.width.toNat * 2 ^ 19 + b2n h.cacheEn * 2 ^ 18 + b2n h.memEn * 2 ^ 17
    + b2n (hdmOk s) * 2 ^ 16 + h.hostRid.toNat

/-- Table 13.12; on stepping A1 it reads 0 (R386). -/
def hifDirWord (s : State) (t : Sec) : Nat := if isA1 s then 0 else (dirWord s t).toNat

/-- Table 14.3. -/
def ringCfgWord (r : Ring) : Nat :=
  b2n r.enable * 2 ^ 31 + b2n r.irqEn * 2 ^ 30 + r.cqSize.toNat * 2 ^ 20 + r.sqSize.toNat * 2 ^ 16 + b2n r.refused

def ringCode : RingSt → Nat
  | .idle => 0 | .active => 1 | .stopping => 2 | .error => 3 | .lost => 4

/-- Table 14.4; on stepping A1 LAST_CMD reads 0. -/
def ringStatWord (s : State) (r : Ring) : Nat :=
  (if isA1 s then 0 else r.lastCmd.toNat * 2 ^ 48) + r.sqHead % 2 ^ 16 * 2 ^ 32 + r.cqTail % 2 ^ 16 * 2 ^ 16
    + r.outstanding % 2 ^ 8 * 2 ^ 8 + r.cause.toNat * 2 ^ 4 + ringCode r.st * 2 + b2n r.chg

/-- Table 16.7. -/
def rlstatWord (r : Trace) : Nat := r.rlSeq % 2 ^ 36 * 2 ^ 28 + r.rlOff / 64 % 2 ^ 28
def rltailWord (r : Trace) (i : Nat) : Nat := leNat (((be384 r.chain).drop (8 * i)).take 8)

/-- Table 16.11. -/
def tstatWord (r : Trace) : Nat := r.dropped % 2 ^ 24 * 2 ^ 40 + traceNext r % 2 ^ 40 / 32 * 32 + b2n (traceWrapped r)

/-- Table 18.16; PWR_CDOZE does not exist on stepping A1 (R501). -/
def cdozeWord (s : State) (t : Sec) : Nat :=
  let x := getSect s t
  if isA1 s then 0 else b2n x.cdozeRefused * 2 ^ 16 + (x.cdoze &&& x.clusters).toNat

/-- Table 18.18. -/
def sectStatus (s : State) : Nat := b2n s.ownRefused * 2 + b2n s.slotRefused

/-- Table 18.20. -/
def wmbStatusWord (s : State) : Nat :=
  sessionRole s * 2 ^ 30 + b2n s.ward.busy * 2 ^ 29 + s.ward.result.toNat * 2 ^ 24 + b2n s.ward.noSession

/-- Table 18.8; on stepping A1 PIN_REFUSED reads 0 (R262). -/
def memStatus (x : Sect) : Nat := b2n x.mrgnRefused * 2 + b2n x.cfgRefused
def groveStatus (s : State) (t : Sec) : Nat := if isA1 s then 0 else b2n (getSect s t).pinRefused

/-! ### Classes (Table 18.3) -/

/-- A register's class, with the section of a per-section register. SB, the byte arrays of blocks, is `blockByte`. -/
inductive RegClass where
  | c
  | ci
  | si (t : Sec)
  | sd (t : Sec)
  | w
  deriving DecidableEq, Repr

/-- R503: whether a register of a class shows its value in a view; where it does not it reads 0. -/
def shows (v : View) : RegClass → Bool
  | .c => true
  | .ci => true
  | .si t => v == .card || v == .sect t
  | .sd t => v == .sect t
  | .w => v == .card

/-- R503. -/
def inView (v : View) (x : RegClass × Nat) : Nat := if shows v x.1 then x.2 else 0

/-! ### 64-bit registers -/

/-- R511: the 64-bit registers of the ring pairs. -/
def ringWord64 (s : State) (off : Nat) : Option (RegClass × Nat) :=
  if 0x20000 ≤ off ∧ off < 0x21000 then
    let p : Pair := ⟨(off - 0x20000) / 64 % 64, Nat.mod_lt _ (by omega)⟩
    let r := getRing s p
    match off % 64 with
    | 0 => some (.sd (secOf p), r.sqBase.toNat)
    | 8 => some (.sd (secOf p), r.cqBase.toNat)
    | 16 => some (.sd (secOf p), r.dbAddr.toNat)
    | 32 => some (.sd (secOf p), ringStatWord s r)
    | _ => none
  else none

/-- R520: the 64-bit registers of the TRACE block. -/
def traceWord64 (s : State) (off : Nat) : Option (RegClass × Nat) :=
  if 0x80000 ≤ off ∧ off < 0x80400 then
    let t := secAt ((off - 0x80000) / 0x100)
    let r := getTrace s t
    let k := off % 0x100
    if 0x10 ≤ k ∧ k < 0x40 ∧ k % 8 = 0 then some (.sd t, rltailWord r ((k - 0x10) / 8))
    else match k with
    | 0 => some (.sd t, r.rlcfg.toNat)
    | 8 => some (.sd t, rlstatWord r)
    | 0x40 => some (.sd t, r.rccfg.toNat)
    | 0x48 => some (.sd t, r.rclen.toNat)
    | 0x50 => some (.sd t, r.rcdelta.toNat)
    | 0x58 => some (.sd t, if isA1 s then 0 else r.div.toNat)
    | 0x60 => some (.sd t, r.tcfg.toNat)
    | 0x68 => some (.sd t, tstatWord r)
    | _ => none
  else none

/-- A per-section register of class SD, 8 bytes apart. -/
def sdWords (off base : Nat) (f : Sec → Nat) : Option (RegClass × Nat) :=
  (instOf off base 8 4).map (fun k => (.sd (secAt k), f (secAt k)))

def siWords (off base : Nat) (f : Sec → Nat) : Option (RegClass × Nat) :=
  (instOf off base 8 4).map (fun k => (.si (secAt k), f (secAt k)))

/-- A card-wide register of a class. -/
def cardWord (off base : Nat) (cls : RegClass) (x : Nat) : Option (RegClass × Nat) := if off = base then some (cls, x) else none

/-- The 64-bit register whose first byte an offset names. -/
def word64 (s : State) (off : Nat) : Option (RegClass × Nat) :=
  firstSome [cardWord off 0x8 .c s.id.serial.toNat, ringWord64 s off, traceWord64 s off,
    siWords off 0x10040 (hifDirWord s), sdWords off 0x10080 (fun t => (getSect s t).hifErr.toNat),
    (instOf off 0x3A000 8 64).map (fun k => (.sd (secAt (k / 16)), (getMrgn s (secAt (k / 16)) (k % 16)).toNat)),
    sdWords off 0x42100 (fun t => (getSect s t).groveErr.toNat),
    cardWord off 0x50800 .ci (lctlWord s).toNat,
    sdWords off 0x50A00 (fun t => (getSect s t).rcRes.toNat),
    sdWords off 0x50A20 (fun t => (getSect s t).rcAnd.toNat),
    sdWords off 0x50A40 (fun t => (getSect s t).rcOr.toNat),
    cardWord off 0x60000 .ci (timeCtrlWord s).toNat, cardWord off 0x60008 .c (timeLockWord s),
    cardWord off 0x60010 .c s.time.gm.toNat, cardWord off 0x60018 .c (frameNow s),
    cardWord off 0x60020 .c s.time.ns.toNat, cardWord off 0x60028 .c s.time.fracLatch.toNat,
    cardWord off 0x60030 .ci s.time.epoch.toNat, cardWord off 0x60038 .ci (bellWord1 s),
    sdWords off 0x74000 (fun t => (getSect s t).errOvr.toNat), sdWords off 0x74060 (fun t => (getSect s t).errMem.toNat),
    sdWords off 0x74080 (fun t => (getSect s t).errStep.toNat), sdWords off 0x740A0 (fun t => (getSect s t).errLoss.toNat),
    cardWord off 0x74100 .c (errCardWord s), cardWord off 0x74108 .c s.ward.depart.toNat,
    cardWord off 0x90000 .c s.power.on.toNat, cardWord off 0xA0080 .ci 0,
    (instOf off 0xB0010 8 6).map (fun i => (.w, s.ward.nonce.toNat / 2 ^ (64 * i) % 2 ^ 64)),
    (instOf off 0xB0040 8 12).map (fun _ => (.w, 0)),
    cardWord off 0xB0100 .w (auditHead s), cardWord off 0xB0108 .w s.ward.auditAck.toNat]

/-! ### 32-bit registers -/

/-- R513: the 32-bit registers of the links. -/
def linkWord32 (s : State) (off : Nat) : Option (RegClass × Nat) :=
  firstSome [(instOf off 0x50000 4 36).map (fun l => (.c, lstatWord s l)),
    (instOf off 0x50100 4 36).map (fun l => (.c, (getLink s l).delay.toNat)),
    (instOf off 0x50200 4 288).map (fun i => (.c, if i % 8 < 6 then (sget 0 (getLink s (i / 8)).lcnt (i % 8)).toNat else 0)),
    (instOf off 0x50700 4 36).map (fun l => (.c, (getLink s l).cdisc.toNat))]

/-- The 32-bit register at an offset. -/
def word32 (s : State) (off : Nat) : Option (RegClass × Nat) :=
  firstSome [cardWord off 0 .c (idDevice s), cardWord off 4 .c (idFused s), cardWord off 0x10 .c (idFw s),
    cardWord off 0x10000 .c (hifLstat s), siWords off 0x10010 (fun t => (winctlWord (getSect s t)).toNat),
    (if 0x20000 ≤ off ∧ off < 0x21000 ∧ off % 64 = 24 then
      let p : Pair := ⟨(off - 0x20000) / 64 % 64, Nat.mod_lt _ (by omega)⟩
      some (.sd (secOf p), ringCfgWord (getRing s p)) else none),
    sdWords off 0x3A200 (fun t => memStatus (getSect s t)),
    (instOf off 0x3A300 4 12).map (fun k => (.c, (sget 0 s.tiers.ce k).toNat)),
    sdWords off 0x42000 (fun t => groveStatus s t),
    linkWord32 s off,
    sdWords off 0x50900 (fun t => (getSect s t).rcCfg.toNat),
    (if 0x70000 ≤ off ∧ off < 0x74000 ∧ off % 4 = 0 ∧ off % 0x1000 / 4 < 556 then
      let t := secAt ((off - 0x70000) / 0x1000)
      some (.sd t, (sget 0 s.nflag (nflagKey t (off % 0x1000 / 4))).toNat) else none),
    sdWords off 0x74020 (fun t => (getSect s t).ovrCount.toNat), sdWords off 0x74040 (fun t => (getSect s t).errXpnd.toNat),
    cardWord off 0x90008 .ci (mdozeWord s).toNat, cardWord off 0x9000C .ci s.power.hdr.toNat,
    cardWord off 0x90010 .c s.power.vin.toNat,
    (instOf off 0x90020 4 4).map (fun k => (.sd (secAt k), cdozeWord s (secAt k))),
    (instOf off 0x90100 4 40).map (fun k => (.c, (sget 0 s.power.rail k).toNat)),
    (instOf off 0x90200 4 16).map (fun k => (.c, (sget 0 s.power.temp k).toNat)),
    siWords off 0xA0000 (fun t => (ctlWord (getSect s t)).toNat), siWords off 0xA0020 (fun t => (getSect s t).commons.toNat),
    sdWords off 0xA0040 (fun t => (roleWord (getSect s t)).toNat), cardWord off 0xA0088 .ci (sectStatus s),
    cardWord off 0xB0000 .w 0, cardWord off 0xB0004 .w (wmbStatusWord s), cardWord off 0xB0008 .w s.ward.denied.toNat,
    cardWord off 0xB0110 .w s.ward.auditLost.toNat]

/-! ### Byte arrays (R507, R512) -/

/-- Table 18.3, class SB: a byte of MEM_BLKCFG in a view; another section's block shows its OWNER alone. -/
def blkcfgByte (s : State) (v : View) (b : Nat) : Nat :=
  match v with
  | .card => (getBlk s b).toNat
  | .sect t => if ownedBy s t b then (getBlk s b).toNat else (getBlk s b &&& 0xE0).toNat

/-- Table 18.3, class SB: a byte of GROVE_BLKMODE in a view. -/
def blkmodeByte (s : State) (v : View) (b : Nat) : Nat :=
  match v with
  | .card => (getGblk s b).toNat
  | .sect t => if ownedBy s t b then (getGblk s b).toNat else 0

/-- A byte of a byte array at an offset; none where no array lies. -/
def arrayByte (s : State) (v : View) (off : Nat) : Option Nat :=
  if 0x100 ≤ off ∧ off < 0x180 then some (physCore s (off - 0x100))
  else if 0x30000 ≤ off ∧ off < 0x3A000 then some (blkcfgByte s v (off - 0x30000))
  else if 0x40000 ≤ off ∧ off < 0x42000 then some (blkmodeByte s v (off - 0x40000))
  else if 0xA1000 ≤ off ∧ off < 0xA1C40 then
    let k := (off - 0xA1000) % 64
    some (if k < 50 then (slotEntry s ((off - 0xA1000) / 64) k).toNat else 0)
  else none

/-! ### Reads -/

/-- R506: a 4-byte read of a view; an offset that no register occupies reads 0 (R505). -/
def read4 (s : State) (v : View) (off : Nat) : Nat :=
  match arrayByte s v off with
  | some _ => leNat ((List.range 4).map (fun i => (arrayByte s v (off + i)).getD 0))
  | none =>
    match word32 s off with
    | some x => inView v x
    | none =>
      match word64 s off with
      | some x => inView v x % 2 ^ 32
      | none => if off % 8 == 4 then (match word64 s (off - 4) with | some x => inView v x / 2 ^ 32 | none => 0) else 0

/-- R506: an 8-byte read of a view: a 64-bit register at one instant, else two 4-byte reads. -/
def read8 (s : State) (v : View) (off : Nat) : Nat :=
  match word64 s off with
  | some x => inView v x
  | none => read4 s v off + 2 ^ 32 * read4 s v (off + 4)

/-- R502, R505: a BAR0 read; none where it completes with Completer Abort. -/
def barRead (s : State) (addr : BitVec 25) (wide : Bool) : Option Nat :=
  let a := addr.toNat
  if a % (if wide then 8 else 4) != 0 then none
  else match viewOf a with
    | some (v, off) => some (if wide then read8 s v off else read4 s v off)
    | none => some 0

/-! ### The LED and readiness (R531, R541) -/

/-- Table 19.5. -/
inductive Led where
  | off | greenFlashing | greenSteady | amberSteady | amberFlashing
  deriving DecidableEq, Repr

/-- R541. -/
def cardReady (s : State) : Bool :=
  s.ward.card == .service && (List.range 9).all (fun h => !s.power.hdr.getLsbD h || headerOnBit s h)
    && s.hif.mode == 2 && hdmOk s && s.time.lock == .locked
    && (List.range 36).all (fun l => !linkEnabled s l || linkState s l == lsActive || linkState s l == lsDisabled)

/-- Table 19.5: what the status LED shows. -/
def led (s : State) : Led :=
  if s.ward.stage == .failed && !s.ward.running then .amberFlashing
  else if s.ward.stage == .off || s.ward.stage == .present || s.ward.stage == .halted || !s.ward.running then .off
  else if s.ward.card != .service then .amberSteady
  else if cardReady s then .greenSteady
  else .greenFlashing

end Sys2Proof.Machine
end

