-- ==== Sys2Proof/Tests/Slice0.lean ====
section
/-!
SUPPORT. Tests: ill-formed commands are refused, a few results worked out by hand from the manual, and for every statement
with hypotheses a state and operands that meet them.
-/
namespace Sys2Proof.Tests
open Sys2Proof.Machine

set_option Elab.async false

/-! ### Well-formedness -/

def desc (fields step : Nat) (follow : List (BitVec 512)) : Desc :=
  ⟨BitVec.ofNat 8 follow.length, 7, 0, 0, BitVec.ofNat 192 fields, BitVec.ofNat 256 step, follow⟩

def flit (space : BitVec 3) (len : Byte) (tag : W16) (payload : Nat) : Flit :=
  ⟨0, space, false, 0, 0, 0, tag, 0, len, BitVec.ofNat 1920 payload⟩

theorem test_wf_follow : wellFormed (.nop 0 { desc 0 0 [] with inline := 1 }) = false ∧
    wellFormed (.nop 0 (desc 0 0 [0])) = true := by decide
theorem test_wf_reserved : wellFormed (.reservedOpcode 0 0x0E (desc 0 0 [])) = false ∧
    wellFormed (.reservedOpcode 0 0x0F (desc 0 0 [])) = true := by decide
theorem test_wf_line : wellFormed (.memRd 32 .i) = false ∧ wellFormed (.memRd 64 .i) = true := by decide
theorem test_wf_training : wellFormed (.hostLinkTraining 7 16 true true) = false ∧
    wellFormed (.hostLinkTraining 6 3 true true) = false ∧ wellFormed (.hostLinkTraining 6 16 true true) = true := by decide
theorem test_wf_ways : wellFormed (.hdmDecoderCommit 0 0 0) = false := by decide
theorem test_wf_misaligned : wellFormed (.misalignedAccess 8 8 true) = false ∧
    wellFormed (.misalignedAccess 4 8 true) = true := by decide
theorem test_wf_register : wellFormed (.registerWrite 4 true 0) = false ∧
    wellFormed (.registerWrite 4 false (BitVec.ofNat 64 (2 ^ 32))) = false ∧
    wellFormed (.registerWrite 4 false 1) = true := by decide
theorem test_wf_part : wellFormed (.timeCtrlWrite .card .high (BitVec.ofNat 64 (2 ^ 32))) = false := by decide
theorem test_wf_record : wellFormed (.recordClear .card 10 0 true) = false := by decide
theorem test_wf_release : wellFormed (.release .card 0 0) = false := by decide
theorem test_wf_array : wellFormed (.sectSlotWrite .card 0xC40 false 0) = false ∧
    wellFormed (.groveBlkmodeWrite (.sect 0) 4 true 0) = false := by decide
theorem test_wf_enable : wellFormed (.ringEnable (.sect 0) 0 0) = false ∧
    wellFormed (.ringDisable (.sect 0) 0 0) = true := by decide
theorem test_wf_flit : wellFormed (.dataFlit 0 (flit 0 241 0 0)) = false ∧
    wellFormed (.dataFlit 0 (flit 5 0 0 0)) = false ∧ wellFormed (.dataFlit 0 (flit 4 240 0 0)) = true := by decide
theorem test_wf_page : wellFormed (.pageSwitch 64) = false := by decide
theorem test_wf_scrub : wellFormed (.patrolScrub 0 (.corrected 0)) = false ∧
    wellFormed (.patrolScrub 0 (.corrected 5)) = false := by decide
theorem test_wf_sram : wellFormed (.sramUncorrectable ⟨.slate 0 49152 0, false⟩) = false := by decide

/-! ### States -/

/-- An ACTIVE pair with eight slots to read. -/
def ringOn : Ring := { ringReset with
  enable := true, st := .active, sqTail := 8, sqBase := 0x10000, cqBase := 0x20000, dbAddr := 0x30000, phase := true }

def key1 : Key := ⟨1, 2, 0⟩

/-- A card in service with a trained host link, a locked clock at frame 0, block 0 and understorey block 8192 of section 0,
a host slot of section 0 and pair 0 ACTIVE. -/
def up : State := { State.reset with
  ward := { wardenReset with stage := .links, running := true, installer := some key1 }
  hif := { hifReset with mode := 2, cacheEn := true, memEn := true, speed := 6, width := 16, hdm0 := some 0x100000000000 }
  time := { timeReset with lock := .locked, gm := 9 }
  slots := [(48 * 50 + 1, 0x40)]
  slotsNow := [(48 * 50 + 1, 0x40)]
  tiers := { tiersReset with blk := [(0, 0), (8192, 0)] }
  rings := [(0, ringOn)] }

/-- An image with one variant of two frames for up to 16 tokens, on cluster 0. -/
def img : Image := { imageOf [(0x100, 16), (0x104, 2)] 0x200 with
  grade := 0x41, minStepping := 0x11, period := 12, clusterMask := 1, jobId := 77, deviceCount := 1, variantCount := 1
  variantOff := 0x100 }

/-- The same card with the image loaded in section 0, which holds cluster 0. -/
def loaded : State := { up with
  images := up.images.set 0 (some img)
  sect := up.sect.set 0 { sectReset with st := .assigned, clusters := 1 } }

/-- The same with NEXT_STEP 5 expected. -/
def seeded : State := { loaded with steps := loaded.steps.set 0 { stepsReset with seeded := true, next := some 5 } }

/-- A command of pair 0. -/
def cmd (ord : Nat) (job : Job) : Cmd :=
  { ord := ord, ringOrd := 0, pair := 0, op := 4, id := 3, irq := false, carry := none, draw := 0, pages := [], writes := []
    reads := [], copies := [], stop := none, job := job }

def withSlots (s : State) (l : Sparse Byte) : State := { s with slots := l, slotsNow := l }
def withCmds (s : State) (l : List Cmd) : State := { s with cmds := s.cmds.set 0 l, seq := 100 }

/-! ### Results worked out from the manual -/

/-- R60: tick 1 of a 12 µs bell. -/
theorem test_tick_time : (match exec .tick State.reset with
    | .next t => decide (t.time.ns = 12000 ∧ t.time.frame = some 1) | _ => false) = true := by decide +kernel
/-- R398, R410: a NOP answers OK with its CMD_ID. -/
theorem test_nop_ok : (match exec (.nop 0 (desc 0 0 [])) up with
    | .next t => decide ((t.recs.get 0).map (fun r : Rec => (r.id.toNat, r.op.toNat, r.status.toNat)) = [(7, 1, 0)])
    | _ => false) = true := by decide +kernel
/-- R399: a NOP with a nonzero reserved field. -/
theorem test_nop_bad : (match exec (.nop 0 (desc 1 0 [])) up with
    | .next t => decide ((t.recs.get 0).map (fun r : Rec => r.status.toNat) = [8]) | _ => false) = true := by decide +kernel
/-- R403: two bytes at canopy address 0x100. -/
theorem test_inline_bytes : (match exec (.inlineWrite 0 (desc (0x100 + 2 * 2 ^ 64) 0 [0xBEEF])) up with
    | .next t => decide (t.tiers.mem = [(0x100, 0xEF), (0x101, 0xBE)]) | _ => false) = true := by decide +kernel
/-- R370: SnpInv of a line that the cache does not hold. -/
theorem test_snoop_miss : (match exec (.snpInv 0x40) up with
    | .next t => decide (t.out = [.snoop .iHitI none]) | _ => false) = true := by decide +kernel
/-- R505: an 8-byte access at 4 modulo 8. -/
theorem test_abort : (match exec (.misalignedAccess 4 8 true) up with
    | .next t => decide (t.out = [.abort, .aer]) | _ => false) = true := by decide +kernel
/-- R484: the chain value of entry 0 is SHA-384 of 48 zero bytes and the entry. -/
theorem test_log_start : shaNum (List.replicate 48 0 ++ List.replicate 18 0 ++ [1] ++ List.replicate 45 0) = logStart.chain := by
  decide +kernel

/-! ### Hypotheses that can be met: queue, invariants -/

theorem meet_StepRunsFrontCommand : ({ up with pending := [.tick] } : State).pending = [.tick] := rfl
theorem meet_EmptyQueueIdles : State.reset.pending = [] := rfl
theorem meet_command_answers : ∃ t, exec .sentryDeadline State.reset = .next t := ⟨_, rfl⟩
theorem meet_step_memories : memoriesOk State.reset = true ∧ step State.reset = .next State.reset :=
  ⟨by decide +kernel, rfl⟩
theorem meet_step_coreMap : coreMapOk State.reset.id = true ∧ step State.reset = .next State.reset :=
  ⟨by decide +kernel, rfl⟩
theorem meet_load_answers : ∃ t, exec (.loadImage 0 (desc 0 0 [])) up = .next t := ⟨_, rfl⟩

/-! ### Ring commands -/

/-- A descriptor that is read now, in the form of its opcode or out of it. -/
abbrev reads (c : Instr) (s : State) (op : BitVec 8) (d : Desc) (ok : Bool) : Prop :=
  ringForm s c = some (0, op, d, ok) ∧ readsNow s 0 d = true

def gone : State := { up with ward := { up.ward with card := .departed } }

theorem meet_DescriptorsOutOfFormAreBad : reads (.nop 0 (desc 1 0 [])) up 1 (desc 1 0 []) false ∧
    readsNow up 0 (desc 0 0 []) = true := by decide +kernel
theorem meet_DepartedCardAnswersDrained : ringForm gone (.seed 0 (desc 0 0 [])) = some (0, 0x0A, desc 0 0 [], true) ∧
    canRead gone 0 (desc 0 0 []) = true ∧ gone.ward.card = .departed := by decide +kernel
theorem meet_UnreadDescriptorsChangeNothing : ringForm State.reset (.nop 0 (desc 0 0 [])) =
    some (0, 1, desc 0 0 [], true) ∧ canRead State.reset 0 (desc 0 0 []) = false ∧
    canRead up 0 (desc 0 0 []) = true := by decide +kernel

/-- Step fields: COUNT, an index and a roll-call frame. -/
def stepOf (k f : Nat) : Nat := 1 + k * 2 ^ 64 + f * 2 ^ 128

theorem meet_NopAnswersOk_plain : reads (.nop 0 (desc 0 0 [])) up 1 (desc 0 0 []) true ∧
    stCarry (desc 0 0 []) = false := by decide +kernel
theorem meet_NopAnswersOk_opens : reads (.nop 0 (desc 0 (stepOf 5 1) [])) seeded 1 (desc 0 (stepOf 5 1) []) true ∧
    stCarry (desc 0 (stepOf 5 1) []) = true ∧ isTrain seeded 0 = true ∧
    stepVerdict seeded 0 (desc 0 (stepOf 5 1) []) = .opens := by decide +kernel
theorem meet_NopAnswersOk_late : reads (.nop 0 (desc 0 (stepOf 5 0) [])) seeded 1 (desc 0 (stepOf 5 0) []) true ∧
    stepVerdict seeded 0 (desc 0 (stepOf 5 0) []) = .late true := by decide +kernel
theorem meet_NopAnswersOk_bad : reads (.nop 0 (desc 0 (stepOf 4 1) [])) seeded 1 (desc 0 (stepOf 4 1) []) true ∧
    stepVerdict seeded 0 (desc 0 (stepOf 4 1) []) = .bad := by decide +kernel

/-- A pending step 5 of one card, whose roll call comes in frame f. -/
def pend5 (f : Nat) : Pend := newPend 3 (desc 0 (stepOf 5 f) []) 0 1 false false
def pending5 : State := { seeded with
  steps := seeded.steps.set 0 { stepsReset with seeded := true, last := some (5, 1), latest := some 5, pend := [pend5 1] } }

theorem meet_NopAnswersOk_joins : reads (.nop 0 (desc 0 (stepOf 5 1) [])) pending5 1 (desc 0 (stepOf 5 1) []) true ∧
    stepVerdict pending5 0 (desc 0 (stepOf 5 1) []) = .joins ∧ ∃ q ∈ (getSteps pending5 0).pend, q.step = 5 ∧ q.closed = false := by
  decide +kernel

/-- Understorey pages 16 384 and 16 385 are a managed region of section 0. -/
def region : W64 := BitVec.ofNat 64 (2 ^ 63 + 2 * 2 ^ 61 + (underBase / pageBytes) * 2 ^ 21 + 2)
def paged : State := { loaded with
  sect := loaded.sect.set 0 { sectReset with st := .assigned, clusters := 1, mrgn := [(0, region)] } }
def page0 : Nat := underBase

theorem meet_QueriesAnswerTheSectionsState : reads (.queryStep 0 (desc 1 0 [])) up 0x0E (desc 1 0 []) true ∧
    ff (desc 1 0 []) 8 1 = 1 ∧
    reads (.queryPage 0 (desc (2 + page0 * 2 ^ 64) 0 [])) paged 0x0E (desc (2 + page0 * 2 ^ 64) 0 []) true ∧
    ff (desc (2 + page0 * 2 ^ 64) 0 []) 8 1 = 2 ∧ reads (.queryLoad 0 (desc 3 0 [])) up 0x0E (desc 3 0 []) true ∧
    ff (desc 3 0 []) 8 1 = 3 := by decide +kernel
theorem meet_SeedStartsAStepSequence : reads (.seed 0 (desc 8 0 [])) loaded 0x0A (desc 8 0 []) true ∧
    stepOpen (getSteps loaded 0) = false ∧ busyWork loaded 0 = false ∧ (loaded.images.get 0).isSome = true ∧
    reads (.seed 0 (desc 8 0 [])) up 0x0A (desc 8 0 []) true ∧ up.images.get 0 = none := by decide +kernel

def lockless (s : State) : State := { s with time := { s.time with lock := .free } }
def free : State := lockless up

theorem meet_TimeMarksAnswerSystemTime : reads (.timeMark 0 (desc 0 0 [])) up 0x0B (desc 0 0 []) true ∧
    timeGood up = true ∧ reads (.timeMark 0 (desc 0 0 [])) free 0x0B (desc 0 0 []) true ∧ timeGood free = false ∧
    reads (.timeMark 0 (desc 1 0 [])) up 0x0B (desc 1 0 []) true ∧ frameOf up < ff (desc 1 0 []) 8 8 := by decide +kernel
theorem meet_TimeMarkAtFrame : (getCmds (withCmds up [cmd 1 (.timeMark 0)]) 0).find? (fun c => match c.job with
    | .timeMark f => (withCmds up [cmd 1 (.timeMark 0)]).time.frame.isSome &&
      decide (f ≤ frameOf (withCmds up [cmd 1 (.timeMark 0)])) | _ => false) = some (cmd 1 (.timeMark 0)) ∧
    (cmd 1 (.timeMark 0)).stop ≠ some .lost := by decide +kernel

/-- INLINE_WRITE of two bytes. -/
def inl (a : Nat) : Desc := desc (a + 2 * 2 ^ 64) 0 [0xBEEF]
def moving : State := { paged with tiers := { paged.tiers with moves := [⟨pageNo page0, 0, some 0x4000000, none⟩] } }
/-- Block 0 is protected: its hole begins at 0x3800000. -/
def protected_ : State := { up with tiers := { up.tiers with blk := [(0, 0x10), (8192, 0)] } }
def atA1 (s : State) : State := { s with id := { s.id with stepping := 0x11 } }

theorem meet_InlineWrite_denied : reads (.inlineWrite 0 (inl 0x4000000)) up 9 (inl 0x4000000) true ∧
    reach up 0 false 0x4000000 0x4000002 = false := by decide +kernel
theorem meet_InlineWrite_hole : reads (.inlineWrite 0 (inl 0x37FFFFF)) protected_ 9 (inl 0x37FFFFF) true ∧
    reach protected_ 0 false 0x37FFFFF 0x3800001 = true ∧ isA1 protected_ = false ∧
    touchesHole protected_ 0x37FFFFF 0x3800001 = true := by decide +kernel
theorem meet_InlineWrite_moving : reads (.inlineWrite 0 (inl page0)) moving 9 (inl page0) true ∧
    reach moving 0 false page0 (page0 + 2) = true ∧ isA1 moving = false ∧ touchesHole moving page0 (page0 + 2) = false ∧
    pageMoving moving (page0 + 0) = true := by decide +kernel
theorem meet_InlineWrite_ok : reads (.inlineWrite 0 (inl 0x3FFFFFE)) up 9 (inl 0x3FFFFFE) true ∧
    reach up 0 false 0x3FFFFFE 0x4000000 = true ∧ isA1 up = false ∧ touchesHole up 0x3FFFFFE 0x4000000 = false ∧
    inSlot0 up = true ∧ ∀ i, i < 2 → pageMoving up (0x3FFFFFE + i) = false ∧ dozing up (place up (0x3FFFFFE + i)) = false := by
  decide +kernel
/-- The same card one nanosecond before the end of slot 0, which lasts 240 ns, and at its end. -/
def atNs (s : State) (n : Nat) : State := { s with time := { s.time with ns := BitVec.ofNat 64 n } }
theorem meet_InlineWrite_later : reads (.inlineWrite 0 (inl 0x3FFFFFE)) (atNs up 240) 9 (inl 0x3FFFFFE) true ∧
    inSlot0 (atNs up 239) = true ∧ inSlot0 (atNs up 240) = false := by decide +kernel
/-- A page of a read-only region that is resident. -/
def readOnly : State := atA1 { paged with
  sect := paged.sect.set 0 { getSect paged 0 with mrgn := [(0, region - 0x2000000000000000)] }
  tiers := { paged.tiers with pages := [(pageNo page0, ⟨false, false, some 0, 0⟩)] } }
theorem meet_InlineWrite_a1 : reads (.inlineWrite 0 (inl page0)) readOnly 9 (inl page0) true ∧ isA1 readOnly = true ∧
    inReadOnlyFrame readOnly (page0 + 0) = true := by decide +kernel

def fenceCmd : Cmd := cmd 1 (.fence 0 0 0)
def fenced : State := withCmds { up with rings := [(0, { ringOn with held := some 1 })] } [fenceCmd]
theorem meet_FenceWaitsForWindowWrites : reads (.fence 0 (desc 0 0 [])) up 2 (desc 0 0 []) true ∧
    (getCmds fenced (secOf 0)).find? (fun c => c.pair == 0 && (match c.job with
      | .fence n _ _ => fenceMet fenced n | _ => false)) = some fenceCmd ∧ fenceCmd.stop ≠ some .lost ∧
    (getRing fenced 0).held = some fenceCmd.ord := by decide +kernel

def inGuard (s : State) : State := { s with time := { s.time with guard := true } }
theorem meet_Drain_waits : ringForm up (.drain 0 (desc 0 0 [])) = some (0, 0x0D, desc 0 0 [], true) ∧
    canRead up 0 (desc 0 0 []) = true ∧ up.time.guard = false ∧
    ringForm (inGuard up) (.drain 0 (desc 0 0 [])) = some (0, 0x0D, desc 0 0 [], true) ∧
    canRead (inGuard up) 0 (desc 0 0 []) = true ∧ (inGuard up).time.guard = true ∧
    getCmds (inGuard up) (secOf 0) = [] := by decide +kernel

def runJob (started : Bool) : RunJob := ⟨[16], [0], 2, false, started, 0, 2, 0, none, [], false⟩
def runCmd (ord : Nat) (started : Bool) : Cmd := cmd ord (.run (runJob started))
def draining : State := inGuard (withCmds loaded [runCmd 1 true, runCmd 2 false, cmd 3 (.drain false 0 [])])
theorem meet_Drain_takes : draining.time.guard = true ∧ (cmd 3 (.drain false 0 [])) ∈ getCmds draining 0 ∧
    (∀ c ∈ getCmds draining 0, ∀ x ∈ getCmds draining 0, x.ord = c.ord → x = c) ∧ isRunning (runCmd 1 true) = true ∧
    isRunning (runCmd 2 false) = false ∧ isDrain (runCmd 1 true) = false := by decide +kernel

def rungUp : State := { up with rings := [(0, { ringOn with rung := true })] }
def rec1 : Rec := ⟨1, 0, 0, 3, 1, false, 0, 0, 0, 0, 0, true⟩
theorem meet_Doorbells : (getRing rungUp 0).rung = true ∧ hostUp rungUp = true ∧ inSlot0 rungUp = true ∧
    wasReread rungUp 0 = false ∧ (getRing rungUp 0).st = .active ∧
    (63 : W32).toNat < sqSlots (getRing rungUp 0) ∧ ¬ (64 : W32).toNat < sqSlots (getRing rungUp 0) := by decide +kernel
def recorded : State := { up with recs := up.recs.set 0 [rec1], rings := [(0, { ringOn with outstanding := 1, cqTail := 63, cqHead := 60 })] }
theorem meet_Records : hostUp recorded = true ∧ inSlot0 recorded = true ∧ recorded.recs.get 0 = [rec1] ∧
    (recorded.budget.get 0).recs < 4 * recorded.time.period.toNat ∧ canRecord recorded rec1 = true ∧
    getCmds recorded 0 = [] := by decide +kernel

/-! ### Images and schedules -/

/-- LOAD_IMAGE of 256 bytes. -/
def ld (a : Nat) : Desc := desc (a + 256 * 2 ^ 64) 0 []
def waiting : State := withCmds loaded [cmd 1 (.inlineWrite [])]
def otherPair : Cmd := { runCmd 1 false with pair := 1 }
def busy : State := withCmds loaded [otherPair]

theorem meet_Images_waits : Reads (.loadImage 0 (ld 64)) waiting 0 3 (ld 64) ∧
    ∃ x ∈ getCmds waiting (secOf 0), x.pair = 0 ∧ x.ord < waiting.seq := by unfold Reads; decide +kernel
theorem meet_Images_busy : Reads (.unloadImage 0 (desc 0 0 [])) busy 0 3 (desc 0 0 []) ∧
    (∀ x ∈ getCmds busy (secOf 0), x.pair = 0 → busy.seq ≤ x.ord) ∧ busyWork busy (secOf 0) = true := by
  unfold Reads; decide +kernel
theorem meet_Images_unload : Reads (.unloadImage 0 (desc 0 0 [])) loaded 0 3 (desc 0 0 []) ∧
    getCmds loaded (secOf 0) = [] ∧ busyWork loaded (secOf 0) = false ∧ loadAddr (desc 0 0 []) = 0 ∧
    loadBytes (desc 0 0 []) = 0 ∧ stepOpen (getSteps loaded (secOf 0)) = false := by unfold Reads; decide +kernel
theorem meet_Images_unload_open : Reads (.unloadImage 0 (desc 0 0 [])) pending5 0 3 (desc 0 0 []) ∧
    getCmds pending5 (secOf 0) = [] ∧ busyWork pending5 (secOf 0) = false ∧
    stepOpen (getSteps pending5 (secOf 0)) = true := by unfold Reads; decide +kernel
theorem meet_Images_load : Reads (.loadImage 0 (ld 64)) up 0 3 (ld 64) ∧ getCmds up (secOf 0) = [] ∧
    busyWork up (secOf 0) = false ∧ ¬ (loadAddr (ld 64) = 0 ∧ loadBytes (ld 64) = 0) ∧
    loadCheck0 up (secOf 0) (ld 64) = none ∧ loadCheck0 up (secOf 0) (ld 65) = some stBad := by unfold Reads; decide +kernel

/-- A RUN of one micro-batch of n tokens from a start frame, 0 for the earliest. -/
def runOf (start n : Nat) : Desc := desc (start + 2 ^ 64) 0 [BitVec.ofNat 512 n]
def repeatOf (ref : Nat) : Desc := desc (2 ^ 64 + 2 ^ 72 + ref * 2 ^ 128) 0 [16]

theorem meet_Runs_admitted : Reads (.run 0 (runOf 2 16)) loaded 0 4 (runOf 2 16) ∧ stCarry (runOf 2 16) = false ∧
    loaded.images.get 0 = some img ∧ (runLens (runOf 2 16)).mapM (variantFor img) = some [0] ∧ timeGood loaded = true ∧
    startFits loaded 0 (startOf loaded 0 (runOf 2 16)) = true ∧ runPages loaded 0 [0] = [] := by unfold Reads; decide +kernel
theorem meet_Runs_late : Reads (.run 0 (runOf 1 16)) loaded 0 4 (runOf 1 16) ∧ timeGood loaded = true ∧
    startFits loaded 0 (startOf loaded 0 (runOf 1 16)) = false := by unfold Reads; decide +kernel
theorem meet_Runs_roll : Reads (.run 0 { runOf 2 16 with step := BitVec.ofNat 256 (stepOf 5 3) }) seeded 0 4
      { runOf 2 16 with step := BitVec.ofNat 256 (stepOf 5 3) } ∧
    stepVerdict seeded 0 { runOf 2 16 with step := BitVec.ofNat 256 (stepOf 5 3) } = .opens ∧ isTrain seeded 0 = true ∧
    stRoll { runOf 2 16 with step := BitVec.ofNat 256 (stepOf 5 3) } = 3 ∧
    startOf seeded 0 (runOf 2 16) + framesIn img [0] - 1 = 3 := by unfold Reads; decide +kernel
theorem meet_Runs_roll_after : Reads (.run 0 { runOf 2 16 with step := BitVec.ofNat 256 (stepOf 5 4) }) seeded 0 4
      { runOf 2 16 with step := BitVec.ofNat 256 (stepOf 5 4) } ∧
    stepVerdict seeded 0 { runOf 2 16 with step := BitVec.ofNat 256 (stepOf 5 4) } = .opens ∧
    startOf seeded 0 (runOf 2 16) + framesIn img [0] - 1 < 4 := by unfold Reads; decide +kernel
theorem meet_Runs_refused : Reads (.run 0 (runOf 2 16)) up 0 4 (runOf 2 16) ∧ up.images.get 0 = none ∧
    Reads (.run 0 (runOf 2 17)) loaded 0 4 (runOf 2 17) ∧ (runLens (runOf 2 17)).mapM (variantFor img) = none := by
  unfold Reads; decide +kernel
theorem meet_Runs_repeat : Reads (.repeatRun 0 (repeatOf underBase)) loaded 0 4 (repeatOf underBase) ∧
    runRepeat (repeatOf underBase) = true ∧ refCheck loaded 0 underBase = none ∧
    refCheck loaded 0 (underBase + 8) = some stBad := by unfold Reads; decide +kernel
def loadedFree : State := { loaded with time := free.time }
theorem meet_Runs_aborted : Reads (.run 0 (runOf 2 16)) loadedFree 0 4 (runOf 2 16) ∧ timeGood loadedFree = false := by
  unfold Reads; decide +kernel

def atFrame (s : State) (n : Nat) : State := { s with time := { s.time with frame := some n } }
def due : State := atFrame (withCmds loaded [runCmd 1 false]) 2
theorem meet_RunStart : dueRun due 0 = some (runCmd 1 false, runJob false) ∧ runningRun due 0 = none ∧
    timeGood due = true ∧ (due.images.get 0).isSome = true := by decide +kernel
def dueFree : State := { due with time := { due.time with lock := .free } }
theorem meet_RunStart_aborted : dueRun dueFree 0 = some (runCmd 1 false, runJob false) ∧ runningRun dueFree 0 = none ∧
    timeGood dueFree = false ∧ (runCmd 1 false).stop ≠ some .lost := by decide +kernel
def ended : State := atFrame (withCmds loaded [runCmd 1 true]) 4
theorem meet_RunCompletion : runningRun ended 0 = some (runCmd 1 true, runJob true) ∧ (runCmd 1 true).stop = none ∧
    ended.time.frame.isSome = true ∧ plannedLast ended 0 (runJob true) = 3 ∧ frameOf ended = 4 ∧
    (runJob true).refRec = none := by decide +kernel

/-! ### Stage programs and streams -/

/-- An image whose core 0 has a stage of one bundle and one input stream of one chunk. -/
def img1 : Image := { img with
  bytes := [(0x100, 16), (0x104, 2), (0x108, 0x80), (0x109, 1), (0x140, 16), (0x142, 1), (0x182, 1), (0x184, 1), (0x186, 1),
    (0x188, 0x40), (0x189, 1), (0x1C0, 1), (0x205, 1), (0x20C, 0xFF), (0x210, 1)]
  streamOff := 0x1C0 }

/-- Core 0 at work for micro-batch 0 of a RUN in frame 2. -/
def worker : Core := { coreReset with active := true, limit := 1, len := 16, cursor := 2 }
def mbJob (mb : Nat) : RunJob := ⟨[16], [0], 2, false, true, mb, 2, 0, none, [], false⟩
def working (k : Core) (b : BundleWord) (mb : Nat) : State :=
  let s := atFrame (withCmds loaded [cmd 1 (.run (mbJob mb))]) 2
  { s with images := s.images.set 0 (some img1), cores := [(0, k)], store := [(0, b)] }
def coreJob : CoreRun := ⟨0, cmd 1 (.run (mbJob 1)), mbJob 1, img1, 0⟩

theorem meet_MicroBatchStart : runningRun (working worker 1 0) 0 = some (cmd 1 (.run (mbJob 0)), mbJob 0) ∧
    (working worker 1 0).images.get 0 = some img1 ∧ (mbJob 0).mb < (mbJob 0).variants.length ∧
    (mbJob 0).start + framesIn img1 ((mbJob 0).variants.take 0) ≤ frameOf (working worker 1 0) ∧
    (working worker 1 0).time.guard = false ∧ (cmd 1 (.run (mbJob 0))).stop = none := by decide +kernel
theorem meet_BundleIssue : coreRun (working worker 0 1) 0 = some coreJob ∧ holdOf (working worker 0 1) coreJob 0 = .go := by
  decide +kernel
theorem meet_BundleIssue_past : coreRun (working { worker with cursor := 4 } 0 1) 0 = some coreJob ∧
    holdOf (working { worker with cursor := 4 } 0 1) coreJob 0 = .past ∧
    holdOf (working { worker with cursor := 3 } 0 1) coreJob 0 = .notYet := by decide +kernel
theorem meet_BundleRetire : coreRun (working { worker with flight := [⟨0, 0, [], [], []⟩] } 0 1) 0 = some coreJob ∧
    (getCore (working { worker with flight := [⟨0, 0, [], [], []⟩] } 0 1) 0).flight[0]? = some ⟨0, 0, [], [], []⟩ ∧
    (working { worker with flight := [⟨0, 0, [], [], []⟩] } 0 1).time.guard = false ∧
    canRetire (getCore (working { worker with flight := [⟨0, 0, [], [], []⟩] } 0 1) 0) ⟨0, 0, [], [], []⟩ = true := by
  decide +kernel
/-- A bundle with an array slot of shape 9, which needs the wide arrangement. -/
def wideBundle : BundleWord := BitVec.ofNat 512 (1 + 9 * 2 ^ 32)
theorem meet_ArrangementSwitch : coreRun (working worker wideBundle 1) 0 = some coreJob ∧
    holdOf (working worker wideBundle 1) coreJob 0 = .arrange ∧
    (getCore (working worker wideBundle 1) 0).flight = [] := by decide +kernel

def stream0 : Stream := streamAt img1 0
theorem meet_ChunkRequest : coreRun (working worker 0 1) 0 = some coreJob ∧ streamOf coreJob 0 0 = some stream0 ∧
    stream0.core = 0 ∧ (working worker 0 1).time.guard = false ∧ (working worker 0 1).time.frame.isSome = true ∧
    canRequest (working worker 0 1) coreJob stream0 = true ∧
    mayPick (engineReqs (working worker 0 1) coreJob 0) (chunkReq (working worker 0 1) stream0) = true := by decide +kernel
/-- The same image with a second stream of core 0; `lc` is the flags byte of stream 0. -/
def img4 (lc : Nat) : Image := { img1 with
  bytes := [((0x1C0 : Nat), 2), (0x204, lc), (0x241, 1), (0x245, 1), (0x24C, 0xFF), (0x250, 1)].foldl
    (fun m e => sset 0 m e.1 e.2) img1.bytes }
/-- Core 0 at work in that image. -/
def twoJob (lc : Nat) : CoreRun := ⟨0, cmd 1 (.run (mbJob 1)), mbJob 1, img4 lc, 0⟩
def twoStreams (lc : Nat) : State :=
  let s := working worker 0 1
  { s with images := s.images.set 0 (some (img4 lc)) }
/-- R222, R223: of two streams of one deadline the lower number goes first; an LC stream goes before any other. -/
theorem meet_ChunkRequest_waits (lc : Fin 2) :
    coreRun (twoStreams (2 * lc)) 0 = some (twoJob (2 * lc)) ∧
    streamOf (twoJob (2 * lc)) 0 1 = some (streamAt (img4 (2 * lc)) 1) ∧
    ∃ z ∈ engineReqs (twoStreams (2 * lc)) (twoJob (2 * lc)) 0,
      z.cls = 1 - lc.val ∧ z.before (chunkReq (twoStreams (2 * lc)) (streamAt (img4 (2 * lc)) 1)) = true := by
  revert lc; decide +kernel
def requested : Core := { worker with streams := [(0, ⟨1, 0, 0, 0⟩)] }
theorem meet_ChunkFilled : coreRun (working requested 0 1) 0 = some coreJob ∧ streamOf coreJob 0 0 = some stream0 ∧
    (getStream (working requested 0 1) 0 0).filled < (getStream (working requested 0 1) 0 0).requested := by decide +kernel

/-! ### GROVE -/

/-- FILL of n elements of binary32 at a, with flags, LIMIT and START_FRAME. -/
def fill (a n fl limit start : Nat) : Nat :=
  1 + fl * 2 ^ 8 + n * 2 ^ 64 + limit * 2 ^ 288 + a * 2 ^ 320 + start * 2 ^ 704
/-- SGDM of n elements of bfloat16 at the start of blocks 0, 1 and 2 with its count word at 0x40000. -/
def sgdm (n fl : Nat) : Nat :=
  0x22 + fl * 2 ^ 8 + 1 * 2 ^ 16 + 1 * 2 ^ 24 + n * 2 ^ 64 + 0x4000000 * 2 ^ 384 + 0x8000000 * 2 ^ 512 + 0x40000 * 2 ^ 576
def groveDesc (step x : Nat) : Desc := desc 0 step [BitVec.ofNat 512 x, BitVec.ofNat 512 (x / 2 ^ 512)]
/-- The same card with slot 1 of the grove units of stacks 0 to 7. -/
def groveUp : State := withSlots seeded ([36, 37, 38, 39, 40, 41, 42, 43].map (fun p => (p * 50 + 1, 0x48)) ++ [(48 * 50 + 1, 0x40)])
def groveWide : State := { groveUp with tiers := { tiersReset with blk := [(0, 0), (1, 0), (2, 0), (8192, 0)] } }
def opOk (x : Nat) : GroveRec := groveOf (groveBits (groveDesc 0 x))

theorem meet_Grove_form : Reads (.grove 0 (groveDesc 0 0)) groveUp 0 5 (groveDesc 0 0) ∧ groveCheck1 (opOk 0) false = false ∧
    groveCheck1 (opOk (fill 0 0 0 0 0)) false = false ∧ groveCheck1 (opOk (fill 0 1 0 0 0)) false = true := by
  unfold Reads; decide +kernel
theorem meet_Grove_denied : groveCheck2 groveUp 0 (opOk (fill 0x3FFFF00 64 0 0 0)) = true ∧
    groveCheck2 groveUp 0 (opOk (fill 0x3FFFF00 65 0 0 0)) = false := by decide +kernel
theorem meet_Grove_place : groveCheck2 groveUp 0 (opOk (fill page0 1 0 0 0)) = true ∧
    groveCheck1 (opOk (fill page0 1 0 0 0)) false = true ∧
    (groveCheck3 groveUp 0 (opOk (fill page0 1 0 0 0))).isSome = true ∧
    (groveCheck3 groveUp 0 (opOk (fill 0 1 0 0 0))).isSome = false := by decide +kernel
/-- COPY of one element from the second operand's address. -/
def copy (b : Nat) : Nat := 2 + 2 ^ 64 + b * 2 ^ 384
theorem meet_Grove_phase : Reads (.grove 0 (groveDesc 0 (copy 0x100))) groveUp 0 5 (groveDesc 0 (copy 0x100)) ∧
    groveCheck1 (opOk (copy 0x100)) false = true ∧ groveCheck2 groveUp 0 (opOk (copy 0x100)) = true ∧
    (groveCheck3 groveUp 0 (opOk (copy 0x100))).isSome = false ∧
    (groveCheck4 groveUp (opOk (copy 0x100))).isSome = true := by unfold Reads; decide +kernel
/-- A start frame by itself: tick 1 is next, so frame 2 is the earliest. -/
theorem meet_Grove_start : (groveStartOf groveUp 0 (opOk (fill 0 1 0 0 2))).2.2 = true ∧
    (groveStartOf groveUp 0 (opOk (fill 0 1 0 0 1))).2.2 = false ∧
    groveFrames groveUp 0 (opOk (fill 0 1 0 0 2)) = .inl 1 ∧ groveFrames seeded 0 (opOk (fill 0 1 0 0 2)) = .inr 0 ∧
    grovePages groveUp 0 (opOk (fill 0 1 0 0 2)) = [] ∧ grovePagesPlaced groveUp 0 (opOk (fill 0 1 0 0 2)) = [] ∧
    timeGood groveUp = true ∧
    Reads (.grove 0 (groveDesc 0 (fill 0 1 0 0 2))) groveUp 0 5 (groveDesc 0 (fill 0 1 0 0 2)) := by
  unfold Reads; decide +kernel
/-- LIMIT 2 from frame 2 ends in frame 3, so a roll call in frame 3 is too early and one in frame 4 is not. -/
theorem meet_Grove_limit : Reads (.grove 0 (groveDesc (stepOf 5 3) (fill 0 1 0 2 2))) groveUp 0 5
      (groveDesc (stepOf 5 3) (fill 0 1 0 2 2)) ∧
    stRoll (groveDesc (stepOf 5 3) (fill 0 1 0 2 2)) ≤ 2 + (opOk (fill 0 1 0 2 2)).limit - 1 ∧
    ¬ stRoll (groveDesc (stepOf 5 4) (fill 0 1 0 2 2)) ≤ 2 + (opOk (fill 0 1 0 2 2)).limit - 1 ∧
    stCarry (groveDesc (stepOf 5 3) (fill 0 1 0 2 2)) = true ∧ isTrain groveUp 0 = true ∧
    stepVerdict groveUp 0 (groveDesc (stepOf 5 3) (fill 0 1 0 2 2)) = .opens := by unfold Reads; decide +kernel
def groveFree : State := { groveUp with time := free.time }
theorem meet_Grove_aborted : Reads (.grove 0 (groveDesc 0 (fill 0 1 0 0 2))) groveFree 0 5 (groveDesc 0 (fill 0 1 0 0 2)) ∧
    timeGood groveFree = false ∧ grovePages groveFree 0 (opOk (fill 0 1 0 0 2)) = [] := by unfold Reads; decide +kernel
/-- A GATED command waits on step 5; `back` has the outcome of step 5. -/
def gatedDesc : Desc := groveDesc (1 + 5 * 2 ^ 64) (sgdm 16 4)
def back (v : Option Vote) : State := { groveWide with
  steps := groveWide.steps.set 0 { getSteps groveWide 0 with outcomes := [(5, v)] } }
def lossy : State := { groveWide with sect := groveWide.sect.set 0 { getSect groveWide 0 with errLoss := 1 } }
theorem meet_Grove_gated : Reads (.grove 0 gatedDesc) groveWide 0 5 gatedDesc ∧ (opOk (sgdm 16 4)).gated = true ∧
    groveCheck1 (opOk (sgdm 16 4)) false = true ∧ groveCheck2 groveWide 0 (opOk (sgdm 16 4)) = true ∧
    (groveCheck3 groveWide 0 (opOk (sgdm 16 4))).isSome = false ∧ (groveCheck4 groveWide (opOk (sgdm 16 4))).isSome = false ∧
    groveFrames groveWide 0 (opOk (sgdm 16 4)) = .inl 1 ∧ (groveStartOf groveWide 0 (opOk (sgdm 16 4))).2.2 = true ∧
    (getSteps groveWide 0).outcomes.find? (fun e => e.1 == stIndex gatedDesc) = none := by unfold Reads; decide +kernel
theorem meet_Grove_outcomes : gateStatus (back none) none = some stOverrun ∧
    gateStatus groveWide (some ⟨true, false, 1, 0, 0, 1⟩) = some stSkipped ∧
    gateStatus groveWide (some ⟨false, false, 1, 0, 1, 1⟩) = some stMismatch ∧
    gateStatus groveWide (some ⟨false, false, 1, 1, 1, 1⟩) = none ∧
    ((getSteps (back none) 0).outcomes.find? (fun e => e.1 == stIndex gatedDesc)).isSome = true := by decide +kernel
theorem meet_Grove_loss : Reads (.grove 0 gatedDesc) lossy 0 5 gatedDesc ∧
    bit64 (getSect lossy 0).errLoss 0 = true := by unfold Reads; decide +kernel

/-- FILL admitted for frame 2, at frame n. -/
def groveJob (started : Bool) (w : Option GroveWork) : GroveJob :=
  ⟨groveBits (groveDesc 0 (fill 0 1 0 0 2)), some 2, false, none, 1, 1, none, w, started⟩
def groveAt (n : Nat) (started : Bool) (w : Option GroveWork) : State :=
  atFrame (withCmds groveUp [cmd 1 (.grove (groveJob started w))]) n
theorem meet_GroveStart : dueGrove (groveAt 2 false none) 0 = some (cmd 1 (.grove (groveJob false none)), groveJob false none) ∧
    runningGrove (groveAt 2 false none) 0 = none ∧ timeGood (groveAt 2 false none) = true ∧
    dueGrove (groveAt 1 false none) 0 = none ∧
    dueGrove (lockless (groveAt 2 false none)) 0 = some (cmd 1 (.grove (groveJob false none)), groveJob false none) ∧
    runningGrove (lockless (groveAt 2 false none)) 0 = none ∧ timeGood (lockless (groveAt 2 false none)) = false ∧
    (cmd 1 (.grove (groveJob false none))).stop ≠ some .lost := by decide +kernel
def work1 : GroveWork := ⟨[⟨0, fNone, [(0, 1)]⟩], [], 0, none⟩
theorem meet_GroveCompletion : runningGrove (groveAt 2 true (some work1)) 0 =
      some (cmd 1 (.grove (groveJob true (some work1))), groveJob true (some work1)) ∧
    (groveJob true (some work1)).start.getD 0 + (groveJob true (some work1)).need ≤ frameOf (groveAt 2 true (some work1)) + 1 ∧
    (∀ x ∈ getCmds (groveAt 2 true (some work1)) 0, x.ord = 1 → x = cmd 1 (.grove (groveJob true (some work1)))) := by
  decide +kernel
/-- Table 8.4: a FILL of one binary32 element with P0 = 0 completes OK in its one frame. -/
theorem test_fill : (match exec (.groveCompletion 0) (groveAt 2 true (some work1)) with
    | .next t => decide ((t.recs.get 0).map (fun r : Rec => (r.status.toNat, r.detail.toNat)) = [(0, 0)] ∧
        t.tiers.mem = [(0, 1)]) | _ => false) = true := by decide +kernel

/-! ### Pages, checkpoints, resharding -/

def pages (kind n : Nat) : Desc := desc (page0 + n * 2 ^ 64 + kind * 2 ^ 96) 0 []
/-- Page 0 of the region stands in canopy block 0, which is in the pool. -/
def resident (owner : Byte) : State := { paged with
  tiers := { paged.tiers with blk := [(0, owner), (8192, 0)], pages := [(pageNo page0, ⟨false, false, some 0, 0⟩)] } }
theorem meet_Migrate : Reads (.migrate 0 (pages 0 1)) paged 0 6 (pages 0 1) ∧ pageCheck paged 0 (pages 0 1) true = none ∧
    inTier paged false (pageNo page0) = true ∧ inTier paged true (pageNo page0) = false ∧
    pageCheck paged 0 (pages 1 3) true = some stBad ∧ pageCheck up 0 (pages 1 1) true = some stBad ∧
    pageCheck { paged with tiers := tiersReset } 0 (pages 1 1) true = some stDenied ∧
    pageCheck paged 0 (pages 1 2) true = none ∧ Reads (.migrate 0 (pages 0 1)) (resident 8) 0 6 (pages 0 1) ∧
    pageCheck (resident 8) 0 (pages 0 1) true = none ∧ pgKind (pages 0 1) = 0 ∧ pageNo page0 ∈ pgList (pages 0 1) ∧
    inTier (resident 8) false (pageNo page0) = false := by unfold Reads; decide +kernel
theorem meet_Hints : (∀ k : Fin 6, ∃ c ∈ [Instr.preferCanopy 0 (pages (k.val + 1) 2), .preferUnder 0 (pages (k.val + 1) 2),
      .pin 0 (pages (k.val + 1) 2), .unpin 0 (pages (k.val + 1) 2), .willneed 0 (pages (k.val + 1) 2),
      .cold 0 (pages (k.val + 1) 2)], ringForm (resident 0x88) c = some (0, 7, pages (k.val + 1) 2, true)) ∧
    readsNow (resident 0x88) 0 (pages 1 2) = true ∧ pgKind (pages 6 2) = 6 ∧ pgKind (pages 1 2) = 1 ∧
    pageCheck (resident 0x88) 0 (pages 6 2) false = none ∧ inPool (resident 0x88) (pageNo page0) = true ∧
    inPool (resident 0x08) (pageNo page0) = false ∧ pageCheck paged 0 (pages 6 3) false = some stBad := by decide +kernel

/-- CHECKPOINT of 256 bytes from canopy 0 to understorey + 0x1000, with its digest at understorey. -/
def ck (src dst dig : Nat) : Desc :=
  desc (1 + 2 ^ 32 + dig * 2 ^ 64) 0 [BitVec.ofNat 512 (src + dst * 2 ^ 64 + 256 * 2 ^ 128)]
theorem meet_Checkpoint : Reads (.checkpoint 0 (ck 0 (page0 + 0x1000) page0)) up 0 8 (ck 0 (page0 + 0x1000) page0) ∧
    ckCheck up 0 (ck 0 (page0 + 0x1000) page0) = none ∧ ckCheck up 0 (ck 0 (page0 + 0x1000) (page0 + 32)) = some stBad ∧
    ckCheck up 0 (ck 0 (page0 + 0x4000000) page0) = some stDenied ∧
    ckCheck up 0 (ck 0 (page0 + 0x1000) (page0 + 0x10C0)) = some stBad ∧
    pagesIn up 0 page0 (page0 + 64) = [] := by unfold Reads; decide +kernel
def ckJob (started : Bool) : CkptJob := ⟨1, [(0, page0 + 0x1000, 256)], page0, started, 0, 0⟩
def ckAt (started : Bool) : State := withCmds up [cmd 1 (.checkpoint (ckJob started))]
theorem meet_CheckpointCopyStart : (getCmds (ckAt false) 0).find? (fun c => match c.job with
      | .checkpoint k => !k.started | _ => false) = some (cmd 1 (.checkpoint (ckJob false))) ∧
    workBefore (ckAt false) 0 (cmd 1 (.checkpoint (ckJob false))) = false ∧
    residencyDone (ckAt false) (cmd 1 (.checkpoint (ckJob false))) = true ∧
    recallsDone (ckAt false) 0 (cmd 1 (.checkpoint (ckJob false))) = true := by decide +kernel
theorem meet_TrancheDigestWrite : (getCmds (ckAt true) 0).find? (fun c => match c.job with
      | .checkpoint k => k.started | _ => false) = some (cmd 1 (.checkpoint (ckJob true))) ∧
    (cmd 1 (.checkpoint (ckJob true))).stop ≠ some .lost := by decide +kernel

def move0 : PageMove := ⟨pageNo page0, 0, some 0x200000, none⟩
def switching : State := { paged with tiers := { paged.tiers with moves := [move0] } }
theorem meet_PageSwitch : switching.tiers.moves.find? (fun m => m.page == pageNo (BitVec.ofNat 64 page0).toNat) = some move0 ∧
    moveBlocked switching move0 = false ∧ moveRecalled switching move0 = true ∧ targetFree switching move0 = true ∧
    canopyDozing switching = false ∧ bridgeDozing switching = false ∧
    (∀ t : Sec, ∀ c ∈ getCmds switching t, isMigrate c = false) := by decide +kernel
theorem meet_PatrolScrub : holdsPoison protected_ ((0 : BitVec 40).toNat * 256) = true ∧
    (blockOf ((0 : BitVec 40).toNat * 256)).isSome = true ∧ dozing protected_ ((0 : BitVec 40).toNat * 256) = false ∧
    holdsPoison up ((0 : BitVec 40).toNat * 256) = false ∧ holdsPoison up ((BitVec.ofNat 40 (page0 / 256)).toNat * 256) = true ∧
    (blockOf ((BitVec.ofNat 40 (page0 / 256)).toNat * 256)).isSome = true := by decide +kernel

/-- An image with one bfloat16 tensor of one element at canopy 0x10000. -/
def img2 : Image := { img with
  bytes := [(0x100, 16), (0x104, 2), (0x400, 1), (0x440, 2), (0x441, 3), (0x443, 1), (0x44A, 1), (0x458, 1), (0x45C, 1), (0x460, 1), (0x464, 1)]
  tensorOff := 0x400 }
/-- The same card with that image; canopy 0x100 lists the members 0 and 1. -/
def meshed : State := { loaded with
  images := loaded.images.set 0 (some img2), tiers := { loaded.tiers with mem := [(0x102, 1)] } }
/-- A PERMUTE of no units among two members over link 0, with all its tensors `k`. -/
def permute (k : Nat) : Nat :=
  5 + 2 * 2 ^ 8 + k * 2 ^ 32 + k * 2 ^ 48 + k * 2 ^ 64 + 2 ^ 128 + 2 * 2 ^ 192 + 0x100 * 2 ^ 256 + 2 ^ 448
def rs (start k : Nat) : Desc := desc start 0 [BitVec.ofNat 512 (permute k), BitVec.ofNat 512 (permute k / 2 ^ 512)]
def meshedOpen : State := { meshed with steps := pending5.steps }

theorem meet_Reshard_admitted : Reads (.reshard 0 (rs 2 0)) meshed 0 0x0C (rs 2 0) ∧ rsAllowed meshed 0 = true ∧
    rsCheck meshed 0 img2 (rsColl (rs 2 0)) = none ∧ startFits meshed 0 (rsStart (rs 2 0)) = true ∧
    startFits meshed 0 (rsStart (rs 1 0)) = false ∧
    (∀ r ∈ rsReads img2 (rsColl (rs 2 0)) ++ rsWrites img2 (rsColl (rs 2 0)), pagesIn meshed 0 r.1 (r.1 + r.2) = []) := by
  unfold Reads; decide +kernel
theorem meet_Reshard_refused : Reads (.reshard 0 (rs 2 0)) up 0 0x0C (rs 2 0) ∧ up.images.get 0 = none ∧
    Reads (.reshard 0 (rs 2 0)) meshedOpen 0 0x0C (rs 2 0) ∧ rsAllowed meshedOpen 0 = false ∧
    rsCheck meshed 0 img2 (rsColl (rs 2 1)) = some stBad := by unfold Reads; decide +kernel
def rsJob : ReshardJob := ⟨rsColl (rs 2 0), [0, 1], [], 2, false⟩
def rsAt (n : Nat) : State := atFrame (withCmds meshed [cmd 1 (.reshard rsJob)]) n
theorem meet_ReshardStart : dueReshard (rsAt 2) 0 = some (cmd 1 (.reshard rsJob), rsJob) ∧
    residencyDone (rsAt 2) (cmd 1 (.reshard rsJob)) = true ∧ recallsDone (rsAt 2) 0 (cmd 1 (.reshard rsJob)) = true ∧
    dueReshard (rsAt 1) 0 = none := by decide +kernel

/-! ### Time -/

theorem meet_GuardBand : up.time.frame = some 0 ∧ up.time.guard = false ∧ counterDead up = false ∧
    counterDead { up with ward := { up.ward with stage := .halted } } = true ∧ tickNs up (nextTick up) < 2 ^ 64 ∧
    ({ up with time := { up.time with frame := none } } : State).time.frame = none := by decide +kernel
/-- R60: with a 12 µs bell the guard band of frame 0 begins 200 ns before 12 000 ns. -/
theorem test_guard_band : (match exec .guardBand up with
    | .next t => decide (t.time.ns = 11800 ∧ t.time.guard = true) | _ => false) = true := by decide +kernel
def lock (l : Lock) (n : Nat) : State := { up with time := { up.time with lock := l, inBound := n } }
theorem meet_SyncMessage : up.ward.running = true ∧ counterDead up = false ∧ (lock .free 0).time.src = 0 ∧ (lock .free 0).time.link = none ∧
    (lock .acquiring 15).time.gm = 9 ∧ 15 ≤ (lock .acquiring 15).time.inBound ∧
    (lock .acquiring 15).time.ns.toNat ≤ (lock .acquiring 15).time.since + 4 * 125000000 ∧
    -160 ≤ (160 : W32).toInt ∧ (160 : W32).toInt ≤ 160 ∧ 160 < (161 : W32).toInt ∧
    (BitVec.ofInt 32 (-161)).toInt < -160 ∧ -160 ≤ (BitVec.ofInt 32 (-160)).toInt ∧ (lock .acquiring 15).time.gm ≠ 8 := by
  decide +kernel
/-- R55: the sixteenth in-bound message locks. -/
theorem test_sync_locks : (match exec (.syncMessage 9 0 160) (lock .acquiring 15), exec (.syncMessage 9 0 160) (lock .acquiring 14) with
    | .next t, .next u => decide (t.time.lock = .locked ∧ u.time.lock = .acquiring) | _, _ => false) = true := by decide +kernel
/-- In HOLDOVER since 0 with a last offset in 1/16 ns. -/
def holding (off : W32) : State :=
  { atFrame ended 3 with time := { (atFrame ended 3).time with lock := .holdover, holdOffset := off } }
theorem meet_HoldoverLimit : (holding 200).time.lock = .holdover ∧ holdoverEnd (holding 200) = 0 ∧
    holdoverEnd (holding 200) < bellNs (holding 200) ∧ holdoverEnd (holding 200) ≤ tickNs (holding 200) 4 ∧
    bellNs (holding 0) ≤ holdoverEnd (holding 0) ∧ up.time.lock ≠ .holdover ∧
    ∃ c ∈ getCmds (holding 200) 0, stopsOnLoss (holding 200) 0 c = true := by decide +kernel
/-- R56: an offset of 12.5 ns ends HOLDOVER at once, one of 0 ns after 10 s, one of 12 ns after half a second. -/
theorem test_holdover : holdoverEnd (holding 200) = 0 ∧ holdoverEnd (holding 0) = 10000000000 ∧
    holdoverEnd (holding 192) = 500000000 := by decide +kernel

/-! ### Links -/

def body (type : BitVec 4) : Body := ⟨type, 1, 0, 0, 0, 0, 0⟩
def linkSt (st : BitVec 4) : LinkSt := { linkReset with st := st }
/-- Link 0 in a state. -/
def linked (x : LinkSt) : State := { up with links := [(0, x)], power := { up.power with on := 0x1FFFFFFFFF } }
/-- Space k of link 0 with a space. -/
def withSpace (x : LinkSt) (k : Nat) (y : Space) : LinkSt := { x with spaces := x.spaces.set k y }
def kept1 : Space := { spaceReset with next := 1, out := [(0, body 0xC)] }

theorem meet_LinksTrain : (getLink (linked (linkSt lsPhy)) 0).st = lsPhy ∧ (getLink (linked (linkSt lsRetrain)) 0).st = lsRetrain ∧
    isA1 (linked (linkSt lsActive)) = false ∧
    (getLink (linked (linkSt lsDetect)) 0).st = lsDetect ∧ (getLink (linked (linkSt lsCaps)) 0).st = lsCaps ∧
    sendsUnits (getLink (linked (linkSt lsActive)) 0).st = true := by decide +kernel
/-- Table 9.8: a loss of lock retrains the link with cause 8, and counts its codewords. -/
theorem test_fec_loss : (match exec (.fecLockLoss ⟨0, 3⟩) (linked (linkSt lsActive)) with
    | .next t => decide (linkState t 0 = lsRetrain ∧ (getLink t 0).cause = 8 ∧ sget 0 (getLink t 0).lcnt 1 = 3)
    | _ => false) = true := by decide +kernel
def farSamples (n : Nat) (d : Int) : List Int := d :: List.replicate n 0
theorem far_max (n : Nat) (d : Int) (h : 0 ≤ d) : (List.replicate n 0).foldl max d = d := by
  induction n with
  | zero => rfl
  | succ n ih => simpa [List.replicate_succ, Int.max_eq_left h] using ih
theorem far_min (n : Nat) : (List.replicate n 0).foldl min (0 : Int) = 0 := by
  induction n with
  | zero => rfl
  | succ n ih => simpa [List.replicate_succ] using ih
theorem far_spread (n : Nat) (d : Int) (h : 0 ≤ d) : spread (farSamples (n + 1) d) = d := by
  have : (List.replicate (n + 1) 0).foldl min d = 0 := by
    rw [List.replicate_succ, List.foldl_cons, Int.min_eq_right h]; exact far_min _
  simp only [spread, farSamples, far_max _ _ h, this, Int.sub_zero]
theorem far_length (n : Nat) (d : Int) : (farSamples n d).length = n + 1 := by simp [farSamples]
def sampled (st : BitVec 4) (d : Int) : State := linked { linkSt st with samples := farSamples 1023 d }
theorem meet_Samples (st : BitVec 4) (d : Int) (h : 0 ≤ d) : (getLink (sampled st d) 0).st = st ∧
    (getLink (sampled st d) 0).samples.length = 1024 ∧ spread (getLink (sampled st d) 0).samples = d :=
  ⟨rfl, far_length 1023 d, far_spread 1022 d h⟩
theorem meet_ReplayTimeout : (getLink (linked (withSpace (linkSt lsActive) 4 { kept1 with timeouts := 6 })) 0).st = lsActive ∧
    (getLink (linked (withSpace (linkSt lsActive) 4 { kept1 with timeouts := 6 })) 0).spaces[4]? =
      some { kept1 with timeouts := 6 } ∧ ({ kept1 with timeouts := 6 } : Space).out ≠ [] ∧
    (getLink (linked (withSpace (linkSt lsActive) 4 { kept1 with timeouts := 7 })) 0).spaces[4]? =
      some { kept1 with timeouts := 7 } := by decide +kernel
/-- Table 9.8: the eighth failed PHY disables the link with cause 2; the seventh does not. -/
theorem test_phy_fails : (match exec (.linkStateLimit 0) (linked { linkSt lsPhy with phyFails := 7 }),
      exec (.linkStateLimit 0) (linked { linkSt lsPhy with phyFails := 6 }) with
    | .next t, .next u => decide (linkState t 0 = lsDisabled ∧ (getLink t 0).cause = 2 ∧ linkState u 0 = lsDetect)
    | _, _ => false) = true := by decide +kernel

def cable : CableRec := ⟨5, 0, 0, 100, true, true, 1000, 10, 100, 3, 50, 0, 0, 25, 25⟩
def plugged (st : BitVec 4) (c : Option CableRec) : State := { linked (linkSt st) with headers := [(0, ⟨true, false, false, c, 0⟩)] }
theorem meet_Headers : (getHeader up 0).present ≠ true ∧ (getHeader (plugged lsActive none) 0).present ≠ false ∧
    headerOnBit (plugged lsActive none) 0 = true ∧ linkState (plugged lsActive none) 0 = lsActive ∧
    linkEnabled (plugged lsActive none) 0 = true ∧ headerOnBit (linked (linkSt lsDetect)) 0 = true ∧
    linkState (linked (linkSt lsDetect)) 0 = lsDetect ∧ mayLeaveDisabled (linked (linkSt lsDisabled)) = true ∧
    linkState (linked (linkSt lsDisabled)) 0 = lsDisabled ∧
    (getHeader (plugged lsDetect none) 0).present = true ∧ (∃ l ∈ linksOf 0, linkState (plugged lsDetect none) l = lsDetect) ∧
    (getHeader (plugged lsActive (some cable)) 0).cable = some cable ∧ headerOnBit (plugged lsActive (some cable)) 0 = true ∧
    cable.valid = true ∧ cable.namesCard = true ∧ cable.powerMw < 1001 := by decide +kernel

/-- Slot 3 of link 0 is of section 0. -/
def slotted (x : LinkSt) : State := withSlots (linked x) [(3, 0x40)]
theorem meet_LinkUnitsAndFlits : slotSpace (slotted (linkSt lsActive)) 0 0 = some 4 ∧
    slotSpace (slotted (linkSt lsActive)) 0 3 = some 0 ∧ slotSpace (slotted (linkSt lsActive)) 0 49 = none ∧
    (getLink (slotted (linkSt lsActive)) 0).departTx = false ∧ (getLink (slotted (linkSt lsActive)) 0).departRx = false ∧
    (slotted (linkSt lsActive)).time.guard = false ∧ pickQueued (linkSt lsActive) 4 = none ∧
    (∀ k : Fin 36, (getLink (slotted (linkSt lsActive)) k.val).departWait = false) ∧
    (getLink (linked { linkSt lsActive with departWait := true }) 0).departWait = true ∧ spaceReset.replay = none ∧
    (getLink (slotted (linkSt lsActive)) 0).spaces[4]? = some spaceReset := by decide +kernel
/-- R250: the check value of CRC-32C over the ASCII digits 1 to 9. -/
theorem test_crc : crc32c [0x31, 0x32, 0x33, 0x34, 0x35, 0x36, 0x37, 0x38, 0x39] = 0xE3069283 := by decide +kernel
theorem meet_FlitSend_replay : (getLink (linked (withSpace (linkSt lsActive) 4 { kept1 with replay := some 0 })) 0).spaces[4]? =
      some { kept1 with replay := some 0 } ∧ kept1.out[0]? = some (0, body 0xC) := by decide +kernel
def queued : Space := { spaceReset with queue := [body 0xC, body 9] }
theorem meet_FlitSend_new : (getLink (linked (withSpace (linkSt lsActive) 4 queued)) 0).spaces[4]? = some queued ∧
    queued.replay = none ∧ queued.out.length < 1024 ∧
    pickQueued (withSpace (linkSt lsActive) 4 queued) 4 = some (body 9, [body 0xC]) := by decide +kernel
def unit (state : Byte) : Unit256 := ⟨true, 1, 0, 0, 0, state, 0, 0, 0⟩
theorem meet_LinkUnit : (unit 1).intact = true ∧ (unit 1).state ≠ 3 ∧ (unit 2).state = 2 ∧ (unit 3).state = 3 ∧
    (linkSt lsActive).spaces[0]? = some spaceReset ∧ ackWord (unit 1) 0 / 4096 % 2 = 0 := by decide +kernel

def flitNo (space : BitVec 3) (seq : BitVec 12) : Flit := { flit space 0 0 0 with seq := seq }
theorem meet_Flits : (getLink (linked (linkSt lsActive)) 0).spaces[(flitNo 4 0).space.toNat]? = some spaceReset ∧
    typeFits 0xC (flitNo 4 0).space.toNat = true ∧ typeFits 0xC (flitNo 3 0).space.toNat = false ∧
    typeFits 1 (flitNo 0 0).space.toNat = true ∧
    ((flitNo 4 0).seq.toNat + 4096 - spaceReset.expect) % 4096 = 0 ∧
    ((flitNo 4 1).seq.toNat + 4096 - spaceReset.expect) % 4096 = 1 ∧
    ((flitNo 4 1023).seq.toNat + 4096 - spaceReset.expect) % 4096 < 1024 ∧
    1024 ≤ ((flitNo 4 1024).seq.toNat + 4096 - spaceReset.expect) % 4096 ∧
    ((flitNo 4 3071).seq.toNat + 4096 - spaceReset.expect) % 4096 < 3072 ∧
    3072 ≤ ((flitNo 4 3072).seq.toNat + 4096 - spaceReset.expect) % 4096 := by decide +kernel
/-- R272: a flit 1 023 beyond asks for a resend, one 1 024 beyond retrains the link with cause 0xA. -/
theorem test_flit_order : (match exec (.mgmtFlit 0 (flitNo 4 1023)) (linked (linkSt lsActive)),
      exec (.mgmtFlit 0 (flitNo 4 1024)) (linked (linkSt lsActive)) with
    | .next t, .next u => decide ((getSpace (getLink t 0) 4).reqDue = true ∧ linkState t 0 = lsActive ∧
        linkState u 0 = lsRetrain ∧ (getLink u 0).cause = 0xA) | _, _ => false) = true := by decide +kernel

/-! ### Delivered flits -/

/-- Every cluster of section 0, in which every core runs img1 for micro-batch 0, over link 0. -/
def everyCore : State := { working worker 0 1 with
  sect := (working worker 0 1).sect.set 0 { getSect (working worker 0 1) 0 with clusters := 0xFFFF }
  images := (working worker 0 1).images.set 0 (some { img1 with clusterMask := 0xFFFF })
  links := [(0, linkSt lsActive)] }
theorem meet_DataFlit (tag : W16) (x : BitVec 1920) : coreSec everyCore (Config.dataPlace tag x).1.val = some 0 :=
  (by decide +kernel : ∀ q : Fin 128, coreSec everyCore q.val = some 0) _
theorem meet_TokenFlit (tag : W16) (x : BitVec 1920) :
    ∃ z, coreRun everyCore (Config.tokenOf tag x).1.val = some z ∧ z.sec = 0 := by
  have h : ∀ q : Fin 128, (match coreRun everyCore q.val with | some z => decide (z.sec = 0) | none => false) = true := by
    decide +kernel
  have := h (Config.tokenOf tag x).1
  split at this
  · rename_i z hz
    exact ⟨z, hz, by simpa using this⟩
  · simp at this
theorem meet_SectionFlits : (getLink everyCore 0).st = lsActive ∧ (getLink everyCore 0).spaces[(flitNo 0 0).space.toNat]? =
      some spaceReset ∧ (flitNo 0 0).space.toNat < 4 ∧ (flitNo 0 0).seq.toNat = spaceReset.expect ∧
    (flitNo 0 0).late = false ∧ (∃ g, everyCore.images.get 0 = some g ∧ (flitNo 0 0).src.toNat = g.logicalId) ∧
    (∀ g, everyCore.images.get 0 = some g → ({ flitNo 0 0 with src := 1 } : Flit).src.toNat ≠ g.logicalId) ∧
    sectionColls everyCore 0 = [] := by
  refine ⟨by decide +kernel, by decide +kernel, by decide, by decide, rfl, ⟨{ img1 with clusterMask := 0xFFFF }, by decide +kernel, by decide +kernel⟩, ?_,
    by decide +kernel⟩
  intro g h
  have : everyCore.images.get 0 = some { img1 with clusterMask := 0xFFFF } := by decide +kernel
  rw [this] at h
  cases h
  decide +kernel

/-- A ROLLCALL flit of step 5 for section 0: flags and level. -/
def voteFlit (src : W16) (flags level : Nat) : Flit :=
  { flit 4 40 0 (5 + flags * 2 ^ 64 + level * 2 ^ 72) with src := src }
/-- Link 0 ACTIVE, with step 5 of n cards pending on the card of a rank. -/
def rolled (rank n : Nat) (f : Pend → Pend) : State := { linked (linkSt lsActive) with
  steps := up.steps.set 0 { stepsReset with seeded := true, pend := [f { pend5 1 with logicalId := rank, devices := n }] } }
theorem meet_RollcallFlit : (getSteps (rolled 1 2 id) (tagSec (voteFlit 0 2 0xFF))).pend.find?
      (fun q => q.step == fieldAt (voteFlit 0 2 0xFF) 0 8) = some { pend5 1 with logicalId := 1, devices := 2 } ∧
    fieldAt (voteFlit 0 2 0xFF) 8 1 / 2 % 2 = 1 ∧ (pend5 1).taken = false ∧ (pend5 1).result = none ∧
    fieldAt (voteFlit 1 0 0) 8 1 / 2 % 2 = 0 ∧ fieldAt (voteFlit 1 0 0) 9 1 < depthOf 2 ∧ (pend5 1).level = 0 ∧
    combinesAt 0 0 = true ∧ (pend5 1).kept = [] ∧ (voteFlit 0 2 0xFF).src.toNat ≠ 1 ∧ (voteFlit 1 0 0).src.toNat ≠ 0 ∧
    guardCame (rolled 1 2 id) (rollFrame (rolled 1 2 id) 0 { pend5 1 with logicalId := 1, devices := 2 } (depthOf 2) +
      hopsOf (rolled 1 2 id) 0) = false ∧
    guardCame (rolled 0 2 id) (rollFrame (rolled 0 2 id) 0 { pend5 1 with logicalId := 0, devices := 2 } 0 +
      hopsOf (rolled 0 2 id) 0) = false := by decide +kernel
def timeFlit0 : Flit := flit 4 0 0 (9 * 2 ^ 96 + 2 ^ 176)
def drainFlit0 (op : Nat) : Flit := flit 4 0 0 op
theorem meet_ControlFlits : fieldAt timeFlit0 0x16 1 = 1 ∧ (linked (linkSt lsActive)).ward.running = true ∧
    w64 (fieldAt timeFlit0 0xC 8) = (linked (linkSt lsActive)).time.gm ∧ fieldAt (drainFlit0 1) 0 1 = 1 ∧
    isA1 (linked (linkSt lsActive)) = false ∧ (linked (linkSt lsActive)).ward.drainCopies = [] ∧
    (linked (linkSt lsActive)).time.guard = false ∧ (flit 4 0 0 0).seq.toNat = spaceReset.expect ∧
    (getSect loaded 0).rcCfg.extractLsb' 16 16 = (drainFlit0 1).dest ∧ (loaded.images.get 0).isSome = true := by
  decide +kernel
def asked : State := { linked (linkSt lsActive) with ward := { up.ward with drainCopies := [(0, 0)] } }
theorem meet_DrainFlit_again : (fieldAt (drainFlit0 1) 1 1, fieldAt (drainFlit0 1) 8 8) ∈ asked.ward.drainCopies ∧
    isA1 (atA1 asked) = true := by decide +kernel
theorem meet_MgmtFlit : (getLink (linked (linkSt lsCaps)) 0).st = lsCaps ∧ (flit 4 28 1 0).space = 4 ∧
    (flit 4 28 1 0).tag = 1 ∧ fieldAt (flit 4 28 1 0x10000) 2 1 = 1 := by decide +kernel

/-- One step pending in section 0 at frame n. -/
def rollAt (n : Nat) (guard : Bool) (rank devices : Nat) (f : Pend → Pend) : State :=
  let s := atFrame (rolled rank devices f) n
  { s with time := { s.time with guard := guard } }
def vote0 : Vote := ⟨false, false, 0, 0xFFFFFFFFFFFFFFFF, 0, 1⟩
def voted (level : Nat) (q : Pend) : Pend := { q with closed := true, value := some vote0, level := level }
theorem meet_RollContribution : (getSteps (rollAt 1 false 0 1 id) 0).pend = [{ pend5 1 with logicalId := 0, devices := 1 }] ∧
    (pend5 1).closed = false ∧ (pend5 1).roll ≤ frameOf (rollAt 1 false 0 1 id) ∧
    ¬ (pend5 1).roll ≤ frameOf (rollAt 0 false 0 1 id) ∧ (pend5 1).silent = false ∧
    isTrain (rollAt 1 false 0 1 id) 0 = true ∧
    isTrain { rollAt 1 false 0 1 id with sect := up.sect.set 0 { getSect up 0 with role := 1 } } 0 = false := by decide +kernel
theorem meet_RollLevelSend : digitAt 1 0 ≠ 0 ∧ (voted 0 (pend5 1)).level < depthOf 2 ∧
    slotZeroOf (rollAt 1 false 1 2 (voted 0)) (rollFrame (rollAt 1 false 1 2 (voted 0)) 0 (pend5 1) 0) = true ∧
    firstActive (rollAt 1 false 1 2 (voted 0)) (digitAt 1 0 - 1) = some 0 := by decide +kernel
theorem meet_RollCombine : combinesAt 0 0 = true ∧
    guardCame (rollAt 2 true 0 2 (voted 0)) (rollFrame (rollAt 2 true 0 2 (voted 0)) 0 (pend5 1) 0 +
      hopsOf (rollAt 2 true 0 2 (voted 0)) 0) = true ∧
    guardCame (rollAt 2 false 0 2 (voted 0)) 2 = false := by decide +kernel
theorem meet_RollResultSend : (voted 1 (pend5 1)).level = depthOf 2 ∧ (voted 1 (pend5 1)).result = none ∧
    slotZeroOf (rollAt 3 false 0 2 (voted 1)) (rollFrame (rollAt 3 false 0 2 (voted 1)) 0 (pend5 1) (depthOf 2)) = true := by
  decide +kernel
theorem meet_RollResult : (voted 1 (pend5 1)).taken = false ∧
    guardCame (rollAt 4 true 0 2 (voted 1)) (rollFrame (rollAt 4 true 0 2 (voted 1)) 0
      { voted 1 (pend5 1) with devices := 2 } (depthOf 2) + hopsOf (rollAt 4 true 0 2 (voted 1)) 0) = true := by decide +kernel
theorem meet_RollReturn : rollFrame (rollAt 5 false 0 2 (voted 1)) 0 { voted 1 (pend5 1) with devices := 2 } (depthOf 2 + 1) ≤
      frameOf (rollAt 5 false 0 2 (voted 1)) ∧
    ¬ rollFrame (rollAt 4 false 0 2 (voted 1)) 0 { voted 1 (pend5 1) with devices := 2 } (depthOf 2 + 1) ≤
      frameOf (rollAt 4 false 0 2 (voted 1)) := by decide +kernel

/-! ### A COLL flit that a RESHARD expects -/

def img3 : Image := { img2 with bytes := sset 0 (sset 0 img2.bytes 0x458 0) 0x459 1 }
def resharding : State :=
  let s := withCmds meshed [cmd 1 (.reshard { rsJob with started := true })]
  { s with images := s.images.set 0 (some img3), links := [(0, linkSt lsActive)] }
def unit0 : Flit := { flit 0 240 0 (512 * 2 ^ 48) with src := 1 }
theorem meet_CollFlit : ∃ c, (sectionColls resharding 0).find? (fun c => c.id == unit0.tag.toNat % 4096 &&
      expects c (collLevelOf unit0) (collBlock unit0)) = some c ∧ c.sec = spaceSec unit0 ∧
    recvAt resharding c (collKey c.id (collLevelOf unit0) (collBlock unit0)) = none ∧
    (joinPiece ⟨collElen unit0, [], [], false⟩ unit0).got.length <
      ((joinPiece ⟨collElen unit0, [], [], false⟩ unit0).elen + 223) / 224 := by
  refine ⟨⟨0, 1, img3, 0, rsColl (rs 2 0), [0, 1], [], [], 2, 0⟩, ?_⟩
  decide +kernel

/-! ### Card, power, SRAM -/

def draining1 (d : DrainSt) (guard : Bool) : State :=
  { linked (linkSt lsActive) with ward := { up.ward with drain := d }, time := { up.time with guard := guard } }
theorem meet_CardDrain : (draining1 .guard true).ward.drain = .guard ∧ (draining1 .guard true).time.guard = true ∧
    linkState (draining1 .guard true) 0 = lsActive ∧ (draining1 .send false).ward.drain = .send ∧
    (draining1 .send false).time.guard = false := by decide +kernel
theorem meet_Sentry : up.ward.running = true ∧ up.ward.sentryActed = false ∧ up.ward.card = .service ∧
    ({ up.ward with sentryArmed := true } : Warden).sentryArmed = true ∧ up.ward.drain ≠ .armed ∧ up.ward.drain ≠ .send ∧
    gone.ward.card ≠ .service ∧ (∃ w : W64, w = Config.selfCheck) ∧ ∃ w : W64, w ≠ Config.selfCheck :=
  ⟨rfl, rfl, rfl, rfl, by decide, by decide, by decide, ⟨_, rfl⟩, ⟨Config.selfCheck + 1, by simp⟩⟩
theorem meet_PowerFails : up.ward.running = true ∧ up.ward.stage ≠ .halted ∧ up.ward.stage ≠ .off ∧ (getRing up 0).st = .active ∧
    ({ up.ward with stage := .halted } : Warden).stage = .halted ∧ 150000000 ≤ (150000000 : W64).toNat ∧
    (60000 : W16).toNat ≤ 60000 ∧ 60000 < (60001 : W16).toNat ∧ (65535 : W16).toNat ≤ 66000 := by decide +kernel
theorem meet_Limits : (∃ a : W16, 10 * a.toNat ≤ railLimit 0) ∧ railLimit 39 < 10 * (65535 : W16).toNat ∧ railLimit 40 < 10 * (65535 : W16).toNat ∧
    (0x7FFF : W16) ≠ 0x8000 ∧ (0 : W16).toInt ≤ tempLimit 15 ∧ tempLimit 0 < (0x7FFF : W16).toInt :=
  ⟨⟨0, by decide +kernel⟩, by decide +kernel, by decide +kernel, by decide, by decide +kernel, by decide +kernel⟩
def storing : State := { up with colls := up.colls.set 0 [⟨1, [], [], [], [(collKey 3 0 2, (0, 0))], [], []⟩] }
theorem meet_BlockStore : storing.colls.get 0 = [⟨1, [], [], [], [(collKey 3 0 2, (0, 0))], [], []⟩] ∧
    64 * 49151 < slateBytes ∧ ¬ 64 * 49152 < slateBytes ∧
    linkState (linked (linkSt lsActive)) 0 = lsActive := by decide +kernel

/-! ### Host interface -/

theorem meet_HostLink : trains 1 1 = true ∧ trains 6 16 = true ∧ trains 0 16 = false ∧ trains 6 0 = false ∧
    measured up = true ∧ up.hif.ridSet = false ∧ measured State.reset = false ∧
    ({ up.hif with ridSet := true, hostRid := 7 } : Hif).hostRid = 7 ∧ (0x1FFFFF8 : BitVec 25).toNat % 8 = 0 ∧
    (4 : BitVec 25).toNat % 8 ≠ 0 := by decide +kernel
def lossUp : State := withCmds up [cmd 1 (.timeMark 9), runCmd 2 true]
theorem meet_HostLinkLoss : (∀ w e f, (cmd 1 (.timeMark 9)).job ≠ .netDrain e w f) ∧ up.hif.mode ≠ 0 ∧ isRunning (cmd 1 (.timeMark 9)) = false ∧ isRunning (runCmd 2 true) = true ∧
    (∀ d ∈ getCmds lossUp 0, ∀ x ∈ getCmds lossUp 0, x.ord = d.ord → x = d) :=
  ⟨fun _ _ _ => Job.noConfusion, by decide +kernel⟩
def caching (l : LineSt) : State := { up with hif := { up.hif with cache := [(1, ⟨l, 5, 0⟩)] } }
def overtaken : State := { up with hif := { up.hif with stale := [(1, 5)] } }
theorem meet_Snoops : windowUp up = true ∧ snoopState up 1 = none ∧ snoopState (caching .s) 1 = some (.s, 5) ∧
    snoopState (caching .e) 1 = some (.e, 5) ∧ snoopState (caching .m) 1 = some (.m, 5) ∧
    snoopState (caching (.evicting false)) 1 = some (.evicting false, 5) ∧
    snoopState (caching .cleanPending) 1 = some (.cleanPending, 5) ∧ (getRing up 0).enable = true ∧
    (getRing up 0).dbAddr.toNat / 64 = (0x30000 : W64).toNat / 64 := by decide +kernel
theorem meet_Evictions : cacheLine (caching (.evicting true)) ((64 : W64).toNat / 64) = some ⟨.evicting true, 5, 0⟩ ∧
    (caching (.evicting true)).hif.stale = [] ∧
    overtaken.hif.stale.find? (fun e => e.1 == (64 : W64).toNat / 64) = some (1, 5) := by decide +kernel
/-- R372, Table 13.9: a line in eviction that a snoop has taken is written back as Bogus. -/
theorem test_bogus : (match exec (.goWritePull 64) (caching (.evicting true)) with
    | .next t => decide (t.out = [.pull 64 true 5] ∧ t.hif.cache = []) | _ => false) = true := by decide +kernel

/-- The window of section 0 with both rights; canopy block 0 is protected, or a grove block. -/
def window (blk : Byte) : State := { up with
  tiers := { up.tiers with blk := [(0, blk), (8192, 0)] }
  sect := up.sect.set 0 { sectReset with winRd := true, winWr := true } }
def hpa0 : W64 := 0x100000000000
theorem meet_WindowReads : windowUp (window 0x10) = true ∧ windowAddr (window 0x10) hpa0.toNat = some 0 ∧
    targetOf (window 0x10) 0 = .own 0 ∧ (getSect (window 0x10) 0).winRd = true ∧ inGrove (window 0x10) 0 = false ∧
    inGrove (window 0) 0 = true ∧ mayCache (window 0x10) 0 0 true = some true ∧ dirEntry (window 0x10) 0 = none ∧
    dirRoom (window 0x10) 0 = true ∧ waitingOf (window 0x10) 0 < 4096 ∧ targetOf up 0x4000000 = .orphan ∧
    targetOf up 0 = .own 0 ∧ (getSect up 0).winRd = false ∧ noCredits (window 0x10) = false ∧
    inSlot0 (window 0x10) = true ∧ inSlot0 (atNs (window 0x10) 240) = false := by decide +kernel
/-- Requests that wait for a recall of section 0: with 4,096 the device gives no request credits (R376). -/
def crowded (n : Nat) : State := { window 0x10 with hif := { up.hif with waiting := List.replicate n ⟨1, 0, false⟩ } }
theorem meet_NoCredits (n : Nat) : noCredits (crowded n) = decide (4096 ≤ n) := by
  have h (t : Sec) : waitingOf (crowded n) t = if t = 0 then n else 0 := by
    show ((List.replicate n (⟨1, 0, false⟩ : Waiter)).filter (fun w => w.sec == t)).length = _
    by_cases ht : t = 0
    · subst ht; rw [List.filter_replicate_of_pos (by rfl), List.length_replicate, if_pos rfl]
    · rw [List.filter_replicate_of_neg (by simpa using fun h => ht h.symm), if_neg ht]; rfl
  have hs : allSecs = [0, 1, 2, 3] := rfl
  simp only [noCredits, hs, List.any_cons, List.any_nil, h]
  simp
def noQuota : State := { window 0x10 with sect := up.sect.set 0 { getSect (window 0x10) 0 with quota := 0 } }
theorem meet_WindowReads_quota : mayCache noQuota 0 0 true = none ∧
    mayCache (withCmds (window 0x10) [{ cmd 1 (.inlineWrite []) with writes := [0] }]) 0 0 true = none ∧
    mayCache (withCmds (window 0x10) [{ cmd 1 (.inlineWrite []) with reads := [0] }]) 0 0 true = some false := by decide +kernel
/-- A quota of 1 with n entries in use. -/
def granted (n : Nat) : State := { window 0x10 with
  sect := up.sect.set 0 { getSect (window 0x10) 0 with quota := 1 }
  hif := { up.hif with dir := List.replicate n ⟨1, 0, false, false, false, false, false⟩ } }
theorem meet_DirFull (n : Nat) (h : 65536 ≤ n) : dirRoom (granted n) 0 = false := by
  have hn : entriesOf (granted n) 0 = n := by
    show ((List.replicate n (⟨1, 0, false, false, false, false, false⟩ : DirEntry)).filter (fun e => e.sec == 0)).length = n
    rw [List.filter_replicate_of_pos rfl, List.length_replicate]
  have ha : isA1 (granted n) = false := rfl
  have hq : (getSect (granted n) 0).quota = 1 := rfl
  simp only [dirRoom, ha, hn, hq]
  exact decide_eq_false (fun hc => by have : n < 65536 * 1 := hc.1; omega)
theorem meet_WindowWrites : (window 0x10).hif.inbound.length < 131072 ∧ (getSect (window 0x10) 0).winWr = true ∧
    inLogs (window 0x10) 0 0 = false ∧ abortsOnA1 (window 0x10) 0 = false ∧ (getSect up 0).winWr = false := by decide +kernel
def line0 : Inbound := ⟨0, 0, 5, 1, false⟩
def buffered : State := { window 0x10 with hif := { up.hif with inbound := [line0] } }
theorem meet_Drained : (buffered.hif.inbound.filter (fun e => !dozing buffered (place buffered e.addr))).take 1 = [line0] ∧
    line0.poison = false ∧ line0.addr % 64 = 0 ∧ isPoison buffered line0.addr = false ∧
    pageMoving buffered line0.addr = false ∧ (∀ i, i < 64 → inReadOnlyFrame buffered (line0.addr + i) = false) ∧
    line0.enable.getLsbD 0 = true ∧ inSlot0 buffered = true ∧ inSlot0 (atNs buffered 240) = false := by decide +kernel
/-- R366, R367: only the enabled byte is written. -/
theorem test_drain : (match exec (.inboundBufferDrain 1) { buffered with hif := { up.hif with inbound := [{ line0 with data := 0x0605 }] } } with
    | .next t => decide (t.tiers.mem = [(0, 5)]) | _ => false) = true := by decide +kernel

def held1 (snp overdue : Bool) : DirEntry := ⟨0, 0, true, snp, overdue, false, false⟩
def recalling (snp overdue : Bool) : State := { window 0x10 with
  hif := { up.hif with dir := [held1 snp overdue], due := [(0, 0, true)] } }
theorem meet_Recalls : (recalling false false).hif.due = [(0, 0, true)] ∧ dirEntry (recalling false false) 0 = some (held1 false false) ∧
    recallShares (recalling false false) 0 0 1 = (0, 1) ∧ recallShares (recalling false false) 0 1 0 = (1, 0) ∧
    windowAddr (recalling true false) hpa0.toNat = some 0 ∧ dirEntry (recalling true false) (0 / 64) = some (held1 true false) ∧
    isA1 (atA1 (recalling true false)) = true ∧ inSlot0 (recalling false false) = true ∧
    windowUp (recalling true false) = true ∧ (recalling true false).tiers.moves = [] ∧
    (recalling true false).hif.waiting = [] ∧ noCredits (recalling true false) = false ∧
    targetOf (recalling true false) 0 = .own 0 ∧ inLogs (recalling true false) 0 0 = false ∧
    abortsOnA1 (recalling true false) 0 = false := by decide +kernel
/-- R378: the entry goes when both the BIRsp and the crossing MemWr have come, in either order. -/
theorem test_crossing : (match exec (.birsp ⟨hpa0, true⟩) (recalling true false) with
    | .next t => (match exec (.memWr hpa0 .i 0 false) t with
      | .next u => decide (dirEntry t 0 ≠ none ∧ dirEntry u 0 = none) | _ => false)
    | _ => false) = true ∧ (match exec (.memWr hpa0 .i 0 false) (recalling true false) with
    | .next t => (match exec (.birsp ⟨hpa0, true⟩) t with
      | .next u => decide (dirEntry t 0 ≠ none ∧ dirEntry u 0 = none) | _ => false)
    | _ => false) = true := by decide +kernel

/-! ### Registers -/

def fresh0 : Ring := { ringReset with sqBase := 0x10000000, cqBase := 0x20000000, dbAddr := 0x30000000 }
def idle : State := { up with rings := [(0, fresh0)] }
theorem meet_RingEnable : isScrubbing idle (secOf 0) = false ∧ (0x80000000 : W32).getLsbD 31 = true ∧ coreUp idle = true ∧
    (getRing idle 0).enable = false ∧
    enableOk idle 0 { fresh0 with irqEn := false, cqSize := 10, sqSize := 10, refused := false } = true ∧
    enableOk idle 0 { fresh0 with irqEn := false, cqSize := 0, sqSize := 11, refused := false } = false ∧
    coreUp State.reset = false ∧ ringFree (getRing idle 0) = true ∧ ringFree (getRing up 0) = false ∧
    (getRing up 0).st = .active ∧ (getRing up 0).outstanding = 0 := by decide +kernel
/-- Log, reference and trace regions of 1 MiB in understorey block 8192. -/
def sized (mib : Nat) : W64 := BitVec.ofNat 64 (2 ^ 63 + 2 ^ 20 * (underBase / 2 ^ 20 + mib))
theorem meet_TraceCfg : isScrubbing up 0 = false ∧ noImage up 0 = true ∧ noImage loaded 0 = false ∧ isA1 up = false ∧
    sizedOk up 0 (sized 0) 0 = true ∧ sizedOk up 0 (sized 64) 0 = false ∧ sizedOk up 0 (sized 0) (sized 0) = false ∧
    bit64 (sized 0) 63 = true ∧ bit64 (0 : W64) 63 = false ∧
    refOk up 0 (BitVec.ofNat 64 (2 ^ 63 + underBase)) 0 = true := by decide +kernel

/-- An installer session. -/
def session (s : State) : State := { s with ward := { s.ward with session := .installer } }
def quiet : State := session { up with rings := [], sect := up.sect.set 0 { sectReset with st := .assigned, clusters := 3 } }
theorem meet_SectCtl : quiet.ward.running = true ∧ quiet.ward.session = .installer ∧ auditIsFull quiet = false ∧ coreUp quiet = true ∧
    isScrubbing quiet 0 = false ∧ clustersOk quiet 0 1 = true ∧ clustersOk quiet 1 1 = false ∧
    (getSect quiet 0).clusters.getLsbD 1 = true ∧ (1 : W16).getLsbD 1 = false ∧ (0x10000003 : W32).getLsbD 28 = true ∧
    (0x10000003 : W32).setWidth 16 = (getSect quiet 0).clusters ∧ releaseOk quiet 0 = true ∧ releaseOk (session up) 0 = false := by
  decide +kernel
theorem meet_SectResources : mayHold quiet 0 (getSect quiet 0).commons 1 (fun u => (getSect quiet u).commons) = true ∧
    owncmdOk quiet (BitVec.ofNat 64 (0x9FFF * 2 ^ 48 + 2 ^ 32)) = true ∧
    owncmdOk quiet (BitVec.ofNat 64 (0x9FFF * 2 ^ 48 + 2 * 2 ^ 32)) = false ∧
    (eachEntry slotOne quiet (arrayBytes (48 * 64 + 1) false 0x40)).2 = false ∧
    (eachEntry slotOne quiet (arrayBytes (48 * 64) false 0x40)).2 = true := by decide +kernel
def scrubs : State := { up with
  sect := up.sect.set 0 { sectReset with st := .scrubbing, fills := [0] }
  tiers := { up.tiers with blk := [(0, 0xE4)] } }
theorem meet_Scrubbing : isScrubbing scrubs 0 = true ∧ isBusy scrubs (0 : Fin 40960).val = true ∧
    0 ∈ (getSect scrubs 0).fills ∧ noImage scrubs 0 = true := by decide +kernel
theorem meet_SectRole : isScrubbing up 0 = false ∧ noImage up 0 = true ∧ stepOpen (getSteps up 0) = false ∧
    (getCmds up 0).any isGroveOp = false ∧ stepOpen (getSteps pending5 0) = true ∧
    (getCmds (groveAt 2 false none) 0).any isGroveOp = true ∧ (0 : W32).setWidth 2 = (0 : BitVec 2) := by decide +kernel
theorem meet_MemBlkcfg : ownedBy up 0 0 = true ∧ ownedBy up 0 1 = false ∧
    (0x10 : W64).extractLsb' 0 8 &&& 0x18 ≠ getBlk up 0 &&& 0x18 ∧ loadedNames up 0 0 = false ∧
    blockHasPage up 0 = false ∧ isBusy up 0 = false ∧ blockHasPage (resident 8) 0 = true ∧ up.hif.inbound = [] := by
  decide +kernel
theorem meet_GroveBlkmode : ((1 : W64).extractLsb' 0 8).getLsbD 0 = true ∧ isPinnedBlk up 0 = false ∧ blkType (getBlk up 0) = false ∧ blkUse (getBlk up 0) = false ∧
    groveNames up 0 0 = false ∧ blkType (getBlk protected_ 0) = true := by decide +kernel
theorem meet_MemMrgn : isScrubbing up 0 = false ∧ mrgnOn (getMrgn up 0 15) = false ∧ mrgnOn region = true ∧
    mrgnOk up 0 15 region = true ∧ mrgnOk paged 0 15 region = false ∧ regionEmpty paged region = true ∧
    regionEmpty (resident 8) region = false := by decide +kernel

theorem meet_Bell : (session up).ward.running = true ∧ (session up).ward.session = .installer ∧ auditIsFull (session up) = false ∧ noImages (session up) = true ∧
    noImages (session loaded) = false ∧ bits (2 : W64) 0 7 = 2 ∧ bits (100 : W64) 0 7 = 100 ∧ bits (1 : W64) 0 7 < 2 ∧
    100 < bits (101 : W64) 0 7 := by decide +kernel
theorem meet_LinkWindowPower : (session up).lctlPhys = 0x1FFFF ∧ noImages (session up) = true ∧ logsOff (session up) = true ∧
    (getSect (session (window 0)) 0).winRd = true ∧ entriesOf (session (window 0)) 0 = 0 ∧
    entriesOf (session (recalling false false)) 0 ≠ 0 ∧ otherQuota (session up) 0 + 16 = 64 ∧
    64 < otherQuota (session up) 0 + 17 ∧ ackOk (session up) 0 = true ∧ ackOk (session up) 0xFFFFFFFFFFFFFFFF = false ∧
    (0x8000 : W32).extractLsb' 12 4 = 8 ∧ (0x9000 : W32).extractLsb' 12 4 = 9 ∧ (0x1000 : W32).extractLsb' 12 4 = 1 := by
  decide +kernel
def asleep : State := session { up with power := { up.power with mdozeCanopy := true } }
theorem meet_Mdoze : asleep.power.mdozeCanopy = true ∧ noImages asleep = true ∧ logsOff asleep = true ∧
    noImages (session loaded) = false ∧ (1 : W32).getLsbD 0 = true ∧ (session loaded).power.mdozeCanopy = false := by
  decide +kernel
theorem meet_Records_clear : isScrubbing up 0 = false ∧ (9 : BitVec 4).toNat < 10 ∧ (9 : BitVec 4) ≠ 7 ∧
    bits (mergePart .whole (timeCtrlWord (session up)) 2) 0 2 ≠ 3 ∧
    (2 : BitVec 2) ≠ (session up).time.src ∧ up.ward.session ≠ .installer ∧ State.reset.ward.running = false ∧
    bellNs up = 11800 ∧ counterDead up = false ∧ (holding 200).time.lock = .holdover ∧
    (4 : BitVec 25).toNat % 8 ≠ 0 ∧ (2 : BitVec 25).toNat % 4 ≠ 0 := by decide +kernel

/-! ### Warden and start-up -/

theorem meet_Mailbox : measured up = true ∧ up.ward.running = true ∧ up.ward.busy = false ∧ up.ward.session = .none ∧
    (session up).ward.session ≠ .none ∧ roleKeys up 1 = [] ∧ roleKeys up 2 = [(.installer, key1)] ∧
    auditRoom up = true ∧ up.ward.card = .service ∧
    measured State.reset = false ∧ ({ up.ward with busy := true } : Warden).busy = true ∧
    (View.sect 0 ≠ View.card) := by decide +kernel
/-- An audit log with no room left, also for the device: 65,536 entries above AUDIT_ACK. -/
def auditAt (n : Nat) (a : Audit) : State := session { up with ward := { up.ward with audit := List.replicate n a } }
theorem meet_AuditFull (n : Nat) (h : 65536 ≤ n) (a : Audit) (ha : a.seq = n) : auditRoom (auditAt n a) = false := by
  have hu : auditUsed (auditAt n a) = n := by
    obtain ⟨m, rfl⟩ : ∃ m, n = m + 1 := ⟨n - 1, by omega⟩
    show auditHead (auditAt (m + 1) a) - 0 = _
    simp [auditHead, auditAt, session, ha, List.getLast?_replicate]
  simp only [auditRoom, hu, Bool.and_eq_false_imp]
  intro _
  exact decide_eq_false (by omega)
/-- R480: with no nonce SUBMIT answers NO_NONCE; CHALLENGE for no role answers BAD_CMD. -/
theorem test_no_nonce : (match exec (.submit .card) up, exec (.challenge .card 3) up with
    | .next t, .next u => decide (t.ward.result = 6 ∧ u.ward.result = 4) | _, _ => false) = true := by decide +kernel
def worked : State := { up with ward := { up.ward with operators := [(3, some ⟨1, 2, 1⟩)] } }
theorem meet_Redfish : clientKey up .none = none ∧ worked.ward.running = true ∧ measured worked = true ∧
    mayDo worked .installer .readAudit = true ∧ isServed (.subscribe true) = true ∧ mayDo worked (.operator 3) (.subscribe true) = true ∧
    auditRoom worked = true ∧ worked.ward.installer ≠ none ∧ worked.ward.card = .service ∧ clientKey worked (.operator 3) ≠ none ∧ clientKey worked (.operator 4) = none ∧
    mayDo worked (.operator 3) .readStatus = true ∧ mayDo worked (.operator 3) .returnToService = false ∧
    mayDo worked (.operator 3) (.readRecords (some 1)) = false ∧ mayDo worked (.operator 3) (.readRecords (some 0)) = true ∧
    isServed .readStatus = true ∧ auditIsFull worked = false ∧ mayDo worked .installer .returnToService = true ∧
    (clientKey worked .maker).isSome = true := by decide +kernel
def event0 (who : List Client) : Event := ⟨5, 0xF, 0, .word 1, who⟩
/-- R476: two subscribers, of which one has taken an earlier event; the other still waits for both. -/
def subscribed : State := { worked with ward := { worked.ward with
  events := [event0 [.operator 3], event0 [.installer, .operator 3]], subs := [.installer, .operator 3] } }
theorem meet_Events : clientKey subscribed .installer ≠ none ∧ clientKey subscribed (.operator 3) ≠ none ∧
    Client.installer ∉ (event0 [.operator 3]).dests ∧ Client.installer ∈ (event0 [.installer, .operator 3]).dests ∧
    subscribed.ward.running = true ∧ measured subscribed = true := by decide +kernel
/-- R476: the installer has its first event, which is the second of the list, and operator 3 the first. -/
theorem test_events : (match exec (.redfishRequest .installer .eventReceived) subscribed,
      exec (.redfishRequest (.operator 3) .eventReceived) subscribed with
    | .next t, .next u => decide (t.ward.events = [event0 [.operator 3], event0 [.operator 3]] ∧
        u.ward.events = [event0 [.installer, .operator 3]])
    | _, _ => false) = true := by decide +kernel
theorem meet_Enrolment : enrolSigner up true (.revoke 0) = none ∧ enrolSigner up false (.revoke 0) = some (key1, 2) ∧
    enrolSigner State.reset true (.installerKey 1 2) = some (⟨0, 0, 0⟩, 3) ∧ up.ward.installer ≠ none ∧
    up.id.minSvn.toNat ≤ (63 : BitVec 6).toNat := by decide +kernel
def stageAt (x : Stage0) : State := { State.reset with ward := { wardenReset with stage := x } }
def staged (v : BitVec 8) : State := { State.reset with ward := { wardenReset with stage := .present, staged := some v } }
theorem meet_StartUp : State.reset.ward.stage = .off ∧ (stageAt .present).ward.staged = none ∧ (staged 3).ward.staged = some 3 ∧
    (38000 : W16).toNat = 38000 ∧ (60000 : W16).toNat ≤ 60000 ∧ 60000 < (60001 : W16).toNat ∧ (65535 : W16).toNat ≤ 66000 ∧
    (37999 : W16).toNat < 38000 ∧ ¬ tempLimit 14 < (0 : W16).toInt ∧ ¬ tempLimit 15 < (0 : W16).toInt ∧
    tempLimit 14 < (0x7FFF : W16).toInt ∧ (stageAt .core).ward.card = .service ∧
    State.reset.power.hdr.getLsbD (headerOf (0 : Link).val) = true := by decide +kernel
/-- R541: at the power-on reset every stage in turn leads to LINKS, with link 0 in DETECT. -/
theorem test_start_up : (match exec (.present 10) State.reset with
    | .next a => match exec (.boot true true) a with
      | .next b => match exec (.measure 48000 0 0) b with
        | .next c => decide (c.ward.stage = .measure ∧ c.ward.card = .service)
        | _ => false
      | _ => false
    | _ => false) = true := by decide +kernel
theorem test_links : (match exec .links (stageAt .core) with
    | .next t => decide (linkState t 0 = lsDetect ∧ t.ward.stage = .links) | _ => false) = true := by decide +kernel
def assembling : State := { up with power := { up.power with assembly := true } }
def dozing0 (wake : W16) : State := { loaded with power := { up.power with assembly := true, dozeAt := [(0, 5)], wakeDue := wake } }
theorem meet_Assembly : assembling.power.assembly = true ∧ anyRun assembling = false ∧ absentCores assembling = [] ∧
    atTick assembling = true ∧ atTick (atNs assembling 1) = false ∧ assembling.ward.stage = .links ∧
    anyRun (withCmds assembling [runCmd 1 true]) = true ∧ clusterOwner assembling 3 = none ∧
    (clusterDomain assembling 3).isSome = true ∧
    absentCores (dozing0 0) ≠ [] ∧ isDozing (dozing0 0) 0 = true ∧ assembling.ward.card = .service := by decide +kernel
/-- R84: a core with a bundle in flight is not at rest, so an assembly waits. -/
theorem test_assembly_waits : absentCores { assembling with cores := [(5, { coreReset with flight := [⟨0, 0, [], [], []⟩] })] } =
    [5] := by decide +kernel
def unowned (l : List Scrub) : State := { up with power := { up.power with dozeAt := [(3, 0)], wakeDue := 8, scrubs := l } }
def wants : State := { loaded with sect := loaded.sect.set 0 { getSect loaded 0 with cdoze := 1 } }
theorem meet_Doze : clusterOwner wants 0 = some 0 ∧ (getSect wants 0).cdoze.getLsbD 0 = true ∧ isDozing wants 0 = false ∧
    (∀ q ∈ clusterCores wants 0, queueOut wants 0 q = true) ∧ (clusterDomain wants 0).isSome = true ∧
    (∃ q ∈ clusterCores wants 0, queueOut { wants with trace := wants.trace.set 0 { traceReset with
      traceQ := [⟨0, 0, 1, 1, 0, 0, 0, 0⟩] } } 0 q = false) ∧ Scrub.cluster 0 ∉ (dozing0 1).power.scrubs ∧
    isDozing (unowned []) 3 = true ∧ (unowned []).power.wakeDue.getLsbD 3 = true ∧ clusterOwner (unowned []) 3 = none ∧
    Scrub.cluster 3 ∉ (unowned []).power.scrubs ∧ isDozing (unowned [.cluster 3]) 3 = true ∧
    (unowned [.cluster 3]).power.wakeDue.getLsbD 3 = true ∧ Scrub.cluster 3 ∈ (unowned [.cluster 3]).power.scrubs ∧
    clusterOwner (dozing0 1) 0 = some 0 ∧ isDozing (dozing0 1) 0 = true ∧ (dozing0 1).power.wakeDue.getLsbD 0 = true ∧
    (2 : BitVec 2).getLsbD 1 = true := by decide +kernel

def entry1 : LogEntry := ⟨1, 0xFF, [5], 0⟩
def logging (off used : Nat) : State := { up with
  trace := up.trace.set 0 { traceReset with rlcfg := sized 0, rlOff := off, logQ := [entry1] }
  budget := up.budget.set 0 ⟨0, 0, 0, 0, used, 0⟩ }
theorem meet_LogWrite : inSlot0 (logging 0 0) = true ∧ inSlot0 (atNs (logging 0 0) 240) = false ∧ logOn (logging 0 0) 0 = true ∧ (getTrace (logging 0 0) 0).logQ = [entry1] ∧ entryBytes entry1 = 128 ∧
    (sizedRegion (sized 0)).2 = 1048576 ∧ 1048448 + entryBytes entry1 ≤ (sizedRegion (sized 0)).2 ∧
    ((logging 0 262016).budget.get 0).logBytes + entryBytes entry1 ≤ 262144 ∧
    262144 < ((logging 0 262017).budget.get 0).logBytes + entryBytes entry1 ∧ up.tiers.pages = [] ∧ up.tiers.poison = [] := by
  decide +kernel
def comparing : State := { up with
  trace := up.trace.set 0 { traceReset with rccfg := BitVec.ofNat 64 (2 ^ 63 + underBase), cmpQ := [entry1] } }
theorem meet_Comparison : cmpOn comparing 0 = true ∧ bit64 (getTrace comparing 0).rccfg 61 = false ∧
    (getTrace comparing 0).cmpQ = [entry1] ∧ (getTrace comparing 0).rclen.toNat = 0 := by decide +kernel
/-- A reference of one entry, whose payload differs in its first byte. -/
def referred : State :=
  let t := getTrace comparing 0
  { comparing with trace := comparing.trace.set 0 { t with rclen := 1 }
                   tiers := { comparing.tiers with mem := [(underBase, 0x52)] } }
theorem meet_ComparisonFull (n : Nat) (e : LogEntry) : (List.replicate (65536 + n) e).length = 65536 + n :=
  List.length_replicate
def traced : TraceRec := ⟨0, 0, 1, 0, 0, 0, 5, 0⟩
def tracing : State := { up with trace := up.trace.set 0 { traceReset with tcfg := sized 0, traceQ := [traced] } }
theorem meet_TraceWrite : inSlot0 tracing = true ∧ traceOn tracing 0 = true ∧ (getTrace tracing 0).traceQ = [traced] ∧ (getTrace tracing 0).gap = 0 ∧
    (getTrace tracing 0).written % 32 = 0 := by decide +kernel

/-! ### What a reader of the register map sees -/

/-- The example of chapter 18: section 0 owns blocks 128 to 130, section 1 owns block 131. -/
def fourBlocks : State := [(128, 0), (129, 0), (130, 0), (131, 0x31)].foldl (fun s p => setBlk s p.1 (BitVec.ofNat 8 p.2)) up
theorem test_blkcfg_read : barRead fourBlocks 0x1030080 false = some 0x20000000 ∧
    (match exec (.memBlkcfgWrite (.sect 0) 0x80 false 0x20000010) fourBlocks with
      | .next t => decide (barRead t 0x1030080 false = some 0x20000014 ∧ barRead t 0x103A200 false = some 0)
      | _ => false) = true := by decide +kernel
/-- R503, R505, R506: a per-section register in its own view, in others, at a misaligned address; two registers at once. -/
theorem test_view_read : barRead up 0x1074000 true = some (getSect up 0).errOvr.toNat ∧ (getSect up 0).errOvr ≠ 0 ∧
    barRead up 0x1474000 true = some 0 ∧ barRead up 0x74000 true = some 0 ∧ barRead up 0x1074004 true = none ∧
    barRead up 0x1000000 true = some (idDevice up + 2 ^ 32 * idFused up) := by decide +kernel
end Sys2Proof.Tests
end

section
/-!
PROOFS. Reading a descriptor (R394): when the device reads one, what reading it does to its ring and sends out, and that a
ring command whose descriptor is not read does nothing.
-/
namespace Sys2Proof.Machine

/-! ### The operations that a read is made of -/

@[simp] theorem canRead_begin (s : State) (p : Pair) (d : Desc) : canRead (begin s) p d = canRead s p d := rfl

theorem hostUp_iff (s : State) :
    hostUp s = true ↔ s.hif.mode = 2 ∧ s.ward.stage ≠ .halted ∧ s.ward.stage ≠ .failed := by
  simp [hostUp, and_assoc]

theorem mayUseAny_iff (s : State) (t : Sec) (path : Nat) :
    mayUseAny s t path = true ↔ ∃ k, k < 50 ∧ mayUse s t path k = true := by
  simp [mayUseAny]

/-- Sending one thing for each entry of a list adds them in the list's order, and changes nothing else. -/
theorem foldl_emit {α : Type} (f : α → Out) (l : List α) (s : State) :
    l.foldl (fun s i => emit s (f i)) s = { s with out := s.out ++ l.map f } := by
  induction l generalizing s with
  | nil => simp
  | cons i l ih =>
    rw [List.foldl_cons, ih]
    simp [emit]

@[simp] theorem logAppend_rings (s : State) (t : Sec) (kind ring : Nat) (payload : List (BitVec 512)) (ordinal : Nat) :
    (logAppend s t kind ring payload ordinal).rings = s.rings := by
  unfold logAppend; split <;> rfl

@[simp] theorem logAppend_out (s : State) (t : Sec) (kind ring : Nat) (payload : List (BitVec 512)) (ordinal : Nat) :
    (logAppend s t kind ring payload ordinal).out = s.out := by
  unfold logAppend; split <;> rfl

/-! ### What a read does -/

/-- R394: the ring after a read of n slots. -/
def Ring.advance (r : Ring) (n : Nat) : Ring :=
  { r with sqHead := (r.sqHead + n) % sqSlots r, outstanding := r.outstanding + 1 }

@[simp] theorem Ring.advance_sqHead (r : Ring) (n : Nat) : (r.advance n).sqHead = (r.sqHead + n) % sqSlots r := rfl
@[simp] theorem Ring.advance_outstanding (r : Ring) (n : Nat) : (r.advance n).outstanding = r.outstanding + 1 := rfl

theorem readDesc_rings (s : State) (p : Pair) (op : BitVec 8) (d : Desc) :
    (readDesc s p op d).rings = (modRing s p (·.advance (inlineOf d + 1))).rings := by
  simp only [readDesc, foldl_emit, modTrace_rings, logAppend_rings]
  rfl

@[simp] theorem getRing_readDesc (s : State) (p q : Pair) (op : BitVec 8) (d : Desc) :
    getRing (readDesc s p op d) q = if q = p then (getRing s p).advance (inlineOf d + 1) else getRing s q := by
  rw [← getRing_modRing s p q (·.advance (inlineOf d + 1))]
  exact congrArg (sget ringReset · q.val) (readDesc_rings s p op d)

/-- R394: the slots of the descriptor are read in ring order. -/
theorem readDesc_out (s : State) (p : Pair) (op : BitVec 8) (d : Desc) :
    (readDesc s p op d).out = s.out ++ (List.range (inlineOf d + 1)).map (fun i =>
      .d2h .rdCurr ((getRing s p).sqBase.toNat + 64 * (((getRing s p).sqHead + i) % sqSlots (getRing s p)))) := by
  simp only [readDesc, foldl_emit, modTrace_out, logAppend_out, modRing_out]

/-! ### When a descriptor is read -/

theorem canRead_iff (s : State) (p : Pair) (d : Desc) : canRead s p d = true ↔
    (getRing s p).st = .active ∧ hostUp s = true ∧ (getRing s p).held = none ∧ mayUseAny s (secOf p) 48 = true ∧
      logFull s (secOf p) = false ∧ inlineOf d + 1 ≤ sqAvail (getRing s p) ∧ (getRing s p).outstanding < 255 ∧
      (getRing s p).outstanding + cqHeld (getRing s p) < cqSlots (getRing s p) - 1 ∧ d.follow.length = inlineOf d := by
  simp [canRead, and_assoc]

theorem withRead_of_not_canRead {s : State} {p : Pair} {d : Desc} (h : canRead s p d = false) (op : BitVec 8)
    (form : State → Bool) (k : State → Cmd → State) : withRead s p op d form k = begin s := by
  simp [withRead, h]

/-- Every ring command is one read of its descriptor, with a form and a continuation of its own. -/
theorem exec_eq_withRead {c : Instr} {s : State} {p : Pair} {op : BitVec 8} {d : Desc} {b : Bool}
    (h : ringForm s c = some (p, op, d, b)) : ∃ form k, exec c s = .next (withRead s p op d form k) := by
  cases c
  case reservedOpcode p' op' d' =>
    obtain ⟨hop, heq⟩ := Option.ite_none_right_eq_some.1 h
    cases heq
    exact ⟨_, _, congrArg Host.Outcome.next (if_pos hop)⟩
  all_goals cases h  -- no command but a ring command has a form
  all_goals exact ⟨_, _, rfl⟩

/-- Settles O14: every ring command goes through `withRead`, which stops at `begin` when `canRead` fails; what `canRead`
asks for and what `readDesc` changes are the equations above. -/
theorem unreadDescriptorsChangeNothing : Obligations.UnreadDescriptorsChangeNothing := by
  refine ⟨fun c s p op d b hform hread => ?_, fun s p d => ?_, fun s p op d => ⟨?_, ?_, readDesc_out s p op d⟩⟩
  · obtain ⟨form, k, hexec⟩ := exec_eq_withRead hform
    rw [hexec, withRead_of_not_canRead hread]
  · rw [canRead_iff, hostUp_iff, mayUseAny_iff]
    simp only [and_assoc]
  · simp [Nat.add_assoc]
  · simp

end Sys2Proof.Machine
end

section
/-!
PROOFS. The register map (chapter 18): records and flags are cleared (R50, R545), what is the installer's is refused without a
session (R482), TIME_CTRL and TIME_NOW (R517, R518), and BAR0 writes by their address (R502-R508).
-/
namespace Sys2Proof.Machine

theorem begin_frame {L : List Piece} (hout : [Piece.out] ⊆ L) (s : State) : Frame L s (begin s) :=
  begin_only ((closedOn_frame L s).sub hout) s (Frame.refl L s)

/-! ### Records and flags -/

/-- R545: the reset values of the record registers that a section's block keeps. -/
theorem clearSectRecord_toNat (r : BitVec 4) (hr : r.toNat < 10) (x : Sect) : clearSectRecord r.toNat x =
    if r = 0 then { x with errOvr := 0xFF0FF000, ovrCount := 0 } else if r = 1 then { x with errXpnd := 0xFF000000 }
    else if r = 2 then { x with errMem := 0 } else if r = 3 then { x with groveErr := 0 }
    else if r = 4 then { x with hifErr := 0 } else if r = 5 then { x with errStep := 0 }
    else if r = 6 then { x with errLoss := 0 } else if r = 8 then { x with rcRes := 0 } else x := by
  obtain ⟨k, rfl⟩ : ∃ k : Fin 10, r = BitVec.ofNat 4 k.val := ⟨⟨r.toNat, hr⟩, by simp⟩
  fin_cases k <;> rfl

/-- R503, R545: a section's record registers are cleared through its own view: TRACE_DIV, and those of `clearSectRecord`. -/
theorem clearRecord_sect {s : State} {t : Sec} {r : Nat} (hscrub : isScrubbing s t = false) (hr : r ≠ 7) :
    clearRecord s (.sect t) r t =
      if r = 9 then modTrace s t (fun x => { x with div := divReset }) else modSect s t (clearSectRecord r) := by
  simp [clearRecord, drives, hscrub, hr]

theorem recordClear_sect_effects (s : State) (t : Sec) (r : BitVec 4) (hscrub : isScrubbing s t = false) (hr7 : r ≠ 7) :
    Effects (.recordClear (.sect t) r t true) s [.sect, .trace, .out] (fun u =>
      getSect u t = clearSectRecord r.toNat (getSect s t) ∧
      (getTrace u t).div = if r = 9 then 0x0F000000 else (getTrace s t).div) := by
  have hc := closedOn_frame [.sect, .trace, .out] s
  have hbegin : Frame [.sect, .trace, .out] s (begin s) := begin_frame (by decide) s
  have hne : r.toNat ≠ 7 := fun h => hr7 (BitVec.eq_of_toNat_eq h)
  refine ⟨_, congrArg Host.Outcome.next (clearRecord_sect (s := begin s) hscrub hne), ?_⟩
  by_cases h9 : r = 9
  · have hn9 : r.toNat = 9 := congrArg BitVec.toNat h9
    rw [if_pos hn9, if_pos h9, hn9]
    exact ⟨⟨rfl, by simp [divReset]⟩, modTrace_only (hc.sub (by decide)) _ _ _ hbegin⟩
  · have hn9 : r.toNat ≠ 9 := fun h => h9 (BitVec.eq_of_toNat_eq h)
    rw [if_neg hn9, if_neg h9]
    exact ⟨⟨by rw [getSect_modSect, if_pos rfl]; rfl, rfl⟩, modSect_only (hc.sub (by decide)) _ _ _ hbegin⟩

theorem recordClear_depart_effects (s : State) (t : Sec) :
    Effects (.recordClear .card 7 t true) s [.ward, .out] (fun u => u.ward = { s.ward with depart := 0 }) := by
  have hc := closedOn_frame [.ward, .out] s
  exact ⟨_, rfl, rfl, modWard_only (hc.sub (by decide)) _ _ (begin_frame (by decide) s)⟩

/-- R503: through its own view a section that is not being scrubbed clears the flags named. -/
theorem clearNflag_sect {s : State} {t : Sec} (hscrub : isScrubbing s t = false) (n : Fin 556) (mask : NumFlags) :
    clearNflag s (.sect t) t n.val mask =
      { s with nflag := sset 0 s.nflag (nflagKey t n.val) (nflagClear (sget 0 s.nflag (nflagKey t n.val)) mask) } := by
  simp [clearNflag, drives, hscrub]

theorem effects_of_clearNflag {c : Instr} {s : State} {t : Sec} {n : Fin 556} {mask : NumFlags}
    (hexec : exec c s = .next (clearNflag (begin s) (.sect t) t n.val mask)) (hscrub : isScrubbing s t = false) :
    Effects c s [.nflag, .out] (fun u =>
      sget 0 u.nflag (nflagKey t n.val) = nflagClear (sget 0 s.nflag (nflagKey t n.val)) mask) := by
  have hc := closedOn_frame [.nflag, .out] s
  rw [clearNflag_sect (s := begin s) hscrub] at hexec
  refine ⟨_, hexec, ?_, upd_nflag hc (by decide) _ (begin_frame (by decide) s)⟩
  simp only [sget_sset, if_pos]
  rfl

/-! ### What is the installer's -/

theorem installerWrite_of_halted {s : State} (h : s.ward.running = false) (v : View) (target : Nat) (word : State → W64)
    (ok : Bool) (yes no : State → State) : installerWrite s v target word ok yes no = s := by
  simp [installerWrite, h]

/-- R482: without a session NO_SESSION is set and the write is counted. -/
theorem installerWrite_of_no_session {s : State} (hrun : s.ward.running = true) (hses : s.ward.session ≠ .installer)
    (target : Nat) (word : State → W64) (ok : Bool) (yes no : State → State) :
    installerWrite s .card target word ok yes no = denyWrite s := by
  simp [installerWrite, hrun, hses]

/-- R485: an accepted write of the installer takes effect on the state with its audit entry. -/
theorem installerWrite_accepted {s : State} (hrun : s.ward.running = true) (hses : s.ward.session = .installer)
    (hfull : auditIsFull s = false) (target : Nat) (word : State → W64) (yes no : State → State) :
    ∃ u, Frame [.ward, .out] s u ∧ installerWrite s .card target word true yes no = yes u := by
  refine ⟨auditRole s 2 2 7 0 (installerId s) (w64 target) (word s) (word (yes s)),
    auditRole_only (closedOn_frame _ s) _ _ _ _ _ _ _ _ _ (Frame.refl _ s), ?_⟩
  simp [installerWrite, hrun, hses, hfull]

/-- The state `u` is what a write to a register of the installer's through the card view leads to from `s`. -/
def IsInstallerWrite (s u : State) : Prop :=
  ∃ target word ok yes no, u = installerWrite s .card target word ok yes no

theorem isInstallerWrite (s : State) (target : Nat) (word : State → W64) (ok : Bool) (yes no : State → State) :
    IsInstallerWrite s (installerWrite s .card target word ok yes no) := ⟨target, word, ok, yes, no, rfl⟩

theorem IsInstallerWrite.eq_of_halted {s u : State} (h : IsInstallerWrite s u) (hrun : s.ward.running = false) : u = s := by
  obtain ⟨_, _, _, _, _, rfl⟩ := h
  exact installerWrite_of_halted hrun ..

theorem IsInstallerWrite.eq_of_no_session {s u : State} (h : IsInstallerWrite s u) (hrun : s.ward.running = true)
    (hses : s.ward.session ≠ .installer) : u = denyWrite s := by
  obtain ⟨_, _, _, _, _, rfl⟩ := h
  exact installerWrite_of_no_session hrun hses ..

/-- R482: the commands that write the installer's registers. -/
theorem exec_isInstallerWrite {c : Instr} {t : Sec} {d : W32} {x : W64} {part : Part} {wide : Bool} {o : BitVec 12}
    (hc : c ∈ [.timeBellEpochWrite .card x, .timeBellPeriodWrite .card x, .timeCtrlWrite .card part x,
      .sectCtlClustersWrite .card t d, .release .card t d, .sectCommonsWrite .card t d, .sectOwncmd .card true x,
      .sectSlotWrite .card o wide x, .fabLctlWrite .card part x, .hifWinctlWrite .card t d, .pwrMdozeWrite .card d,
      .pwrHdrWrite .card d]) (s : State) :
    ∃ u, exec c s = .next u ∧ IsInstallerWrite (begin s) u := by
  simp only [List.mem_cons, List.not_mem_nil, or_false] at hc
  rcases hc with rfl | rfl | rfl | rfl | rfl | rfl | rfl | rfl | rfl | rfl | rfl | rfl
  · exact ⟨_, rfl, by unfold bellEpoch; apply isInstallerWrite⟩
  · exact ⟨_, rfl, by unfold bellPeriod; apply isInstallerWrite⟩
  · exact ⟨_, rfl, by unfold timeCtrl; apply isInstallerWrite⟩
  · exact ⟨_, rfl, by unfold sectCtl; apply isInstallerWrite⟩
  · exact ⟨_, rfl, by unfold sectCtl; apply isInstallerWrite⟩
  · exact ⟨_, rfl, by unfold sectCommons; apply isInstallerWrite⟩
  · exact ⟨_, rfl, by simp only [owncmd, Bool.not_true, Bool.false_eq_true, if_false]; apply isInstallerWrite⟩
  · exact ⟨_, rfl, by unfold slotWrite; apply isInstallerWrite⟩
  · exact ⟨_, rfl, by unfold fabLctl; apply isInstallerWrite⟩
  · exact ⟨_, rfl, by unfold winctl; apply isInstallerWrite⟩
  · exact ⟨_, rfl, by unfold mdoze; apply isInstallerWrite⟩
  · exact ⟨_, rfl, by unfold hdrWrite; apply isInstallerWrite⟩

theorem effects_of_denyWrite {c : Instr} {s : State} (h : exec c s = .next (denyWrite (begin s))) :
    Effects c s [.ward, .out] (fun u => u.ward = { s.ward with noSession := true, denied := satInc s.ward.denied }) :=
  have hc := closedOn_frame [.ward, .out] s
  ⟨_, h, rfl, denyWrite_only (hc.sub (by decide)) _ (begin_frame (by decide) s)⟩

/-! ### The lock state -/

/-- Table 2.1: system time that goes over to another lock state. -/
def Time.enter (x : Time) (st : Lock) : Time :=
  { x with
    lock := st, chg := true, inBound := 0, since := x.ns.toNat
    holdSince := if st == .holdover then x.ns.toNat else x.holdSince
    holdOffset := if st == .holdover then x.offset else x.holdOffset
    gm := if st == .free then 0 else x.gm }

/-- System time after `setLock`. -/
def Time.relock (x : Time) (st : Lock) : Time := if x.lock = st then x else x.enter st

section
variable (x : Time) (st : Lock)

@[simp] theorem Time.relock_lock : (x.relock st).lock = st := by
  unfold Time.relock
  split
  next hst => exact hst
  next => rfl
@[simp] theorem Time.relock_ns : (x.relock st).ns = x.ns := by unfold Time.relock; split <;> rfl
@[simp] theorem Time.relock_frac : (x.relock st).frac = x.frac := by unfold Time.relock; split <;> rfl
@[simp] theorem Time.relock_frame : (x.relock st).frame = x.frame := by unfold Time.relock; split <;> rfl
@[simp] theorem Time.relock_src : (x.relock st).src = x.src := by unfold Time.relock; split <;> rfl
@[simp] theorem Time.relock_domain : (x.relock st).domain = x.domain := by unfold Time.relock; split <;> rfl
@[simp] theorem Time.relock_hbPort : (x.relock st).hbPort = x.hbPort := by unfold Time.relock; split <;> rfl

end

/-- R465: the trace records of a change of lock state. -/
def traceLock (s : State) (old st : Lock) : State :=
  allSecs.foldl (fun s t => traceRec s t 0x33 0xF 0 (w64 (lockCode st + 16 * lockCode old)) (w64 (frameNow s))) s

/-- Table 17.4: its event. -/
def raiseLock (s : State) (st : Lock) : State :=
  raiseEvent s evTimeLock 0xF (if st == .free then 1 else 0) (.word (w64 (timeLockWord s)))

/-- R58, R465, Table 17.4: what comes with a change of lock state beside system time. -/
def announceLock (s : State) (old st : Lock) : State :=
  let u := raiseLock (traceLock s old st) st
  if isGood old && st == .free then stopWork u else u

theorem traceLock_only {P : State → Prop} (hc : ClosedOn P [.trace]) (s : State) (old st : Lock) (hs : P s) :
    P (traceLock s old st) :=
  p_foldl _ _ hs (fun u t hu => traceRec_only hc u t _ _ _ _ _ hu)

theorem announceLock_only {P : State → Prop} (hc : ClosedOn P [.cmds, .ward, .trace, .out]) (s : State) (old st : Lock)
    (hs : P s) : P (announceLock s old st) := by
  have htrace : P (traceLock s old st) := traceLock_only (hc.sub (by decide)) s old st hs
  have hevent : P (raiseLock (traceLock s old st) st) := raiseEvent_only (hc.sub (by decide)) _ _ _ _ _ htrace
  exact p_ite _ _ _ (stopWork_only (hc.sub (by decide)) _ hevent) hevent

theorem setLock_eq (s : State) (st : Lock) :
    setLock s st = if s.time.lock == st then s else announceLock (modTime s (·.enter st)) s.time.lock st := rfl

theorem setLock_time (s : State) (st : Lock) : (setLock s st).time = s.time.relock st := by
  rw [setLock_eq, Time.relock]
  simp only [beq_iff_eq]
  split
  · rfl
  · exact (announceLock_only (closedOn_frame [.cmds, .ward, .trace, .out] _) _ _ _ (Frame.refl _ _)).2 .time (by decide)

/-! ### TIME_CTRL and TIME_NOW -/

theorem bits_eq (x : W64) (lo n : Nat) : bits x lo n = (x.extractLsb' lo n).toNat := by
  simp [bits, BitVec.extractLsb'_toNat]

/-- R517: system time with the fields of a word of TIME_CTRL. -/
def Time.setCtrl (y : Time) (x : W64) : Time :=
  { y with hbPort := x.extractLsb' 48 16, domain := x.extractLsb' 40 8, src := x.extractLsb' 0 2 }

/-- R517: system time after an accepted write of TIME_CTRL: a change of source or domain leads to FREE. -/
def Time.writeCtrl (y : Time) (x : W64) : Time :=
  if x.extractLsb' 0 2 ≠ y.src ∨ x.extractLsb' 40 8 ≠ y.domain then (y.setCtrl x).relock .free else y.setCtrl x

section
variable (y : Time) (x : W64)

@[simp] theorem Time.writeCtrl_src : (y.writeCtrl x).src = x.extractLsb' 0 2 := by
  unfold Time.writeCtrl; split <;> simp [Time.setCtrl]
@[simp] theorem Time.writeCtrl_domain : (y.writeCtrl x).domain = x.extractLsb' 40 8 := by
  unfold Time.writeCtrl; split <;> simp [Time.setCtrl]
@[simp] theorem Time.writeCtrl_hbPort : (y.writeCtrl x).hbPort = x.extractLsb' 48 16 := by
  unfold Time.writeCtrl; split <;> simp [Time.setCtrl]

theorem Time.writeCtrl_lock_of_change (h : x.extractLsb' 0 2 ≠ y.src ∨ x.extractLsb' 40 8 ≠ y.domain) :
    (y.writeCtrl x).lock = .free := by
  rw [Time.writeCtrl, if_pos h, Time.relock_lock]

theorem Time.writeCtrl_lock_of_same (hsrc : x.extractLsb' 0 2 = y.src) (hdomain : x.extractLsb' 40 8 = y.domain) :
    (y.writeCtrl x).lock = y.lock := by
  rw [Time.writeCtrl, if_neg (by simp [hsrc, hdomain]), Time.setCtrl]

end

theorem timeCtrl_time {s : State} {part : Part} {data x : W64} (hrun : s.ward.running = true)
    (hses : s.ward.session = .installer) (hfull : auditIsFull s = false)
    (hx : mergePart part (timeCtrlWord s) data = x) (hsrc : bits x 0 2 ≠ 3) :
    (timeCtrl s .card part data).time = s.time.writeCtrl x := by
  simp only [timeCtrl, hx, bne_iff_ne.2 hsrc]
  obtain ⟨u, hframe, heq⟩ := installerWrite_accepted hrun hses hfull 0x60000 timeCtrlWord _ id
  have htime : u.time = s.time := hframe.2 .time (by decide)
  rw [heq]
  simp only [bits_eq, Bool.or_eq_true, bne_iff_ne, ne_eq, BitVec.toNat_inj, htime, Time.writeCtrl]
  split
  · rw [setLock_time]
    simp [modTime, htime, Time.setCtrl]
  · simp [modTime, htime, Time.setCtrl]

theorem timeCtrlWrite_effects (s : State) (part : Part) (data : W64) (hrun : s.ward.running = true)
    (hses : s.ward.session = .installer) (hfull : auditIsFull s = false) :
    let x := mergePart part (timeCtrlWord s) data
    bits x 0 2 ≠ 3 → Effects (.timeCtrlWrite .card part data) s [.time, .cmds, .ward, .trace, .out] (fun u =>
      u.time.src = x.extractLsb' 0 2 ∧ u.time.domain = x.extractLsb' 40 8 ∧ u.time.hbPort = x.extractLsb' 48 16 ∧
      (x.extractLsb' 0 2 ≠ s.time.src ∨ x.extractLsb' 40 8 ≠ s.time.domain → u.time.lock = .free) ∧
      (x.extractLsb' 0 2 = s.time.src → x.extractLsb' 40 8 = s.time.domain → u.time.lock = s.time.lock)) := by
  intro x hsrc
  have htime : (timeCtrl (begin s) .card part data).time = s.time.writeCtrl x :=
    timeCtrl_time (s := begin s) hrun hses hfull rfl hsrc
  have hc := closedOn_frame [.time, .cmds, .ward, .trace, .out] s
  refine ⟨timeCtrl (begin s) .card part data, rfl, ?_,
    timeCtrl_only hc _ _ _ _ (begin_frame (by decide) s)⟩
  simp only [htime]
  exact ⟨Time.writeCtrl_src _ _, Time.writeCtrl_domain _ _, Time.writeCtrl_hbPort _ _, Time.writeCtrl_lock_of_change _ _,
    Time.writeCtrl_lock_of_same _ _⟩

@[simp] theorem endHoldover_ns (s : State) : (endHoldover s).time.ns = s.time.ns := by
  unfold endHoldover; split <;> simp [setLock_time]
@[simp] theorem endHoldover_frac (s : State) : (endHoldover s).time.frac = s.time.frac := by
  unfold endHoldover; split <;> simp [setLock_time]
@[simp] theorem endHoldover_frame (s : State) : (endHoldover s).time.frame = s.time.frame := by
  unfold endHoldover; split <;> simp [setLock_time]

theorem endHoldover_of_ne {s : State} (h : s.time.lock ≠ .holdover) : endHoldover s = s := by
  simp [endHoldover, h]

/-- The instant of a read of TIME_NOW, `ns` + `frac` after the event before, in units of 2^-32 ns. -/
def readInstant (s : State) (ns : W64) (frac : W32) : Nat :=
  s.time.ns.toNat * 2 ^ 32 + s.time.frac.toNat + ns.toNat * 2 ^ 32 + frac.toNat

/-- R518: the state at the instant `x` of a read of TIME_NOW. -/
def atRead (s : State) (x : Nat) : State :=
  if x / 2 ^ 32 < bellNs s && !counterDead s then
    endHoldover (modTime s (fun t => { t with ns := w64 (x / 2 ^ 32), frac := w32 (x % 2 ^ 32) }))
  else s

/-- R518: the read itself: the fraction is latched and the time goes out. -/
def latchTime (s : State) : State :=
  let u := modTime s (fun t => { t with fracLatch := t.frac })
  emit u (.time u.time.ns u.time.frac)

theorem exec_timeNowRead (ns : W64) (frac : W32) (s : State) :
    exec (.timeNowRead ns frac) s = .next (latchTime (atRead (begin s) (readInstant s ns frac))) := by
  show execTimeNowRead ns frac s = _
  simp only [execTimeNowRead, latchTime, atRead]
  rfl

@[simp] theorem latchTime_ns (s : State) : (latchTime s).time.ns = s.time.ns := rfl
@[simp] theorem latchTime_frac (s : State) : (latchTime s).time.frac = s.time.frac := rfl
@[simp] theorem latchTime_fracLatch (s : State) : (latchTime s).time.fracLatch = s.time.frac := rfl
@[simp] theorem latchTime_frame (s : State) : (latchTime s).time.frame = s.time.frame := rfl
@[simp] theorem latchTime_out (s : State) : (latchTime s).out = s.out ++ [.time s.time.ns s.time.frac] := rfl

@[simp] theorem atRead_frame (s : State) (x : Nat) : (atRead s x).time.frame = s.time.frame := by
  unfold atRead; split <;> simp [modTime]

theorem atRead_of_lt {s : State} {x : Nat} (hx : x / 2 ^ 32 < bellNs s) (hlive : counterDead s = false) :
    (atRead s x).time.ns = w64 (x / 2 ^ 32) ∧ (atRead s x).time.frac = w32 (x % 2 ^ 32) := by
  rw [atRead, if_pos (by simp only [hx, hlive, decide_true, Bool.not_false, Bool.and_self])]
  simp [modTime]

theorem atRead_of_le {s : State} {x : Nat} (h : bellNs s ≤ x / 2 ^ 32 ∨ counterDead s = true) : atRead s x = s := by
  refine if_neg ?_
  rcases h with hx | hdead
  · simp only [Nat.not_lt.2 hx, decide_false, Bool.false_and, Bool.false_eq_true, not_false_iff]
  · simp only [hdead, Bool.not_true, Bool.and_false, Bool.false_eq_true, not_false_iff]

theorem atRead_only {P : State → Prop} (hc : ClosedOn P [.time]) {s : State} (hlock : s.time.lock ≠ .holdover) (x : Nat)
    (hs : P s) : P (atRead s x) := by
  unfold atRead
  rw [endHoldover_of_ne (by exact hlock)]
  exact p_ite _ _ _ (modTime_only hc _ _ hs) hs

theorem latchTime_only {P : State → Prop} (hc : ClosedOn P [.time, .out]) (s : State) (hs : P s) : P (latchTime s) :=
  emit_only (hc.sub (by decide)) _ _ (modTime_only (hc.sub (by decide)) _ _ hs)

theorem timeNowRead_frame (ns : W64) (frac : W32) (s : State) :
    Frame (if s.time.lock = .holdover then [.time, .cmds, .ward, .trace, .out] else [.time, .out]) s
      (latchTime (atRead (begin s) (readInstant s ns frac))) := by
  split
  next =>
    obtain ⟨u, hexec, hframe⟩ := execTimeNowRead_only (closedOn_frame _ s) ns frac s (Frame.refl _ s)
    exact Host.Outcome.next.inj ((exec_timeNowRead ns frac s).symm.trans hexec) ▸ hframe
  next hlock =>
    have hc := closedOn_frame [.time, .out] s
    exact latchTime_only hc _ (atRead_only (hc.sub (by decide)) (s := begin s) hlock _
      (begin_frame (by decide) s))

theorem timeNowRead_effects (s : State) (ns : W64) (frac : W32) {x : Nat} (hx : readInstant s ns frac = x) :
    Effects (.timeNowRead ns frac) s
      (if s.time.lock = .holdover then [.time, .cmds, .ward, .trace, .out] else [.time, .out]) (fun u =>
    u.out.getLast? = some (.time u.time.ns u.time.frac) ∧ u.time.fracLatch = u.time.frac ∧ u.time.frame = s.time.frame ∧
    (x / 2 ^ 32 < bellNs s → counterDead s = false → u.time.ns = w64 (x / 2 ^ 32) ∧ u.time.frac = w32 (x % 2 ^ 32)) ∧
    (bellNs s ≤ x / 2 ^ 32 ∨ counterDead s = true → u.time.ns = s.time.ns ∧ u.time.frac = s.time.frac)) := by
  refine ⟨latchTime (atRead (begin s) x), hx ▸ exec_timeNowRead ns frac s, ?_, hx ▸ timeNowRead_frame ns frac s⟩
  simp only [latchTime_ns, latchTime_frac, latchTime_fracLatch, latchTime_frame, latchTime_out, atRead_frame,
    List.getLast?_append, List.getLast?_singleton, Option.some_or, true_and]
  refine ⟨rfl, atRead_of_lt (s := begin s), fun h => ?_⟩
  have hstays : atRead (begin s) x = begin s := atRead_of_le h
  rw [hstays]
  exact ⟨rfl, rfl⟩

/-! ### BAR0 writes -/

/-- R502: the first address of a view. -/
def viewBase : View → Nat
  | .card => 0
  | .sect u => 0x1000000 + 0x400000 * u.val

theorem viewBase_add_lt (v : View) {off : Nat} (h : off < 0xC0000) : viewBase v + off < 2 ^ 25 := by
  cases v with
  | card => simp only [viewBase]; omega
  | sect u => simp only [viewBase]; omega

theorem viewBase_mod_eight (v : View) : viewBase v % 8 = 0 := by
  cases v with
  | card => rfl
  | sect u => simp only [viewBase]; omega

theorem viewOf_of_sect {a off : Nat} {u : Sec} (hlo : 0x1000000 ≤ a) (hquot : (a - 0x1000000) / 0x400000 = u.val)
    (hrem : (a - 0x1000000) % 0x400000 = off) (h : off < 0xC0000) : viewOf a = some (.sect u, off) := by
  have hcard : ¬ a < 0xC0000 := by omega
  unfold viewOf
  simp only [if_neg hcard, if_neg (Nat.not_lt.2 hlo), hquot, hrem, if_pos h, dif_pos u.isLt]

theorem viewOf_viewBase_add (v : View) {off : Nat} (h : off < 0xC0000) : viewOf (viewBase v + off) = some (v, off) := by
  cases v with
  | card => rw [viewBase, Nat.zero_add, viewOf, if_pos h]
  | sect u =>
    have hbase : viewBase (.sect u) = 0x1000000 + 0x400000 * u.val := rfl
    exact viewOf_of_sect (by omega) (by omega) (by omega) h

/-- The offset of an aligned register of `n` bytes that lies in no byte array (R502, R505, R507). -/
def RegOffset (n off : Nat) : Prop :=
  off < 0xC0000 ∧ off % n = 0 ∧ ¬ (0x30000 ≤ off ∧ off < 0x3A000) ∧ ¬ (0x40000 ≤ off ∧ off < 0x42000) ∧
    ¬ (0xA1000 ≤ off ∧ off < 0xA1C40)

theorem exec_registerWrite_of_misaligned {a : BitVec 25} {wide : Bool} (h : a.toNat % (if wide then 8 else 4) ≠ 0)
    (x : W64) (s : State) : exec (.registerWrite a wide x) s = .next (emit (emit (begin s) .abort) .aer) := by
  have hne : (a.toNat % (if wide then 8 else 4) != 0) = true := bne_iff_ne.2 h
  show execRegisterWrite a wide x s = _
  rw [execRegisterWrite, if_pos hne]

theorem exec_registerWrite_of_aligned {v : View} {off : Nat} {wide : Bool} (h : RegOffset (if wide then 8 else 4) off)
    (x : W64) (s : State) : exec (.registerWrite (BitVec.ofNat 25 (viewBase v + off)) wide x) s =
      .next (if wide then write8 (begin s) v off x else write4 (begin s) v off (x.setWidth 32)) := by
  obtain ⟨hlt, halign, hblk, hgrove, hslot⟩ := h
  have haddr : (BitVec.ofNat 25 (viewBase v + off)).toNat = viewBase v + off :=
    (BitVec.toNat_ofNat ..).trans (Nat.mod_eq_of_lt (viewBase_add_lt v hlt))
  have hmod : (viewBase v + off) % (if wide then 8 else 4) = 0 := by
    have := viewBase_mod_eight v
    cases wide <;> simp only [if_true, Bool.false_eq_true, if_false] at halign ⊢ <;> omega
  show execRegisterWrite _ wide x s = _
  simp only [execRegisterWrite, haddr, hmod, viewOf_viewBase_add v hlt, viewWrite, if_neg hblk, if_neg hgrove, if_neg hslot]
  simp

/-- R506: a 4-byte write at a 32-bit register is that register's write. -/
theorem exec_registerWrite_narrow {off : Nat} {f : State → View → W32 → State} (hreg : reg32 off = some f)
    (hoff : RegOffset 4 off) (v : View) (d : W32) (s : State) :
    exec (.registerWrite (BitVec.ofNat 25 (viewBase v + off)) false (d.setWidth 64)) s = .next (f (begin s) v d) := by
  rw [exec_registerWrite_of_aligned (wide := false) hoff]
  simp [write4, hreg]

/-- R506: an 8-byte write at a 64-bit register is that register's write as a whole. -/
theorem exec_registerWrite_wide {off : Nat} {f : State → View → Part → W64 → State} (hreg : reg64 off = some f)
    (hoff : RegOffset 8 off) (v : View) (x : W64) (s : State) :
    exec (.registerWrite (BitVec.ofNat 25 (viewBase v + off)) true x) s = .next (f (begin s) v .whole x) := by
  rw [exec_registerWrite_of_aligned (wide := true) hoff]
  simp [write8, hreg]

/-! ### The registers by their offsets (R510-R524) -/

theorem instOf_of_le {off base step n : Nat} (hstep : 0 < step) (h : base + step * n ≤ off) :
    instOf off base step n = none :=
  if_neg fun hin => Nat.not_le.2 hin.2.2 ((Nat.le_div_iff_mul_le hstep).2 (by rw [Nat.mul_comm]; omega))

theorem reg32_winctl (t : Sec) : reg32 (0x10010 + 8 * t.val) = some (fun s v d => winctl s v t d) := by
  fin_cases t <;> rfl

theorem reg32_ringCfg (p : Pair) : reg32 (0x20018 + 64 * p.val) = some (fun s v d => ringCfg s v p d) := by
  have hp : (⟨(0x20018 + 64 * p.val - 0x20000) / 64 % 64, Nat.mod_lt _ (by omega)⟩ : Pair) = p :=
    Fin.ext (by simp only; omega)
  rw [reg32, instOf_of_le (by omega) (by omega), if_pos (by omega)]
  simp only [Option.map_none, firstSome, hp]

theorem reg32_rccfg (t : Sec) : reg32 (0x50900 + 8 * t.val) = some (fun s v d => rccfg s v t d) := by
  fin_cases t <;> rfl

theorem reg32_nflag (t : Sec) (n : Fin 556) : reg32 (0x70000 + 0x1000 * t.val + 4 * n.val) =
    some (fun s v d => clearNflag s v t n.val (d.setWidth 5)) := by
  have hn : (0x70000 + 0x1000 * t.val + 4 * n.val) % 0x1000 / 4 = n.val := by omega
  have ht : secAt ((0x70000 + 0x1000 * t.val + 4 * n.val - 0x70000) / 0x1000) = t := Fin.ext (by simp only [secAt]; omega)
  rw [reg32, instOf_of_le (by omega) (by omega), if_neg (by omega), instOf_of_le (by omega) (by omega),
    instOf_of_le (by omega) (by omega), if_pos (by omega)]
  simp only [Option.map_none, firstSome, hn, ht]

theorem reg32_mdoze : reg32 0x90008 = some mdoze := rfl

theorem reg32_sectCtl (t : Sec) : reg32 (0xA0000 + 8 * t.val) = some (fun s v d => sectCtl s v t d) := by
  fin_cases t <;> rfl

theorem reg32_sectCommons (t : Sec) : reg32 (0xA0020 + 8 * t.val) = some (fun s v d => sectCommons s v t d) := by
  fin_cases t <;> rfl

theorem reg32_sectRole (t : Sec) : reg32 (0xA0040 + 8 * t.val) = some (fun s v d => sectRole s v t d) := by
  fin_cases t <;> rfl

theorem reg64_fabLctl : reg64 0x50800 = some fabLctl := rfl

theorem reg64_bellPeriod : reg64 0x60038 = some bellPeriodPart := rfl

theorem reg64_rlcfg (t : Sec) : reg64 (0x80000 + 0x100 * t.val) = some (fun s v part d => rlcfg s v t part d) := by
  fin_cases t <;> rfl

theorem reg64_owncmd : reg64 0xA0080 = some (fun s v part d => owncmd s v (part == .whole) d) := rfl

theorem registerWrite_eq_command (s : State) (v : View) (t : Sec) (p : Pair) (d : W32) (x : W64) :
    let at4 (off : Nat) : Instr := .registerWrite (BitVec.ofNat 25 (viewBase v + off)) false (d.setWidth 64)
    let at8 (off : Nat) : Instr := .registerWrite (BitVec.ofNat 25 (viewBase v + off)) true x
    exec (at4 (0xA0000 + 8 * t.val)) s = exec (.sectCtlClustersWrite v t d) s ∧
    exec (at4 (0xA0020 + 8 * t.val)) s = exec (.sectCommonsWrite v t d) s ∧
    exec (at4 (0xA0040 + 8 * t.val)) s = exec (.sectRoleWrite v t d) s ∧
    exec (at4 (0x10010 + 8 * t.val)) s = exec (.hifWinctlWrite v t d) s ∧
    exec (at4 (0x20018 + 64 * p.val)) s = exec (.ringEnable v p d) s ∧
    exec (at4 (0x50900 + 8 * t.val)) s = exec (.fabRccfgWrite v t d) s ∧
    exec (at4 0x90008) s = exec (.pwrMdozeWrite v d) s ∧
    exec (at8 0xA0080) s = exec (.sectOwncmd v true x) s ∧
    exec (at8 0x50800) s = exec (.fabLctlWrite v .whole x) s ∧
    exec (at8 0x60038) s = exec (.timeBellPeriodWrite v x) s ∧
    exec (at8 (0x80000 + 0x100 * t.val)) s = exec (.traceRlcfgWrite v t .whole x) s :=
  ⟨exec_registerWrite_narrow (reg32_sectCtl t) (by unfold RegOffset; omega) v d s,
    exec_registerWrite_narrow (reg32_sectCommons t) (by unfold RegOffset; omega) v d s,
    exec_registerWrite_narrow (reg32_sectRole t) (by unfold RegOffset; omega) v d s,
    exec_registerWrite_narrow (reg32_winctl t) (by unfold RegOffset; omega) v d s,
    exec_registerWrite_narrow (reg32_ringCfg p) (by unfold RegOffset; omega) v d s,
    exec_registerWrite_narrow (reg32_rccfg t) (by unfold RegOffset; omega) v d s,
    exec_registerWrite_narrow reg32_mdoze (by unfold RegOffset; omega) v d s,
    exec_registerWrite_wide reg64_owncmd (by unfold RegOffset; omega) v x s,
    exec_registerWrite_wide reg64_fabLctl (by unfold RegOffset; omega) v x s,
    exec_registerWrite_wide reg64_bellPeriod (by unfold RegOffset; omega) v x s,
    exec_registerWrite_wide (reg64_rlcfg t) (by unfold RegOffset; omega) v x s⟩

theorem registerWrite_nflag_effects (s : State) (t : Sec) (n : Fin 556) (mask : BitVec 5)
    (hscrub : isScrubbing s t = false) :
    Effects (.registerWrite (BitVec.ofNat 25 (0x1070000 + 0x401000 * t.val + 4 * n.val)) false (mask.setWidth 64)) s
      [.nflag, .out] (fun u => sget 0 u.nflag (nflagKey t n.val) = nflagClear (sget 0 s.nflag (nflagKey t n.val)) mask) := by
  have haddr : 0x1070000 + 0x401000 * t.val + 4 * n.val =
      viewBase (.sect t) + (0x70000 + 0x1000 * t.val + 4 * n.val) := by
    simp only [viewBase]; omega
  have hdata : mask.setWidth 64 = (mask.setWidth 32).setWidth 64 := by simp
  have hexec := exec_registerWrite_narrow (reg32_nflag t n) (by unfold RegOffset; omega) (.sect t) (mask.setWidth 32) s
  rw [haddr, hdata]
  refine effects_of_clearNflag (hexec.trans ?_) hscrub
  simp

theorem registerWrite_misaligned_effects (s : State) (a : BitVec 25) (wide : Bool) (x : W64)
    (h : a.toNat % (if wide then 8 else 4) ≠ 0) :
    Effects (.registerWrite a wide x) s [.out] (fun u => u.out = [.abort, .aer]) :=
  have hc := closedOn_frame [.out] s
  ⟨_, exec_registerWrite_of_misaligned h x s, rfl,
    emit_only hc _ _ (emit_only hc _ _ (begin_frame (by decide) s))⟩

/-- Settles O56: each clause is one of the lemmas above; the records' reset values are `clearSectRecord_toNat`, the refusals
of the installer's registers the two equations of `IsInstallerWrite`, the map `registerWrite_eq_command`. -/
theorem recordsClearAndRegistersMap : Obligations.RecordsClearAndRegistersMap := by
  refine ⟨fun _ _ _ _ => rfl, fun s t r hscrub hr hr7 => ?_, recordClear_depart_effects,
    fun s t n mask hscrub => effects_of_clearNflag rfl hscrub,
    fun s part data hrun hses hfull => timeCtrlWrite_effects s part data hrun hses hfull,
    fun s ns frac => timeNowRead_effects s ns frac rfl, fun s t d x part wide o c hc => ?_, fun s v t p d x => ?_,
    registerWrite_nflag_effects, registerWrite_misaligned_effects⟩
  · simp only [← clearSectRecord_toNat r hr]
    exact recordClear_sect_effects s t r hscrub hr7
  · obtain ⟨u, hexec, hwrite⟩ := exec_isInstallerWrite hc s
    refine ⟨fun hrun hses => ?_, fun hrun => ?_⟩
    · exact effects_of_denyWrite (hwrite.eq_of_no_session hrun hses ▸ hexec)
    · exact hwrite.eq_of_halted hrun ▸ hexec
  · cases v with
    | card => exact registerWrite_eq_command s .card t p d x
    | sect u => exact registerWrite_eq_command s (.sect u) t p d x

end Sys2Proof.Machine
end

section
/-!
PROOFS. What each command can change, as one function of the command, and the invariants that follow from it: every command
answers a next state and keeps the queue, the core map and the canonical form of the memories; images, system time, identity,
slot tables and headers change by their own commands alone.
-/
namespace Sys2Proof.Machine

/-! ### The pieces that a command can change -/

/-- The pieces of the state that a command can change. -/
def changes : Instr → List Piece
  | .nop _ _ => [.rings, .cmds, .recs, .steps, .colls, .trace, .out, .seq]
  | .fence _ _ => [.rings, .cmds, .recs, .steps, .colls, .trace, .out, .seq]
  | .fenceCompletion _ => [.rings, .cmds, .recs, .steps, .colls, .trace, .out]
  | .loadImage _ _ => [.sect, .slots, .nflag, .rings, .cmds, .recs, .steps, .images, .loadPages, .store, .colls,
      .power, .trace, .out, .seq]
  | .unloadImage _ _ => [.sect, .slots, .nflag, .rings, .cmds, .recs, .steps, .images, .loadPages, .store, .colls,
      .power, .trace, .out, .seq]
  | .run _ _ => [.sect, .rings, .cmds, .recs, .steps, .colls, .tiers, .hif, .ward, .power, .trace, .out, .seq]
  | .repeatRun _ _ => [.sect, .rings, .cmds, .recs, .steps, .colls, .tiers, .hif, .ward, .power, .trace, .out, .seq]
  | .runStart _ => [.rings, .cmds, .recs, .steps, .cores, .acc, .colls, .trace, .out]
  | .microBatchStart _ => [.sect, .nflag, .cmds, .cores, .colls, .tiers, .links, .ward, .trace, .out]
  | .runCompletion _ => [.rings, .cmds, .recs, .steps, .cores, .colls, .tiers, .ward, .trace, .out]
  | .grove _ _ => [.sect, .rings, .cmds, .recs, .steps, .colls, .tiers, .hif, .ward, .trace, .out, .seq]
  | .groveStart _ => [.nflag, .rings, .cmds, .recs, .steps, .colls, .trace, .out]
  | .groveCompletion _ => [.nflag, .rings, .cmds, .recs, .steps, .colls, .tiers, .ward, .trace, .out]
  | .migrate _ _ => [.rings, .cmds, .recs, .steps, .colls, .tiers, .hif, .trace, .out, .seq]
  | .preferCanopy _ _ => [.rings, .cmds, .recs, .steps, .colls, .tiers, .hif, .trace, .out, .seq]
  | .preferUnder _ _ => [.rings, .cmds, .recs, .steps, .colls, .tiers, .hif, .trace, .out, .seq]
  | .pin _ _ => [.rings, .cmds, .recs, .steps, .colls, .tiers, .hif, .trace, .out, .seq]
  | .unpin _ _ => [.rings, .cmds, .recs, .steps, .colls, .tiers, .hif, .trace, .out, .seq]
  | .willneed _ _ => [.rings, .cmds, .recs, .steps, .colls, .tiers, .hif, .trace, .out, .seq]
  | .cold _ _ => [.rings, .cmds, .recs, .steps, .colls, .tiers, .hif, .trace, .out, .seq]
  | .checkpoint _ _ => [.rings, .cmds, .recs, .steps, .colls, .tiers, .hif, .trace, .out, .seq]
  | .checkpointCopyStart _ => [.cmds, .tiers, .out]
  | .trancheDigestWrite _ => [.sect, .rings, .cmds, .recs, .steps, .colls, .tiers, .ward, .trace, .out]
  | .inlineWrite _ _ => [.rings, .cmds, .recs, .steps, .colls, .tiers, .ward, .trace, .out, .seq]
  | .seed _ _ => [.rings, .cmds, .recs, .steps, .colls, .trace, .out, .seq]
  | .timeMark _ _ => [.rings, .cmds, .recs, .steps, .colls, .trace, .out, .seq]
  | .timeMarkAtFrame _ => [.rings, .cmds, .recs, .steps, .colls, .trace, .out]
  | .reshard _ _ => [.sect, .rings, .cmds, .recs, .steps, .colls, .tiers, .hif, .ward, .trace, .out, .seq]
  | .reshardStart _ => [.sect, .nflag, .cmds, .colls, .tiers, .links, .ward, .out]
  | .drain _ _ => [.sect, .rings, .cmds, .recs, .steps, .colls, .tiers, .links, .ward, .trace, .out, .fresh, .seq]
  | .drainTakesEffect _ => [.sect, .rings, .cmds, .recs, .steps, .colls, .tiers, .links, .ward, .trace, .out, .fresh]
  | .queryStep _ _ => [.rings, .cmds, .recs, .steps, .colls, .trace, .out, .seq]
  | .queryPage _ _ => [.rings, .cmds, .recs, .steps, .colls, .trace, .out, .seq]
  | .queryLoad _ _ => [.rings, .cmds, .recs, .steps, .colls, .trace, .out, .seq]
  | .reservedOpcode _ _ _ => [.rings, .cmds, .recs, .steps, .colls, .trace, .out, .seq]
  | .doorbellReread _ _ _ => [.rings, .hif, .budget, .out]
  | .completionRecordWrite _ => [.rings, .cmds, .recs, .steps, .colls, .links, .hif, .trace, .budget, .out, .fresh]
  | .snpData _ => [.hif, .out]
  | .snpInv _ => [.rings, .hif, .out]
  | .snpCur _ => [.hif, .out]
  | .goWritePull _ => [.hif, .out]
  | .goWritePullDrop _ => [.hif, .out]
  | .memRd _ _ => [.sect, .tiers, .hif, .ward, .out]
  | .memWr _ _ _ _ => [.sect, .tiers, .hif, .ward, .trace, .out]
  | .memWrPtl _ _ _ _ _ => [.sect, .tiers, .hif, .ward, .trace, .out]
  | .memInv _ => [.sect, .tiers, .hif, .ward, .out]
  | .inboundBufferDrain _ => [.tiers, .hif, .ward, .out]
  | .backInvalidateRecall _ => [.hif, .budget, .out]
  | .birsp _ => [.sect, .tiers, .hif, .ward, .out]
  | .birspOverdue _ => [.sect, .hif, .out]
  | .configurationWrite _ => [.hif, .out]
  | .cxlIoMemoryRequest _ _ => [.ward, .out]
  | .hostLinkTraining _ _ _ _ => [.hif, .out]
  | .dlDown => [.sect, .rings, .cmds, .recs, .steps, .colls, .tiers, .links, .hif, .ward, .trace, .out, .fresh]
  | .secondaryBusReset => [.sect, .rings, .cmds, .recs, .steps, .colls, .tiers, .links, .hif, .ward, .trace, .out,
      .fresh]
  | .d3hotEntry => [.sect, .rings, .cmds, .recs, .steps, .colls, .tiers, .links, .hif, .ward, .trace, .out, .fresh]
  | .perst => [.sect, .rings, .cmds, .recs, .steps, .colls, .tiers, .links, .hif, .ward, .trace, .out, .fresh]
  | .hdmDecoderCommit _ _ _ => [.hif, .out]
  | .msixUnmask _ => [.rings, .out]
  | .misalignedAccess _ _ _ => [.out]
  | .registerWrite _ _ _ => [.time, .sect, .slots, .slotRefused, .ownRefused, .nflag, .rings, .cmds, .recs,
      .steps, .loadPages, .cores, .store, .slate, .commons, .acc, .colls, .tiers, .links, .lctlPhys, .lctlEnable,
      .lctlRefused, .headers, .hif, .ward, .power, .trace, .out, .fresh]
  | .timeNowRead _ _ => [.time, .cmds, .ward, .trace, .out]
  | .timeBellEpochWrite _ _ => [.time, .ward, .out]
  | .timeBellPeriodWrite _ _ => [.time, .ward, .out]
  | .timeCtrlWrite _ _ _ => [.time, .cmds, .ward, .trace, .out]
  | .errNflagClear _ _ _ _ => [.nflag, .out]
  | .recordClear _ _ _ _ => [.sect, .ward, .trace, .out]
  | .sectCtlClustersWrite _ _ _ => [.sect, .slots, .nflag, .rings, .steps, .loadPages, .cores, .store, .slate,
      .commons, .acc, .colls, .tiers, .hif, .ward, .power, .trace, .out]
  | .release _ _ _ => [.sect, .slots, .nflag, .rings, .steps, .loadPages, .cores, .store, .slate, .commons, .acc,
      .colls, .tiers, .hif, .ward, .power, .trace, .out]
  | .sectionScrubDone _ => [.sect, .tiers, .ward, .out]
  | .sectCommonsWrite _ _ _ => [.sect, .commons, .ward, .power, .out]
  | .sectOwncmd _ _ _ => [.ownRefused, .tiers, .hif, .ward, .out]
  | .sectSlotWrite _ _ _ _ => [.slots, .slotRefused, .ward, .out]
  | .memBlkcfgWrite _ _ _ _ => [.sect, .tiers, .hif, .ward, .out]
  | .blockFillComplete _ => [.sect, .tiers, .ward, .out]
  | .groveBlkmodeWrite _ _ _ _ => [.sect, .tiers, .hif, .ward, .out]
  | .memMrgnWrite _ _ _ _ _ => [.sect, .tiers, .ward, .out]
  | .sectRoleWrite _ _ _ => [.sect, .steps, .out]
  | .fabLctlWrite _ _ _ => [.links, .lctlPhys, .lctlEnable, .lctlRefused, .ward, .out]
  | .fabRccfgWrite _ _ _ => [.sect, .out]
  | .hifWinctlWrite _ _ _ => [.sect, .tiers, .hif, .ward, .out]
  | .hifDirWrite _ _ _ _ => [.sect, .tiers, .hif, .ward, .out]
  | .ringEnable _ _ _ => [.rings, .out]
  | .ringDisable _ _ _ => [.rings, .out]
  | .traceRlcfgWrite _ _ _ _ => [.trace, .out]
  | .traceRccfgWrite _ _ _ _ => [.cmds, .recs, .trace, .out]
  | .traceTcfgWrite _ _ _ _ => [.trace, .out]
  | .pwrCdozeWrite _ _ _ => [.sect, .power, .out]
  | .pwrMdozeWrite _ _ => [.ward, .power, .out]
  | .pwrHdrWrite _ _ => [.links, .headers, .ward, .power, .out]
  | .auditAckWrite _ _ _ => [.ward, .out]
  | .challenge _ _ => [.ward, .out, .fresh]
  | .submit _ => [.ward, .out]
  | .close _ => [.ward, .out]
  | .mailboxDrain _ => [.ward, .out]
  | .mailboxReturn _ => [.ward, .out]
  | .sessionTimeout => [.ward, .out]
  | .clusterScrubComplete _ => [.power, .out]
  | .tick => [.time, .sect, .slots, .slotsNow, .nflag, .rings, .cmds, .recs, .steps, .images, .loadPages, .cores,
      .store, .slate, .commons, .colls, .tiers, .links, .hif, .ward, .power, .trace, .budget, .out, .fresh]
  | .guardBand => [.time, .sect, .cmds, .links, .ward, .trace, .out]
  | .syncMessage _ _ _ => [.time, .cmds, .ward, .trace, .out]
  | .syncTimeout => [.time, .cmds, .ward, .trace, .out]
  | .holdoverLimit => [.time, .cmds, .ward, .trace, .out]
  | .bundleIssue _ => [.sect, .nflag, .cmds, .cores, .slate, .commons, .acc, .colls, .tiers, .links, .ward,
      .trace, .out]
  | .bundleRetire _ _ => [.cores, .slate, .commons, .tiers, .links, .out]
  | .arrangementSwitch _ => [.cores, .out]
  | .chunkRequest _ _ => [.cores, .out]
  | .chunkFilled _ _ => [.sect, .nflag, .cmds, .cores, .slate, .commons, .tiers, .ward, .out]
  | .linkUnitSend _ => [.links, .out]
  | .flitSend _ _ => [.nflag, .cmds, .colls, .tiers, .links, .ward, .out]
  | .linkUnit _ _ => [.links, .wear, .ward, .out]
  | .dataFlit _ _ => [.slate, .commons, .tiers, .links, .wear, .ward, .out]
  | .tokenFlit _ _ => [.cores, .links, .wear, .ward, .out]
  | .collFlit _ _ => [.sect, .nflag, .cmds, .colls, .tiers, .links, .wear, .ward, .out]
  | .rollcallFlit _ _ => [.steps, .links, .wear, .ward, .out]
  | .timeFlit _ _ _ _ => [.time, .cmds, .links, .wear, .ward, .trace, .out]
  | .mgmtFlit _ _ => [.links, .wear, .ward, .out]
  | .drainFlit _ _ => [.sect, .rings, .cmds, .recs, .steps, .colls, .tiers, .links, .wear, .ward, .trace, .out,
      .fresh, .seq]
  | .departFlit _ _ => [.links, .wear, .ward, .trace, .out]
  | .corruptedFlit _ => [.links, .ward, .out]
  | .replayTimeout _ _ => [.links, .wear, .out]
  | .fecLockLoss _ => [.links, .wear, .ward, .out]
  | .presenceChange _ _ => [.links, .headers, .out]
  | .phyTraining _ => [.links, .out]
  | .delayMeasurement _ => [.links, .out]
  | .linkStateLimit _ => [.links, .out]
  | .cableDelayUpdate _ => [.links, .out]
  | .headerOvercurrent _ => [.links, .headers, .power, .out]
  | .powerOnHour _ => [.headers, .wear, .ward, .out]
  | .rollcallContribution _ => [.steps, .tiers, .ward, .out]
  | .rollcallLevelSend _ => [.steps, .links, .out]
  | .rollcallCombine _ => [.steps, .out]
  | .rollcallResultSend _ => [.steps, .links, .out]
  | .rollcallResult _ => [.steps, .out]
  | .rollcallReturn _ => [.sect, .rings, .cmds, .recs, .steps, .colls, .ward, .trace, .out]
  | .pageSwitch _ => [.sect, .rings, .cmds, .recs, .steps, .colls, .tiers, .hif, .ward, .trace, .out]
  | .patrolScrub _ _ => [.sect, .tiers, .ward, .out]
  | .sramUncorrectable _ => [.nflag, .cmds, .cores, .slate, .commons, .acc, .colls, .links, .wear, .ward, .out]
  | .logEntryWrite _ => [.tiers, .trace, .budget, .out]
  | .replayComparison _ => [.ward, .trace, .out]
  | .traceRecordWrite _ => [.tiers, .trace, .out]
  | .clusterDoze _ => [.cores, .store, .slate, .acc, .power, .trace, .out]
  | .clusterWake _ => [.sect, .power, .trace, .out]
  | .tierWakeComplete _ => [.power, .out]
  | .assembly => [.sect, .power, .out]
  | .assemblyComplete => [.power, .out]
  | .assemblyTimeout => [.ward, .power, .out]
  | .cardDrain => [.sect, .rings, .cmds, .recs, .steps, .colls, .tiers, .links, .ward, .trace, .out, .fresh]
  | .departSend => [.links, .ward, .out]
  | .sentryKick _ => [.sect, .rings, .cmds, .recs, .steps, .colls, .tiers, .links, .ward, .trace, .out, .fresh]
  | .sentryDeadline => [.sect, .rings, .cmds, .recs, .steps, .colls, .tiers, .links, .ward, .trace, .out, .fresh]
  | .heartbeat _ => [.out]
  | .powerFailure => [.time, .rings, .cmds, .recs, .cores, .store, .slate, .commons, .acc, .colls, .tiers, .links,
      .hif, .ward, .power, .out]
  | .holdUpEnd => [.links, .ward, .out, .fresh]
  | .inputOvervoltage _ => [.time, .rings, .cmds, .recs, .cores, .store, .slate, .commons, .acc, .colls, .tiers,
      .links, .hif, .ward, .power, .out]
  | .railOvercurrent _ _ => [.ward, .power, .out]
  | .thermalLimit _ _ => [.ward, .power, .out]
  | .redfishRequest _ _ => [.links, .headers, .ward, .power, .out]
  | .redfishDrain _ => [.ward, .out]
  | .exportAcknowledgement _ _ => [.ward, .out]
  | .keyEnrolment _ _ _ _ => [.ward, .out]
  | .firmwareStage _ _ _ _ => [.id, .ward, .out]
  | .eventRetryExpiry => [.ward, .out]
  | .pldmRequest _ => [.out]
  | .present _ => [.time, .sect, .slots, .slotsNow, .slotRefused, .ownRefused, .nflag, .rings, .cmds, .recs,
      .steps, .images, .loadPages, .cores, .store, .slate, .commons, .acc, .colls, .tiers, .links, .lctlEnable,
      .lctlRefused, .headers, .hif, .ward, .power, .trace, .budget, .out]
  | .boot _ _ => [.id, .time, .ward, .out]
  | .measure _ _ _ => [.time, .rings, .cmds, .recs, .cores, .store, .slate, .commons, .acc, .colls, .tiers,
      .links, .hif, .ward, .power, .out]
  | .memory _ => [.tiers, .ward, .power, .out]
  | .core _ => [.id, .ward, .power, .out]
  | .links => [.links, .ward, .power, .out]
  | .cmisIdentityRead _ _ => [.links, .headers, .wear, .ward, .out]

theorem exec_only {P : State → Prop} {s : State} (hs : P s) :
    (c : Instr) → ClosedOn P (changes c) → ∃ t, exec c s = .next t ∧ P t
  | .nop p d, hc => execNop_only hc p d s hs
  | .fence p d, hc => execFence_only hc p d s hs
  | .fenceCompletion p, hc => execFenceCompletion_only hc p s hs
  | .loadImage p d, hc => execLoadImage_only hc p d s hs
  | .unloadImage p d, hc => execUnloadImage_only hc p d s hs
  | .run p d, hc => execRun_only hc p d s hs
  | .repeatRun p d, hc => execRepeatRun_only hc p d s hs
  | .runStart t, hc => execRunStart_only hc t s hs
  | .microBatchStart t, hc => execMicroBatchStart_only hc t s hs
  | .runCompletion t, hc => execRunCompletion_only hc t s hs
  | .grove p d, hc => execGrove_only hc p d s hs
  | .groveStart t, hc => execGroveStart_only hc t s hs
  | .groveCompletion t, hc => execGroveCompletion_only hc t s hs
  | .migrate p d, hc => execMigrate_only hc p d s hs
  | .preferCanopy p d, hc => execPreferCanopy_only hc p d s hs
  | .preferUnder p d, hc => execPreferUnder_only hc p d s hs
  | .pin p d, hc => execPin_only hc p d s hs
  | .unpin p d, hc => execUnpin_only hc p d s hs
  | .willneed p d, hc => execWillneed_only hc p d s hs
  | .cold p d, hc => execCold_only hc p d s hs
  | .checkpoint p d, hc => execCheckpoint_only hc p d s hs
  | .checkpointCopyStart t, hc => execCheckpointCopyStart_only hc t s hs
  | .trancheDigestWrite t, hc => execTrancheDigestWrite_only hc t s hs
  | .inlineWrite p d, hc => execInlineWrite_only hc p d s hs
  | .seed p d, hc => execSeed_only hc p d s hs
  | .timeMark p d, hc => execTimeMark_only hc p d s hs
  | .timeMarkAtFrame t, hc => execTimeMarkAtFrame_only hc t s hs
  | .reshard p d, hc => execReshard_only hc p d s hs
  | .reshardStart t, hc => execReshardStart_only hc t s hs
  | .drain p d, hc => execDrain_only hc p d s hs
  | .drainTakesEffect t, hc => execDrainTakesEffect_only hc t s hs
  | .queryStep p d, hc => execQueryStep_only hc p d s hs
  | .queryPage p d, hc => execQueryPage_only hc p d s hs
  | .queryLoad p d, hc => execQueryLoad_only hc p d s hs
  | .reservedOpcode p op d, hc => execReservedOpcode_only hc p op d s hs
  | .doorbellReread p sqTail cqHead, hc => execDoorbellReread_only hc p sqTail cqHead s hs
  | .completionRecordWrite t, hc => execCompletionRecordWrite_only hc t s hs
  | .snpData line, hc => execSnpData_only hc line s hs
  | .snpInv line, hc => execSnpInv_only hc line s hs
  | .snpCur line, hc => execSnpCur_only hc line s hs
  | .goWritePull line, hc => execGoWritePull_only hc line s hs
  | .goWritePullDrop line, hc => execGoWritePullDrop_only hc line s hs
  | .memRd hpa m, hc => execMemRd_only hc hpa m s hs
  | .memWr hpa m data poison, hc => execMemWr_only hc hpa m data poison s hs
  | .memWrPtl hpa m data enable poison, hc => execMemWrPtl_only hc hpa m data enable poison s hs
  | .memInv hpa, hc => execMemInv_only hc hpa s hs
  | .inboundBufferDrain lines, hc => execInboundBufferDrain_only hc lines s hs
  | .backInvalidateRecall t, hc => execBackInvalidateRecall_only hc t s hs
  | .birsp r, hc => execBirsp_only hc r s hs
  | .birspOverdue line, hc => execBirspOverdue_only hc line s hs
  | .configurationWrite rid, hc => execConfigurationWrite_only hc rid s hs
  | .cxlIoMemoryRequest rid posted, hc => execCxlIoMemoryRequest_only hc rid posted s hs
  | .hostLinkTraining speed width cacheEn memEn, hc => execHostLinkTraining_only hc speed width cacheEn memEn s hs
  | .dlDown, hc => execDlDown_only hc s hs
  | .secondaryBusReset, hc => execSecondaryBusReset_only hc s hs
  | .d3hotEntry, hc => execD3hotEntry_only hc s hs
  | .perst, hc => execPerst_only hc s hs
  | .hdmDecoderCommit k base ways, hc => execHdmDecoderCommit_only hc k base ways s hs
  | .msixUnmask p, hc => execMsixUnmask_only hc p s hs
  | .misalignedAccess addr bytes write, hc => execMisalignedAccess_only hc addr bytes write s hs
  | .registerWrite addr wide data, hc => execRegisterWrite_only hc addr wide data s hs
  | .timeNowRead ns frac, hc => execTimeNowRead_only hc ns frac s hs
  | .timeBellEpochWrite v data, hc => execTimeBellEpochWrite_only hc v data s hs
  | .timeBellPeriodWrite v data, hc => execTimeBellPeriodWrite_only hc v data s hs
  | .timeCtrlWrite v part data, hc => execTimeCtrlWrite_only hc v part data s hs
  | .errNflagClear v t n mask, hc => execErrNflagClear_only hc v t n mask s hs
  | .recordClear v r t valid, hc => execRecordClear_only hc v r t valid s hs
  | .sectCtlClustersWrite v t data, hc => execSectCtlClustersWrite_only hc v t data s hs
  | .release v t data, hc => execRelease_only hc v t data s hs
  | .sectionScrubDone t, hc => execSectionScrubDone_only hc t s hs
  | .sectCommonsWrite v t data, hc => execSectCommonsWrite_only hc v t data s hs
  | .sectOwncmd v wide data, hc => execSectOwncmd_only hc v wide data s hs
  | .sectSlotWrite v off wide data, hc => execSectSlotWrite_only hc v off wide data s hs
  | .memBlkcfgWrite v off wide data, hc => execMemBlkcfgWrite_only hc v off wide data s hs
  | .blockFillComplete b, hc => execBlockFillComplete_only hc b s hs
  | .groveBlkmodeWrite v off wide data, hc => execGroveBlkmodeWrite_only hc v off wide data s hs
  | .memMrgnWrite v t j part data, hc => execMemMrgnWrite_only hc v t j part data s hs
  | .sectRoleWrite v t data, hc => execSectRoleWrite_only hc v t data s hs
  | .fabLctlWrite v part data, hc => execFabLctlWrite_only hc v part data s hs
  | .fabRccfgWrite v t data, hc => execFabRccfgWrite_only hc v t data s hs
  | .hifWinctlWrite v t data, hc => execHifWinctlWrite_only hc v t data s hs
  | .hifDirWrite v t part data, hc => execHifDirWrite_only hc v t part data s hs
  | .ringEnable v p data, hc => execRingEnable_only hc v p data s hs
  | .ringDisable v p data, hc => execRingDisable_only hc v p data s hs
  | .traceRlcfgWrite v t part data, hc => execTraceRlcfgWrite_only hc v t part data s hs
  | .traceRccfgWrite v t part data, hc => execTraceRccfgWrite_only hc v t part data s hs
  | .traceTcfgWrite v t part data, hc => execTraceTcfgWrite_only hc v t part data s hs
  | .pwrCdozeWrite v t data, hc => execPwrCdozeWrite_only hc v t data s hs
  | .pwrMdozeWrite v data, hc => execPwrMdozeWrite_only hc v data s hs
  | .pwrHdrWrite v data, hc => execPwrHdrWrite_only hc v data s hs
  | .auditAckWrite v part data, hc => execAuditAckWrite_only hc v part data s hs
  | .challenge v role, hc => execChallenge_only hc v role s hs
  | .submit v, hc => execSubmit_only hc v s hs
  | .close v, hc => execClose_only hc v s hs
  | .mailboxDrain v, hc => execMailboxDrain_only hc v s hs
  | .mailboxReturn v, hc => execMailboxReturn_only hc v s hs
  | .sessionTimeout, hc => execSessionTimeout_only hc s hs
  | .clusterScrubComplete t, hc => execClusterScrubComplete_only hc t s hs
  | .tick, hc => execTick_only hc s hs
  | .guardBand, hc => execGuardBand_only hc s hs
  | .syncMessage gm domain offset, hc => execSyncMessage_only hc gm domain offset s hs
  | .syncTimeout, hc => execSyncTimeout_only hc s hs
  | .holdoverLimit, hc => execHoldoverLimit_only hc s hs
  | .bundleIssue core, hc => execBundleIssue_only hc core s hs
  | .bundleRetire core k, hc => execBundleRetire_only hc core k s hs
  | .arrangementSwitch core, hc => execArrangementSwitch_only hc core s hs
  | .chunkRequest core stream, hc => execChunkRequest_only hc core stream s hs
  | .chunkFilled core stream, hc => execChunkFilled_only hc core stream s hs
  | .linkUnitSend l, hc => execLinkUnitSend_only hc l s hs
  | .flitSend l slot, hc => execFlitSend_only hc l slot s hs
  | .linkUnit l u, hc => execLinkUnit_only hc l u s hs
  | .dataFlit l f, hc => execDataFlit_only hc l f s hs
  | .tokenFlit l f, hc => execTokenFlit_only hc l f s hs
  | .collFlit l f, hc => execCollFlit_only hc l f s hs
  | .rollcallFlit l f, hc => execRollcallFlit_only hc l f s hs
  | .timeFlit l f arrivalNs arrivalFrac, hc => execTimeFlit_only hc l f arrivalNs arrivalFrac s hs
  | .mgmtFlit l f, hc => execMgmtFlit_only hc l f s hs
  | .drainFlit l f, hc => execDrainFlit_only hc l f s hs
  | .departFlit l f, hc => execDepartFlit_only hc l f s hs
  | .corruptedFlit l, hc => execCorruptedFlit_only hc l s hs
  | .replayTimeout l space, hc => execReplayTimeout_only hc l space s hs
  | .fecLockLoss e, hc => execFecLockLoss_only hc e s hs
  | .presenceChange h present, hc => execPresenceChange_only hc h present s hs
  | .phyTraining l, hc => execPhyTraining_only hc l s hs
  | .delayMeasurement l, hc => execDelayMeasurement_only hc l s hs
  | .linkStateLimit l, hc => execLinkStateLimit_only hc l s hs
  | .cableDelayUpdate l, hc => execCableDelayUpdate_only hc l s hs
  | .headerOvercurrent e, hc => execHeaderOvercurrent_only hc e s hs
  | .powerOnHour h, hc => execPowerOnHour_only hc h s hs
  | .rollcallContribution t, hc => execRollcallContribution_only hc t s hs
  | .rollcallLevelSend t, hc => execRollcallLevelSend_only hc t s hs
  | .rollcallCombine t, hc => execRollcallCombine_only hc t s hs
  | .rollcallResultSend t, hc => execRollcallResultSend_only hc t s hs
  | .rollcallResult t, hc => execRollcallResult_only hc t s hs
  | .rollcallReturn t, hc => execRollcallReturn_only hc t s hs
  | .pageSwitch page, hc => execPageSwitch_only hc page s hs
  | .patrolScrub granule r, hc => execPatrolScrub_only hc granule r s hs
  | .sramUncorrectable e, hc => execSramUncorrectable_only hc e s hs
  | .logEntryWrite t, hc => execLogEntryWrite_only hc t s hs
  | .replayComparison t, hc => execReplayComparison_only hc t s hs
  | .traceRecordWrite t, hc => execTraceRecordWrite_only hc t s hs
  | .clusterDoze c, hc => execClusterDoze_only hc c s hs
  | .clusterWake c, hc => execClusterWake_only hc c s hs
  | .tierWakeComplete bridge, hc => execTierWakeComplete_only hc bridge s hs
  | .assembly, hc => execAssembly_only hc s hs
  | .assemblyComplete, hc => execAssemblyComplete_only hc s hs
  | .assemblyTimeout, hc => execAssemblyTimeout_only hc s hs
  | .cardDrain, hc => execCardDrain_only hc s hs
  | .departSend, hc => execDepartSend_only hc s hs
  | .sentryKick word, hc => execSentryKick_only hc word s hs
  | .sentryDeadline, hc => execSentryDeadline_only hc s hs
  | .heartbeat data, hc => execHeartbeat_only hc data s hs
  | .powerFailure, hc => execPowerFailure_only hc s hs
  | .holdUpEnd, hc => execHoldUpEnd_only hc s hs
  | .inputOvervoltage mv, hc => execInputOvervoltage_only hc mv s hs
  | .railOvercurrent k amps, hc => execRailOvercurrent_only hc k amps s hs
  | .thermalLimit k reading, hc => execThermalLimit_only hc k reading s hs
  | .redfishRequest who a, hc => execRedfishRequest_only hc who a s hs
  | .redfishDrain who, hc => execRedfishDrain_only hc who s hs
  | .exportAcknowledgement who seq, hc => execExportAcknowledgement_only hc who seq s hs
  | .keyEnrolment byMaker r sig e, hc => execKeyEnrolment_only hc byMaker r sig e s hs
  | .firmwareStage who version namesCard package, hc => execFirmwareStage_only hc who version namesCard package s hs
  | .eventRetryExpiry, hc => execEventRetryExpiry_only hc s hs
  | .pldmRequest q, hc => execPldmRequest_only hc q s hs
  | .present heldMs, hc => execPresent_only hc heldMs s hs
  | .boot activeOk otherOk, hc => execBoot_only hc activeOk otherOk s hs
  | .measure mv inlet outlet, hc => execMeasure_only hc mv inlet outlet s hs
  | .memory ok, hc => execMemory_only hc ok s hs
  | .core answersOk, hc => execCore_only hc answersOk s hs
  | .links, hc => execLinks_only hc s hs
  | .cmisIdentityRead h c, hc => execCmisIdentityRead_only hc h c s hs

/-- Every command answers a next state that differs in its own pieces alone. -/
theorem exec_frame (c : Instr) (s : State) : ∃ t, exec c s = .next t ∧ Frame (changes c) s t :=
  exec_only (Frame.refl _ s) c (closedOn_frame _ s)

theorem frame_of_exec {c : Instr} {s t : State} (h : exec c s = .next t) : Frame (changes c) s t := by
  obtain ⟨u, hexec, hframe⟩ := exec_frame c s
  exact Host.Outcome.next.inj (hexec.symm.trans h) ▸ hframe

theorem kept_of_exec {c : Instr} {s t : State} (h : exec c s = .next t) : Kept s t := by
  obtain ⟨u, hexec, hkept⟩ := exec_only (Kept.refl s) c (closedOn_kept s _)
  exact Host.Outcome.next.inj (hexec.symm.trans h) ▸ hkept

/-- A piece that is none of the command's own is the same after it. -/
theorem same_of_exec {c : Instr} {s t : State} (h : exec c s = .next t) {p : Piece} (hp : p ∉ changes c) : p.same s t :=
  (frame_of_exec h).2 p hp

/-- A property that speaks of none of the pieces in `L` survives their change. -/
theorem closedOn_of_frame {P : State → Prop} {L : List Piece} (h : ∀ u v, P u → Frame L u v → P v) : ClosedOn P L := by
  intro p hp
  have hc := closedOn_frame L
  cases p
  case id => exact fun u v hu hv => h _ _ hu (hc u _ hp u v (Frame.refl L u) hv)
  case slate => exact fun u v hu hv => h _ _ hu (hc u _ hp u v (Frame.refl L u) hv)
  case commons => exact fun u v hu hv => h _ _ hu (hc u _ hp u v (Frame.refl L u) hv)
  case tiers => exact fun u v hu hv => h _ _ hu (hc u _ hp u v (Frame.refl L u) hv)
  all_goals exact fun u v hu => h _ _ hu (hc u _ hp u v (Frame.refl L u))

/-! ### A step -/

/-- Settles O1: it is the second case of `step`. -/
theorem stepRunsFrontCommand : Obligations.StepRunsFrontCommand := by
  intro c q s h
  simp only [step, h]

/-- Settles O2: it is the first case of `step`. -/
theorem emptyQueueIdles : Obligations.EmptyQueueIdles := by
  intro s h
  simp only [step, h]

/-- What a step with a command in the queue keeps, it keeps from the state whose queue is one shorter. -/
theorem step_cases {s t : State} (h : step s = .next t) :
    t = s ∨ ∃ c q, s.pending = c :: q ∧ exec c { s with pending := q } = .next t := by
  cases hq : s.pending with
  | nil => exact .inl (Host.Outcome.next.inj ((emptyQueueIdles s hq).symm.trans h)).symm
  | cons c q => exact .inr ⟨c, q, rfl, (stepRunsFrontCommand c q s hq).symm.trans h⟩

/-- Settles O3. -/
theorem everyCommandAnswersNext : Obligations.EveryCommandAnswersNext := fun c s =>
  have ⟨t, hexec, _⟩ := exec_frame c s
  ⟨t, hexec⟩

/-- Settles O4. -/
theorem commandsLeaveQueueAndCoreMap : Obligations.CommandsLeaveQueueAndCoreMap := by
  intro c s t h
  obtain ⟨hpending, hcmap, _⟩ := kept_of_exec h
  exact ⟨hpending, hcmap⟩

/-- Settles O5. -/
theorem memoriesStayCanonical : Obligations.MemoriesStayCanonical := by
  intro s t hs h
  obtain rfl | ⟨c, q, _, hexec⟩ := step_cases h
  · exact hs
  · obtain ⟨_, _, hmem⟩ := kept_of_exec hexec
    exact hmem hs

/-- Settles O6: `coreMapOk` looks at the core map alone, which no command changes. -/
theorem coreMapStaysLegal : Obligations.CoreMapStaysLegal := by
  intro s t hs h
  obtain rfl | ⟨c, q, _, hexec⟩ := step_cases h
  · exact hs
  · obtain ⟨_, hcmap, _⟩ := kept_of_exec hexec
    simpa only [coreMapOk, hcmap] using hs

/-- Settles O7: the memories are empty, and the core map is a small list. -/
theorem resetMeetsInvariants : Obligations.ResetMeetsInvariants := ⟨rfl, by decide +kernel⟩

/-- Settles O8. -/
theorem resetRegisters : Obligations.ResetRegisters := by
  refine ⟨rfl, rfl, rfl, rfl, fun t => ?_, fun _ => ⟨rfl, rfl⟩, fun _ => rfl, fun _ => rfl, rfl, rfl⟩
  fin_cases t <;> exact ⟨rfl, rfl, rfl, rfl, rfl, rfl, rfl, rfl, rfl⟩

/-! ### What changes by its own commands alone -/

/-- Settles O9: no other command has the images among its pieces. -/
theorem onlyLoadsChangeImages : Obligations.OnlyLoadsChangeImages := by
  intro c s t h
  have hsame (hp : Piece.images ∉ changes c) : t.images = s.images := same_of_exec h hp
  cases c
  case loadImage | unloadImage | tick | present => trivial
  all_goals exact hsame (by simp [changes])

/-- Settles O10: no other command has the time among its pieces. -/
theorem onlyTimeCommandsChangeTime : Obligations.OnlyTimeCommandsChangeTime := by
  intro c s t h
  have hsame (hp : Piece.time ∉ changes c) : t.time = s.time := same_of_exec h hp
  cases c
  case tick | guardBand | syncMessage | timeFlit | syncTimeout | holdoverLimit | timeNowRead | timeBellEpochWrite |
      timeBellPeriodWrite | timeCtrlWrite | registerWrite | present | boot | powerFailure | inputOvervoltage | measure =>
    trivial
  all_goals exact hsame (by simp [changes])

/-! ### The slot table that traffic follows (R66) -/

/-- The card at the last instant before a tick: what the guard band had still to do is done, and a HOLDOVER whose limit has
come by then has ended. -/
def beforeTick (s : State) : State :=
  endHoldover (modTime (endGuard s) (fun x =>
    { x with ns := w64 (tickNs (endGuard s) (nextTick (endGuard s)) - 1), frac := 0xFFFFFFFF }))

/-- The card at a tick, before the work of its sections. -/
def tickStart (s : State) : State :=
  { modTime (beforeTick s) (fun x => { x with
      ns := w64 (tickNs (beforeTick s) (nextTick (endGuard s))), frac := 0, frame := some (nextTick (endGuard s)), guard := false })
    with budget := .all budgetReset, slotsNow := (beforeTick s).slots }

theorem tickWork_eq (s : State) : tickWork s = endHoldover (tickDrain (markDeparted (pickTimeLink
    (allSecs.foldl (tickSection (nextTick (endGuard s))) (tickStart s))))) := rfl

/-- What comes before the sections' work at a tick writes no slot table. -/
theorem beforeTick_slots (s : State) : (beforeTick s).slots = s.slots := by
  have hc : ClosedOn (fun u : State => u.slots = s.slots) [.time, .sect, .rings, .cmds, .recs, .steps, .colls,
      .tiers, .links, .ward, .trace, .out, .fresh] :=
    closedOn_of_frame fun u v hu hv => (hv.2 .slots (by decide)).trans hu
  exact endHoldover_only (hc.sub (by decide)) _ <| modTime_only (hc.sub (by decide)) _ _ <|
    endGuard_only (hc.sub (by decide)) s rfl

/-- A tick takes over the slot table as it is written; the work that follows does not write the table that traffic follows. -/
theorem tickWork_slotsNow (s : State) : (tickWork s).slotsNow = s.slots := by
  have hc : ClosedOn (fun u : State => u.slotsNow = s.slots) [.time, .sect, .nflag, .rings, .cmds, .recs, .steps, .cores,
      .slate, .commons, .colls, .tiers, .links, .ward, .trace, .out, .fresh] :=
    closedOn_of_frame fun u v hu hv => (hv.2 .slotsNow (by decide)).trans hu
  have hsections := p_foldl (P := fun u : State => u.slotsNow = s.slots) (tickSection (nextTick (endGuard s))) allSecs
    (s := tickStart s) (beforeTick_slots s) fun _ _ h => tickSection_only (hc.sub (by decide)) _ _ _ h
  rw [tickWork_eq]
  exact endHoldover_only (hc.sub (by decide)) _ <| tickDrain_only (hc.sub (by decide)) _ <|
    markDeparted_only (hc.sub (by decide)) _ <| pickTimeLink_only (hc.sub (by decide)) _ hsections

theorem tick_slotsNow {s t : State} (h : exec .tick s = .next t) :
    t.slotsNow = if counterDead s then s.slotsNow else s.slots := by
  have hc : ClosedOn (fun u : State => u.slotsNow = s.slots) [.sect, .slots, .nflag, .rings, .cmds, .recs, .steps, .images,
      .loadPages, .store, .colls, .tiers, .hif, .ward, .power, .trace, .out] :=
    closedOn_of_frame fun u v hu hv => (hv.2 .slotsNow (by decide)).trans hu
  have ht : t = if counterDead s then begin s else slotZeroWork (tickWork (begin s)) := (Host.Outcome.next.inj h).symm
  subst ht
  split
  · rfl
  · exact slotZeroWork_only hc _ (tickWork_slotsNow (begin s))

/-- Settles O11: the tick is `tick_slotsNow`, and no other command but those named has the piece among its own. -/
theorem onlyFirmwareChangesIdentity : Obligations.OnlyFirmwareChangesIdentity := by
  intro c s t h
  have hid (hp : Piece.id ∉ changes c) : t.id = s.id := same_of_exec h hp
  have hphys (hp : Piece.lctlPhys ∉ changes c) : t.lctlPhys = s.lctlPhys := same_of_exec h hp
  have hslots (hp : Piece.slots ∉ changes c) : t.slots = s.slots := same_of_exec h hp
  have hnow (hp : Piece.slotsNow ∉ changes c) : t.slotsNow = s.slotsNow := same_of_exec h hp
  have hheaders (hp : Piece.headers ∉ changes c) : t.headers = s.headers := same_of_exec h hp
  refine ⟨?_, ?_, ?_, ?_, ?_⟩
  · cases c
    case firmwareStage | boot | core => trivial
    all_goals exact hid (by simp [changes])
  · cases c
    case fabLctlWrite | registerWrite => trivial
    all_goals exact hphys (by simp [changes])
  · cases c
    case sectSlotWrite | loadImage | unloadImage | sectCtlClustersWrite | release | registerWrite | tick | present => trivial
    all_goals exact hslots (by simp [changes])
  · cases c
    case tick => exact tick_slotsNow h
    case present => trivial
    all_goals exact hnow (by simp [changes])
  · cases c
    case presenceChange | cmisIdentityRead | powerOnHour | headerOvercurrent | pwrHdrWrite | registerWrite |
        redfishRequest | present =>
      trivial
    all_goals exact hheaders (by simp [changes])

end Sys2Proof.Machine
end

section
/-!
PROOFS. Ring commands: what a command sees once its descriptor is read, the record that a command leaves when it completes,
and the commands that need no schedule (R394, R399, R403-R411, R427).
-/
namespace Sys2Proof.Machine

/-! ### Pieces that an operation leaves alone -/

theorem traceRec_frame (s : State) (t : Sec) (event srcKind srcIndex : Nat) (arg0 arg1 : W64) :
    Frame [.trace] s (traceRec s t event srcKind srcIndex arg0 arg1) :=
  traceRec_only (closedOn_frame _ s) s t event srcKind srcIndex arg0 arg1 (Frame.refl _ s)

theorem countStep_frame (s : State) (t : Sec) (c : Cmd) (status : BitVec 8) : Frame [.steps] s (countStep s t c status) :=
  countStep_only (closedOn_frame _ s) s t c status (Frame.refl _ s)

theorem logEnd_frame (s : State) (t : Sec) (c : Cmd) : Frame [.trace] s (logEnd s t c) :=
  logEnd_only (closedOn_frame _ s) s t c (Frame.refl _ s)

theorem readDesc_frame (s : State) (p : Pair) (op : BitVec 8) (d : Desc) :
    Frame [.rings, .trace, .out, .seq] s (readDesc s p op d) :=
  readDesc_only (closedOn_frame _ s) s p op d (Frame.refl _ s)

@[simp] theorem traceRec_recs (s : State) (t : Sec) (e k i : Nat) (a b : W64) : (traceRec s t e k i a b).recs = s.recs :=
  (traceRec_frame ..).2 .recs (by decide)
@[simp] theorem traceRec_rings (s : State) (t : Sec) (e k i : Nat) (a b : W64) : (traceRec s t e k i a b).rings = s.rings :=
  (traceRec_frame ..).2 .rings (by decide)
@[simp] theorem traceRec_cmds (s : State) (t : Sec) (e k i : Nat) (a b : W64) : (traceRec s t e k i a b).cmds = s.cmds :=
  (traceRec_frame ..).2 .cmds (by decide)
@[simp] theorem traceRec_steps (s : State) (t : Sec) (e k i : Nat) (a b : W64) : (traceRec s t e k i a b).steps = s.steps :=
  (traceRec_frame ..).2 .steps (by decide)
@[simp] theorem traceRec_time (s : State) (t : Sec) (e k i : Nat) (a b : W64) : (traceRec s t e k i a b).time = s.time :=
  (traceRec_frame ..).2 .time (by decide)
@[simp] theorem countStep_recs (s : State) (t : Sec) (c : Cmd) (st : BitVec 8) : (countStep s t c st).recs = s.recs :=
  (countStep_frame ..).2 .recs (by decide)
@[simp] theorem countStep_rings (s : State) (t : Sec) (c : Cmd) (st : BitVec 8) : (countStep s t c st).rings = s.rings :=
  (countStep_frame ..).2 .rings (by decide)
@[simp] theorem countStep_cmds (s : State) (t : Sec) (c : Cmd) (st : BitVec 8) : (countStep s t c st).cmds = s.cmds :=
  (countStep_frame ..).2 .cmds (by decide)
@[simp] theorem logEnd_recs (s : State) (t : Sec) (c : Cmd) : (logEnd s t c).recs = s.recs :=
  (logEnd_frame ..).2 .recs (by decide)
@[simp] theorem logEnd_rings (s : State) (t : Sec) (c : Cmd) : (logEnd s t c).rings = s.rings :=
  (logEnd_frame ..).2 .rings (by decide)
@[simp] theorem logEnd_cmds (s : State) (t : Sec) (c : Cmd) : (logEnd s t c).cmds = s.cmds :=
  (logEnd_frame ..).2 .cmds (by decide)
@[simp] theorem logEnd_steps (s : State) (t : Sec) (c : Cmd) : (logEnd s t c).steps = s.steps :=
  (logEnd_frame ..).2 .steps (by decide)
@[simp] theorem logEnd_time (s : State) (t : Sec) (c : Cmd) : (logEnd s t c).time = s.time :=
  (logEnd_frame ..).2 .time (by decide)

/-- A state is given by its queue and its pieces. -/
theorem eq_of_same {s t : State} (hpending : t.pending = s.pending) (h : ∀ p : Piece, p.same s t) : t = s := by
  cases s
  cases t
  simp only [Piece.same] at h
  congr
  exacts [h .id, h .time, h .sect, h .slots, h .slotsNow, h .slotRefused, h .ownRefused, h .nflag, h .rings, h .cmds, h .recs,
    h .steps, h .images, h .loadPages, h .cores, h .store, h .slate, h .commons, h .acc, h .colls, h .tiers, h .links,
    h .lctlPhys, h .lctlEnable, h .lctlRefused, h .headers, h .wear, h .hif, h .ward, h .power, h .trace, h .budget, h .out,
    h .fresh, h .seq]

/-- The configuration of a section's log, trace and comparison, and what it has counted of its window writes: all of the trace
state that a command can ask for. -/
def Trace.sameSetup (x y : Trace) : Prop :=
  y.rlcfg = x.rlcfg ∧ y.tcfg = x.tcfg ∧ y.rccfg = x.rccfg ∧ y.rclen = x.rclen ∧ y.wSum = x.wSum ∧ y.wCount = x.wCount

def SameSetup (f g : Four Trace) : Prop := ∀ t, (f.get t).sameSetup (g.get t)

theorem SameSetup.modTrace {s u : State} (h : SameSetup s.trace u.trace) {t : Sec} {f : Trace → Trace}
    (hf : ∀ x : Trace, x.sameSetup (f x)) : SameSetup s.trace (Machine.modTrace u t f).trace := by
  intro v
  by_cases hv : v = t
  · subst hv
    simpa [Trace.sameSetup, (hf (u.trace.get v)).1, (hf (u.trace.get v)).2] using h v
  · simpa [hv] using h v

theorem readDesc_sameSetup (s : State) (p : Pair) (op : BitVec 8) (d : Desc) :
    SameSetup s.trace (readDesc (begin s) p op d).trace := by
  unfold readDesc
  simp only [foldl_emit, logAppend]
  refine SameSetup.modTrace ?_ fun x => ⟨rfl, rfl, rfl, rfl, rfl, rfl⟩
  split
  · exact SameSetup.modTrace (fun v => ⟨rfl, rfl, rfl, rfl, rfl, rfl⟩) fun x => ⟨rfl, rfl, rfl, rfl, rfl, rfl⟩
  · exact fun v => ⟨rfl, rfl, rfl, rfl, rfl, rfl⟩

/-- The state that the read of a descriptor leaves, up to what it changes. -/
abbrev State.afterRead (s : State) (rings : Sparse Ring) (trace : Four Trace) (out : List Out) (seq : Nat) : State :=
  { s with rings, trace, out, seq }

/-- R394: a read changes its ring, the logs of its section, what goes out and the read counter; every question about anything
else is answered as before. -/
theorem readDesc_begin_eq (s : State) (p : Pair) (op : BitVec 8) (d : Desc) :
    ∃ rings trace out seq, SameSetup s.trace trace ∧ readDesc (begin s) p op d = s.afterRead rings trace out seq := by
  obtain ⟨hpending, hsame⟩ := readDesc_frame (begin s) p op d
  refine ⟨(readDesc (begin s) p op d).rings, (readDesc (begin s) p op d).trace, (readDesc (begin s) p op d).out,
    (readDesc (begin s) p op d).seq, readDesc_sameSetup s p op d, eq_of_same hpending fun x => ?_⟩
  by_cases hx : x ∈ [Piece.rings, .trace, .out, .seq]
  · simp only [List.mem_cons, List.not_mem_nil, or_false] at hx
    rcases hx with rfl | rfl | rfl | rfl <;> rfl
  · have hsame := hsame x hx
    cases x
    case rings | trace | out | seq => exact absurd (by decide) hx
    all_goals exact hsame

/-- R450, R457, R460: the regions that a section may not reach are those before the read. -/
theorem logRegions_read {s : State} {trace : Four Trace} (h : SameSetup s.trace trace) (rings : Sparse Ring)
    (out : List Out) (seq : Nat) (t : Sec) : logRegions (s.afterRead rings trace out seq) t = logRegions s t := by
  obtain ⟨hrl, ht, hrc, hlen, _, _⟩ := h t
  simp only [logRegions, refRegion, getTrace, hrl, ht, hrc, hlen]
  rfl

theorem reach_read {s : State} {trace : Four Trace} (h : SameSetup s.trace trace) (rings : Sparse Ring) (out : List Out)
    (seq : Nat) (t : Sec) (wr : Bool) (lo hi : Nat) :
    reach (s.afterRead rings trace out seq) t wr lo hi = reach s t wr lo hi := by
  simp only [reach, logRegions_read h]
  rfl

/-! ### The record that a command leaves (R410, R411) -/

/-- A record that does not fall on a tick goes behind those that wait. -/
theorem insertRec_of_not_tick {r : Rec} (h : r.tick = false) (l : List Rec) : insertRec r l = l ++ [r] := by
  induction l with
  | nil => rfl
  | cons x l ih => simp [insertRec, h, ih]

theorem mem_insertRec (r : Rec) (l : List Rec) : r ∈ insertRec r l := by
  induction l with
  | nil => simp [insertRec]
  | cons x l ih =>
    rw [insertRec]
    split
    · simp
    · exact List.mem_cons_of_mem _ ih

theorem recordOf_congr {s u : State} (h : u.time = s.time) (c : Cmd) (st dt : BitVec 8) (res : BitVec 128) :
    recordOf u c st dt res = recordOf s c st dt res := by
  simp only [recordOf, frameNow, h]

@[simp] theorem recordOf_begin (s : State) (c : Cmd) (st dt : BitVec 8) (res : BitVec 128) :
    recordOf (begin s) c st dt res = recordOf s c st dt res := rfl

/-- A command that has a descriptor and is not lost with the host link leaves its record. -/
theorem completeOne_recs {s : State} {t : Sec} {c : Cmd} (hstop : c.stop ≠ some .lost)
    (hnet : ∀ e w f, c.job ≠ .netDrain e w f) (st dt : BitVec 8) (res : BitVec 128) :
    (completeOne s t c st dt res).recs = s.recs.set t (insertRec (recordOf s c st dt res) (s.recs.get t)) := by
  have hlost : (c.stop == some .lost) = false := by simpa using hstop
  unfold completeOne
  cases hjob : c.job
  case netDrain e w f => exact absurd hjob (hnet e w f)
  all_goals
    simp only [hlost, Bool.false_eq_true, if_false, traceRec_recs, countStep_recs, modRing_recs, logEnd_recs, setCmds_recs]
    rw [recordOf_congr (s := s) (by simp)]

/-- R396: completion frees the ring that the command held, and no other. -/
theorem completeOne_rings {s : State} {t : Sec} {c : Cmd} (hstop : c.stop ≠ some .lost)
    (hnet : ∀ e w f, c.job ≠ .netDrain e w f) (st dt : BitVec 8) (res : BitVec 128) :
    (completeOne s t c st dt res).rings =
      (modRing s c.pair (fun r => if r.held == some c.ord then { r with held := none } else r)).rings := by
  have hlost : (c.stop == some .lost) = false := by simpa using hstop
  unfold completeOne
  cases hjob : c.job
  case netDrain e w f => exact absurd hjob (hnet e w f)
  all_goals
    simp only [hlost, Bool.false_eq_true, if_false, traceRec_rings, countStep_rings, modRing_rings, getRing, logEnd_rings,
      setCmds_rings]
    rfl

/-- Commands that take nothing else along when they complete (R76, R254): all but RUN and GROVE commands. -/
theorem complete_eq_completeOne {c : Cmd} (hrun : isRunOp c = false) (hgrove : isGroveOp c = false) (s : State) (t : Sec)
    (st dt : BitVec 8) (res : BitVec 128) : complete s t c st dt res = completeOne s t c st dt res := by
  unfold complete
  cases hjob : c.job
  case run => simp [isRunOp, hjob] at hrun
  case grove => simp [isGroveOp, hjob] at hgrove
  all_goals simp

/-- Without a step, completion changes no step state. -/
theorem completeOne_only_of_carry {P : State → Prop} (hc : ClosedOn P [.rings, .cmds, .recs, .colls, .trace]) {c : Cmd}
    (hcarry : c.carry = none) (s : State) (t : Sec) (st dt : BitVec 8) (res : BitVec 128) (hs : P s) :
    P (completeOne s t c st dt res) := by
  have hcount (u : State) : countStep u t c st = u := by simp only [countStep, hcarry]
  unfold completeOne
  simp only [hcount]
  have h1 := upd_colls hc (by decide) ((setCmds s t ((getCmds s t).filter (fun x => x.ord != c.ord))).colls.set t
    (((setCmds s t ((getCmds s t).filter (fun x => x.ord != c.ord))).colls.get t).filter (fun x => x.ord != c.ord)))
    (setCmds_only (hc.sub (by decide)) s t ((getCmds s t).filter (fun x => x.ord != c.ord)) hs)
  split
  · exact h1
  · have h2 := logEnd_only (hc.sub (by decide)) _ t c h1
    split
    · exact modRing_only (hc.sub (by decide)) _ _ _ (leaveNoRecord_only (hc.sub (by decide)) _ t c h2)
    · exact traceRec_only (hc.sub (by decide)) _ _ _ _ _ _ _
        (modRing_only (hc.sub (by decide)) _ _ _ (upd_recs hc (by decide) _ h2))

/-! ### A command that completes as it is read -/

/-- The command of a descriptor that is being read, with the step that it carries or draws from, and the bytes that it has
still to write. -/
def readCmd (s : State) (p : Pair) (op : BitVec 8) (d : Desc) (carry : Option Nat) (draw : Nat)
    (bytes : List (Nat × Nat) := []) : Cmd :=
  { cmdOf s p op d with carry, draw, job := .inlineWrite bytes }

theorem readCmd_stop (s : State) (p : Pair) (op : BitVec 8) (d : Desc) (carry : Option Nat) (draw : Nat)
    (bytes : List (Nat × Nat)) : (readCmd s p op d carry draw bytes).stop ≠ some .lost := by
  simp [readCmd, cmdOf]

theorem readCmd_job (s : State) (p : Pair) (op : BitVec 8) (d : Desc) (carry : Option Nat) (draw : Nat)
    (bytes : List (Nat × Nat)) (e : Bool) (w : List Nat) (f : Nat) :
    (readCmd s p op d carry draw bytes).job ≠ .netDrain e w f := by
  simp [readCmd]

theorem complete_readCmd (s w : State) (t : Sec) (p : Pair) (op : BitVec 8) (d : Desc) (carry : Option Nat) (draw : Nat)
    (bytes : List (Nat × Nat)) (st dt : BitVec 8) (res : BitVec 128) :
    complete w t (readCmd s p op d carry draw bytes) st dt res =
      completeOne w t (readCmd s p op d carry draw bytes) st dt res :=
  complete_eq_completeOne rfl rfl ..

/-- R410: RESULT is 0 unless the status is OK, DRAINED or REPEAT_CONFIRMED. -/
def shownResult (st : BitVec 8) (res : BitVec 128) : BitVec 128 :=
  if st == stOk || st == stDrained || st == stConfirmed then res else 0

@[simp] theorem shownResult_zero (st : BitVec 8) : shownResult st 0 = 0 := ite_self _
@[simp] theorem shownResult_ok (res : BitVec 128) : shownResult stOk res = res := rfl

theorem recordOf_readCmd {s v : State} (htime : v.time = s.time) (p : Pair) (op : BitVec 8) (d : Desc) (carry : Option Nat)
    (draw : Nat) (bytes : List (Nat × Nat)) (st dt : BitVec 8) (res : BitVec 128) :
    recordOf v (readCmd s p op d carry draw bytes) st dt res = readRec s p op d st dt (shownResult st res) := by
  rw [recordOf_congr htime]
  simp only [recordOf, readCmd, cmdOf, readRec, flagsum, List.foldl_nil, ite_self, onTick, shownResult]

theorem complete_readCmd_recs {s w : State} (hrecs : w.recs = s.recs) (htime : w.time = s.time) (p : Pair) (op : BitVec 8)
    (d : Desc) (carry : Option Nat) (draw : Nat) (bytes : List (Nat × Nat)) (st dt : BitVec 8) (res : BitVec 128) :
    (complete w (secOf p) (readCmd s p op d carry draw bytes) st dt res).recs.get (secOf p) =
      s.recs.get (secOf p) ++ [readRec s p op d st dt (shownResult st res)] := by
  rw [complete_readCmd, completeOne_recs (readCmd_stop s p op d carry draw bytes) (readCmd_job s p op d carry draw bytes),
    recordOf_readCmd htime, insertRec_of_not_tick rfl]
  simp [hrecs]

/-- What a completion changes of a command that completes as it is read: the steps only where it carries one. -/
theorem complete_readCmd_frame {s u w : State} {L : List Piece} (hframe : Frame L u w)
    (hL : [.rings, .cmds, .recs, .colls, .trace] ⊆ L) {carry : Option Nat} (hcarry : carry = none ∨ Piece.steps ∈ L) (t : Sec) (p : Pair) (op : BitVec 8) (d : Desc)
    (draw : Nat) (bytes : List (Nat × Nat)) (st dt : BitVec 8) (res : BitVec 128) :
    Frame L u (complete w t (readCmd s p op d carry draw bytes) st dt res) := by
  have hc := closedOn_frame L u
  rw [complete_readCmd]
  rcases hcarry with rfl | hsteps
  · exact completeOne_only_of_carry (hc.sub hL) rfl w t st dt res hframe
  · refine completeOne_only (hc.sub ?_) w t _ st dt res hframe
    intro x hx
    by_cases hxs : x = .steps
    · exact hxs ▸ hsteps
    · exact hL (by simp only [List.mem_cons, List.not_mem_nil, or_false] at hx ⊢; tauto)

/-- A command that completes as it is read makes its one record, and changes what the frame of its state allows. -/
theorem records_of_complete {c : Instr} {s w : State} {p : Pair} {op : BitVec 8} {d : Desc} {carry : Option Nat}
    {draw : Nat} {bytes : List (Nat × Nat)} {st dt : BitVec 8} {res : BitVec 128} {L : List Piece}
    (hexec : exec c s = .next (complete w (secOf p) (readCmd s p op d carry draw bytes) st dt res))
    (hframe : Frame L s w) (hrecs : w.recs = s.recs) (htime : w.time = s.time)
    (hL : [.rings, .cmds, .recs, .colls, .trace] ⊆ L) (hcarry : carry = none ∨ Piece.steps ∈ L) :
    Records c s (readRec s p op d st dt (shownResult st res)) L :=
  ⟨_, hexec, complete_readCmd_recs hrecs htime p op d carry draw bytes st dt res,
    complete_readCmd_frame hframe hL hcarry _ p op d draw bytes st dt res⟩

theorem records_of_completeRead {c : Instr} {s v : State} {p : Pair} {op : BitVec 8} {d : Desc} {carry : Option Nat}
    {draw : Nat} {bytes : List (Nat × Nat)} {st dt : BitVec 8} {res : BitVec 128} {L : List Piece}
    (hexec : exec c s = .next (completeRead v (secOf p) (readCmd s p op d carry draw bytes) st dt res))
    (hframe : Frame L s v) (hrecs : v.recs = s.recs) (htime : v.time = s.time)
    (hL : [.rings, .cmds, .recs, .colls, .trace] ⊆ L) (hcarry : carry = none ∨ Piece.steps ∈ L) :
    Records c s (readRec s p op d st dt (shownResult st res)) L :=
  records_of_complete (w := setCmds v (secOf p) (getCmds v (secOf p) ++ [readCmd s p op d carry draw bytes])) hexec
    (setCmds_only ((closedOn_frame L s).sub fun x hx => hL (by simp_all)) v _ _ hframe) hrecs htime hL hcarry

/-! ### Reading a ring command -/

/-- The form of a ring command's descriptor is judged on the state that its read leaves, which answers as before. -/
theorem exec_eq_withRead_form {c : Instr} {s : State} {p : Pair} {op : BitVec 8} {d : Desc} {b : Bool}
    (h : ringForm s c = some (p, op, d, b)) : ∃ form k, exec c s = .next (withRead s p op d form k) ∧
      ∀ rings trace out seq, form (s.afterRead rings trace out seq) = b := by
  cases c
  case reservedOpcode p' op' d' =>
    obtain ⟨hop, heq⟩ := Option.ite_none_right_eq_some.1 h
    cases heq
    exact ⟨_, _, congrArg Host.Outcome.next (if_pos hop), fun _ _ _ _ => rfl⟩
  all_goals cases h
  all_goals exact ⟨_, _, rfl, fun _ _ _ _ => rfl⟩

theorem readsNow_iff (s : State) (p : Pair) (d : Desc) :
    readsNow s p d = true ↔ canRead s p d = true ∧ s.ward.card ≠ .departed := by
  simp [readsNow]

/-- R331: what a refused command does to the step that it counts for. -/
def refuseStep (s : State) (p : Pair) (op : BitVec 8) (d : Desc) : State :=
  if op == 1 || op == 4 || (op == 5 && !isGated d) then forceRefused s (secOf p) d else s

theorem refuseStep_only {P : State → Prop} (hc : ClosedOn P [.steps]) (s : State) (p : Pair) (op : BitVec 8) (d : Desc)
    (hs : P s) : P (refuseStep s p op d) := p_ite _ _ _ (forceRefused_only hc s _ d hs) hs

/-- R427: in a card that has departed. -/
theorem withRead_of_departed {s : State} {p : Pair} {op : BitVec 8} {d : Desc} (hread : canRead s p d = true)
    (hcard : s.ward.card = .departed) (hdrain : op ≠ 0x0D) (hquery : op ≠ 0x0E) (form : State → Bool)
    (k : State → Cmd → State) : ∃ carry, withRead s p op d form k =
      completeRead (refuseStep (readDesc (begin s) p op d) p op d) (secOf p) (readCmd s p op d carry 0) stDrained 0 0 := by
  have hward : (readDesc (begin s) p op d).ward.card = .departed := by
    obtain ⟨rings, trace, out, seq, _, heq⟩ := readDesc_begin_eq s p op d
    rw [heq]; exact hcard
  have hdep : ((readDesc (begin s) p op d).ward.card == .departed && op != 0x0D && op != 0x0E) = true := by
    rw [hward, bne_iff_ne.2 hdrain, bne_iff_ne.2 hquery]; rfl
  have hread' : (!canRead (begin s) p d) = false := by simp [hread]
  simp only [withRead, hread', hdep, Bool.false_eq_true, if_false, if_true]
  split
  next hcounts => exact ⟨_, by rw [refuseStep, if_pos hcounts]; rfl⟩
  next hcounts => exact ⟨none, by rw [refuseStep, if_neg hcounts]; rfl⟩

/-- R399: a descriptor out of form. -/
theorem withRead_of_not_form {s : State} {p : Pair} {op : BitVec 8} {d : Desc} (hread : readsNow s p d = true)
    {form : State → Bool} (hform : form (readDesc (begin s) p op d) = false) (k : State → Cmd → State) :
    ∃ carry, withRead s p op d form k =
      completeRead (refuseStep (readDesc (begin s) p op d) p op d) (secOf p) (readCmd s p op d carry 0) stBad 0 0 := by
  obtain ⟨hcan, hcard⟩ := (readsNow_iff s p d).1 hread
  have hward : (readDesc (begin s) p op d).ward.card ≠ .departed := by
    obtain ⟨rings, trace, out, seq, _, heq⟩ := readDesc_begin_eq s p op d
    rw [heq]; exact hcard
  have hread' : (!canRead (begin s) p d) = false := by simp [hcan]
  refine ⟨if op == 1 || op == 4 || op == 5 then openCarry (readDesc (begin s) p op d) (secOf p) d else none, ?_⟩
  simp only [withRead, hread', hform, beq_eq_false_iff_ne.2 hward, Bool.false_and, Bool.false_eq_true, if_false,
    Bool.not_false, if_true]
  rfl

/-- A descriptor in form, in a card that has not departed or for a command that such a card serves too. -/
theorem withRead_of_form {s : State} {p : Pair} {op : BitVec 8} {d : Desc} (hread : canRead s p d = true)
    (hcard : s.ward.card ≠ .departed ∨ op = 0x0D ∨ op = 0x0E) {form : State → Bool}
    (hform : form (readDesc (begin s) p op d) = true) (k : State → Cmd → State) :
    withRead s p op d form k = k (readDesc (begin s) p op d) (readCmd s p op d none 0) := by
  have hdep : ((readDesc (begin s) p op d).ward.card == .departed && op != 0x0D && op != 0x0E) = false := by
    obtain ⟨rings, trace, out, seq, _, heq⟩ := readDesc_begin_eq s p op d
    rw [heq]
    rcases hcard with hcard | rfl | rfl <;> simp [*]
  have hread' : (!canRead (begin s) p d) = false := by simp [hread]
  simp only [withRead, hread', hdep, hform, Bool.false_eq_true, if_false, Bool.not_true]
  rfl

/-- A ring command in form goes on with its own meaning on the state that the read leaves. -/
theorem exec_of_read {c : Instr} {s : State} {p : Pair} {op : BitVec 8} {d : Desc} {form : State → Bool}
    {k : State → Cmd → State} (hexec : exec c s = .next (withRead s p op d form k)) (hread : canRead s p d = true)
    (hcard : s.ward.card ≠ .departed ∨ op = 0x0D ∨ op = 0x0E)
    (hform : ∀ rings trace out seq, form (s.afterRead rings trace out seq) = true) :
    ∃ rings trace out seq, SameSetup s.trace trace ∧
      exec c s = .next (k (s.afterRead rings trace out seq) (readCmd s p op d none 0)) := by
  obtain ⟨rings, trace, out, seq, hsetup, heq⟩ := readDesc_begin_eq s p op d
  refine ⟨rings, trace, out, seq, hsetup, ?_⟩
  rw [hexec, withRead_of_form hread hcard (heq ▸ hform rings trace out seq), heq]

theorem read_frame (s : State) (p : Pair) (op : BitVec 8) (d : Desc) {L : List Piece}
    (hL : [.rings, .trace, .out, .seq] ⊆ L) : Frame L s (readDesc (begin s) p op d) :=
  readDesc_only ((closedOn_frame L s).sub hL) _ p op d (begin_frame (fun x hx => hL (by simp_all)) s)

/-- A refused command makes its record; it may enter its step. -/
theorem records_of_refused {c : Instr} {s : State} {p : Pair} {op : BitVec 8} {d : Desc} {carry : Option Nat} {st : BitVec 8}
    (hexec : exec c s = .next (completeRead (refuseStep (readDesc (begin s) p op d) p op d) (secOf p)
      (readCmd s p op d carry 0) st 0 0)) :
    Records c s (readRec s p op d st 0 0) [.rings, .cmds, .colls, .recs, .steps, .trace, .out, .seq] := by
  have hframe : Frame [.rings, .steps, .trace, .out, .seq] s (refuseStep (readDesc (begin s) p op d) p op d) :=
    refuseStep_only ((closedOn_frame _ s).sub (by decide)) _ p op d (read_frame s p op d (by decide))
  have := records_of_completeRead hexec (hframe.mono (by decide)) (hframe.2 .recs (by decide)) (hframe.2 .time (by decide))
    (L := [.rings, .cmds, .colls, .recs, .steps, .trace, .out, .seq]) (by decide) (.inr (by decide))
  rwa [shownResult_zero] at this

/-- Settles O12: a reserved opcode is of no form, so both clauses are the refusal for the form. -/
theorem descriptorsOutOfFormAreBad : Obligations.DescriptorsOutOfFormAreBad := by
  have hbad : ∀ (c : Instr) (s : State) (p : Pair) (op : BitVec 8) (d : Desc), ringForm s c = some (p, op, d, false) →
      readsNow s p d = true →
      Records c s (readRec s p op d stBad 0 0) [.rings, .cmds, .colls, .recs, .steps, .trace, .out, .seq] := by
    intro c s p op d hform hread
    obtain ⟨form, k, hexec, hform⟩ := exec_eq_withRead_form hform
    obtain ⟨rings, trace, out, seq, _, heq⟩ := readDesc_begin_eq s p op d
    obtain ⟨carry, hwith⟩ := withRead_of_not_form hread (heq ▸ hform rings trace out seq) k
    exact records_of_refused (hexec.trans (congrArg Host.Outcome.next hwith))
  refine ⟨hbad, fun s p op d hop hread => hbad _ s p op d (if_pos ?_) hread⟩
  rcases hop with rfl | hop
  · rfl
  · simp [hop]

/-- Settles O13. -/
theorem departedCardAnswersDrained : Obligations.DepartedCardAnswersDrained := by
  intro c s p op d b hform hread hcard hdrain hquery
  obtain ⟨form, k, hexec⟩ := exec_eq_withRead hform
  obtain ⟨carry, hwith⟩ := withRead_of_departed hread hcard hdrain hquery form k
  exact records_of_refused (hexec.trans (congrArg Host.Outcome.next hwith))

end Sys2Proof.Machine
end

section
/-!
PROOFS. The ring commands that need no schedule: NOP (R329, R331, R332), QUERY (R409), SEED (R405), TIME_MARK (R406) and
FENCE (R382, R453).
-/
namespace Sys2Proof.Machine

/-! ### What the read and the completion of a command leave -/

theorem frame_of_read (s : State) (rings : Sparse Ring) (trace : Four Trace) (out : List Out) (seq : Nat) :
    Frame [.rings, .trace, .out, .seq] s (s.afterRead rings trace out seq) :=
  have hc := closedOn_frame [.rings, .trace, .out, .seq] s
  upd_seq hc (by decide) seq (upd_out hc (by decide) out (upd_trace hc (by decide) trace (upd_rings hc (by decide) rings
    (Frame.refl _ s))))

theorem countStep_steps_congr {s u : State} (h : u.steps = s.steps) (t : Sec) (c : Cmd) (st : BitVec 8) :
    (countStep u t c st).steps = (countStep s t c st).steps := by
  unfold countStep
  cases c.carry with
  | none => exact h
  | some k => simp [modPend, h]

theorem completeOne_steps {s : State} {t : Sec} {c : Cmd} (hstop : c.stop ≠ some .lost)
    (hnet : ∀ e w f, c.job ≠ .netDrain e w f) (st dt : BitVec 8) (res : BitVec 128) :
    (completeOne s t c st dt res).steps = (countStep s t c st).steps := by
  have hlost : (c.stop == some .lost) = false := by simpa using hstop
  unfold completeOne
  cases hjob : c.job
  case netDrain e w f => exact absurd hjob (hnet e w f)
  all_goals
    simp only [hlost, Bool.false_eq_true, if_false, traceRec_steps]
    exact countStep_steps_congr (by simp) t c st

theorem completeRead_readCmd_steps (s v : State) (t : Sec) (p : Pair) (op : BitVec 8) (d : Desc) (carry : Option Nat)
    (draw : Nat) (bytes : List (Nat × Nat)) (st dt : BitVec 8) (res : BitVec 128) :
    (completeRead v t (readCmd s p op d carry draw bytes) st dt res).steps =
      (countStep v t (readCmd s p op d carry draw bytes) st).steps := by
  rw [completeRead, complete_readCmd, completeOne_steps (readCmd_stop s p op d carry draw bytes)
    (readCmd_job s p op d carry draw bytes), countStep_steps_congr (s := v) (by simp)]

/-- A command that completes as it is read has an effect on its step that its completion leaves. -/
theorem effects_of_completeRead {c : Instr} {s v : State} {p : Pair} {op : BitVec 8} {d : Desc} {carry : Option Nat}
    {draw : Nat} {bytes : List (Nat × Nat)} {st dt : BitVec 8} {res : BitVec 128} {L : List Piece} {Q : State → Prop}
    (hexec : exec c s = .next (completeRead v (secOf p) (readCmd s p op d carry draw bytes) st dt res))
    (hframe : Frame L s v) (hL : [.rings, .cmds, .recs, .colls, .trace] ⊆ L) (hcarry : carry = none ∨ Piece.steps ∈ L)
    (hQ : Q (completeRead v (secOf p) (readCmd s p op d carry draw bytes) st dt res)) : Effects c s L Q :=
  ⟨_, hexec, hQ, complete_readCmd_frame
    (setCmds_only ((closedOn_frame L s).sub fun x hx => hL (by simp_all)) v (secOf p) _ hframe) hL hcarry ..⟩

/-! ### QUERY -/

theorem queryResult_step {s : State} {t : Sec} {d : Desc} (h : ff d 8 1 = 1) : queryResult s t d =
    resultOf [(0, 8, nextStepOf (getSteps s t)), (8, 1, (getSteps s t).pend.length), (9, 1, (getSect s t).role.toNat)] := by
  simp [queryResult, h]

theorem queryResult_page {s : State} {t : Sec} {d : Desc} (h : ff d 8 1 = 2) : queryResult s t d =
    resultOf [(0, 8, (getPage s (pageNo (ff d 0x10 8))).frame.getD 0),
      (8, 1, b2n (getPage s (pageNo (ff d 0x10 8))).bound + 2 * b2n (getPage s (pageNo (ff d 0x10 8))).pinned)] := by
  simp [queryResult, h]

theorem queryResult_load {s : State} {t : Sec} {d : Desc} (h : ff d 8 1 = 3) : queryResult s t d =
    resultOf [(0, 2, ((getCmds s t).filter isRunOp).length), (2, 2, ((getCmds s t).filter isGroveOp).length),
      (4, 1, b2n (s.images.get t).isSome)] := by
  simp [queryResult, h]

/-- Settles O16: the read of a descriptor changes nothing that a QUERY asks for. -/
theorem queriesAnswerTheSectionsState : Obligations.QueriesAnswerTheSectionsState := by
  intro s p d c hc hform hread
  have hexec : exec c s = .next (query p d s) := by
    simp only [List.mem_cons, List.not_mem_nil, or_false] at hc
    rcases hc with rfl | rfl | rfl <;> rfl
  have hquery : queryForm s (secOf p) d = true := by
    simp only [List.mem_cons, List.not_mem_nil, or_false] at hc
    rcases hc with rfl | rfl | rfl <;> simpa [ringForm] using hform
  obtain ⟨rings, trace, out, seq, _, hexec⟩ := exec_of_read hexec hread (.inr (.inr rfl)) (fun _ _ _ _ => hquery)
  have hrec : Records c s (readRec s p 0x0E d stOk 0 (queryResult s (secOf p) d))
      [.rings, .cmds, .recs, .colls, .trace, .out, .seq] :=
    records_of_completeRead hexec ((frame_of_read s rings trace out seq).mono (by decide)) rfl rfl (by decide) (.inl rfl)
  exact ⟨fun h => queryResult_step h ▸ hrec, fun h => queryResult_page h ▸ hrec, fun h => queryResult_load h ▸ hrec⟩

/-! ### SEED -/

/-- R405, R347: the steps of a section after a SEED. -/
def seeded (s : State) (t : Sec) (d : Desc) (x : Steps) : Steps :=
  if isTrain s t then
    { x with seed := w64 (ff d 8 8), seeded := true, next := some (ff d 0x10 8), last := none, outcomes := [] }
  else { x with seed := w64 (ff d 8 8), seeded := true }

/-- R405: a SEED is taken with no open step, no admitted RUN or GROVE command and an image loaded. -/
def mayNotSeed (s : State) (t : Sec) : Bool := stepOpen (getSteps s t) || busyWork s t || (s.images.get t).isNone

theorem exec_seed {s : State} {p : Pair} {d : Desc} (h : Reads (.seed p d) s p 0x0A d) : ∃ rings trace out seq,
    SameSetup s.trace trace ∧ exec (.seed p d) s = .next (
      if mayNotSeed s (secOf p) then
        completeRead (s.afterRead rings trace out seq) (secOf p) (readCmd s p 0x0A d none 0) stAborted 0 0
      else completeRead (modSteps (s.afterRead rings trace out seq) (secOf p) (seeded s (secOf p) d)) (secOf p)
        (readCmd s p 0x0A d none 0) stOk 0 0) := by
  obtain ⟨hform, hread⟩ := h
  obtain ⟨hcan, hcard⟩ := (readsNow_iff s p d).1 hread
  have hfields : (headerOk d 0 && noStep d && onlyFields d [(8, 8), (0x10, 8)]) = true := by simpa [ringForm] using hform
  exact exec_of_read (c := .seed p d) rfl hcan (.inl hcard) (fun _ _ _ _ => hfields)

/-- Settles O17. -/
theorem seedStartsAStepSequence : Obligations.SeedStartsAStepSequence := by
  intro s p d h
  obtain ⟨rings, trace, out, seq, _, hexec⟩ := exec_seed h
  have hframe := frame_of_read s rings trace out seq
  refine ⟨fun hopen hbusy himage => ?_, fun hnot => ?_⟩
  · have hmay : mayNotSeed s (secOf p) = false := by
      simp [mayNotSeed, hopen, hbusy, Option.isNone_eq_false_iff.2 himage]
    have hframe : Frame [.rings, .cmds, .recs, .steps, .colls, .trace, .out, .seq] s
        (modSteps (s.afterRead rings trace out seq) (secOf p) (seeded s (secOf p) d)) :=
      modSteps_only ((closedOn_frame _ s).sub (by decide)) _ _ _ (hframe.mono (by decide))
    simp only [hmay, Bool.false_eq_true, if_false] at hexec
    refine ⟨records_of_completeRead hexec hframe rfl rfl (by decide) (.inl rfl),
      effects_of_completeRead hexec hframe (by decide) (.inl rfl) ?_⟩
    have hsteps := completeRead_readCmd_steps s (modSteps (s.afterRead rings trace out seq) (secOf p) (seeded s (secOf p) d))
      (secOf p) p 0x0A d none 0 [] stOk 0 0
    rw [getSteps, hsteps]
    exact getSteps_modSteps _ _ _ _ |>.trans (if_pos rfl)
  · have hmay : mayNotSeed s (secOf p) = true := by
      rcases hnot with h | h | h <;> simp [mayNotSeed, h]
    simp only [hmay, if_true] at hexec
    exact records_of_completeRead hexec (hframe.mono (by decide)) rfl rfl (by decide) (.inl rfl)

/-! ### NOP and its step (R327-R332) -/

theorem exec_nop {s : State} {p : Pair} {d : Desc} (h : Reads (.nop p d) s p 1 d) : ∃ rings trace out seq,
    SameSetup s.trace trace ∧ exec (.nop p d) s = .next (withStep (s.afterRead rings trace out seq) (secOf p) d (readCmd s p 1 d none 0)
      (fun s c => completeRead s (secOf p) c stOk 0 0)) := by
  obtain ⟨hform, hread⟩ := h
  obtain ⟨hcan, hcard⟩ := (readsNow_iff s p d).1 hread
  have hfields : (headerOk d 0 && d.fields == 0 && stepForm s (secOf p) d) = true := by simpa [ringForm] using hform
  exact exec_of_read (c := .nop p d) rfl hcan (.inl hcard) (fun _ _ _ _ => hfields)

/-- R331: the effect of an accepted counting command on an open step. -/
def Pend.joined (q : Pend) (d : Desc) : Pend :=
  { q with forced := q.forced || stForce d, word := if stVote d then some (stWord d) else q.word }

/-- A step changed in a section's list, where it is open. -/
def onOpen (k : Nat) (f : Pend → Pend) (q : Pend) : Pend := if q.step == k && !q.closed then f q else q

theorem getSteps_modPend (s : State) (t : Sec) (k : Nat) (f : Pend → Pend) :
    getSteps (modPend s t k f) t = { getSteps s t with pend := (getSteps s t).pend.map (onOpen k f) } := by
  simp [modPend, onOpen]

/-- The completion OK of a command with no flags leaves its step as it is. -/
theorem countStep_ok (v s : State) (t : Sec) (p : Pair) (op : BitVec 8) (d : Desc) (carry : Option Nat) (draw : Nat) :
    getSteps (countStep v t (readCmd s p op d carry draw) stOk) t = getSteps v t := by
  have hid (k : Nat) : onOpen k (fun q => { q with
      flags := q.flags || nvOf (readCmd s p op d carry draw).copies, incomplete := q.incomplete || stOk != stOk }) = id := by
    funext q
    simp [onOpen, readCmd, cmdOf, nvOf]
  unfold countStep
  cases carry with
  | none => rfl
  | some k =>
    show getSteps (modPend v t k _) t = _
    rw [getSteps_modPend, hid, List.map_id]

theorem getSteps_nop_end (s v : State) (p : Pair) (d : Desc) (carry : Option Nat) (draw : Nat) :
    getSteps (completeRead v (secOf p) (readCmd s p 1 d carry draw) stOk 0 0) (secOf p) = getSteps v (secOf p) := by
  rw [getSteps, completeRead_readCmd_steps]
  exact countStep_ok v s (secOf p) p 1 d carry draw

theorem getSteps_joinStep (s : State) (t : Sec) (d : Desc) : getSteps (joinStep s t d) t =
    { getSteps s t with pend := (getSteps s t).pend.map (onOpen (stIndex d) (·.joined d)) } :=
  getSteps_modPend ..

theorem forceRefused_recs (s : State) (t : Sec) (d : Desc) : (forceRefused s t d).recs = s.recs := by
  unfold forceRefused; split <;> rfl
theorem forceRefused_time (s : State) (t : Sec) (d : Desc) : (forceRefused s t d).time = s.time := by
  unfold forceRefused; split <;> rfl

theorem stepVerdict_read {s : State} {trace : Four Trace} (h : SameSetup s.trace trace) (rings : Sparse Ring)
    (out : List Out) (seq : Nat) (t : Sec) (d : Desc) :
    stepVerdict (s.afterRead rings trace out seq) t d = stepVerdict s t d := by
  simp only [stepVerdict, wordOk, reach_read h]
  rfl

/-- Settles O15: the verdict of R329 says which of the step's cases it is. -/
theorem nopAnswersOk : Obligations.NopAnswersOk := by
  intro s p d h
  obtain ⟨rings, trace, out, seq, hsetup, hexec⟩ := exec_nop h
  have hframe := frame_of_read s rings trace out seq
  refine ⟨fun hno => ?_, fun hcarry htrain => ?_⟩
  · cases hcarry : stCarry d with
    | false =>
      simp only [withStep, hcarry, Bool.not_false, if_true] at hexec
      exact records_of_completeRead hexec (hframe.mono (by decide)) rfl rfl (by decide) (.inl rfl)
    | true =>
      have htrain : isTrain s (secOf p) = false := by simpa [hcarry] using hno
      have htrain' : isTrain (s.afterRead rings trace out seq) (secOf p) = false := htrain
      simp only [withStep, hcarry, htrain', Bool.not_true, Bool.not_false, Bool.false_eq_true, if_false, if_true] at hexec
      exact records_of_completeRead (op := 1) (draw := stIndex d) hexec (hframe.mono (by decide)) rfl rfl (by decide) (.inl rfl)
  · have htrain' : isTrain (s.afterRead rings trace out seq) (secOf p) = true := htrain
    have hverdict : stepVerdict (s.afterRead rings trace out seq) (secOf p) d = stepVerdict s (secOf p) d :=
      stepVerdict_read hsetup ..
    have hframe : Frame [.rings, .cmds, .recs, .steps, .colls, .trace, .out, .seq] s (s.afterRead rings trace out seq) :=
      hframe.mono (by decide)
    have hc := closedOn_frame [.rings, .cmds, .recs, .steps, .colls, .trace, .out, .seq] s
    simp only [withStep, hcarry, htrain', hverdict, Bool.not_true, Bool.false_eq_true, if_false] at hexec
    cases hv : stepVerdict s (secOf p) d with
    | bad =>
      simp only [hv] at hexec ⊢
      have hforce := forceRefused_only (hc.sub (by decide)) _ (secOf p) d hframe
      exact records_of_completeRead (op := 1) (draw := 0) hexec hforce (forceRefused_recs ..) (forceRefused_time ..)
        (by decide) (.inr (by decide))
    | late opens =>
      simp only [hv] at hexec ⊢
      have hopen := p_ite (opens = true) _ _ (openStep_only (hc.sub (by decide)) _ (secOf p) d true hframe) hframe
      exact records_of_completeRead hexec hopen (by split <;> rfl) (by split <;> rfl) (by decide) (.inl rfl)
    | joins =>
      simp only [hv] at hexec ⊢
      have hjoin := joinStep_only (hc.sub (by decide)) _ (secOf p) d hframe
      refine ⟨records_of_completeRead (op := 1) (draw := stIndex d) hexec hjoin rfl rfl (by decide) (.inr (by decide)),
        effects_of_completeRead (op := 1) (draw := stIndex d) hexec hjoin (by decide) (.inr (by decide)) ?_⟩
      rw [getSteps_nop_end, getSteps_joinStep]
      refine ⟨rfl, fun q hq hstep hopen => ⟨q.joined d, List.mem_map.2 ⟨q, hq, ?_⟩, hstep, rfl, rfl, rfl⟩⟩
      simp [onOpen, hstep, hopen]
    | opens =>
      simp only [hv] at hexec ⊢
      have hopen := joinStep_only (hc.sub (by decide)) _ (secOf p) d
        (openStep_only (hc.sub (by decide)) _ (secOf p) d false hframe)
      refine ⟨records_of_completeRead (op := 1) (draw := stIndex d) hexec hopen rfl rfl (by decide) (.inr (by decide)),
        effects_of_completeRead (op := 1) (draw := stIndex d) hexec hopen (by decide) (.inr (by decide)) ?_⟩
      rw [getSteps_nop_end, getSteps_joinStep, openStep, getSteps_modSteps, if_pos rfl]
      refine ⟨rfl, _, List.mem_map.2 ⟨_, List.mem_append_right _ (List.mem_singleton_self _), rfl⟩, ?_⟩
      simp [onOpen, newPend, Pend.joined, getSteps]
      rfl

/-! ### TIME_MARK (R406) -/

/-- R406: the RESULT of a TIME_MARK. -/
def markResult (s : State) : BitVec 128 :=
  resultOf [(0, 8, s.time.ns.toNat), (8, 4, s.time.frac.toNat), (0xC, 1, lockCode s.time.lock)]

theorem finishMark_eq (s : State) (t : Sec) (c : Cmd) : finishMark s t c =
    complete (traceRec s t 5 0 0 (w64 c.id.toNat) (w64 (frameNow s))) t c stOk 0 (markResult s) := by
  simp only [finishMark, traceRec_time, markResult]

/-- R406: AT_FRAME is 0, or its tick has passed. -/
def markNow (s : State) (d : Desc) : Bool := ff d 8 8 == 0 || (s.time.frame.isSome && decide (ff d 8 8 ≤ frameOf s))

theorem markNow_iff (s : State) (d : Desc) :
    markNow s d = true ↔ ff d 8 8 = 0 ∨ (s.time.frame.isSome = true ∧ ff d 8 8 ≤ frameOf s) := by
  simp [markNow]

theorem exec_timeMark {s : State} {p : Pair} {d : Desc} (h : Reads (.timeMark p d) s p 0x0B d) : ∃ rings trace out seq,
    exec (.timeMark p d) s = .next (
      let v := s.afterRead rings trace out seq
      let c := readCmd s p 0x0B d none 0
      if markNow s d then
        if timeGood s then finishMark (takeIn v (secOf p) c) (secOf p) c else completeRead v (secOf p) c stAborted 0 0
      else takeIn v (secOf p) { c with job := .timeMark (ff d 8 8) }) := by
  obtain ⟨hform, hread⟩ := h
  obtain ⟨hcan, hcard⟩ := (readsNow_iff s p d).1 hread
  have hfields : (headerOk d 0 && noStep d && onlyFields d [(8, 8)]) = true := by simpa [ringForm] using hform
  obtain ⟨rings, trace, out, seq, _, hexec⟩ :=
    exec_of_read (c := .timeMark p d) rfl hcan (.inl hcard) (fun _ _ _ _ => hfields)
  exact ⟨rings, trace, out, seq, hexec⟩

theorem getCmds_takeIn (s : State) (t : Sec) (c : Cmd) : getCmds (takeIn s t c) t = getCmds s t ++ [c] := by
  simp [takeIn]

/-- A command that is taken in is in flight. -/
theorem inFlight_takeIn (s : State) (t : Sec) (c : Cmd) : InFlight (takeIn s t c) t c.ord c.job :=
  ⟨c, by simp [getCmds_takeIn], rfl, rfl⟩

/-- R406: a waiting TIME_MARK whose tick has passed. -/
def markDue (s : State) (c : Cmd) : Bool :=
  match c.job with
  | .timeMark f => s.time.frame.isSome && decide (f ≤ frameOf s)
  | _ => false

theorem isTimeMark_of_markDue {s : State} {c : Cmd} (h : markDue s c = true) : ∃ f, c.job = .timeMark f := by
  cases hjob : c.job <;> simp [markDue, hjob] at h
  exact ⟨_, rfl⟩

theorem exec_timeMarkAtFrame (s : State) (t : Sec) : exec (.timeMarkAtFrame t) s =
    .next (match (getCmds s t).find? (markDue s) with
      | some c => if timeGood s then finishMark (begin s) t c else complete (begin s) t c stAborted 0 0
      | none => begin s) := rfl

/-- Settles O18. -/
theorem timeMarksAnswerSystemTime : Obligations.TimeMarksAnswerSystemTime := by
  refine ⟨fun s p d h => ?_, fun s t c hfind hstop => ?_⟩
  · obtain ⟨rings, trace, out, seq, hexec⟩ := exec_timeMark h
    have hframe : Frame [.rings, .cmds, .recs, .colls, .trace, .out, .seq] s (s.afterRead rings trace out seq) :=
      (frame_of_read s rings trace out seq).mono (by decide)
    refine ⟨fun hnow => ⟨fun hgood => ?_, fun hbad => ?_⟩, fun hne hlater => ?_⟩
    · simp only [(markNow_iff s d).2 hnow, hgood, if_true, finishMark_eq] at hexec
      refine records_of_complete hexec ?_ (by simp [takeIn]) (by simp [takeIn]) (by decide) (.inl rfl)
      have hc := closedOn_frame [.rings, .cmds, .recs, .colls, .trace, .out, .seq] s
      exact traceRec_only (hc.sub (by decide)) _ _ _ _ _ _ _ (takeIn_only (hc.sub (by decide)) _ _ _ hframe)
    · simp only [(markNow_iff s d).2 hnow, hbad, if_true, Bool.false_eq_true, if_false] at hexec
      exact records_of_completeRead hexec hframe rfl rfl (by decide) (.inl rfl)
    · have hnow : markNow s d = false := by
        rw [Bool.eq_false_iff, Ne, markNow_iff]
        rintro (hz | ⟨hsome, hle⟩)
        · exact hne hz
        · rcases hlater with hnone | hlt
          · simp [hnone] at hsome
          · omega
      simp only [hnow, Bool.false_eq_true, if_false] at hexec
      exact ⟨_, hexec, inFlight_takeIn .., takeIn_only ((closedOn_frame _ s).sub (by decide)) _ _ _
        ((frame_of_read s rings trace out seq).mono (by decide))⟩
  · have hfind : (getCmds s t).find? (markDue s) = some c := hfind
    obtain ⟨f, hjob⟩ := isTimeMark_of_markDue (List.find?_some hfind)
    have hrun : isRunOp c = false := by simp [isRunOp, hjob]
    have hgrove : isGroveOp c = false := by simp [isGroveOp, hjob]
    have hnet : ∀ e w f, c.job ≠ .netDrain e w f := by simp [hjob]
    have hexec := exec_timeMarkAtFrame s t
    simp only [hfind] at hexec
    refine ⟨_, hexec, ?_, frame_of_exec hexec⟩
    split
    · rw [finishMark_eq, complete_eq_completeOne hrun hgrove, completeOne_recs hstop hnet,
        recordOf_congr (s := s) (by simp)]
      simp [markResult]
    · rw [complete_eq_completeOne hrun hgrove, completeOne_recs hstop hnet]
      simp

/-! ### FENCE (R382, R453) -/

theorem exec_fence {s : State} {p : Pair} {d : Desc} (h : Reads (.fence p d) s p 2 d) : ∃ rings trace out seq,
    exec (.fence p d) s = .next (
      let v := s.afterRead rings trace out seq
      let c := readCmd s p 2 d none 0
      let x := getTrace s (secOf p)
      hold (modTrace (takeIn v (secOf p) { c with job := .fence s.hif.inNum x.wSum x.wCount }) (secOf p)
        (fun x => { x with wSum := 0, wCount := 0 })) p s.seq) := by
  obtain ⟨hform, hread⟩ := h
  obtain ⟨hcan, hcard⟩ := (readsNow_iff s p d).1 hread
  have hfields : (headerOk d 0 && noStep d && d.fields == 0) = true := by simpa [ringForm] using hform
  obtain ⟨rings, trace, out, seq, hsetup, hexec⟩ :=
    exec_of_read (c := .fence p d) rfl hcan (.inl hcard) (fun _ _ _ _ => hfields)
  obtain ⟨_, _, _, _, hsum, hcount⟩ := hsetup (secOf p)
  refine ⟨rings, trace, out, seq, hexec.trans ?_⟩
  simp only [getTrace, hsum, hcount]
  rfl

theorem getRing_hold (s : State) (p : Pair) (ord : Nat) : (getRing (hold s p ord) p).held = some ord := by
  simp [hold]

/-- R382: the FENCE of a pair, once every write of its set is in device memory. -/
def fenceDue (s : State) (p : Pair) (c : Cmd) : Bool :=
  c.pair == p && (match c.job with | .fence n _ _ => fenceMet s n | _ => false)

theorem isFence_of_fenceDue {s : State} {p : Pair} {c : Cmd} (h : fenceDue s p c = true) :
    c.pair = p ∧ ∃ n sum count, c.job = .fence n sum count := by
  obtain ⟨hpair, h⟩ := Bool.and_eq_true_iff.1 h
  refine ⟨beq_iff_eq.1 hpair, ?_⟩
  cases hjob : c.job <;> simp [hjob] at h
  exact ⟨_, _, _, rfl⟩

theorem exec_fenceCompletion (s : State) (p : Pair) : exec (.fenceCompletion p) s =
    .next (match (getCmds s (secOf p)).find? (fenceDue s p) with
      | some c => complete (begin s) (secOf p) c stOk 0 0
      | none => begin s) := rfl

/-- R396: the pair of a completed command is no longer held by it. -/
theorem held_completeOne {s : State} {t : Sec} {c : Cmd} (hstop : c.stop ≠ some .lost)
    (hnet : ∀ e w f, c.job ≠ .netDrain e w f) (st dt : BitVec 8) (res : BitVec 128) (h : (getRing s c.pair).held = some c.ord) :
    (getRing (completeOne s t c st dt res) c.pair).held = none := by
  have hring := getRing_modRing s c.pair c.pair (fun r => if r.held == some c.ord then { r with held := none } else r)
  rw [getRing, ← completeOne_rings (t := t) hstop hnet st dt res] at hring
  rw [getRing, hring]
  simp [h]

/-- Settles O20. -/
theorem fenceWaitsForWindowWrites : Obligations.FenceWaitsForWindowWrites := by
  refine ⟨fun s p d h => ?_, fun s p c hfind hstop => ?_⟩
  · obtain ⟨rings, trace, out, seq, hexec⟩ := exec_fence h
    have hc := closedOn_frame [.rings, .cmds, .colls, .trace, .out, .seq] s
    refine ⟨_, hexec, ⟨?_, getRing_hold .., ?_, ?_⟩, hold_only (hc.sub (by decide)) _ _ _ <|
      modTrace_only (hc.sub (by decide)) _ _ _ <| takeIn_only (hc.sub (by decide)) _ _ _ <|
      (frame_of_read s rings trace out seq).mono (by decide)⟩
    · exact inFlight_takeIn _ (secOf p) { readCmd s p 2 d none 0 with job := .fence s.hif.inNum _ _ }
    · simp [hold, getTrace]
    · simp [hold, getTrace]
  · have hfind : (getCmds s (secOf p)).find? (fenceDue s p) = some c := hfind
    obtain ⟨rfl, n, sum, count, hjob⟩ := isFence_of_fenceDue (List.find?_some hfind)
    have hrun : isRunOp c = false := by simp [isRunOp, hjob]
    have hgrove : isGroveOp c = false := by simp [isGroveOp, hjob]
    have hnet : ∀ e w f, c.job ≠ .netDrain e w f := by simp [hjob]
    have hexec := exec_fenceCompletion s c.pair
    simp only [hfind] at hexec
    refine ⟨_, hexec, ?_, frame_of_exec hexec⟩
    rw [complete_eq_completeOne hrun hgrove]
    refine ⟨?_, fun hheld => held_completeOne hstop hnet stOk 0 0 hheld⟩
    rw [completeOne_recs hstop hnet, insertRec_of_not_tick (by simp [recordOf, onTick, hjob])]
    simp

end Sys2Proof.Machine
end

section
/-!
PROOFS. Bytes written to device memory: what the decode of a granule counts, single bytes written where they lie now (R190,
R193, R204), and INLINE_WRITE (R403).
-/
namespace Sys2Proof.Machine

/-! ### Decodes count, and write nothing (R190, R194) -/

/-- Of the tiers, at most the counters of corrected errors differ. -/
def Counted (s u : State) : Prop := ∃ ce, u.tiers = { s.tiers with ce }

theorem Counted.refl (s : State) : Counted s s := ⟨s.tiers.ce, rfl⟩

theorem Counted.trans {s u v : State} (h : Counted s u) (k : Counted u v) : Counted s v := by
  obtain ⟨ce, hu⟩ := h
  obtain ⟨ce', hv⟩ := k
  exact ⟨ce', by rw [hv, hu]⟩

theorem counted_of_tiers {s u : State} (h : u.tiers = s.tiers) : Counted s u := ⟨s.tiers.ce, h⟩

theorem Counted.mem {s u : State} (h : Counted s u) : u.tiers.mem = s.tiers.mem := by obtain ⟨_, h⟩ := h; rw [h]
theorem Counted.poison {s u : State} (h : Counted s u) : u.tiers.poison = s.tiers.poison := by obtain ⟨_, h⟩ := h; rw [h]

theorem Counted.place {s u : State} (h : Counted s u) (a : Nat) : place u a = place s a := by
  obtain ⟨_, h⟩ := h
  simp only [Machine.place, getPage, h]

@[simp] theorem logClass_tiers (s : State) (cls sect kind index : Nat) (x : W64) :
    (logClass s cls sect kind index x).tiers = s.tiers :=
  (logClass_only (closedOn_frame [.ward, .out] s) s cls sect kind index x (Frame.refl _ s)).2 .tiers (by decide)

theorem noteCorrected_counted (s : State) (p : Nat) : Counted s (noteCorrected s p) := by
  unfold noteCorrected
  split
  · exact .refl s
  next n _ => exact (show Counted s (addCe s (tierIndex p) (n + 1)) from ⟨_, rfl⟩).trans (counted_of_tiers (by simp))

theorem foldl_counted {α : Type} {f : State → α → State} (hf : ∀ u x, Counted u (f u x)) (l : List α) (s : State) :
    Counted s (l.foldl f s) :=
  p_foldl (P := Counted s) f l (.refl s) fun u x hu => hu.trans (hf u x)

theorem noteDecodes_counted (s : State) (a n : Nat) : Counted s (noteDecodes s a n) := by
  unfold noteDecodes
  split
  · exact .refl s
  · exact foldl_counted (fun u i => noteCorrected_counted u _) _ s

theorem notePartWrite_counted (s : State) (a n : Nat) : Counted s (notePartWrite s a n) := by
  unfold notePartWrite
  have h1 : Counted s (if a % 256 == 0 && 256 ≤ n then s else noteDecodes s a (min n 1)) := by
    split
    · exact .refl s
    · exact noteDecodes_counted s _ _
  simp only
  split
  · exact h1
  · exact h1.trans (noteDecodes_counted _ _ _)

/-! ### Bytes written at physical places (R193) -/

/-- A single byte is retained unless its granule is poisoned. -/
theorem wrGranule_byte_mem (s : State) (p b x : Nat) : rd8 (wrGranule s p [b]).tiers.mem x =
    if sget false s.tiers.poison (p / 256) = false ∧ x = p then b % 256 else rd8 s.tiers.mem x := by
  unfold wrGranule
  cases hp : sget false s.tiers.poison (p / 256)
  · simp [setMem, setPoison, wrBytes]
  · simp

theorem wrGranule_byte_poison (s : State) (p b g : Nat) :
    sget false (wrGranule s p [b]).tiers.poison g = sget false s.tiers.poison g := by
  unfold wrGranule
  cases hp : sget false s.tiers.poison (p / 256)
  · simp only [Bool.false_and, Bool.false_eq_true, if_false, setMem, setPoison, sget_sset]
    split
    next h => exact h ▸ hp.symm
    · rfl
  · simp

/-- Writes that leave every byte but those at their own places, that make a byte of a sound granule read what they bring where
they agree on it, and that poison nothing. -/
structure Writes (ws : List (Nat × Nat)) (s u : State) : Prop where
  frame : ∀ x, (∀ w ∈ ws, w.1 ≠ x) → rd8 u.tiers.mem x = rd8 s.tiers.mem x
  stored : ∀ x b, sget false s.tiers.poison (x / 256) = false → (∃ w ∈ ws, w.1 = x) → (∀ w ∈ ws, w.1 = x → w.2 % 256 = b) →
    rd8 u.tiers.mem x = b
  sound : ∀ g, sget false s.tiers.poison g = false → sget false u.tiers.poison g = false

theorem Writes.nil {s u : State} (hmem : u.tiers.mem = s.tiers.mem)
    (hsound : ∀ g, sget false s.tiers.poison g = false → sget false u.tiers.poison g = false) : Writes [] s u :=
  ⟨fun _ _ => by rw [hmem], fun _ _ _ h => by simp at h, hsound⟩

theorem Writes.append {ws vs : List (Nat × Nat)} {s u v : State} (h : Writes ws s u) (k : Writes vs u v) :
    Writes (ws ++ vs) s v where
  frame x hx := by
    rw [k.frame x fun w hw => hx w (List.mem_append_right _ hw), h.frame x fun w hw => hx w (List.mem_append_left _ hw)]
  sound g hg := k.sound g (h.sound g hg)
  stored x b hp hex hall := by
    by_cases hv : ∃ w ∈ vs, w.1 = x
    · exact k.stored x b (h.sound _ hp) hv fun w hw => hall w (List.mem_append_right _ hw)
    · rw [k.frame x fun w hw he => hv ⟨w, hw, he⟩]
      refine h.stored x b hp ?_ fun w hw => hall w (List.mem_append_left _ hw)
      obtain ⟨w, hw, he⟩ := hex
      exact ⟨w, (List.mem_append.1 hw).resolve_right fun hw => hv ⟨w, hw, he⟩, he⟩

theorem Writes.congr {ws vs : List (Nat × Nat)} {s u : State} (h : Writes ws s u) (hmem : ∀ w, w ∈ ws ↔ w ∈ vs) :
    Writes vs s u where
  frame x hx := h.frame x fun w hw => hx w ((hmem w).1 hw)
  sound := h.sound
  stored x b hp hex hall := h.stored x b hp (hex.imp fun w hw => ⟨(hmem w).2 hw.1, hw.2⟩) fun w hw => hall w ((hmem w).1 hw)

theorem wrGranule_writes (s : State) (w : Nat × Nat) : Writes [w] s (wrGranule s w.1 [w.2]) where
  frame x hx := by
    rw [wrGranule_byte_mem, if_neg fun h => hx w (by simp) h.2.symm]
  sound g hg := by rw [wrGranule_byte_poison]; exact hg
  stored x b hp hex hall := by
    obtain ⟨v, hv, rfl⟩ := hex
    obtain rfl := List.mem_singleton.1 hv
    rw [wrGranule_byte_mem, if_pos ⟨hp, rfl⟩, hall v hv rfl]

theorem foldl_wrGranule_writes (ws : List (Nat × Nat)) (s : State) :
    Writes ws s (ws.foldl (fun s w => wrGranule s w.1 [w.2]) s) := by
  induction ws generalizing s with
  | nil => exact .nil rfl fun _ h => h
  | cons w ws ih => exact (wrGranule_writes s w).append (ih _)

/-- One granule of `wrPlaces`: a write of all its bytes first removes its poison. -/
theorem wrOneGranule_writes (s : State) (g : Nat) (here : List (Nat × Nat)) :
    Writes here s (here.foldl (fun s w => wrGranule s w.1 [w.2]) (if here.length == 256 then setPoison s g false else s)) := by
  have h1 : Writes [] s (if here.length == 256 then setPoison s g false else s) := by
    split
    · refine .nil rfl fun k hk => ?_
      simp only [setPoison, sget_sset]
      split <;> simp [hk]
    · exact .nil rfl fun _ h => h
  exact h1.append (foldl_wrGranule_writes here _)

theorem mem_flatMap_granules (ws : List (Nat × Nat)) (w : Nat × Nat) :
    w ∈ ((ws.map (fun w => w.1 / 256)).eraseDups).flatMap (fun g => ws.filter (fun w => w.1 / 256 == g)) ↔ w ∈ ws := by
  simp only [List.mem_flatMap, List.mem_eraseDups, List.mem_map, List.mem_filter, beq_iff_eq]
  constructor
  · rintro ⟨g, _, hw, _⟩; exact hw
  · exact fun hw => ⟨_, ⟨w, hw, rfl⟩, hw, rfl⟩

theorem wrPlaces_writes (s : State) (ws : List (Nat × Nat)) : Writes ws s (wrPlaces s ws false) := by
  have hall (gs : List Nat) (s : State) : Writes (gs.flatMap (fun g => ws.filter (fun w => w.1 / 256 == g))) s
      (gs.foldl (fun s g =>
        let here := ws.filter (fun w => w.1 / 256 == g)
        here.foldl (fun s w => wrGranule s w.1 [w.2]) (if here.length == 256 then setPoison s g false else s)) s) := by
    induction gs generalizing s with
    | nil => exact .nil rfl fun _ h => h
    | cons g gs ih => exact (wrOneGranule_writes s g _).append (ih _)
  refine (Writes.congr (hall _ s) (mem_flatMap_granules ws) : Writes ws s _)

/-! ### Bytes written where they lie now, as the host's are (R204) -/

theorem hostApply_writes (s : State) (ws : List (Nat × Nat)) :
    Writes (ws.map (fun w => (place s w.1, w.2)) ++ ws.filter (fun w => inReadOnlyFrame s w.1)) s (hostApply s ws false) := by
  have hcount := foldl_counted (fun u g => notePartWrite_counted u (256 * g) (ws.filter (fun w => w.1 / 256 == g)).length)
    (ws.map (fun w => w.1 / 256)).eraseDups s
  have hnote : Writes [] s _ := .nil hcount.mem (fun g hg => hcount.poison ▸ hg)
  have h := (hnote.append (wrPlaces_writes _ (ws.map (fun w => (place s w.1, w.2))))).append
    (wrPlaces_writes _ (ws.filter (fun w => inReadOnlyFrame s w.1)))
  unfold hostApply
  simpa only [hcount.place, List.nil_append] using h

theorem place_of_inReadOnlyFrame {s : State} {a : Nat} (h : inReadOnlyFrame s a = true) : place s a ≠ a := by
  simp only [inReadOnlyFrame, Bool.and_eq_true, bne_iff_ne] at h
  exact h.1

/-- Every byte but those at the places and homes of the write stays. -/
theorem hostApply_memFrame (s : State) (ws : List (Nat × Nat)) :
    MemFrame (fun x => ∃ w ∈ ws, x = place s w.1 ∨ x = w.1) s (hostApply s ws false) := by
  refine fun x hx => (hostApply_writes s ws).frame x fun w hw he => hx ?_
  rcases List.mem_append.1 hw with hw | hw
  · obtain ⟨v, hv, rfl⟩ := List.mem_map.1 hw
    exact ⟨v, hv, .inl he.symm⟩
  · exact ⟨w, (List.mem_filter.1 hw).1, .inr he.symm⟩

/-- A byte written stands at its place, where that is the place or home of no other byte of the write. -/
theorem hostApply_stored {s : State} {ws : List (Nat × Nat)} {w : Nat × Nat} (hw : w ∈ ws)
    (hplace : ∀ v ∈ ws, place s v.1 = place s w.1 → v = w) (hhome : ∀ v ∈ ws, v.1 = place s w.1 → v = w)
    (hpoison : isPoison s w.1 = false) : rd8 (hostApply s ws false).tiers.mem (place s w.1) = w.2 % 256 := by
  refine (hostApply_writes s ws).stored _ _ hpoison
    ⟨_, List.mem_append_left _ (List.mem_map.2 ⟨w, hw, rfl⟩), rfl⟩ fun v hv he => ?_
  rcases List.mem_append.1 hv with hv | hv
  · obtain ⟨u, hu, rfl⟩ := List.mem_map.1 hv
    rw [hplace u hu he]
  · obtain ⟨hv, hro⟩ := List.mem_filter.1 hv
    obtain rfl := hhome v hv he
    exact absurd he.symm (place_of_inReadOnlyFrame hro)

/-! ### INLINE_WRITE (R403) -/

/-- A command that names no page holds no move. -/
theorem moveBlocked_takeIn {c : Cmd} (hc : c.pages = []) (s : State) (t : Sec) (m : PageMove) :
    moveBlocked (takeIn s t c) m = moveBlocked s m := by
  have hwaits (d : Cmd) : waitsFor (takeIn s t c) d m = waitsFor s d m := rfl
  unfold moveBlocked
  refine congrArg (allSecs.any ·) (funext fun u => ?_)
  simp only [hwaits]
  rw [takeIn, getCmds_setCmds]
  split
  next h => subst h; simp [hc]
  · rfl

theorem pageMoving_takeIn {c : Cmd} (hc : c.pages = []) (s : State) (t : Sec) (a : Nat) :
    pageMoving (takeIn s t c) a = pageMoving s a := by
  simp only [pageMoving, moveBlocked_takeIn hc]
  rfl

/-- The bytes of an INLINE_WRITE, each with its address. -/
def inlineBytes (d : Desc) : List (Nat × Nat) :=
  ((followBytes d).take (ff d 0x10 2)).mapIdx (fun i b => (ff d 8 8 + i, b))

/-- R211, R403: on stepping A1 a byte resident from a read-only region. -/
def inlineOnA1 (s : State) (d : Desc) : Bool :=
  isA1 s && (List.range (ff d 0x10 2)).any (fun i => inReadOnlyFrame s (ff d 8 8 + i))

theorem exec_inlineWrite {s : State} {p : Pair} {d : Desc} (h : Reads (.inlineWrite p d) s p 9 d) : ∃ rings trace out seq,
    exec (.inlineWrite p d) s = .next (
      let v := s.afterRead rings trace out seq
      let t := secOf p
      let a := ff d 8 8
      let n := ff d 0x10 2
      let c := readCmd s p 9 d none 0 (inlineBytes d)
      if !reach s t false a (a + n) || inlineOnA1 s d then completeRead v t (readCmd s p 9 d none 0) stDenied 0 0
      else if touchesHole s a (a + n) then completeRead v t (readCmd s p 9 d none 0) stBad 0 0
      else if inlineMayLand (takeIn v t c) (inlineBytes d) then
        complete (hostApply (takeIn v t c) (inlineBytes d) false) t c stOk 0 0
      else hold (takeIn v t c) p s.seq) := by
  obtain ⟨hform, hread⟩ := h
  obtain ⟨hcan, hcard⟩ := (readsNow_iff s p d).1 hread
  have hfields : inlineForm s d = true := by simpa [ringForm] using hform
  obtain ⟨rings, trace, out, seq, hsetup, hexec⟩ :=
    exec_of_read (c := .inlineWrite p d) rfl hcan (.inl hcard) (fun _ _ _ _ => hfields)
  refine ⟨rings, trace, out, seq, hexec.trans ?_⟩
  simp only [reach_read hsetup]
  rfl

theorem leBytes_length (n x : Nat) : (leBytes n x).length = n := by
  induction n generalizing x with
  | zero => rfl
  | succ n ih => simp [leBytes, ih]

theorem leBytes_lt (n x : Nat) : ∀ b ∈ leBytes n x, b < 256 := by
  induction n generalizing x with
  | zero => simp [leBytes]
  | succ n ih =>
    intro b hb
    rcases List.mem_cons.1 hb with rfl | hb
    · exact Nat.mod_lt _ (by omega)
    · exact ih _ b hb

theorem followBytes_length (d : Desc) : (followBytes d).length = 64 * d.follow.length := by
  unfold followBytes
  induction d.follow with
  | nil => rfl
  | cons w l ih => simp only [List.flatMap_cons, List.length_append, leBytes_length, ih, List.length_cons]; omega

theorem followBytes_lt (d : Desc) (i : Nat) : (followBytes d).getD i 0 < 256 := by
  rw [List.getD_eq_getElem?_getD]
  cases h : (followBytes d)[i]? with
  | none => simp
  | some b =>
    obtain ⟨w, _, hb⟩ := List.mem_flatMap.1 (List.mem_of_getElem? h)
    exact leBytes_lt _ _ b hb

/-- R394, R403: an INLINE_WRITE in form comes with a byte for each that it writes. -/
theorem inline_bytes_read {s : State} {p : Pair} {d : Desc} (h : Reads (.inlineWrite p d) s p 9 d) :
    ff d 0x10 2 ≤ (followBytes d).length := by
  obtain ⟨hform, hread⟩ := h
  have hfields : inlineForm s d = true := by simpa [ringForm] using hform
  obtain ⟨hcan, -⟩ := (readsNow_iff s p d).1 hread
  obtain ⟨-, -, -, -, -, -, -, -, hfollow⟩ := (canRead_iff s p d).1 hcan
  simp only [inlineForm, headerOk, Bool.and_eq_true, beq_iff_eq, decide_eq_true_eq] at hfields
  have hinline : d.inline.toNat = (ff d 0x10 2 + 63) / 64 := by tauto
  have hmax : ff d 0x10 2 ≤ 448 := by tauto
  have hlow : inlineOf d = d.inline.toNat % 8 := by simp [inlineOf]
  rw [followBytes_length, hfollow, hlow]
  omega

theorem mem_inlineBytes {d : Desc} (hlen : ff d 0x10 2 ≤ (followBytes d).length) (w : Nat × Nat) :
    w ∈ inlineBytes d ↔ ∃ i, i < ff d 0x10 2 ∧ w = (ff d 8 8 + i, (followBytes d).getD i 0) := by
  simp only [inlineBytes, List.mem_mapIdx, List.length_take, List.getElem_take, Nat.min_eq_left hlen]
  constructor
  · rintro ⟨i, hi, rfl⟩
    exact ⟨i, hi, by rw [List.getD_eq_getElem _ _ (by omega)]⟩
  · rintro ⟨i, hi, rfl⟩
    exact ⟨i, hi, by rw [List.getD_eq_getElem _ _ (by omega)]⟩

theorem inlineMayLand_iff {s : State} {d : Desc} (hlen : ff d 0x10 2 ≤ (followBytes d).length) :
    inlineMayLand s (inlineBytes d) = true ↔ inSlot0 s = true ∧
      ∀ i, i < ff d 0x10 2 → pageMoving s (ff d 8 8 + i) = false ∧ dozing s (place s (ff d 8 8 + i)) = false := by
  simp only [inlineMayLand, Bool.and_eq_true, List.all_eq_true, mem_inlineBytes hlen, Bool.not_eq_true']
  refine and_congr_right fun _ => ⟨fun h i hi => h _ ⟨i, hi, rfl⟩, ?_⟩
  rintro h w ⟨i, hi, rfl⟩
  exact h i hi

/-- Settles O19: `hostApply` is the write, and a command that is taken in blocks no move. -/
theorem inlineWriteStoresItsBytes : Obligations.InlineWriteStoresItsBytes := by
  intro s p d h a n
  have hlen := inline_bytes_read h
  obtain ⟨rings, trace, out, seq, hexec⟩ := exec_inlineWrite h
  have honA1 : inlineOnA1 s d = true ↔ isA1 s = true ∧ ∃ i, i < n ∧ inReadOnlyFrame s (a + i) = true := by
    simp [inlineOnA1, a, n]
  have hframe := frame_of_read s rings trace out seq
  have hread : Frame [.rings, .cmds, .recs, .colls, .trace, .out, .seq] s (s.afterRead rings trace out seq) :=
    hframe.mono (by decide)
  refine ⟨fun hdenied => ?_, fun hreach hnotA1 => ⟨fun hhole => ?_, fun hhole => ⟨fun hwait => ?_, fun hslot hland => ?_⟩⟩⟩
  · have hcond : (!reach s (secOf p) false a (a + n) || inlineOnA1 s d) = true := by
      rcases hdenied with hreach | hA1
      · simp [hreach]
      · simp [honA1.2 hA1]
    simp only [a, n] at hcond
    simp only [hcond, if_true] at hexec
    exact records_of_completeRead hexec hread rfl rfl (by decide) (.inl rfl)
  all_goals
    have hcond : (!reach s (secOf p) false (ff d 8 8) (ff d 8 8 + ff d 0x10 2) || inlineOnA1 s d) = false := by
      have hreach : reach s (secOf p) false (ff d 8 8) (ff d 8 8 + ff d 0x10 2) = true := hreach
      rw [hreach, Bool.not_true, Bool.false_or, Bool.eq_false_iff]
      exact fun h => hnotA1 (honA1.1 h)
    simp only [hcond, Bool.false_eq_true, if_false] at hexec
    rw [show touchesHole s (ff d 8 8) (ff d 8 8 + ff d 0x10 2) = _ from hhole] at hexec
    simp only [if_true, Bool.false_eq_true, if_false] at hexec
  · exact records_of_completeRead hexec hread rfl rfl (by decide) (.inl rfl)
  all_goals
    have hland' : inlineMayLand (takeIn (s.afterRead rings trace out seq) (secOf p) (readCmd s p 9 d none 0 (inlineBytes d)))
        (inlineBytes d) = inlineMayLand s (inlineBytes d) := by
      simp only [inlineMayLand, pageMoving_takeIn (c := readCmd s p 9 d none 0 (inlineBytes d)) rfl]
      rfl
  · have hno : inlineMayLand s (inlineBytes d) = false := by
      rw [Bool.eq_false_iff, Ne, inlineMayLand_iff hlen]
      rintro ⟨hslot, hall⟩
      rcases hwait with hout | ⟨i, hi, hm | hd⟩
      · simp [hslot] at hout
      · exact Bool.false_ne_true ((hall i hi).1.symm.trans hm)
      · exact Bool.false_ne_true ((hall i hi).2.symm.trans hd)
    simp only [hland', hno, Bool.false_eq_true, if_false] at hexec
    have hc := closedOn_frame [.rings, .cmds, .trace, .out, .seq] s
    exact ⟨_, hexec, ⟨inFlight_takeIn _ (secOf p) (readCmd s p 9 d none 0 (inlineBytes d)), getRing_hold ..⟩,
      hold_only (hc.sub (by decide)) _ _ _ (takeIn_only (hc.sub (by decide)) _ _ _ (hframe.mono (by decide)))⟩
  · have hyes : inlineMayLand s (inlineBytes d) = true := (inlineMayLand_iff hlen).2 ⟨hslot, hland⟩
    simp only [hland', hyes, if_true] at hexec
    have hc := closedOn_frame [.rings, .cmds, .recs, .colls, .tiers, .ward, .trace, .out, .seq] s
    have hwritten := hostApply_only (hc.sub (by decide)) _ (inlineBytes d) false
      (takeIn_only (hc.sub (by decide)) _ (secOf p) (readCmd s p 9 d none 0 (inlineBytes d)) (hframe.mono (by decide)))
    have happly := (hostApply_only (closedOn_frame [.tiers, .ward, .out] _)
      (takeIn (s.afterRead rings trace out seq) (secOf p) (readCmd s p 9 d none 0 (inlineBytes d))) (inlineBytes d) false
      (Frame.refl _ _)).2
    refine ⟨records_of_complete hexec hwritten (happly .recs (by decide)) (happly .time (by decide)) (by decide) (.inl rfl),
      _, hexec, ?_, complete_readCmd_frame hwritten (by decide) (.inl rfl) _ p 9 d 0 _ stOk 0 0⟩
    have htiers : (complete (hostApply (takeIn (s.afterRead rings trace out seq) (secOf p)
        (readCmd s p 9 d none 0 (inlineBytes d))) (inlineBytes d) false) (secOf p) (readCmd s p 9 d none 0 (inlineBytes d))
        stOk 0 0).tiers = _ :=
      (complete_only (closedOn_frame [.rings, .cmds, .recs, .steps, .colls, .trace] _) _ (secOf p)
        (readCmd s p 9 d none 0 (inlineBytes d)) stOk 0 0 (Frame.refl _ _)).2 .tiers (by decide)
    refine ⟨fun x hx => ?_, fun hapart i hi hpoison => ?_⟩
    · rw [htiers]
      refine hostApply_memFrame _ _ x ?_
      rintro ⟨w, hw, hat⟩
      obtain ⟨i, hi, rfl⟩ := (mem_inlineBytes hlen w).1 hw
      exact hx ⟨i, hi, hat⟩
    · rw [htiers]
      refine (hostApply_stored (s := takeIn (s.afterRead rings trace out seq) (secOf p) (readCmd s p 9 d none 0 (inlineBytes d)))
        (w := (ff d 8 8 + i, (followBytes d).getD i 0)) ((mem_inlineBytes hlen _).2 ⟨i, hi, rfl⟩)
        ?_ ?_ hpoison).trans (Nat.mod_eq_of_lt (followBytes_lt d i))
      all_goals
        intro w hw he
        obtain ⟨j, hj, rfl⟩ := (mem_inlineBytes hlen w).1 hw
      · rw [(hapart j i hj hi).1 he]
      · rw [(hapart i j hi hj).2 he.symm]

end Sys2Proof.Machine
end

section
/-!
PROOFS. The host link, snoops and evictions (chapter 13).
-/
namespace Sys2Proof.Machine

/-! ### What leaves the card -/

theorem effects_of_exec {c : Instr} {s t : State} {L : List Piece} {Q : State → Prop} (hexec : exec c s = .next t)
    (hL : (changes c).all (fun p => decide (p ∈ L)) = true) (hq : Q t) : Effects c s L Q :=
  ⟨t, hexec, hq, (frame_of_exec hexec).mono fun p hp => of_decide_eq_true (List.all_eq_true.1 hL p hp)⟩

/-- Nothing but events for subscribers joins what leaves the card (R476). -/
def OnlyEvents (s u : State) : Prop := ∃ l, u.out = s.out ++ l ∧ ∀ o ∈ l, ∃ who e, o = .event who e

theorem OnlyEvents.of_out {s u : State} (h : u.out = s.out) : OnlyEvents s u := ⟨[], by simp [h], by simp⟩

theorem OnlyEvents.trans {s u v : State} (h : OnlyEvents s u) (k : OnlyEvents u v) : OnlyEvents s v := by
  obtain ⟨l, hl, hev⟩ := h
  obtain ⟨m, hm, hev'⟩ := k
  exact ⟨l ++ m, by rw [hm, hl, List.append_assoc], fun o ho => (List.mem_append.1 ho).elim (hev o) (hev' o)⟩

theorem OnlyEvents.mem_iff {s u : State} (h : OnlyEvents s u) {o : Out} (ho : ∀ who e, o ≠ .event who e) :
    o ∈ u.out ↔ o ∈ s.out := by
  obtain ⟨l, hl, hev⟩ := h
  rw [hl, List.mem_append, or_iff_left]
  intro hm
  obtain ⟨who, e, rfl⟩ := hev o hm
  exact ho who e rfl

theorem foldl_event_out (l : List Client) (e : Event) (s : State) :
    (l.foldl (fun s who => emit s (.event who e)) s).out = s.out ++ l.map (fun who => .event who e) := by
  induction l generalizing s with
  | nil => simp
  | cons who l ih => rw [List.foldl_cons, ih]; simp

theorem raiseEvent_onlyEvents (s : State) (kind sect sev : Nat) (raw : RawRec) :
    OnlyEvents s (raiseEvent s kind sect sev raw) := by
  unfold raiseEvent
  split
  next => exact ⟨_, foldl_event_out _ _ _, fun o ho => by obtain ⟨who, -, rfl⟩ := List.mem_map.1 ho; exact ⟨who, _, rfl⟩⟩
  next => exact .of_out rfl

theorem logError_onlyEvents (s : State) (cls sev sect kind index : Nat) (x : W64) :
    OnlyEvents s (logError s cls sev sect kind index x) := by
  unfold logError
  split
  next => exact .of_out rfl
  next =>
    dsimp only
    split
    next => exact .of_out rfl
    next =>
      split
      next => exact .of_out rfl
      next =>
        split
        next => exact OnlyEvents.trans (.of_out (modWard_out _ _)) (raiseEvent_onlyEvents _ _ _ _ _)
        next => exact .of_out (modWard_out _ _)

/-! ### The link -/

/-- Settles O46: each command is one update under its guard; only the refused CXL.io request sends events besides. -/
theorem hostLinkTrainsAndIsConfigured : Obligations.HostLinkTrainsAndIsConfigured := by
  unfold Obligations.HostLinkTrainsAndIsConfigured
  refine ⟨fun s sp w ce me => ⟨fun h => ?_, fun h => ?_⟩, fun s rid => ⟨fun hm hr => ?_, fun h => ?_⟩,
    fun s rid posted => ⟨fun h => ?_, fun h => ?_⟩, fun s addr n wr => ⟨fun h => ?_, fun h => ?_⟩, fun s k base ways => ?_⟩
  · have hexec : exec (.hostLinkTraining sp w ce me) s = .next (if trains sp w then modHif (begin s) (fun h => { h with
        mode := modeOf sp w ce me, speed := sp, width := w, cacheEn := ce, memEn := me }) else begin s) := rfl
    rw [h, if_pos rfl] at hexec
    refine effects_of_exec hexec rfl ?_
    simp [modHif, begin, modeOf, and_assoc]
  · show (.next (if trains sp w then _ else begin s) : Res) = _
    rw [h]; rfl
  · have hexec : exec (.configurationWrite rid) s = .next (if measured s && !s.hif.ridSet then
        modHif (begin s) (fun h => { h with hostRid := rid, ridSet := true }) else begin s) := rfl
    rw [hm, hr] at hexec
    exact effects_of_exec hexec rfl rfl
  · show (.next (if measured s && !s.hif.ridSet then _ else begin s) : Res) = _
    rw [if_neg]
    rcases h with h | h <;> simp [h]
  · show (.next (if s.hif.ridSet && s.hif.hostRid == rid then begin s else _) : Res) = _
    rw [if_pos (by simp [h])]
  · have hexec : exec (.cxlIoMemoryRequest rid posted) s = .next (if s.hif.ridSet && s.hif.hostRid == rid then begin s else
        logError (emit (if posted then begin s else emit (begin s) .unsupported) .aer) 0xC 1 0xF 0xF 0 0) := rfl
    rw [if_neg (by simpa using h)] at hexec
    refine effects_of_exec hexec rfl ?_
    have hout := fun (o : Out) (ho : ∀ who e, o ≠ .event who e) => (logError_onlyEvents
      (emit (if posted then begin s else emit (begin s) .unsupported) .aer) 0xC 1 0xF 0xF 0 0).mem_iff ho
    rw [hout _ (by simp), hout _ (by simp)]
    cases posted <;> simp
  · show (.next (if (n == 4 || n == 8) && addr.toNat % n == 0 then begin s else _) : Res) = _
    rw [if_pos (by simpa using h)]
  · have hexec : exec (.misalignedAccess addr n wr) s = .next (if (n == 4 || n == 8) && addr.toNat % n == 0 then begin s
        else emit (emit (begin s) .abort) .aer) := rfl
    rw [if_neg (by simpa using h)] at hexec
    exact effects_of_exec hexec rfl rfl
  · refine effects_of_exec (t := modHif (begin s) (fun h => if k = 0 then
      { h with hdm0 := if ways == 1 then some base.toNat else none }
      else { h with hdm1 := if ways == 1 then some base.toNat else none })) rfl rfl ?_
    simp [modHif, begin]

/-! ### Snoops and evictions -/

@[simp] theorem windowUp_begin (s : State) : windowUp (begin s) = windowUp s := rfl
@[simp] theorem cacheLine_begin (s : State) (l : Nat) : cacheLine (begin s) l = cacheLine s l := rfl
@[simp] theorem cacheLine_emit (s : State) (o : Out) (l : Nat) : cacheLine (emit s o) l = cacheLine s l := rfl
@[simp] theorem snoopState_begin (s : State) (l : Nat) : snoopState (begin s) l = snoopState s l := rfl
@[simp] theorem snoopState_emit (s : State) (o : Out) (l : Nat) : snoopState (emit s o) l = snoopState s l := rfl

theorem cacheLine_dropLine (s : State) (l : Nat) : cacheLine (dropLine s l) l = none := by
  simp only [cacheLine, dropLine, modHif_hif, Option.map_eq_none_iff, List.find?_eq_none]
  intro e he
  simp [((mem_sdel _ _ e).1 he).2]

theorem cacheLine_setLineSt (s : State) (l : Nat) (st : LineSt) :
    cacheLine (setLineSt s l st) l = (cacheLine s l).map (fun x => { x with st := st }) := by
  simp only [cacheLine, setLineSt, modHif_hif]
  induction s.hif.cache with
  | nil => rfl
  | cons e m ih => by_cases he : e.1 = l <;> simp_all [List.find?_cons]

/-- A line that is known to a snoop is in the cache, or being evicted and overtaken. -/
theorem cacheLine_of_snoopState {s : State} {l : Nat} {k : LineSt} {x : BitVec 512} (h : snoopState s l = some (k, x)) :
    (∃ n, cacheLine s l = some ⟨k, x, n⟩) ∨ k = .evicting true ∧ cacheLine s l = none := by
  unfold snoopState at h
  cases hc : cacheLine s l with
  | some y =>
    simp only [hc, Option.some.injEq, Prod.mk.injEq] at h
    obtain ⟨rfl, rfl⟩ := h
    exact .inl ⟨y.used, rfl⟩
  | none =>
    simp only [hc, Option.map_eq_some_iff, Prod.mk.injEq] at h
    obtain ⟨-, -, rfl, -⟩ := h
    exact .inr ⟨rfl, rfl⟩

theorem snoopState_setLineSt {s : State} {l : Nat} {k st : LineSt} {x : BitVec 512} (h : snoopState s l = some (k, x))
    (hst : (∀ f, k ≠ .evicting f) ∨ st = .evicting true) : snoopState (setLineSt s l st) l = some (st, x) := by
  have hset := cacheLine_setLineSt s l st
  rcases cacheLine_of_snoopState h with ⟨n, hc⟩ | ⟨rfl, hc⟩
  · unfold snoopState
    rw [hset, hc]
    rfl
  · obtain rfl := hst.resolve_left (fun hne => hne true rfl)
    unfold snoopState at h ⊢
    rw [hc] at h
    rw [hset, hc]
    exact h

/-- Pairs that are changed one by one, each by itself. -/
theorem getRing_foldl {F : State → Pair → State} {g : Ring → Ring}
    (hF : ∀ s p q, getRing (F s p) q = if q = p then g (getRing s p) else getRing s q) {l : List Pair} (hl : l.Nodup)
    (s : State) (q : Pair) : getRing (l.foldl F s) q = if q ∈ l then g (getRing s q) else getRing s q := by
  induction l generalizing s with
  | nil => simp
  | cons p l ih =>
    obtain ⟨hp, hl⟩ := List.nodup_cons.1 hl
    rw [List.foldl_cons, ih hl, hF]
    by_cases hq : q = p
    · subst hq; simp [hp]
    · simp [hq]

theorem getRing_foldl_allPairs {F : State → Pair → State} {g : Ring → Ring}
    (hF : ∀ s p q, getRing (F s p) q = if q = p then g (getRing s p) else getRing s q) (s : State) (q : Pair) :
    getRing (allPairs.foldl F s) q = g (getRing s q) := by
  rw [getRing_foldl hF (show allPairs.Nodup from List.nodup_finRange 64), if_pos (show q ∈ allPairs from List.mem_finRange q)]

theorem getRing_ringBell (s : State) (l : Nat) (q : Pair) : getRing (ringBell s l) q =
    if (getRing s q).enable && (getRing s q).dbAddr.toNat / 64 == l then { getRing s q with rung := true }
    else getRing s q := by
  refine getRing_foldl_allPairs (g := fun r => if r.enable && r.dbAddr.toNat / 64 == l then { r with rung := true } else r)
    (fun s p q => ?_) s q
  by_cases hq : q = p
  · subst hq; split <;> simp
  · split <;> simp [hq]

theorem ringBell_frame (s : State) (l : Nat) : Frame [.rings] s (ringBell s l) :=
  ringBell_only (closedOn_frame [.rings] s) s l (Frame.refl _ s)

theorem ringBell_out (s : State) (l : Nat) : (ringBell s l).out = s.out := (ringBell_frame s l).2 .out (by decide)
theorem ringBell_hif (s : State) (l : Nat) : (ringBell s l).hif = s.hif := (ringBell_frame s l).2 .hif (by decide)

theorem cacheLine_ringBell (s : State) (l k : Nat) : cacheLine (ringBell s l) k = cacheLine s k := by
  simp only [cacheLine, ringBell_hif]

theorem getRing_emit (s : State) (o : Out) (p : Pair) : getRing (emit s o) p = getRing s p := rfl
theorem getRing_begin (s : State) (p : Pair) : getRing (begin s) p = getRing s p := rfl
theorem getRing_dropLine (s : State) (l : Nat) (p : Pair) : getRing (dropLine s l) p = getRing s p := rfl

theorem exec_snpData {s : State} (a : W64) (h : windowUp s = true) : exec (.snpData a) s = .next (
    match snoopState s (a.toNat / 64) with
    | none => emit (begin s) (.snoop .iHitI none)
    | some (.s, _) => emit (begin s) (.snoop .sHitSE none)
    | some (.e, _) => emit (setLineSt (begin s) (a.toNat / 64) .s) (.snoop .sHitSE none)
    | some (.m, x) => emit (setLineSt (begin s) (a.toNat / 64) .s) (.snoop .sFwdM (some x))
    | some (.evicting _, x) => emit (setLineSt (begin s) (a.toNat / 64) (.evicting true)) (.snoop .iFwdM (some x))
    | some (.cleanPending, _) => emit (begin s) (.snoop .iHitSE none)) := by
  show execSnpData a s = _
  simp only [execSnpData, windowUp_begin, h, Bool.not_true, Bool.false_eq_true, if_false] <;> rfl

theorem exec_snpInv {s : State} (a : W64) (h : windowUp s = true) : exec (.snpInv a) s = .next (
    match snoopState s (a.toNat / 64) with
    | none => emit (begin s) (.snoop .iHitI none)
    | some (.s, _) => emit (ringBell (dropLine (begin s) (a.toNat / 64)) (a.toNat / 64)) (.snoop .iHitSE none)
    | some (.e, _) => emit (dropLine (begin s) (a.toNat / 64)) (.snoop .iHitSE none)
    | some (.m, x) => emit (dropLine (begin s) (a.toNat / 64)) (.snoop .iFwdM (some x))
    | some (.evicting _, x) => emit (setLineSt (begin s) (a.toNat / 64) (.evicting true)) (.snoop .iFwdM (some x))
    | some (.cleanPending, _) => emit (begin s) (.snoop .iHitSE none)) := by
  show execSnpInv a s = _
  simp only [execSnpInv, windowUp_begin, h, Bool.not_true, Bool.false_eq_true, if_false] <;> rfl

theorem exec_snpCur {s : State} (a : W64) (h : windowUp s = true) : exec (.snpCur a) s = .next (
    match snoopState s (a.toNat / 64) with
    | none => emit (begin s) (.snoop .iHitI none)
    | some (.s, _) => emit (begin s) (.snoop .vHitV none)
    | some (.e, _) => emit (begin s) (.snoop .vHitV none)
    | some (.m, x) => emit (begin s) (.snoop .vFwdV (some x))
    | some (.evicting _, x) => if isA1 s then
        emit (setLineSt (begin s) (a.toNat / 64) (.evicting true)) (.snoop .iFwdM (some x))
      else emit (begin s) (.snoop .vFwdV (some x))
    | some (.cleanPending, _) => emit (begin s) (.snoop .vHitV none)) := by
  show execSnpCur a s = _
  simp only [execSnpCur, windowUp_begin, h, Bool.not_true, Bool.false_eq_true, if_false] <;> rfl

/-- R372: the eviction of a line is answered; one that a new RdOwn has overtaken goes first. -/
theorem exec_goWritePull {s : State} {a : W64} (h : windowUp s = true) :
    (∀ e, s.hif.stale.find? (fun e => e.1 == a.toNat / 64) = some e → exec (.goWritePull a) s =
      .next (emit (dropStale (begin s) (a.toNat / 64)) (.pull (64 * (a.toNat / 64)) true e.2)) ∧
      exec (.goWritePullDrop a) s = .next (dropStale (begin s) (a.toNat / 64))) ∧
    (∀ f x n, s.hif.stale.find? (fun e => e.1 == a.toNat / 64) = none →
      cacheLine s (a.toNat / 64) = some ⟨.evicting f, x, n⟩ → exec (.goWritePull a) s =
      .next (emit (dropLine (begin s) (a.toNat / 64)) (.pull (64 * (a.toNat / 64)) f x)) ∧
      exec (.goWritePullDrop a) s = .next (dropLine (begin s) (a.toNat / 64))) := by
  have hany : s.hif.stale.any (fun e => e.1 == a.toNat / 64) =
      (s.hif.stale.find? (fun e => e.1 == a.toNat / 64)).isSome := by
    rw [Bool.eq_iff_iff, List.find?_isSome, List.any_eq_true]
  refine ⟨fun e he => ⟨?_, ?_⟩, fun f x n he hc => ⟨?_, ?_⟩⟩
  · show execGoWritePull a s = _
    simp [execGoWritePull, h, he]
  · show execGoWritePullDrop a s = _
    simp [execGoWritePullDrop, h, hany, he]
  · show execGoWritePull a s = _
    simp [execGoWritePull, h, he, hc]
  · show execGoWritePullDrop a s = _
    simp [execGoWritePullDrop, h, hany, he, hc]

theorem length_dropStale {s : State} {l : Nat} {e : Nat × BitVec 512} (h : s.hif.stale.find? (fun e => e.1 == l) = some e) :
    (dropStale s l).hif.stale.length + 1 = s.hif.stale.length := by
  have hlen := List.length_eraseP_of_mem (List.mem_of_find?_eq_some h) (List.find?_some h)
  have hpos := List.length_pos_of_mem (List.mem_of_find?_eq_some h)
  simp only [dropStale, modHif_hif]
  omega

/-- Settles O48: by what the card holds of the line, and for an eviction by whether a RdOwn has overtaken it. -/
theorem snoopsAndEvictionsAnswer : Obligations.SnoopsAndEvictionsAnswer := by
  unfold Obligations.SnoopsAndEvictionsAnswer
  refine ⟨fun s a hup => ⟨effects_of_exec (exec_snpData a hup) rfl ?_, effects_of_exec (exec_snpInv a hup) rfl ?_,
    effects_of_exec (exec_snpCur a hup) rfl ?_⟩, fun s a f x n hup hst hc => ?_, fun s a e hup he => ?_⟩
  · rcases hl : snoopState s (a.toNat / 64) with _ | ⟨_ | _ | _ | f | _, x⟩
    · exact ⟨rfl, rfl⟩
    · exact ⟨rfl, rfl⟩
    · exact ⟨rfl, snoopState_setLineSt (s := begin s) hl (.inl (by simp))⟩
    · exact ⟨rfl, snoopState_setLineSt (s := begin s) hl (.inl (by simp))⟩
    · exact ⟨rfl, snoopState_setLineSt (s := begin s) hl (.inr rfl)⟩
    · exact ⟨rfl, rfl⟩
  · rcases hl : snoopState s (a.toNat / 64) with _ | ⟨_ | _ | _ | f | _, x⟩
    · exact ⟨rfl, rfl⟩
    · refine ⟨?_, ?_, fun p hen hline => ?_⟩
      · rw [emit_out, ringBell_out]; rfl
      · rw [cacheLine_emit, cacheLine_ringBell, cacheLine_dropLine]
      · rw [getRing_emit, getRing_ringBell, getRing_dropLine, getRing_begin, if_pos (by simp [hen, hline])]
    · exact ⟨rfl, cacheLine_dropLine (begin s) _⟩
    · exact ⟨rfl, cacheLine_dropLine (begin s) _⟩
    · exact ⟨rfl, snoopState_setLineSt (s := begin s) hl (.inr rfl)⟩
    · exact ⟨rfl, rfl⟩
  · rcases hl : snoopState s (a.toNat / 64) with _ | ⟨_ | _ | _ | f | _, x⟩
    · exact ⟨rfl, rfl⟩
    · exact ⟨rfl, rfl⟩
    · exact ⟨rfl, rfl⟩
    · exact ⟨rfl, rfl⟩
    · dsimp only
      split
      next => exact ⟨rfl, snoopState_setLineSt (s := begin s) hl (.inr rfl)⟩
      next => exact ⟨rfl, rfl⟩
    · exact ⟨rfl, rfl⟩
  · obtain ⟨hpull, hdrop⟩ := (exec_goWritePull hup).2 f x n (List.find?_eq_none.2 (fun e he => by simpa using hst e he)) hc
    exact ⟨effects_of_exec hpull rfl ⟨rfl, cacheLine_dropLine (begin s) _⟩,
      effects_of_exec hdrop rfl ⟨rfl, cacheLine_dropLine (begin s) _⟩⟩
  · obtain ⟨hpull, hdrop⟩ := (exec_goWritePull hup).1 e he
    exact ⟨effects_of_exec hpull rfl ⟨rfl, length_dropStale (s := begin s) he, rfl⟩,
      effects_of_exec hdrop rfl ⟨rfl, length_dropStale (s := begin s) he, rfl⟩⟩

end Sys2Proof.Machine
end

section
/-!
PROOFS. Helzu links and their headers (chapter 9).
-/
namespace Sys2Proof.Machine

/-! ### What the operations on a link make of it -/

/-- R276: a link whose replay buffers and queues are discarded. -/
def LinkSt.cleared (x : LinkSt) : LinkSt := { x with
  spaces := List.replicate 5 spaceReset
  departTx := false, departRx := false, departWait := false, timeOk := false
  cut := (List.range 4).foldl (fun (m : BitVec 4) t =>
    let y := x.spaces.getD t spaceReset
    if y.out.isEmpty && y.queue.isEmpty then m else m ||| BitVec.ofNat 4 (2 ^ t)) x.cut }

/-- R288: a link that has entered a state. -/
def LinkSt.inState (x : LinkSt) (st : BitVec 4) : LinkSt :=
  if x.st == st then x else { x with st := st, chg := true, timeSrc := false }

section
variable (x : LinkSt) (st : BitVec 4)

@[simp] theorem LinkSt.inState_st : (x.inState st).st = st := by
  unfold LinkSt.inState; split <;> simp_all

@[simp] theorem LinkSt.inState_spaces : (x.inState st).spaces = x.spaces := by unfold LinkSt.inState; split <;> rfl
@[simp] theorem LinkSt.inState_lcnt : (x.inState st).lcnt = x.lcnt := by unfold LinkSt.inState; split <;> rfl
@[simp] theorem LinkSt.inState_phyFails : (x.inState st).phyFails = x.phyFails := by unfold LinkSt.inState; split <;> rfl
@[simp] theorem LinkSt.inState_retrains : (x.inState st).retrains = x.retrains := by unfold LinkSt.inState; split <;> rfl
@[simp] theorem LinkSt.cleared_st : x.cleared.st = x.st := rfl
@[simp] theorem LinkSt.cleared_spaces : x.cleared.spaces = List.replicate 5 spaceReset := rfl
@[simp] theorem LinkSt.cleared_lcnt : x.cleared.lcnt = x.lcnt := rfl
@[simp] theorem LinkSt.cleared_phyFails : x.cleared.phyFails = x.phyFails := rfl
@[simp] theorem LinkSt.cleared_retrains : x.cleared.retrains = x.retrains := rfl

end

section
variable (s : State) (l k : Nat)

@[simp] theorem isA1_modLink (f : LinkSt → LinkSt) : isA1 (modLink s l f) = isA1 s := rfl
@[simp] theorem isA1_clearLink : isA1 (clearLink s l) = isA1 s := rfl
@[simp] theorem isA1_goLink (st : BitVec 4) : isA1 (goLink s l st) = isA1 s := rfl
@[simp] theorem isA1_startDetect : isA1 (startDetect s l) = isA1 s := rfl
@[simp] theorem isA1_addLcnt (j : Nat) : isA1 (addLcnt s l j) = isA1 s := rfl
@[simp] theorem isA1_begin : isA1 (begin s) = isA1 s := rfl
@[simp] theorem getLink_begin : getLink (begin s) k = getLink s k := rfl
@[simp] theorem linkState_begin : linkState (begin s) k = linkState s k := rfl

@[simp] theorem getLink_clearLink :
    getLink (clearLink s l) k = if k = l then (getLink s l).cleared else getLink s k := by
  unfold clearLink; rw [getLink_modLink]; rfl

@[simp] theorem getLink_goLink (st : BitVec 4) :
    getLink (goLink s l st) k = if k = l then (getLink s l).inState st else getLink s k := by
  unfold goLink; rw [getLink_modLink]; rfl

@[simp] theorem getLink_startDetect :
    getLink (startDetect s l) k = if k = l then (getLink s l).cleared.inState lsDetect else getLink s k := by
  unfold startDetect; simp only [getLink_goLink, getLink_clearLink, if_true]; split <;> rfl

@[simp] theorem getLink_setCause (c : BitVec 4) :
    getLink (setCause s l c) k = if k = l then { getLink s l with cause := if isA1 s then 0 else c } else getLink s k := by
  unfold setCause; rw [getLink_modLink]

@[simp] theorem getLink_leaveLink (st c : BitVec 4) : getLink (leaveLink s l st c) k = if k = l then
    { (getLink s l).cleared.inState st with cause := if isA1 s then 0 else c } else getLink s k := by
  unfold leaveLink; rw [getLink_setCause]; simp only [getLink_goLink, getLink_clearLink, if_true]; split <;> rfl

@[simp] theorem getLink_pushFlit (sp : Nat) (b : Body) : getLink (pushFlit s l sp b) k = if k = l then
    { getLink s l with spaces := (getLink s l).spaces.mapIdx (fun i x =>
      if i == sp then { x with queue := x.queue ++ [b] } else x) } else getLink s k := by
  unfold pushFlit; rw [getLink_modLink]

theorem getLink_of_links {s u : State} (h : u.links = s.links) (k : Nat) : getLink u k = getLink s k := by
  unfold getLink; rw [h]

@[simp] theorem getLink_modLinkWear (f : Wear → Wear) : getLink (modLinkWear s l f) k = getLink s k :=
  getLink_of_links ((modLinkWear_only (closedOn_frame [.wear] s) s l f (Frame.refl _ s)).2 .links (by decide)) k

@[simp] theorem getLink_logClass (cls sect kind index : Nat) (x : W64) :
    getLink (logClass s cls sect kind index x) k = getLink s k :=
  getLink_of_links ((logClass_only (closedOn_frame [.ward, .out] s) s cls sect kind index x (Frame.refl _ s)).2 .links
    (by decide)) k

@[simp] theorem getLink_addLcntN (j n : Nat) : getLink (addLcntN s l j n) k = if k = l then
    { getLink s l with
      lcnt := sset 0 (getLink s l).lcnt j (BitVec.ofNat 32 (min (2 ^ 32 - 1) ((sget 0 (getLink s l).lcnt j).toNat + n))) }
    else getLink s k := by
  unfold addLcntN; rw [getLink_modLink]

end

/-- R288: a counter of one event saturates. -/
theorem ofNat_min_add_one (x : W32) : BitVec.ofNat 32 (min (2 ^ 32 - 1) (x.toNat + 1)) = satInc x := by
  unfold satInc
  have hx := x.isLt
  split
  next h => obtain rfl := eq_of_beq h; decide
  next h =>
    have hne : x.toNat ≠ 2 ^ 32 - 1 := fun e => h (beq_iff_eq.2 (BitVec.eq_of_toNat_eq e))
    apply BitVec.eq_of_toNat_eq
    rw [BitVec.toNat_ofNat, BitVec.toNat_add]
    simp
    omega

@[simp] theorem getLink_addLcnt (s : State) (l k j : Nat) : getLink (addLcnt s l j) k = if k = l then
    { getLink s l with lcnt := sset 0 (getLink s l).lcnt j (satInc (sget 0 (getLink s l).lcnt j)) } else getLink s k := by
  unfold addLcnt; rw [getLink_addLcntN, ofNat_min_add_one]

/-- R276: a link that leaves ACTIVE to retrain. -/
theorem getLink_retrain {s : State} {l : Nat} (h : linkState s l = lsActive) (c : BitVec 4) :
    getLink (retrain s l c) l = { (getLink s l).cleared.inState lsRetrain with
      cause := if isA1 s then 0 else c
      retrains := if (getLink s l).retrains < 255 then (getLink s l).retrains + 1 else 255 } := by
  unfold retrain
  simp [h]

section
variable {s : State} {l : Nat} (h : linkState s l = lsActive) (c : BitVec 4)
include h

theorem retrain_st : (getLink (retrain s l c) l).st = lsRetrain := by rw [getLink_retrain h]; exact LinkSt.inState_st _ _
theorem retrain_cause : (getLink (retrain s l c) l).cause = if isA1 s then 0 else c := by rw [getLink_retrain h]
theorem retrain_lcnt : (getLink (retrain s l c) l).lcnt = (getLink s l).lcnt := by rw [getLink_retrain h]; simp
theorem retrain_retrains : (getLink (retrain s l c) l).retrains =
    if (getLink s l).retrains < 255 then (getLink s l).retrains + 1 else 255 := by rw [getLink_retrain h]

end

/-! ### Training -/

theorem exec_phyTraining {s : State} (l : Link) (h : linkState s l.val = lsPhy ∨ linkState s l.val = lsRetrain) :
    exec (.phyTraining l) s = .next (pushFlit (modLink (goLink (clearLink (begin s) l.val) l.val lsCaps) l.val
      (fun x => { x with phyFails := 0, capsOk := false })) l.val 4 (capsBody (modLink (goLink (clearLink (begin s) l.val)
        l.val lsCaps) l.val (fun x => { x with phyFails := 0, capsOk := false })) l.val)) := by
  show (.next (if linkState s l.val == lsPhy || linkState s l.val == lsRetrain then _ else _) : Res) = _
  rw [if_pos (by simpa using h)]

theorem exec_delayMeasurement (s : State) (l : Link) : exec (.delayMeasurement l) s = .next (
    if (getLink s l.val).st != lsDelay || (getLink s l.val).samples.length < 1024 then begin s
    else if 64 < spread (getLink s l.val).samples then leaveLink (begin s) l.val lsDisabled 5
    else modLink (goLink (clearLink (begin s) l.val) l.val lsActive) l.val
      (fun y => { y with delay := delayWord (getLink s l.val).samples })) := rfl

theorem exec_linkStateLimit (s : State) (l : Link) : exec (.linkStateLimit l) s = .next (
    if linkState s l.val == lsDetect then leaveLink (begin s) l.val lsDisabled 1
    else if linkState s l.val == lsPhy || linkState s l.val == lsRetrain then phyFail (begin s) l.val
    else if linkState s l.val == lsCaps then leaveLink (begin s) l.val lsDisabled 4
    else if linkState s l.val == lsDelay then leaveLink (begin s) l.val lsDisabled 5
    else begin s) := rfl

theorem linkState_eq (s : State) (l : Nat) : linkState s l = (getLink s l).st := rfl

/-- R276: a loss of lock counts the codewords lost, which no log entry notes, and retrains. -/
theorem exec_fecLockLoss {s : State} (l : Link) (lost : Nat) (h : linkState s l.val = lsActive) :
    exec (.fecLockLoss ⟨l, lost⟩) s = .next (retrain (if lost == 0 then begin s else modLinkWear (addLcntN (begin s) l.val 1 lost)
      l.val (fun w => { w with uncorrectable := w.uncorrectable + lost })) l.val 8) := by
  show (.next (if linkState s l.val == lsActive then _ else _) : Res) = _
  rw [if_pos (by simpa using h)]
  rfl

theorem min_toNat_add_zero (x : W32) : BitVec.ofNat 32 (min (2 ^ 32 - 1) (x.toNat + 0)) = x := by
  have hx := x.isLt
  apply BitVec.eq_of_toNat_eq
  rw [BitVec.toNat_ofNat]
  omega

theorem sset_sget [DecidableEq α] (d : α) (m : Sparse α) (k a : Nat) : sget d (sset d m k (sget d m k)) a = sget d m a := by
  rw [sget_sset]; split <;> simp_all

theorem fecLockLoss_effects {s : State} (l : Link) (lost : Nat) (h : linkState s l.val = lsActive) :
    Effects (.fecLockLoss ⟨l, lost⟩) s [.links, .wear, .out] (fun u =>
      (getLink u l.val).st = lsRetrain ∧ (getLink u l.val).cause = (if isA1 s then 0 else 8) ∧
      (getLink u l.val).retrains =
        (if (getLink s l.val).retrains < 255 then (getLink s l.val).retrains + 1 else 255) ∧
      sget 0 (getLink u l.val).lcnt 1 =
        BitVec.ofNat 32 (min (2 ^ 32 - 1) ((sget 0 (getLink s l.val).lcnt 1).toNat + lost))) := by
  have hexec := exec_fecLockLoss l lost h
  have hframe := begin_frame (L := [.links, .wear, .out]) (by decide) s
  by_cases hlost : lost = 0
  · subst hlost
    simp only [beq_self_eq_true, if_true] at hexec
    refine ⟨_, hexec, ?_, retrain_only ((closedOn_frame _ s).sub (by decide)) _ _ _ hframe⟩
    have hact : linkState (begin s) l.val = lsActive := h
    exact ⟨retrain_st hact 8, retrain_cause hact 8, retrain_retrains hact 8, by
      rw [min_toNat_add_zero, retrain_lcnt hact, getLink_begin]⟩
  · have hact : linkState (modLinkWear (addLcntN (begin s) l.val 1 lost) l.val
        (fun w => { w with uncorrectable := w.uncorrectable + lost })) l.val = lsActive := by
      simpa [linkState_eq] using h
    have hid : isA1 (modLinkWear (addLcntN (begin s) l.val 1 lost) l.val
        (fun w => { w with uncorrectable := w.uncorrectable + lost })) = isA1 s := by
      unfold modLinkWear; split <;> rfl
    rw [if_neg (by simpa using hlost)] at hexec
    refine ⟨_, hexec, ?_, retrain_only ((closedOn_frame _ s).sub (by decide)) _ _ _
      (modLinkWear_only ((closedOn_frame _ s).sub (by decide)) _ _ _
        (addLcntN_only ((closedOn_frame _ s).sub (by decide)) _ _ _ _ hframe))⟩
    exact ⟨retrain_st hact 8, by rw [retrain_cause hact, hid], by rw [retrain_retrains hact]; simp,
      by rw [retrain_lcnt hact]; simp⟩

@[simp] theorem modSpace_spaces_get (x : LinkSt) (k j : Nat) (f : Space → Space) :
    (modSpace x k f).spaces[j]? = if j = k then x.spaces[j]?.map f else x.spaces[j]? := by
  simp only [modSpace, List.getElem?_mapIdx]
  by_cases h : j = k
  · simp [h]
  · cases x.spaces[j]? <;> simp [h]

@[simp] theorem modSpace_st (x : LinkSt) (k : Nat) (f : Space → Space) : (modSpace x k f).st = x.st := rfl
@[simp] theorem modSpace_lcnt (x : LinkSt) (k : Nat) (f : Space → Space) : (modSpace x k f).lcnt = x.lcnt := rfl

theorem getSpace_of_get {x : LinkSt} {k : Nat} {y : Space} (h : x.spaces[k]? = some y) : getSpace x k = y := by
  simp [getSpace, List.getD, h]

/-- R274: a link whose replay timer has run out: the space replays, and both are counted. -/
def replayed (s : State) (l k : Nat) : State :=
  modLink (addLcnt (addLcnt (modLink (begin s) l (fun x => modSpace x k (fun y => { y with replay := some 0 }))) l 3) l 4) l
    (fun x => modSpace x k (fun y => { y with timeouts := y.timeouts + 1 }))

theorem exec_replayTimeout {s : State} {l : Link} {k : Fin 5} {y : Space} (h : linkState s l.val = lsActive)
    (hy : (getLink s l.val).spaces[k.val]? = some y) (hout : y.out ≠ []) : exec (.replayTimeout l k) s = .next (
      if 8 ≤ (getSpace (getLink (replayed s l.val k.val) l.val) k.val).timeouts then retrain (replayed s l.val k.val) l.val 9
      else replayed s l.val k.val) := by
  have hne : (getSpace (getLink s l.val) k.val).out.isEmpty = false := by
    rw [getSpace_of_get hy]; simpa using hout
  show execReplayTimeout l k s = _
  unfold execReplayTimeout startReplay
  simp only [linkState_begin, getLink_begin, h, hne, bne_self_eq_false, Bool.or_false, Bool.false_eq_true, if_false]
  rfl

theorem replayed_effects {s : State} {l : Link} {k : Fin 5} {y : Space} (h : linkState s l.val = lsActive)
    (hy : (getLink s l.val).spaces[k.val]? = some y) (hout : y.out ≠ []) :
    Effects (.replayTimeout l k) s [.links, .wear, .out] (fun u =>
      sget 0 (getLink u l.val).lcnt 4 = satInc (sget 0 (getLink s l.val).lcnt 4) ∧
      (y.timeouts < 7 → (getLink u l.val).spaces[k.val]? = some { y with replay := some 0, timeouts := y.timeouts + 1 }) ∧
      (7 ≤ y.timeouts → (getLink u l.val).st = lsRetrain ∧ (getLink u l.val).cause = if isA1 s then 0 else 9)) := by
  have hexec := exec_replayTimeout h hy hout
  have hspace : (getLink (replayed s l.val k.val) l.val).spaces[k.val]? =
      some { y with replay := some 0, timeouts := y.timeouts + 1 } := by
    simp [replayed, hy]
  have hlcnt : sget 0 (getLink (replayed s l.val k.val) l.val).lcnt 4 = satInc (sget 0 (getLink s l.val).lcnt 4) := by
    simp [replayed]
  have hst : linkState (replayed s l.val k.val) l.val = lsActive := by
    simpa [replayed, linkState_eq] using h
  have hid : isA1 (replayed s l.val k.val) = isA1 s := by simp [replayed]
  rw [getSpace_of_get hspace] at hexec
  refine effects_of_exec hexec rfl ?_
  by_cases hmany : 7 ≤ y.timeouts
  · rw [if_pos (by simpa using hmany)]
    exact ⟨by rw [retrain_lcnt hst, hlcnt], fun hfew => absurd hmany (by omega),
      fun _ => ⟨retrain_st hst 9, (retrain_cause hst 9).trans (by rw [hid])⟩⟩
  · rw [if_neg (by simpa using hmany)]
    exact ⟨hlcnt, fun _ => hspace, fun h => absurd h hmany⟩

theorem getLink_phyFail (s : State) (l : Nat) : let x := getLink s l
    if 7 ≤ x.phyFails then (getLink (phyFail s l) l).st = lsDisabled ∧
      (getLink (phyFail s l) l).cause = (if isA1 s then 0 else 2) ∧ (getLink (phyFail s l) l).phyFails = 0
    else (getLink (phyFail s l) l).st = lsDetect ∧ (getLink (phyFail s l) l).phyFails = x.phyFails + 1 := by
  intro x
  unfold phyFail
  by_cases h : 7 ≤ x.phyFails
  · have h' : 8 ≤ x.phyFails + 1 := by omega
    simp only [getLink_modLink, if_true]
    rw [if_pos h, if_pos h']
    simp <;> rfl
  · have h' : ¬ 8 ≤ x.phyFails + 1 := by omega
    simp only [getLink_modLink, if_true]
    rw [if_neg h, if_neg h']
    simp [x]

/-- Settles O36: one equation for each command, and the operations on a link it is made of. -/
theorem linksTrainAndFail : Obligations.LinksTrainAndFail := by
  unfold Obligations.LinksTrainAndFail
  intro s l
  refine ⟨fun h => effects_of_exec (exec_phyTraining l h) rfl (by simp), fun hst hlen hspr => ?_, fun hst hlen hspr => ?_,
    fun hst hlen hb0 => ?_, fun h => ?_, fun h => ?_, fun lost h => fecLockLoss_effects l lost h,
    fun k y h hy hout => replayed_effects h hy hout, fun h => ?_⟩
  · refine effects_of_exec (exec_delayMeasurement s l) rfl ?_
    rw [if_neg (by simpa [hst] using hlen), if_neg (by omega)]
    simp
  · refine effects_of_exec (exec_delayMeasurement s l) rfl ?_
    rw [if_neg (by simpa [hst] using hlen), if_pos hspr]
    simp <;> rfl
  · have hexec : exec (.cableDelayUpdate l) s = .next (if (getLink s l.val).st == lsActive &&
        (getLink s l.val).samples.length == 1024 && !isA1 s then
          modLink (begin s) l.val (fun y => { y with delay := delayWord y.samples }) else begin s) := rfl
    refine effects_of_exec hexec rfl ?_
    rw [if_pos (by simp [hst, hlen, hb0])]
    simp
  · refine effects_of_exec (exec_linkStateLimit s l) rfl ?_
    rw [linkState_eq]
    rcases h with h | h | h <;> rw [h] <;> refine ⟨?_, ?_⟩ <;> simp [lsDetect, lsPhy, lsRetrain, lsCaps, lsDelay] <;> rfl
  · have hexec := exec_linkStateLimit s l
    rw [linkState_eq, if_neg (by rcases h with h | h <;> rw [h] <;> decide), if_pos (by simpa using h)] at hexec
    exact effects_of_exec hexec rfl (getLink_phyFail (begin s) l.val)
  · have hexec : exec (.corruptedFlit l) s =
        .next (if sendsUnits (linkState s l.val) then badFlit (begin s) l.val else begin s) := rfl
    refine effects_of_exec hexec rfl ?_
    rw [linkState_eq, if_pos h]
    simp [badFlit]

/-! ### Headers -/

section
variable (s : State) (h k : Nat)

@[simp] theorem getHeader_modHeader (f : Header → Header) :
    getHeader (modHeader s h f) k = if k = h then f (getHeader s h) else getHeader s k := by
  simp [getHeader, modHeader]

@[simp] theorem getHeader_modWear (v : W64) (f : Wear → Wear) : getHeader (modWear s v f) h = getHeader s h := rfl
@[simp] theorem getWear_modHeader (f : Header → Header) (v : W64) : getWear (modHeader s h f) v = getWear s v := rfl
@[simp] theorem getWear_modWear (f : Wear → Wear) (v : W64) : getWear (modWear s v f) v = f (getWear s v) := by
  simp [getWear, modWear]
@[simp] theorem getLink_modHeader (f : Header → Header) : getLink (modHeader s h f) k = getLink s k := rfl

theorem getHeader_of_headers {s u : State} (hu : u.headers = s.headers) (h : Nat) : getHeader u h = getHeader s h := by
  unfold getHeader; rw [hu]

theorem getWear_of_wear {s u : State} (hu : u.wear = s.wear) (v : W64) : getWear u v = getWear s v := by
  unfold getWear; rw [hu]

end

theorem nodup_linksOf (h : Nat) : (linksOf h).Nodup := by simp [linksOf]

/-- Links that are changed one by one, each by itself. -/
theorem foldl_links {L : List Piece} {s : State} {F : State → Nat → State} {g : Nat → LinkSt → LinkSt}
    (hF : ∀ u l, Frame L s u → Frame L s (F u l) ∧
      ∀ k, getLink (F u l) k = if k = l then g l (getLink u l) else getLink u k)
    {l : List Nat} (hl : l.Nodup) (u : State) (hu : Frame L s u) : Frame L s (l.foldl F u) ∧
      ∀ k, getLink (l.foldl F u) k = if k ∈ l then g k (getLink u k) else getLink u k := by
  induction l generalizing u with
  | nil => exact ⟨hu, by simp⟩
  | cons a l ih =>
    obtain ⟨ha, hl⟩ := List.nodup_cons.1 hl
    obtain ⟨hframe, hget⟩ := hF u a hu
    refine ⟨(ih hl _ hframe).1, fun k => ?_⟩
    rw [List.foldl_cons, (ih hl _ hframe).2 k, hget]
    by_cases hk : k = a
    · subst hk; simp [ha]
    · simp [hk]

/-- What is the same where links alone have changed. -/
theorem same_of_links {s u : State} (h : Frame [.links] s u) : isA1 u = isA1 s ∧
    mayLeaveDisabled u = mayLeaveDisabled s ∧ (∀ l, linkEnabled u l = linkEnabled s l) ∧ u.headers = s.headers ∧
    u.wear = s.wear ∧ u.power = s.power := by
  have hid : u.id = s.id := h.2 .id (by decide)
  have hward : u.ward = s.ward := h.2 .ward (by decide)
  have hen : u.lctlEnable = s.lctlEnable := h.2 .lctlEnable (by decide)
  exact ⟨by simp only [isA1, hid], by simp only [mayLeaveDisabled, hward], fun l => by simp only [linkEnabled, hen],
    h.2 .headers (by decide), h.2 .wear (by decide), h.2 .power (by decide)⟩

/-- R279: what the presence of an assembly makes of a link. -/
def presenceLink (a1 free present : Bool) (x : LinkSt) : LinkSt :=
  if present then
    if x.st == lsDetect || (x.st == lsDisabled && free) then x.cleared.inState lsDetect else x
  else if x.st == lsActive then { x.cleared.inState lsDetect with cause := if a1 then 0 else 1 } else x

/-- R279: one link at a change of presence. -/
def presenceStep (present : Bool) (s : State) (l : Nat) : State :=
  if present then
    if linkState s l == lsDetect || (linkState s l == lsDisabled && mayLeaveDisabled s) then startDetect s l else s
  else if linkState s l == lsActive then setCause (startDetect s l) l 1 else s

theorem foldl_presence (s : State) (h : Nat) (present : Bool) : Frame [.links] s ((linksOf h).foldl (presenceStep present) s) ∧
    ∀ k, getLink ((linksOf h).foldl (presenceStep present) s) k = if k ∈ linksOf h then
      presenceLink (isA1 s) (mayLeaveDisabled s) present (getLink s k) else getLink s k := by
  refine foldl_links (g := fun _ => presenceLink (isA1 s) (mayLeaveDisabled s) present) (fun u l hu => ?_)
    (nodup_linksOf h) s (Frame.refl _ s)
  obtain ⟨ha1, hfree, -, -, -, -⟩ := same_of_links hu
  have hdet := startDetect_only (closedOn_frame [.links] s) u l hu
  unfold presenceLink presenceStep
  simp only [hfree, linkState_eq]
  cases present
  · by_cases hst : (getLink u l).st == lsActive
    · simp only [hst, if_true, Bool.false_eq_true, if_false]
      refine ⟨setCause_only (closedOn_frame [.links] s) _ _ _ hdet, fun k => ?_⟩
      rw [getLink_setCause, isA1_startDetect, ha1]
      by_cases hk : k = l <;> simp [hk]
    · simp only [hst, Bool.false_eq_true, if_false]
      exact ⟨hu, fun k => by split <;> simp_all⟩
  · by_cases hst : ((getLink u l).st == lsDetect || (getLink u l).st == lsDisabled && mayLeaveDisabled s) = true
    · simp only [hst, if_true]
      exact ⟨hdet, fun k => getLink_startDetect u l k⟩
    · simp only [hst, if_true]
      exact ⟨hu, fun k => by split <;> simp_all⟩

theorem presenceChange_effects (s : State) (h : Fin 9) (b : Bool) (hne : (getHeader s h.val).present ≠ b) :
    Effects (.presenceChange h b) s [.links, .headers, .out] (fun u => getHeader u h.val = ⟨b, false, false, none, 0⟩ ∧
      (headerOnBit s h.val = true → ∀ l ∈ linksOf h.val,
        (b = false → linkState s l = lsActive → linkState u l = lsDetect ∧
          (getLink u l).cause = if isA1 s then 0 else 1) ∧
        (b = true → (linkState s l = lsDetect ∨ (linkState s l = lsDisabled ∧ mayLeaveDisabled s = true)) →
          linkState u l = lsDetect))) := by
  let v := modHeader (begin s) h.val (fun _ => ⟨b, false, false, none, 0⟩)
  have hexec : exec (.presenceChange h b) s = .next (if (getHeader s h.val).present == b then begin s else
      if !headerOnBit s h.val then v else (linksOf h.val).foldl (presenceStep b) v) := rfl
  have hv : getHeader v h.val = ⟨b, false, false, none, 0⟩ := by simp [v]
  rw [if_neg (by simpa using hne)] at hexec
  refine effects_of_exec hexec rfl ?_
  cases hon : headerOnBit s h.val
  · exact ⟨hv, fun hf => absurd hf (by decide)⟩
  · obtain ⟨hframe, hlink⟩ := foldl_presence v h.val b
    refine ⟨(getHeader_of_headers (hframe.2 .headers (by decide)) _).trans hv, fun _ l hl => ?_⟩
    have hget := (hlink l).trans (if_pos hl)
    have hsame : getLink v l = getLink s l := rfl
    constructor
    · rintro rfl hst
      rw [linkState_eq] at hst
      unfold linkState
      erw [hget, hsame]
      simp [presenceLink, hst]
      rfl
    · rintro rfl hst
      rw [linkState_eq] at hst
      unfold linkState
      erw [hget, hsame]
      have hfree : mayLeaveDisabled v = mayLeaveDisabled s := rfl
      rw [presenceLink, if_pos rfl, if_pos (by rw [hfree]; simpa using hst), LinkSt.inState_st]

/-! ### Wear -/

@[simp] theorem raiseEvent_wear (s : State) (kind sect sev : Nat) (raw : RawRec) : (raiseEvent s kind sect sev raw).wear = s.wear :=
  (raiseEvent_only (closedOn_frame [.ward, .out] s) s kind sect sev raw (Frame.refl _ s)).2 .wear (by decide)

/-- R287: the events of a wear record leave its counters. -/
theorem getWear_wearEvents (s : State) (v : W64) : ∃ a b, getWear (wearEvents s v) v =
    { getWear s v with warned := a, replaced := b } := by
  unfold wearEvents
  dsimp only
  rw [getWear_modWear]
  have hsame (c d : Bool) (x y : RawRec) : getWear (if d then raiseEvent (if c then raiseEvent s evCableWear 0xF 0 x else s)
      evCableReplace 0xF 0 y else if c then raiseEvent s evCableWear 0xF 0 x else s) v = getWear s v :=
    getWear_of_wear (by cases c <;> cases d <;> simp) v
  exact ⟨_, _, by rw [hsame]⟩

theorem getHeader_wearEvents (s : State) (v : W64) (h : Nat) : getHeader (wearEvents s v) h = getHeader s h :=
  getHeader_of_headers ((wearEvents_only (closedOn_frame [.wear, .ward, .out] s) s v (Frame.refl _ s)).2 .headers (by decide)) h

theorem isA1_of_frame {L : List Piece} {s u : State} (h : Frame L s u) (hid : Piece.id ∉ L) : isA1 u = isA1 s := by
  have h : u.id = s.id := h.2 .id hid
  unfold isA1; rw [h]

theorem isA1_wearEvents (s : State) (v : W64) : isA1 (wearEvents s v) = isA1 s :=
  isA1_of_frame (wearEvents_only (closedOn_frame [.wear, .ward, .out] s) s v (Frame.refl _ s)) (by decide)

theorem writeBack_wear (s : State) (h : Nat) (v : W64) : getWear (writeBack s h) v = getWear s v := by
  unfold writeBack; split <;> rfl

/-- R286: the assembly's record after the warden has written its own back. -/
def withWear (c : CableRec) (w : Wear) : CableRec := { c with
  poh := w.poh, matings := w.matings, retrains := w.retrains, uncorrectable := w.uncorrectable, maxTemp := w.maxTemp }

theorem getHeader_writeBack (s : State) (h : Nat) : getHeader (writeBack s h) h = { getHeader s h with
    cable := (getHeader s h).cable.map (fun c => if isA1 s then c else withWear c (getWear s c.serial)) } := by
  unfold writeBack
  split
  next ha1 => cases hc : (getHeader s h).cable <;> simp [ha1, ← hc]
  next ha1 => cases hc : (getHeader s h).cable <;> simp [ha1, hc, withWear]

theorem powerOnHour_effects (s : State) (h : Fin 9) (c : CableRec) (hc : (getHeader s h.val).cable = some c)
    (hon : headerOnBit s h.val = true) : Effects (.powerOnHour h) s [.headers, .wear, .ward, .out] (fun u =>
      (getWear u c.serial).poh = (getWear s c.serial).poh + 1 ∧
      ∃ x, (getHeader u h.val).cable = some x ∧
        x.poh = if isA1 s then c.poh else (getWear s c.serial).poh + 1) := by
  let v := wearEvents (modWear (begin s) c.serial (fun w => { w with poh := w.poh + 1 })) c.serial
  have hexec : exec (.powerOnHour h) s = .next (writeBack v h.val) := by
    show (.next (match (getHeader s h.val).cable with
      | some c => if headerOnBit s h.val then writeBack (wearEvents (modWear (begin s) c.serial
          (fun w => { w with poh := w.poh + 1 })) c.serial) h.val else begin s
      | none => begin s) : Res) = _
    rw [hc]
    exact congrArg _ (if_pos hon)
  obtain ⟨a, b, hv⟩ := getWear_wearEvents (modWear (begin s) c.serial (fun w => { w with poh := w.poh + 1 })) c.serial
  have hpoh : (getWear v c.serial).poh = (getWear s c.serial).poh + 1 := by
    rw [show getWear v c.serial = _ from hv, getWear_modWear]; rfl
  have hcable : (getHeader v h.val).cable = some c := by rw [getHeader_wearEvents]; exact hc
  refine effects_of_exec hexec rfl ⟨by rw [writeBack_wear, hpoh], _, by rw [getHeader_writeBack, hcable]; rfl, ?_⟩
  have ha1 : isA1 v = isA1 s := isA1_wearEvents _ _
  rw [ha1]
  cases isA1 s
  · exact hpoh
  · rfl

/-- R286: of the warden's count and the assembly's, the larger; on stepping A1 the warden's own (R291). -/
def wearBoth (a1 : Bool) (own its : Nat) : Nat := if a1 then own else max own its

theorem getWear_readWear (s : State) (c : CableRec) (fresh : Bool) : let w := getWear (readWear s c fresh) c.serial
    w.poh = wearBoth (isA1 s) (getWear s c.serial).poh c.poh ∧
    w.matings = wearBoth (isA1 s) (getWear s c.serial).matings c.matings + (if fresh then 1 else 0) ∧
    w.retrains = wearBoth (isA1 s) (getWear s c.serial).retrains c.retrains ∧
    w.uncorrectable = wearBoth (isA1 s) (getWear s c.serial).uncorrectable c.uncorrectable := by
  unfold readWear
  dsimp only
  obtain ⟨a, b, h⟩ := getWear_wearEvents (modWear s c.serial _) c.serial
  rw [h, getWear_modWear]
  exact ⟨rfl, rfl, rfl, rfl⟩

/-- R279, R285: what the reading of an assembly makes of a link. -/
def readLink (a1 ok enabled : Bool) (x : LinkSt) : LinkSt :=
  if x.st != lsDetect then x
  else if !ok then { x.cleared.inState lsDisabled with cause := if a1 then 0 else 1 }
  else if enabled then x.inState lsPhy
  else { x.cleared.inState lsDisabled with cause := if a1 then 0 else 6 }

/-- R279: one link at the reading of its assembly. -/
def readStep (ok : Bool) (s : State) (l : Nat) : State :=
  if linkState s l != lsDetect then s
  else if !ok then leaveLink s l lsDisabled 1
  else if linkEnabled s l then goLink s l lsPhy
  else leaveLink s l lsDisabled 6

theorem foldl_read (s : State) (h : Nat) (ok : Bool) : Frame [.links] s ((linksOf h).foldl (readStep ok) s) ∧
    ∀ k, getLink ((linksOf h).foldl (readStep ok) s) k = if k ∈ linksOf h then
      readLink (isA1 s) ok (linkEnabled s k) (getLink s k) else getLink s k := by
  refine foldl_links (g := fun k => readLink (isA1 s) ok (linkEnabled s k)) (fun u l hu => ?_) (nodup_linksOf h) s
    (Frame.refl _ s)
  obtain ⟨ha1, -, hen, -, -, -⟩ := same_of_links hu
  unfold readLink readStep
  simp only [hen, linkState_eq]
  by_cases hst : ((getLink u l).st != lsDetect) = true
  · simp only [hst, if_true]
    exact ⟨hu, fun k => by split <;> simp_all⟩
  · simp only [hst, Bool.false_eq_true, if_false]
    cases ok <;> simp only [Bool.not_false, Bool.not_true, Bool.false_eq_true, if_true, if_false]
    · exact ⟨leaveLink_only (closedOn_frame _ s) _ _ _ _ hu, fun k => by rw [getLink_leaveLink, ha1]⟩
    · cases linkEnabled s l <;> simp only [Bool.false_eq_true, if_true, if_false]
      · exact ⟨leaveLink_only (closedOn_frame _ s) _ _ _ _ hu, fun k => by rw [getLink_leaveLink, ha1]⟩
      · exact ⟨goLink_only (closedOn_frame _ s) _ _ _ hu, fun k => by rw [getLink_goLink]⟩

theorem readLink_detect (a1 ok enabled : Bool) {x : LinkSt} (h : x.st = lsDetect) :
    (readLink a1 ok enabled x).st = (if ok = true ∧ enabled = true then lsPhy else lsDisabled) ∧
    (ok = false → (readLink a1 ok enabled x).cause = if a1 then 0 else 1) := by
  unfold readLink
  rw [if_neg (by simp [h])]
  cases ok <;> cases enabled <;> simp

theorem cmisIdentityRead_effects (s : State) (h : Fin 9) (c : CableRec) (hp : (getHeader s h.val).present = true)
    (hon : headerOnBit s h.val = true) (hdet : ∃ l ∈ linksOf h.val, linkState s l = lsDetect) :
    Effects (.cmisIdentityRead h c) s [.links, .headers, .wear, .ward, .out] (fun u =>
      let ok := c.valid && c.namesCard
      let w := getWear u c.serial
      (getHeader u h.val).qualified = ok ∧ (getHeader u h.val).highPower = ok ∧
      (getHeader u h.val).cable = some (if isA1 s then c else withWear c w) ∧
      (∀ l ∈ linksOf h.val, linkState s l = lsDetect →
        linkState u l = (if ok = true ∧ linkEnabled s l = true then lsPhy else lsDisabled) ∧
        (ok = false → (getLink u l).cause = if isA1 s then 0 else 1)) ∧
      w.poh = wearBoth (isA1 s) (getWear s c.serial).poh c.poh ∧
      w.matings = wearBoth (isA1 s) (getWear s c.serial).matings c.matings +
        (if (getHeader s h.val).cable.isNone then 1 else 0) ∧
      w.retrains = wearBoth (isA1 s) (getWear s c.serial).retrains c.retrains ∧
      w.uncorrectable = wearBoth (isA1 s) (getWear s c.serial).uncorrectable c.uncorrectable) := by
  let ok := c.valid && c.namesCard
  let a := modHeader (begin s) h.val (fun y => { y with qualified := ok, highPower := ok, cable := some c })
  let b := readWear a c (getHeader s h.val).cable.isNone
  let d := writeBack b h.val
  have hexec : exec (.cmisIdentityRead h c) s = .next (if !(getHeader s h.val).present || !headerOnBit s h.val ||
      !(linksOf h.val).any (fun l => linkState s l == lsDetect) then begin s else
      (linksOf h.val).foldl (readStep ok) d) := rfl
  rw [if_neg (by simpa [hp, hon] using hdet)] at hexec
  obtain ⟨hframe, hlink⟩ := foldl_read d h.val ok
  have hab : Frame [.wear, .ward, .out] a b := readWear_only (closedOn_frame _ a) a c _ (Frame.refl _ a)
  have hbd : Frame [.headers] b d := writeBack_only (closedOn_frame _ b) b h.val (Frame.refl _ b)
  have ha : getHeader b h.val = { getHeader s h.val with qualified := ok, highPower := ok, cable := some c } := by
    rw [getHeader_of_headers (hab.2 .headers (by decide))]
    simp only [a, getHeader_modHeader, if_true]
    rfl
  have hb1 : isA1 b = isA1 s := (isA1_of_frame hab (by decide)).trans (by rfl)
  have hd1 : isA1 d = isA1 s := (isA1_of_frame hbd (by decide)).trans hb1
  have hen (l : Nat) : linkEnabled d l = linkEnabled s l := by
    have h1 : b.lctlEnable = a.lctlEnable := hab.2 .lctlEnable (by decide)
    have h2 : d.lctlEnable = b.lctlEnable := hbd.2 .lctlEnable (by decide)
    unfold linkEnabled; rw [h2, h1]; rfl
  have hlinks (l : Nat) : getLink d l = getLink s l := by
    rw [getLink_of_links (hbd.2 .links (by decide)), getLink_of_links (hab.2 .links (by decide))]; rfl
  have hd : getHeader d h.val = { getHeader s h.val with
      qualified := ok, highPower := ok, cable := some (if isA1 s then c else withWear c (getWear b c.serial)) } := by
    rw [getHeader_writeBack, ha, hb1]; rfl
  have hwear (v : W64) : getWear d v = getWear b v := writeBack_wear b h.val v
  refine effects_of_exec hexec rfl ?_
  dsimp only
  rw [getHeader_of_headers (hframe.2 .headers (by decide)), getWear_of_wear (hframe.2 .wear (by decide)), hd, hwear]
  obtain ⟨hpoh, hmat, hret, hunc⟩ := getWear_readWear a c (getHeader s h.val).cable.isNone
  refine ⟨rfl, rfl, rfl, fun l hl hst => ?_, hpoh, hmat, hret, hunc⟩
  rw [linkState_eq, hlink l, if_pos hl, hlinks, hen, hd1]
  exact readLink_detect _ _ _ hst

/-- R285: the links of a header whose domain is switched off. -/
theorem foldl_leave (s : State) (h : Nat) (st c : BitVec 4) :
    Frame [.links] s ((linksOf h).foldl (fun s l => leaveLink s l st c) s) ∧
    ∀ k ∈ linksOf h, linkState ((linksOf h).foldl (fun s l => leaveLink s l st c) s) k = st ∧
      (getLink ((linksOf h).foldl (fun s l => leaveLink s l st c) s) k).cause = if isA1 s then 0 else c := by
  obtain ⟨hframe, hget⟩ := foldl_links (s := s) (F := fun s l => leaveLink s l st c)
    (g := fun _ x => { x.cleared.inState st with cause := if isA1 s then 0 else c }) (fun u l hu => by
      refine ⟨leaveLink_only (closedOn_frame _ s) u l st c hu, fun k => ?_⟩
      rw [getLink_leaveLink, (same_of_links hu).1]) (nodup_linksOf h) s (Frame.refl _ s)
  refine ⟨hframe, fun k hk => ?_⟩
  rw [linkState_eq, hget k, if_pos hk]
  exact ⟨LinkSt.inState_st _ _, rfl⟩

theorem headerOvercurrent_off (s : State) (h : Fin 9) (c : CableRec) (draw : Nat)
    (hc : (getHeader s h.val).cable = some c) (hon : headerOnBit s h.val = true) (hover : c.powerMw < draw) :
    Effects (.headerOvercurrent ⟨h, draw⟩) s [.headers, .links, .power, .out] (fun u =>
      headerOnBit u h.val = false ∧ ∀ l ∈ linksOf h.val, linkState u l = lsOff ∧
        (getLink u l).cause = if isA1 s then 0 else 0xB) := by
  have hexec : exec (.headerOvercurrent ⟨h, draw⟩) s = .next (headerOff (modHeader (begin s) h.val
      (fun y => { y with drawMw := draw })) h.val 0xB) := by
    show (.next (match (getHeader s h.val).cable with
      | some c => if headerOnBit s h.val && decide (c.powerMw < draw) then headerOff (modHeader (begin s) h.val
          (fun y => { y with drawMw := draw })) h.val 0xB else modHeader (begin s) h.val (fun y => { y with drawMw := draw })
      | none => begin s) : Res) = _
    rw [hc]
    exact congrArg _ (if_pos (by simp [hon, hover]))
  refine effects_of_exec hexec rfl ?_
  unfold headerOff
  obtain ⟨hframe, hlink⟩ := foldl_leave (modHeader (modPower (modHeader (begin s) h.val (fun y => { y with drawMw := draw }))
    (fun w => { w with on := w.on &&& ~~~ (BitVec.ofNat 37 (2 ^ (28 + h.val))),
                       hdr := w.hdr &&& ~~~ (BitVec.ofNat 9 (2 ^ h.val)) })) h.val
    (fun y => { y with highPower := false })) h.val lsOff 0xB
  refine ⟨?_, fun l hl => ⟨(hlink l hl).1, (hlink l hl).2⟩⟩
  have hh := h.isLt
  unfold headerOnBit
  rw [(same_of_links hframe).2.2.2.2.2]
  show (s.power.on &&& ~~~ (BitVec.ofNat 37 (2 ^ (28 + h.val)))).getLsbD (28 + h.val) = false
  simp only [BitVec.getLsbD_and, BitVec.getLsbD_not, BitVec.getLsbD_ofNat, Nat.testBit_two_pow_self,
    show 28 + h.val < 37 by omega, decide_true, Bool.and_self, Bool.not_true, Bool.and_false]

theorem headerOvercurrent_within (s : State) (h : Fin 9) (c : CableRec) (draw : Nat)
    (hc : (getHeader s h.val).cable = some c) (hunder : draw ≤ c.powerMw) :
    Effects (.headerOvercurrent ⟨h, draw⟩) s [.headers, .out] (fun u =>
      getHeader u h.val = { getHeader s h.val with drawMw := draw }) := by
  have hexec : exec (.headerOvercurrent ⟨h, draw⟩) s = .next (modHeader (begin s) h.val
      (fun y => { y with drawMw := draw })) := by
    show (.next (match (getHeader s h.val).cable with
      | some c => if headerOnBit s h.val && decide (c.powerMw < draw) then headerOff (modHeader (begin s) h.val
          (fun y => { y with drawMw := draw })) h.val 0xB else modHeader (begin s) h.val (fun y => { y with drawMw := draw })
      | none => begin s) : Res) = _
    rw [hc]
    exact congrArg _ (if_neg (by simp [hunder]))
  refine ⟨_, hexec, ?_, modHeader_only ((closedOn_frame _ s).sub (by decide)) _ _ _ (begin_frame (by decide) s)⟩
  exact (getHeader_modHeader _ _ _ _).trans (if_pos rfl)

/-- Settles O37: the header's own update, and its four links one by one. -/
theorem headersReadTheirAssemblies : Obligations.HeadersReadTheirAssemblies := by
  unfold Obligations.HeadersReadTheirAssemblies
  exact ⟨presenceChange_effects, cmisIdentityRead_effects, powerOnHour_effects, fun s h c draw hc hon =>
    ⟨headerOvercurrent_off s h c draw hc hon, headerOvercurrent_within s h c draw hc⟩⟩

end Sys2Proof.Machine
end

section
/-!
PROOFS. System time: the lock (R54-R58) and the bell (R60, R62).
-/
namespace Sys2Proof.Machine

/-! ### What a change of the lock leaves of system time -/

section
variable (x : Time) (st : Lock)

@[simp] theorem Time.relock_period : (x.relock st).period = x.period := by unfold Time.relock; split <;> rfl
@[simp] theorem Time.relock_epoch : (x.relock st).epoch = x.epoch := by unfold Time.relock; split <;> rfl
@[simp] theorem Time.relock_guard : (x.relock st).guard = x.guard := by unfold Time.relock; split <;> rfl
@[simp] theorem Time.relock_offset : (x.relock st).offset = x.offset := by unfold Time.relock; split <;> rfl

theorem Time.relock_gm_free (h : x.lock ≠ .free) : (x.relock .free).gm = 0 := by
  unfold Time.relock; rw [if_neg h]; rfl

theorem Time.relock_gm (h : st ≠ .free) : (x.relock st).gm = x.gm := by
  unfold Time.relock
  split
  · rfl
  · cases st <;> simp_all [Time.enter]

theorem Time.relock_chg (h : x.lock ≠ st) : (x.relock st).chg = true := by
  unfold Time.relock; rw [if_neg h]; rfl

/-- R56: the system time at which HOLDOVER ends. -/
def holdEndOf (since : Nat) (off : W32) : Nat := since + min 10000000000 ((200 - (signed32 off).natAbs) * 62500000)

/-- R56: the same of a system time. -/
def Time.holdEnd : Nat := holdEndOf x.holdSince x.holdOffset

theorem Time.relock_free_holdEnd : (x.relock .free).holdEnd = x.holdEnd := by unfold Time.relock; split <;> rfl

/-- R56: system time where HOLDOVER has ended if its limit has come. -/
def Time.endHold : Time := if x.lock = .holdover ∧ x.holdEnd ≤ x.ns.toNat then x.relock .free else x

@[simp] theorem Time.endHold_ns : x.endHold.ns = x.ns := by unfold Time.endHold; split <;> simp
@[simp] theorem Time.endHold_frac : x.endHold.frac = x.frac := by unfold Time.endHold; split <;> simp
@[simp] theorem Time.endHold_frame : x.endHold.frame = x.frame := by unfold Time.endHold; split <;> simp
@[simp] theorem Time.endHold_guard : x.endHold.guard = x.guard := by unfold Time.endHold; split <;> simp
@[simp] theorem Time.endHold_period : x.endHold.period = x.period := by unfold Time.endHold; split <;> simp
@[simp] theorem Time.endHold_epoch : x.endHold.epoch = x.epoch := by unfold Time.endHold; split <;> simp
@[simp] theorem Time.endHold_holdEnd : x.endHold.holdEnd = x.holdEnd := by
  unfold Time.endHold; split <;> simp [Time.relock_free_holdEnd]

theorem Time.endHold_lock : x.endHold.lock = if x.lock = .holdover ∧ x.holdEnd ≤ x.ns.toNat then .free else x.lock := by
  unfold Time.endHold; split <;> simp

end

theorem holdoverEnd_eq (s : State) : holdoverEnd s = s.time.holdEnd := rfl

theorem endHoldover_time (s : State) : (endHoldover s).time = s.time.endHold := by
  unfold endHoldover Time.endHold
  have hiff : (s.time.lock == .holdover && decide (holdoverEnd s ≤ s.time.ns.toNat)) = true ↔
      s.time.lock = .holdover ∧ s.time.holdEnd ≤ s.time.ns.toNat := by
    rw [Bool.and_eq_true, beq_iff_eq, decide_eq_true_eq, holdoverEnd_eq]
  by_cases h : s.time.lock = .holdover ∧ s.time.holdEnd ≤ s.time.ns.toNat
  · rw [if_pos h, if_pos (hiff.2 h), setLock_time]
  · rw [if_neg h, if_neg (mt hiff.1 h)]

/-! ### The guard band and the tick -/

/-- R60: the system time of tick n. -/
def Time.tickNs (x : Time) (n : Nat) : Nat := x.epoch.toNat + n * (x.period.toNat * 1000)

theorem tickNs_eq (s : State) (n : Nat) : tickNs s n = s.time.tickNs n := rfl

/-- R62: system time from the beginning of the guard band of the frame. -/
def Time.toGuard (x : Time) : Time :=
  match x.frame with
  | none => x
  | some n => if x.guard then x else
    { x with ns := w64 (x.tickNs (n + 1) - 200), frac := 0, guard := true }.endHold

theorem guardWork_time (s : State) : (guardWork s).time = s.time.toGuard := by
  unfold guardWork Time.toGuard
  cases hf : s.time.frame with
  | none => rfl
  | some n =>
    dsimp only
    cases hg : s.time.guard
    · rw [if_neg Bool.false_ne_true, if_neg Bool.false_ne_true]
      have htime := endHoldover_time (modTime s (fun x => { x with ns := w64 (tickNs s (n + 1) - 200), frac := 0, guard := true }))
      rw [modTime_time, hf] at htime
      generalize endHoldover (modTime s _) = v at htime ⊢
      refine Eq.trans ?_ htime
      have hc : ClosedOn (fun u : State => u.time = v.time) [.sect, .cmds, .ward, .trace, .out, .links] :=
        closedOn_of_frame fun u w hu hw => (hw.2 .time (by decide)).trans hu
      have hleave : (leaveDeparted v).time = v.time := leaveDeparted_only (hc.sub (by decide)) v rfl
      exact clearCuts_only (hc.sub (by decide)) _ (p_foldl (P := fun u : State => u.time = v.time) _ _ hleave fun u t hu =>
        countMb_only (hc.sub (by decide)) _ _ (noteOvers_only (hc.sub (by decide)) _ _ hu))
    · rfl

theorem endGuard_time (s : State) : (endGuard s).time = s.time.toGuard := by
  have hc : ClosedOn (fun u : State => u.time = s.time.toGuard) [.sect, .rings, .cmds, .recs, .steps, .colls, .tiers, .links,
      .ward, .trace, .out, .fresh] := closedOn_of_frame fun u v hu hv => (hv.2 .time (by decide)).trans hu
  have hguard := guardWork_time s
  unfold endGuard
  dsimp only
  split
  next => exact hguard
  next =>
    refine p_foldl (P := fun u : State => u.time = s.time.toGuard) _ _ ?_ fun u t hu =>
      finishDrains_only (hc.sub (by decide)) _ _ (drainTakes_only (hc.sub (by decide)) _ _ hu)
    split
    next => exact drainCard_only hc _ hguard
    next => exact hguard

/-- R60: system time at the tick of frame n, before the limit of HOLDOVER is looked at again. -/
def Time.toTick (x : Time) (n : Nat) : Time :=
  { { x with ns := w64 (x.tickNs n - 1), frac := 0xFFFFFFFF }.endHold with
    ns := w64 (x.tickNs n), frac := 0, frame := some n, guard := false }

theorem tickStart_time (s : State) : (tickStart s).time = s.time.toGuard.toTick (nextTick (endGuard s)) := by
  have hbefore : (beforeTick s).time = { s.time.toGuard with
      ns := w64 (s.time.toGuard.tickNs (nextTick (endGuard s)) - 1), frac := 0xFFFFFFFF }.endHold := by
    unfold beforeTick
    rw [endHoldover_time, modTime_time, tickNs_eq, endGuard_time]
  show { (beforeTick s).time with ns := w64 ((beforeTick s).time.tickNs (nextTick (endGuard s))), frac := 0,
                                  frame := some (nextTick (endGuard s)), guard := false } = _
  rw [hbefore]
  simp [Time.toTick, Time.tickNs]

/-- R60, R283: system time after a tick: its in-band source is chosen, and HOLDOVER has ended if its limit has come. -/
theorem tickWork_time (s : State) : ∃ link, (tickWork s).time =
    { s.time.toGuard.toTick (nextTick (endGuard s)) with link := link }.endHold := by
  rw [tickWork_eq, endHoldover_time]
  have hc (x : Time) : ClosedOn (fun u : State => u.time = x) [.sect, .nflag, .rings, .cmds, .recs, .steps, .cores, .slate,
      .commons, .colls, .tiers, .links, .ward, .trace, .out, .fresh] :=
    closedOn_of_frame fun u w hu hw => (hw.2 .time (by decide)).trans hu
  have hsect := p_foldl (P := fun u : State => u.time = (tickStart s).time) (tickSection (nextTick (endGuard s))) allSecs rfl
    fun u t hu => tickSection_only (hc _) _ _ _ hu
  generalize allSecs.foldl (tickSection (nextTick (endGuard s))) (tickStart s) = v at hsect ⊢
  have hlink : ∃ link, (pickTimeLink v).time = { v.time with link := link } := by
    have hP : ∀ x, ∃ link, (modTime v (fun y => { y with link := x })).time = { v.time with link := link } :=
      fun x => ⟨x, rfl⟩
    exact p_foldl (P := fun u : State => ∃ link, u.time = { v.time with link := link }) _ _ (hP _) fun u l hu =>
      p_ite (P := fun u : State => ∃ link, u.time = { v.time with link := link }) _ _ _ hu hu
  obtain ⟨link, hlink⟩ := hlink
  refine ⟨link, congrArg Time.endHold ?_⟩
  rw [← tickStart_time, ← hsect, ← hlink]
  exact tickDrain_only ((hc _).sub (by decide)) _ (markDeparted_only ((hc _).sub (by decide)) _ rfl)

@[simp] theorem Time.toGuard_frame (x : Time) : x.toGuard.frame = x.frame := by
  unfold Time.toGuard; split
  · rfl
  · split
    · rfl
    · rw [Time.endHold_frame]

@[simp] theorem Time.toGuard_tickNs (x : Time) (n : Nat) : x.toGuard.tickNs n = x.tickNs n := by
  unfold Time.toGuard Time.tickNs; split
  · rfl
  · split
    · rfl
    · rw [Time.endHold_epoch, Time.endHold_period]

@[simp] theorem Time.toGuard_holdEnd (x : Time) : x.toGuard.holdEnd = x.holdEnd := by
  unfold Time.toGuard; split
  · rfl
  · split
    · rfl
    · rw [Time.endHold_holdEnd]; unfold Time.holdEnd; rfl

theorem nextTick_endGuard (s : State) : nextTick (endGuard s) = nextTick s := by
  unfold nextTick; rw [endGuard_time, Time.toGuard_frame]

theorem toNat_w64_of_lt {n : Nat} (h : n < 2 ^ 64) : (w64 n).toNat = n :=
  by unfold w64; rw [BitVec.toNat_ofNat, Nat.mod_eq_of_lt h]

/-- R56: an earlier look at the limit of HOLDOVER finds no more than the one at the tick. -/
theorem tick_lock (x : Time) (n : Nat) (hn : ∀ m, x.frame = some m → n = m + 1) (hlt : x.tickNs n < 2 ^ 64) (link : Option Link) :
    { x.toGuard.toTick n with link := link }.endHold.lock =
      if x.lock = .holdover ∧ x.holdEnd ≤ x.tickNs n then .free else x.lock := by
  have hguard : x.toGuard.lock = x.lock ∨ x.toGuard.lock = .free ∧ x.lock = .holdover ∧ x.holdEnd ≤ x.tickNs n := by
    unfold Time.toGuard
    split
    next => exact .inl rfl
    next m hm =>
      obtain rfl := hn m hm
      split
      next => exact .inl rfl
      next =>
        rw [Time.endHold_lock]
        split
        next h =>
          obtain ⟨hlock, hle⟩ := h
          replace hle : x.holdEnd ≤ (w64 (x.tickNs (m + 1) - 200)).toNat := by unfold Time.holdEnd at hle ⊢; exact hle
          rw [toNat_w64_of_lt (n := x.tickNs (m + 1) - 200) (by omega)] at hle
          exact .inr ⟨rfl, hlock, by omega⟩
        next => exact .inl rfl
  have htick : (x.toGuard.toTick n).lock = x.lock ∨
      (x.toGuard.toTick n).lock = .free ∧ x.lock = .holdover ∧ x.holdEnd ≤ x.tickNs n := by
    unfold Time.toTick
    show ({ x.toGuard with ns := w64 (x.toGuard.tickNs n - 1), frac := 0xFFFFFFFF }.endHold).lock = _ ∨
      ({ x.toGuard with ns := w64 (x.toGuard.tickNs n - 1), frac := 0xFFFFFFFF }.endHold).lock = _ ∧ _
    rw [Time.endHold_lock]
    split
    next h =>
      obtain ⟨hlock, hle⟩ := h
      replace hle : x.toGuard.holdEnd ≤ (w64 (x.toGuard.tickNs n - 1)).toNat := by
        unfold Time.holdEnd at hle ⊢; exact hle
      rw [Time.toGuard_holdEnd, Time.toGuard_tickNs, toNat_w64_of_lt (n := x.tickNs n - 1) (by omega)] at hle
      have hlock : x.toGuard.lock = .holdover := hlock
      rcases hguard with h | ⟨h, -⟩
      · exact .inr ⟨rfl, h ▸ hlock, by omega⟩
      · rw [h] at hlock; simp at hlock
    next => exact hguard
  have hend : (x.toGuard.toTick n).holdEnd = x.holdEnd :=
    (Time.endHold_holdEnd { x.toGuard with ns := w64 (x.toGuard.tickNs n - 1), frac := 0xFFFFFFFF }).trans
      (Time.toGuard_holdEnd x)
  have hns : (x.toGuard.toTick n).ns.toNat = x.tickNs n := by
    show (w64 (x.toGuard.tickNs n)).toNat = _
    rw [Time.toGuard_tickNs, toNat_w64_of_lt hlt]
  rw [Time.endHold_lock]
  show (if (x.toGuard.toTick n).lock = .holdover ∧ (x.toGuard.toTick n).holdEnd ≤ (x.toGuard.toTick n).ns.toNat then Lock.free
    else (x.toGuard.toTick n).lock) = _
  rw [hend, hns]
  rcases htick with h | ⟨h, hhold⟩
  · rw [h]
  · rw [h, if_pos hhold, if_neg (by simp)]

theorem exec_tick_live {s : State} (h : counterDead s = false) :
    exec .tick s = .next (slotZeroWork (tickWork (begin s))) := by
  show (.next (if counterDead s then begin s else slotZeroWork (tickWork (begin s))) : Res) = _
  rw [h]; rfl

theorem tickWork_budget (s : State) : (tickWork s).budget = .all budgetReset := by
  have hc : ClosedOn (fun u : State => u.budget = .all budgetReset) [.time, .sect, .nflag, .rings, .cmds, .recs, .steps, .cores,
      .slate, .commons, .colls, .tiers, .links, .ward, .trace, .out, .fresh] :=
    closedOn_of_frame fun u v hu hv => (hv.2 .budget (by decide)).trans hu
  rw [tickWork_eq]
  exact endHoldover_only (hc.sub (by decide)) _ <| tickDrain_only (hc.sub (by decide)) _ <|
    markDeparted_only (hc.sub (by decide)) _ <| pickTimeLink_only (hc.sub (by decide)) _ <|
    p_foldl (P := fun u : State => u.budget = .all budgetReset) _ allSecs (s := tickStart s) rfl
      fun _ _ h => tickSection_only (hc.sub (by decide)) _ _ _ h

theorem tick_effects {s : State} (h : counterDead s = false) : let u := slotZeroWork (tickWork (begin s))
    u.time.frame = some (nextTick s) ∧ u.time.guard = false ∧
    u.time.ns = w64 (tickNs s (nextTick s)) ∧ u.time.frac = 0 ∧ u.budget = .all budgetReset ∧
    (tickNs s (nextTick s) < 2 ^ 64 → u.time.lock =
      if s.time.lock = .holdover ∧ holdoverEnd s ≤ tickNs s (nextTick s) then .free else s.time.lock) := by
  intro u
  have hslot := slotZeroWork_only (closedOn_frame _ (tickWork (begin s))) (tickWork (begin s)) (Frame.refl _ _)
  have htime : u.time = (tickWork (begin s)).time := hslot.2 .time (by decide)
  have hbudget : u.budget = (tickWork (begin s)).budget := hslot.2 .budget (by decide)
  obtain ⟨link, hwork⟩ := tickWork_time (begin s)
  rw [nextTick_endGuard] at hwork
  have hnext : nextTick (begin s) = nextTick s := rfl
  have hbegin : (begin s).time = s.time := rfl
  rw [htime, hbudget, hwork, hbegin, hnext, tickNs_eq]
  refine ⟨by rw [Time.endHold_frame]; rfl, by rw [Time.endHold_guard]; rfl, ?_, by rw [Time.endHold_frac]; rfl,
    tickWork_budget _, fun hlt => ?_⟩
  · rw [Time.endHold_ns]
    show w64 (s.time.toGuard.tickNs _) = _
    rw [Time.toGuard_tickNs]
  · exact tick_lock s.time _ (fun m hm => by unfold nextTick; rw [hm]) hlt link

/-- Settles O34: system time through the guard band's end and the tick (`tickWork_time`, `tick_lock`). -/
theorem ticksAndGuardBands : Obligations.TicksAndGuardBands := by
  unfold Obligations.TicksAndGuardBands
  refine ⟨fun s h => effects_of_exec (exec_tick_live h) rfl (tick_effects h), fun s h => ?_, fun s n hf hg => ?_,
    fun s hf => ?_, fun _ _ => rfl, fun s hf => ?_, fun s n hf => ?_⟩
  · show (.next (if counterDead s then begin s else _) : Res) = _
    rw [h]; rfl
  · refine effects_of_exec (t := guardWork (begin s)) rfl rfl ?_
    have hbegin : (begin s).time = s.time := rfl
    have htime : (guardWork (begin s)).time =
        { s.time with ns := w64 (s.time.tickNs (n + 1) - 200), frac := 0, guard := true }.endHold := by
      rw [guardWork_time, hbegin]
      unfold Time.toGuard
      rw [hf]
      dsimp only
      rw [hg, if_neg Bool.false_ne_true, ← hf]
    rw [htime, Time.endHold_guard, Time.endHold_ns, Time.endHold_frac, Time.endHold_frame]
    exact ⟨rfl, rfl, rfl, hf⟩
  · show (.next (guardWork (begin s)) : Res) = _
    have hf' : (begin s).time.frame = none := hf
    unfold guardWork
    rw [hf']
  · unfold nextTick; rw [hf]
  · unfold nextTick; rw [hf]

/-! ### The lock -/

/-- R54: a message of the domain on the source in use. -/
theorem exec_syncMessage {s : State} (gm : W64) (off : W32) (hrun : s.ward.running = true) (hlive : counterDead s = false)
    (hsrc : s.time.src = 1 ∨ (s.time.src = 0 ∧ s.time.link = none)) :
    exec (.syncMessage gm s.time.domain off) s = .next (syncMsg (begin s) gm (signed32 off) false) := by
  show (.next (if s.ward.running && !counterDead s && s.time.domain == s.time.domain &&
    (s.time.src == 1 || (s.time.src == 0 && s.time.link.isNone)) then _ else _) : Res) = _
  rw [if_pos]
  rw [hrun, hlive]
  rcases hsrc with h | ⟨h, h'⟩
  · simp [h]
  · simp [h, h']

theorem syncMsg_free {s : State} (h : s.time.lock = .free) (gm : W64) (off : Int) : syncMsg s gm off false =
    setLock (modTime s (fun x => { x with gm := gm, offset := BitVec.ofInt 32 off })) .acquiring := by
  unfold syncMsg; rw [h]

/-- R56: the messages in bound so far: a gap begins the count anew. -/
def heard (s : State) : Nat := if s.time.since + 4 * syncInterval s false < s.time.ns.toNat then 0 else s.time.inBound

/-- R56: system time that has noted a message of its grandmaster. -/
def Time.note (x : Time) (off : Int) (count : Nat) : Time :=
  { x with offset := BitVec.ofInt 32 off, since := x.ns.toNat, inBound := count }

theorem syncMsg_follow {s : State} {gm : W64} (h : s.time.lock ≠ .free) (hgm : s.time.gm = gm) (off : Int) :
    syncMsg s gm off false =
      if !inBound off then
        if isGood s.time.lock then setLock (modTime s (·.note off 0)) .free
        else if off < -16000 || 16000 < off then stepTime (modTime s (·.note off 0)) off else modTime s (·.note off 0)
      else if heard s + 1 ≥ 16 && s.time.lock != .locked then setLock (modTime s (·.note off (heard s + 1))) .locked
      else modTime s (·.note off (heard s + 1)) := by
  unfold syncMsg
  split
  next hfree => exact absurd hfree h
  next =>
    rw [if_neg (by simpa using hgm)]
    have hheard : (if decide (s.time.since + 4 * syncInterval s false < s.time.ns.toNat) then 0 else s.time.inBound) = heard s := by
      unfold heard; simp only [decide_eq_true_eq]
    dsimp only
    rw [hheard]
    cases inBound off <;> simp only [Time.note, Bool.not_true, Bool.not_false, Bool.false_eq_true, if_true, if_false, modTime_time]

theorem stopsOnLoss_congr {s u : State} (htime : u.time = s.time) (himages : u.images = s.images) (t : Sec) (c : Cmd) :
    stopsOnLoss u t c = stopsOnLoss s t c := by
  unfold stopsOnLoss plannedLast runFrames frameOf
  rw [htime, himages]

/-- Sections whose commands are changed one by one, each by itself. -/
theorem getCmds_foldl {s : State} {F : State → Sec → State} {g : Sec → List Cmd → List Cmd}
    (hF : ∀ u t, Frame [.cmds] s u → Frame [.cmds] s (F u t) ∧
      ∀ v, getCmds (F u t) v = if v = t then g t (getCmds u t) else getCmds u v)
    {l : List Sec} (hl : l.Nodup) (u : State) (hu : Frame [.cmds] s u) (v : Sec) :
    getCmds (l.foldl F u) v = if v ∈ l then g v (getCmds u v) else getCmds u v := by
  induction l generalizing u with
  | nil => simp
  | cons t l ih =>
    obtain ⟨ht, hl⟩ := List.nodup_cons.1 hl
    obtain ⟨hframe, hget⟩ := hF u t hu
    rw [List.foldl_cons, ih hl _ hframe, hget]
    by_cases hv : v = t
    · subst hv; simp [ht]
    · simp [hv]

theorem mem_allSecs (t : Sec) : t ∈ allSecs := by revert t; decide

theorem stopWork_getCmds (s : State) (t : Sec) : getCmds (stopWork s) t =
    (getCmds s t).map (fun c => if stopsOnLoss s t c then setStop c .aborted else c) := by
  unfold stopWork
  rw [getCmds_foldl (s := s) (g := fun t => List.map (fun c => if stopsOnLoss s t c then setStop c .aborted else c))
    (fun u v hu => ⟨setCmds_only (closedOn_frame _ s) _ _ _ hu, fun w => ?_⟩) (by decide) s (Frame.refl _ s),
    if_pos (mem_allSecs t)]
  rw [getCmds_setCmds]
  simp only [stopsOnLoss_congr (hu.2 .time (by decide)) (hu.2 .images (by decide))]

/-- R58: a good lock that is lost marks what it stops. -/
theorem setLock_free_getCmds {s : State} (h : isGood s.time.lock = true) (t : Sec) :
    getCmds (setLock s .free) t = (getCmds s t).map (fun c => if stopsOnLoss s t c then setStop c .aborted else c) := by
  have hne : (s.time.lock == .free) = false := by cases hl : s.time.lock <;> simp_all [isGood]
  rw [setLock_eq, hne, if_neg Bool.false_ne_true]
  unfold announceLock
  have hsame : Frame [.trace, .ward, .out] (modTime s (·.enter .free))
      (raiseLock (traceLock (modTime s (·.enter .free)) s.time.lock .free) .free) :=
    raiseEvent_only ((closedOn_frame _ _).sub (by decide)) _ _ _ _ _
      (traceLock_only ((closedOn_frame _ _).sub (by decide)) _ _ _ (Frame.refl _ _))
  generalize raiseLock (traceLock (modTime s (·.enter .free)) s.time.lock .free) .free = u at hsame ⊢
  have hcmds : u.cmds = s.cmds := hsame.2 .cmds (by decide)
  have htime : u.time = s.time.enter .free := hsame.2 .time (by decide)
  have hframe : u.time.frame = s.time.frame := by rw [htime]; rfl
  have himages : u.images = s.images := hsame.2 .images (by decide)
  have hstops (c : Cmd) : stopsOnLoss u t c = stopsOnLoss s t c := by
    unfold stopsOnLoss plannedLast runFrames frameOf; rw [hframe, himages]
  dsimp only
  rw [h, if_pos (by decide), stopWork_getCmds]
  simp only [hstops, getCmds, hcmds]

/-- Settles O35: each message by the lock it meets (`syncMsg_free`, `syncMsg_follow`), each limit by its own guard. -/
theorem timeLockFollowsItsMessages : Obligations.TimeLockFollowsItsMessages := by
  unfold Obligations.TimeLockFollowsItsMessages
  refine ⟨fun s gm off hrun hlive hsrc => ?_, fun s h => ?_, fun s => rfl, fun s h => ?_, fun s h hlt => ?_⟩
  · have hexec := exec_syncMessage gm off hrun hlive hsrc
    have hoff : BitVec.ofInt 32 (signed32 off) = off := BitVec.ofInt_toInt
    refine ⟨fun hfree => ?_, fun hne hgm => ?_, fun hlock hgm hlo hhi hgap hcount => ?_, fun hlock hgm hout => ?_⟩
    · rw [syncMsg_free (s := begin s) hfree, hoff] at hexec
      refine effects_of_exec hexec rfl ?_
      rw [setLock_time, Time.relock_lock, Time.relock_gm _ _ (by decide), Time.relock_offset]
      exact ⟨rfl, rfl, rfl⟩
    · rw [hexec]
      unfold syncMsg
      split
      next hfree => exact absurd hfree hne
      next =>
        have hother : ((begin s).time.gm != gm) = true := bne_iff_ne.2 hgm
        dsimp only
        rw [if_pos hother]
    · have hne : s.time.lock ≠ .free := by rcases hlock with h | h <;> rw [h] <;> decide
      have hin : inBound (signed32 off) = true := decide_eq_true ⟨hlo, hhi⟩
      have hheard : heard (begin s) = s.time.inBound := if_neg (Nat.not_lt.2 hgap)
      rw [syncMsg_follow (s := begin s) hne hgm, hin, hheard, if_neg (by decide), if_pos (by
        rcases hlock with h | h <;> simp [h, hcount])] at hexec
      refine effects_of_exec hexec rfl ?_
      rw [setLock_time, Time.relock_lock, Time.relock_offset, Time.relock_chg]
      · exact ⟨rfl, rfl, hoff⟩
      · rcases hlock with h | h <;> simp [Time.note, h]
    · have hne : s.time.lock ≠ .free := by rcases hlock with h | h <;> rw [h] <;> decide
      have hin : inBound (signed32 off) = false := decide_eq_false (by unfold signed32; omega)
      have hgood : isGood (begin s).time.lock = true := by
        rcases hlock with h | h <;> simp [h, isGood]
      rw [syncMsg_follow (s := begin s) hne hgm, hin, if_pos (by decide), if_pos hgood] at hexec
      refine effects_of_exec hexec rfl ?_
      rw [setLock_time, Time.relock_lock, Time.relock_gm_free]
      · exact ⟨rfl, rfl⟩
      · exact hne
  · have hexec : exec .syncTimeout s = .next (match s.time.lock with
      | .acquiring => setLock (begin s) .free
      | .locked => setLock (begin s) .holdover
      | _ => begin s) := rfl
    refine effects_of_exec hexec rfl ?_
    rcases h with h | h <;> rw [h] <;> simp [setLock_time]
  · show (.next (if s.time.lock == .holdover && decide (holdoverEnd s < bellNs s) then _ else begin s) : Res) = _
    rw [if_neg]
    rcases h with h | h
    · simp [h]
    · simp [Nat.not_lt.2 h]
  · have hexec : exec .holdoverLimit s = .next (if s.time.lock == .holdover && decide (holdoverEnd s < bellNs s) then
        setLock (modTime (begin s) (fun x => { x with
          ns := w64 (max x.ns.toNat (holdoverEnd s))
          frac := if holdoverEnd s ≤ x.ns.toNat then x.frac else 0 })) .free else begin s) := rfl
    rw [if_pos (by simp [h, hlt])] at hexec
    refine effects_of_exec hexec rfl ?_
    rw [setLock_time, Time.relock_lock, Time.relock_ns]
    refine ⟨rfl, rfl, fun t c hc hstop => ?_⟩
    rw [setLock_free_getCmds (by simp [h, isGood])]
    refine List.mem_map.2 ⟨c, hc, if_pos ?_⟩
    exact hstop

end Sys2Proof.Machine
end

section
/-!
PROOFS. Errors and power: SRAM words (R417), the logs, limits and power failure (chapters 15 and 19).
-/
namespace Sys2Proof.Machine

theorem Frame.trans {L : List Piece} {s u v : State} (h : Frame L s u) (k : Frame L u v) : Frame L s v := by
  refine ⟨k.1.trans h.1, fun p hp => ?_⟩
  have h1 := h.2 p hp
  have h2 := k.2 p hp
  cases p <;> exact Eq.trans h2 h1

/-! ### SRAM words -/

theorem rd8_lineFf (m : Memory) (k a : Nat) : rd8 (lineFf m k) a = if k ≤ a ∧ a < k + 64 then 255 else rd8 m a := by
  unfold lineFf
  rw [rd8_wrBytes, List.length_replicate]
  split
  next h => rw [List.getD_replicate 255 (by omega)]
  next => rfl

theorem exec_sramLost (s : State) (site : SramSite) : exec (.sramUncorrectable ⟨site, false⟩) s = .next (sramLost (begin s) site) := rfl

/-- R417: the flags and the log entry of a lost word in memory of a section, or of none. -/
def sramLog (s : State) (o : Option Sec) (n kind ix : Nat) : State :=
  match o with
  | some t => sramNv s t n kind ix
  | none => logClass s 5 0xF kind ix 0

theorem sramLog_frame (s : State) (o : Option Sec) (n kind ix : Nat) :
    Frame [.nflag, .cmds, .ward, .out] s (sramLog s o n kind ix) := by
  cases o with
  | some t => exact sramNv_only (closedOn_frame _ s) s t n kind ix (Frame.refl _ s)
  | none => exact logClass_only ((closedOn_frame _ s).sub (by decide)) s 5 0xF kind ix 0 (Frame.refl _ s)

theorem sramLost_slate (s : State) (q : Fin 128) (line : Nat) (n : Fin 556) :
    sramLost s (.slate q line n) = if slateBytes ≤ 64 * line then s else
      sramLog { s with slate := lineFf s.slate (slateKey q.val (64 * line)) } (coreSec s q.val) n.val 3 (physCore s q.val) := by
  unfold sramLost sramLog
  dsimp only
  generalize lineFf s.slate (slateKey q.val (64 * line)) = m
  rfl

/-- R417: the section whose share of the commons a slice is in. -/
def commonsSec (s : State) (k : Nat) : Option Sec := allSecs.find? (fun t => (getSect s t).commons.getLsbD k)

theorem sramLost_commons (s : State) (k : Fin 32) (line : Nat) (n : Fin 556) :
    sramLost s (.commons k line n) = if slateBytes ≤ 64 * line then s else
      sramLog { s with commons := lineFf s.commons (slateBytes * k.val + 64 * line) } (commonsSec s k.val) n.val 0 n.val := by
  unfold sramLost sramLog commonsSec
  dsimp only
  generalize lineFf s.commons (slateBytes * k.val + 64 * line) = m
  rfl

/-- R417: sixteen accumulator values that read as ones. -/
def accOnes (m : Sparse W32) (k : Nat) : Sparse W32 := (List.range 16).foldl (fun m i => sset 0 m (k + i) 0xFFFFFFFF) m

theorem sget_foldl_sset (l : List Nat) (m : Sparse W32) (k : Nat) (v : W32) (a : Nat) :
    sget 0 (l.foldl (fun m i => sset 0 m (k + i) v) m) a = if a ∈ l.map (k + ·) then v else sget 0 m a := by
  induction l generalizing m with
  | nil => simp
  | cons i l ih =>
    rw [List.foldl_cons, ih, sget_sset, List.map_cons]
    simp only [List.mem_cons]
    by_cases h : a ∈ l.map (k + ·)
    · simp [h]
    · by_cases hi : a = k + i <;> simp [h, hi]

theorem sget_accOnes (m : Sparse W32) (k a : Nat) :
    sget 0 (accOnes m k) a = if k ≤ a ∧ a < k + 16 then 0xFFFFFFFF else sget 0 m a := by
  unfold accOnes
  rw [sget_foldl_sset]
  refine if_congr ?_ rfl rfl
  simp only [List.mem_map, List.mem_range]
  exact ⟨fun ⟨i, hi, h⟩ => by omega, fun h => ⟨a - k, by omega, by omega⟩⟩

theorem sramLost_accumulator (s : State) (q : Fin 128) (row : Fin 2048) (col : Fin 128) (n : Fin 556) :
    sramLost s (.accumulator q row col n) =
      sramLog { s with acc := accOnes s.acc ((q.val * 2048 + row.val) * 128 + col.val / 16 * 16) } (coreSec s q.val) n.val 3
        (physCore s q.val) := by
  unfold sramLost sramLog accOnes
  dsimp only
  generalize (List.range 16).foldl _ s.acc = m
  rfl

/-- A memory's update, then its flags and log: the update stands, and the rest is in the frame. -/
theorem effects_of_sramLog {c : Instr} {s v : State} {o : Option Sec} {n kind ix : Nat} {L : List Piece} {Q : State → Prop}
    (hexec : exec c s = .next (sramLog v o n kind ix)) (hv : Frame L s v) (hL : [.nflag, .cmds, .ward, .out] ⊆ L)
    (hQ : ∀ u, Frame [.nflag, .cmds, .ward, .out] v u → Q u) : Effects c s L Q := by
  have hlog := sramLog_frame v o n kind ix
  refine ⟨_, hexec, hQ _ hlog, ?_⟩
  exact hv.trans (hlog.mono hL)

theorem frame_slate (s : State) (m : Memory) : Frame [.slate, .out] s { begin s with slate := m } :=
  ⟨rfl, fun p hp => by cases p <;> first | rfl | simp at hp⟩

theorem frame_commons (s : State) (m : Memory) : Frame [.commons, .out] s { begin s with commons := m } :=
  ⟨rfl, fun p hp => by cases p <;> first | rfl | simp at hp⟩

theorem frame_acc (s : State) (m : Sparse W32) : Frame [.acc, .out] s { begin s with acc := m } :=
  ⟨rfl, fun p hp => by cases p <;> first | rfl | simp at hp⟩

section
variable {s u : State}

theorem slate_of_frame {m : Memory} (h : Frame [.nflag, .cmds, .ward, .out] { s with slate := m } u) : u.slate = m :=
  h.2 .slate (by decide)
theorem commons_of_frame {m : Memory} (h : Frame [.nflag, .cmds, .ward, .out] { s with commons := m } u) : u.commons = m :=
  h.2 .commons (by decide)
theorem acc_of_frame {m : Sparse W32} (h : Frame [.nflag, .cmds, .ward, .out] { s with acc := m } u) : u.acc = m :=
  h.2 .acc (by decide)

end

/-! ### The block stores -/

/-- R417: 512 bits of a block that read as ones. -/
def onesAt (line : Nat) : Words := BitVec.ofNat 8192 ((2 ^ 512 - 1) * 2 ^ (512 * line))

/-- R417: the contributions and sums of block b of a collective, with a line that reads as ones. -/
def blockOnes (coll b line : Nat) (x : CollSt) : CollSt := { x with
  contribs := x.contribs.map (fun e => if e.1 / 2 ^ 7 == coll * 2 ^ 40 + b then (e.1, e.2 ||| onesAt line) else e)
  acc := x.acc.map (fun e => if e.1 == collKey coll 0 b then (e.1, (e.2.1, e.2.2 ||| onesAt line)) else e) }

/-- R417: the collective that holds block b in a store. -/
def blockHolder (s : State) (coll b : Nat) : Option (Sec × Nat) :=
  allSecs.findSome? (fun t => ((s.colls.get t).find? (fun x =>
    x.contribs.any (fun e => e.1 / 2 ^ 7 == coll * 2 ^ 40 + b) || x.acc.any (fun e => e.1 == collKey coll 0 b))).map
      (fun x => (t, x.ord)))

theorem sramLost_blockStore (s : State) (l : Link) (coll b : Nat) (line : Fin 16) : sramLost s (.blockStore l coll b line) =
    match blockHolder s coll b with
    | none => logClass s 5 0xF 0 (fabricEngine l.val) 0
    | some (t, o) => logClass (raise (modColl s t o (blockOnes coll b line.val)) t o (fabricEngine l.val) fNV) 5 t.val 0
        (fabricEngine l.val) 0 := rfl

theorem findSome?_allSecs {f : Sec → Option α} {t : Sec} {y : α} (hf : f t = some y)
    (hlow : ∀ t' : Sec, t'.val < t.val → f t' = none) : allSecs.findSome? f = some y := by
  obtain ⟨k, hk⟩ := t
  match k, hk with
  | 0, _ => simp_all [allSecs]
  | 1, _ => have h0 := hlow 0 (by simp); simp_all [allSecs]
  | 2, _ => have h0 := hlow 0 (by simp); have h1 := hlow 1 (by simp); simp_all [allSecs]
  | 3, _ =>
    have h0 := hlow 0 (by simp)
    have h1 := hlow 1 (by simp)
    have h2 := hlow 2 (by simp)
    simp_all [allSecs]

theorem blockHolder_of_single {s : State} {t : Sec} {x : CollSt} {coll b : Nat} (hx : s.colls.get t = [x])
    (he : ∃ e ∈ x.acc, e.1 = collKey coll 0 b) (hlow : ∀ t' : Sec, t'.val < t.val → s.colls.get t' = []) :
    blockHolder s coll b = some (t, x.ord) := by
  unfold blockHolder
  refine findSome?_allSecs (t := t) ?_ (fun t' ht' => by simp [hlow t' ht'])
  have hany : x.acc.any (fun e => e.1 == collKey coll 0 b) = true := by
    obtain ⟨e, he, hk⟩ := he
    exact List.any_eq_true.2 ⟨e, he, by simpa using hk⟩
  simp [hx, List.find?_cons, hany]

theorem modColl_of_single {s : State} {t : Sec} {x : CollSt} (hx : s.colls.get t = [x]) {f : CollSt → CollSt}
    (hf : (f x).ord = x.ord) : (modColl s t x.ord f).colls.get t = [f x] := by
  simp [modColl, getColl, putColl, hx, List.find?_cons, hf]

theorem or_and_self_right (x y : Words) : (x ||| y) &&& y = y := by
  ext i hi; simp only [BitVec.getElem_and, BitVec.getElem_or]; cases x[i] <;> cases y[i] <;> rfl

theorem blockOnes_acc (coll b line : Nat) (x : CollSt) :
    ∀ e ∈ (blockOnes coll b line x).acc, e.1 = collKey coll 0 b → e.2.2 &&& onesAt line = onesAt line := by
  intro e he hk
  obtain ⟨d, -, rfl⟩ := List.mem_map.1 he
  by_cases hd : d.1 = collKey coll 0 b
  · simp only [hd, beq_self_eq_true, if_true]
    exact or_and_self_right _ _
  · simp [hd] at hk

/-! ### What the code corrects -/

/-- R418: a class that is logged without an event joins an empty log as its one entry. -/
theorem logClass_empty {s : State} (hrun : s.ward.running = true) (hlog : s.ward.errlog = []) (sect kind ix : Nat) (d : W64) :
    ∃ e, (logClass s 1 sect kind ix d).ward.errlog = [e] ∧ e.cls = 1 ∧ e.frame = w64 (frameNow s) := by
  unfold logClass logError
  simp [hrun, hlog, classSeverity]

theorem sramFixed_eq (s : State) (site : SramSite) : ∃ sect kind ix, sramFixed s site = logClass s 1 sect kind ix 0 := by
  cases site <;> exact ⟨_, _, _, rfl⟩

/-- Settles O45: the memory's own update, then flags and log entries in their frame. -/
theorem sramErrorsReadAsOnes : Obligations.SramErrorsReadAsOnes := by
  unfold Obligations.SramErrorsReadAsOnes
  intro s
  refine ⟨fun q line n h => ?_, fun k line n h => ?_, fun q row col n => ?_, fun q => ?_, fun l hl => ?_, fun l coll b line => ?_,
    fun site => ?_⟩
  · have hexec := exec_sramLost s (.slate q line n)
    rw [sramLost_slate, if_neg (by omega)] at hexec
    refine effects_of_sramLog hexec ((frame_slate s _).mono (by decide)) (by decide) fun u hu a => ?_
    rw [slate_of_frame hu, rd8_lineFf]
    rfl
  · have hexec := exec_sramLost s (.commons k line n)
    rw [sramLost_commons, if_neg (by omega)] at hexec
    refine effects_of_sramLog hexec ((frame_commons s _).mono (by decide)) (by decide) fun u hu a => ?_
    rw [commons_of_frame hu, rd8_lineFf]
    rfl
  · have hexec := exec_sramLost s (.accumulator q row col n)
    rw [sramLost_accumulator] at hexec
    refine effects_of_sramLog hexec ((frame_acc s _).mono (by decide)) (by decide) fun u hu a => ?_
    rw [acc_of_frame hu, sget_accOnes]
    rfl
  · refine ⟨modCore (begin s) q.val (fun k => { k with stopped := true }), rfl, ?_,
      modCore_only ((closedOn_frame _ s).sub (by decide)) _ _ _ (begin_frame (by decide) s)⟩
    exact (getCore_modCore _ _ _ _).trans (if_pos rfl)
  · refine ⟨retrain (begin s) l.val 0xA, rfl, ?_,
      retrain_only ((closedOn_frame _ s).sub (by decide)) _ _ _ (begin_frame (by decide) s)⟩
    exact ⟨retrain_st (s := begin s) hl 0xA, retrain_cause (s := begin s) hl 0xA⟩
  · have hexec := exec_sramLost s (.blockStore l coll b line)
    rw [sramLost_blockStore] at hexec
    refine ⟨_, hexec, fun t x hx he hlow => ?_, ?_⟩
    · rw [blockHolder_of_single (s := begin s) hx he hlow]
      have hcolls : (logClass (raise (modColl (begin s) t x.ord (blockOnes coll b line.val)) t x.ord (fabricEngine l.val) fNV) 5
          t.val 0 (fabricEngine l.val) 0).colls = (modColl (begin s) t x.ord (blockOnes coll b line.val)).colls :=
        (logClass_only ((closedOn_frame [.nflag, .cmds, .ward, .out] _).sub (by decide)) _ _ _ _ _ _
          (raise_only (closedOn_frame _ _) _ _ _ _ _ (Frame.refl _ _))).2 .colls (by decide)
      refine ⟨blockOnes coll b line.val x, ?_, rfl, blockOnes_acc coll b line.val x⟩
      rw [hcolls]
      exact modColl_of_single (s := begin s) hx rfl
    · have hc := closedOn_frame [.nflag, .cmds, .colls, .ward, .out] s
      have hb : Frame [.nflag, .cmds, .colls, .ward, .out] s (begin s) := begin_frame (by decide) s
      split
      next => exact logClass_only (hc.sub (by decide)) _ _ _ _ _ _ hb
      next =>
        exact logClass_only (hc.sub (by decide)) _ _ _ _ _ _
          (raise_only (hc.sub (by decide)) _ _ _ _ _ (modColl_only (hc.sub (by decide)) _ _ _ _ hb))
  · obtain ⟨sect, kind, ix, heq⟩ := sramFixed_eq (begin s) site
    have hexec : exec (.sramUncorrectable ⟨site, true⟩) s = .next (sramFixed (begin s) site) := rfl
    rw [heq] at hexec
    exact ⟨_, hexec, fun hrun hlog => logClass_empty (s := begin s) hrun hlog sect kind ix 0,
      logClass_only ((closedOn_frame _ s).sub (by decide)) _ _ _ _ _ _ (begin_frame (by decide) s)⟩

end Sys2Proof.Machine
end

section
/-!
PROOFS. The warden: what its logs leave of it, limits and power failure (chapters 15, 17 and 19).
-/
namespace Sys2Proof.Machine

/-! ### The logs -/

/-- The warden is the same but for its logs and the events that it sends. -/
def Logged (x y : Warden) : Prop := ∃ log events audit full lost,
  y = { x with errlog := log, events := events, audit := audit, auditFull := full, auditLost := lost }

section
variable {x y z : Warden}

theorem Logged.refl (x : Warden) : Logged x x := ⟨_, _, _, _, _, rfl⟩

theorem Logged.trans (h : Logged x y) (k : Logged y z) : Logged x z := by
  obtain ⟨_, _, _, _, _, rfl⟩ := h
  obtain ⟨_, _, _, _, _, rfl⟩ := k
  exact ⟨_, _, _, _, _, rfl⟩

variable (h : Logged x y)
include h

theorem Logged.card : y.card = x.card := by obtain ⟨_, _, _, _, _, rfl⟩ := h; rfl
theorem Logged.cause : y.cause = x.cause := by obtain ⟨_, _, _, _, _, rfl⟩ := h; rfl
theorem Logged.flashCard : y.flashCard = x.flashCard := by obtain ⟨_, _, _, _, _, rfl⟩ := h; rfl
theorem Logged.drain : y.drain = x.drain := by obtain ⟨_, _, _, _, _, rfl⟩ := h; rfl
theorem Logged.stage : y.stage = x.stage := by obtain ⟨_, _, _, _, _, rfl⟩ := h; rfl
theorem Logged.running : y.running = x.running := by obtain ⟨_, _, _, _, _, rfl⟩ := h; rfl
theorem Logged.sentryArmed : y.sentryArmed = x.sentryArmed := by obtain ⟨_, _, _, _, _, rfl⟩ := h; rfl
theorem Logged.sentryActed : y.sentryActed = x.sentryActed := by obtain ⟨_, _, _, _, _, rfl⟩ := h; rfl
theorem Logged.session : y.session = x.session := by obtain ⟨_, _, _, _, _, rfl⟩ := h; rfl

end

section
variable (s : State)

theorem raiseEvent_logged (kind sect sev : Nat) (raw : RawRec) : Logged s.ward (raiseEvent s kind sect sev raw).ward := by
  unfold raiseEvent
  split
  next =>
    have hfold (l : List Client) (e : Event) (u : State) : (l.foldl (fun s who => emit s (.event who e)) u).ward = u.ward :=
      p_foldl (P := fun v : State => v.ward = u.ward) _ _ rfl fun v who hv => hv
    rw [hfold]
    exact ⟨_, _, _, _, _, rfl⟩
  next => exact .refl _

theorem logError_logged (cls sev sect kind ix : Nat) (d : W64) : Logged s.ward (logError s cls sev sect kind ix d).ward := by
  unfold logError
  split
  next => exact .refl _
  next =>
    dsimp only
    split
    next => exact ⟨_, _, _, _, _, rfl⟩
    next =>
      split
      next => exact .refl _
      next =>
        split
        next => exact Logged.trans ⟨_, _, _, _, _, modWard_ward _ _⟩ (raiseEvent_logged _ _ _ _ _)
        next => exact ⟨_, _, _, _, _, modWard_ward _ _⟩

theorem logClass_logged (cls sect kind ix : Nat) (d : W64) : Logged s.ward (logClass s cls sect kind ix d).ward :=
  logError_logged s _ _ _ _ _ _

theorem modAudit_logged (f : Warden → List Audit) : Logged s.ward (modWard s (fun w => { w with audit := f w })).ward :=
  ⟨s.ward.errlog, s.ward.events, f s.ward, s.ward.auditFull, s.ward.auditLost, rfl⟩

theorem modAuditFull_logged (b : Bool) : Logged s.ward (modWard s (fun w => { w with auditFull := b })).ward :=
  ⟨s.ward.errlog, s.ward.events, s.ward.audit, b, s.ward.auditLost, rfl⟩

/-- R485: the event of a log that is full, once. -/
def noteFull (s : State) (a : Audit) : State :=
  if auditUsed s ≥ 65280 && !s.ward.auditFull then
    raiseEvent (modWard s (fun w => { w with auditFull := true })) evAuditFull 0xF 1 (.audit a)
  else s

theorem auditPut_eq (role channel action result : Nat) (kid target old new : W64) :
    ∃ (f : Warden → List Audit) (a : Audit), auditPut s role channel action result kid target old new =
      noteFull (modWard s (fun w => { w with audit := f w })) a :=
  ⟨_, _, rfl⟩

theorem auditPut_logged (role channel action result : Nat) (kid target old new : W64) :
    Logged s.ward (auditPut s role channel action result kid target old new).ward := by
  obtain ⟨f, a, heq⟩ := auditPut_eq s role channel action result kid target old new
  rw [heq]
  refine Logged.trans (modAudit_logged s f) ?_
  unfold noteFull
  split
  next => exact Logged.trans (modAuditFull_logged _ true) (raiseEvent_logged _ _ _ _ _)
  next => exact .refl _

theorem auditDevice_logged (action : Nat) (target old new : W64) :
    Logged s.ward (auditDevice s action target old new).ward := by
  unfold auditDevice
  split
  next => exact .refl _
  next =>
    split
    next => exact auditPut_logged _ _ _ _ _ _ _ _ _
    next =>
      split
      next => exact .refl _
      next => exact ⟨_, _, _, _, _, modWard_ward _ _⟩

end

/-! ### The card's state -/

/-- R424: the card in another state; its flash follows while the warden runs and the sentry has not acted (R473). -/
def Warden.enter (x : Warden) (st : CardSt) (cause : BitVec 4) : Warden :=
  { x with card := st, cause := cause, chg := true
           flashCard := if x.sentryActed || !x.running then x.flashCard else st
           flashCause := if x.sentryActed || !x.running then x.flashCause else cause }

theorem setCard_logged {s : State} {st : CardSt} (h : s.ward.card ≠ st) (cause : BitVec 4) :
    Logged (s.ward.enter st cause) (setCard s st cause).ward := by
  unfold setCard
  rw [if_neg (by simpa using h)]
  dsimp only
  split
  next hoff =>
    have hoff : (s.ward.sentryActed || !s.ward.running) = true := hoff
    rw [modWard_ward]
    unfold Warden.enter
    rw [hoff]
    exact .refl _
  next hon =>
    have hon : (s.ward.sentryActed || !s.ward.running) = false := Bool.eq_false_iff.2 hon
    refine Logged.trans ?_ (raiseEvent_logged _ _ _ _ _)
    refine Logged.trans ?_ (auditDevice_logged _ _ _ _ _)
    rw [modWard_ward, modWard_ward]
    unfold Warden.enter
    rw [hon]
    exact .refl _

/-- R424: a card in service that becomes suspect. -/
def Warden.suspected (x : Warden) (s : State) (cause : BitVec 4) (drain : DrainSt) : Warden :=
  { x with frame := w32 (frameNow s), suspectNs := s.time.ns, suspectFrame := w64 (frameNow s), drain := drain }.enter .suspect cause

theorem suspect_ward {s : State} (h : s.ward.card = .service) (cls : Nat) (cause : BitVec 4) (d : W64) :
    (suspect s cls cause d).ward.card = .suspect ∧ (suspect s cls cause d).ward.cause = cause ∧
      (suspect s cls cause d).ward.drain = .guard := by
  have hlog := logClass_logged s cls 0xF 0xF 0 d
  unfold suspect
  dsimp only
  rw [if_neg (by rw [hlog.card, h]; decide)]
  have hset := setCard_logged (s := modWard (logClass s cls 0xF 0xF 0 d) (fun w => { w with
      frame := w32 (frameNow (logClass s cls 0xF 0xF 0 d)), suspectNs := (logClass s cls 0xF 0xF 0 d).time.ns
      suspectFrame := w64 (frameNow (logClass s cls 0xF 0xF 0 d)), drain := .guard })) (st := .suspect)
    (by rw [modWard_ward]; exact fun h' => by rw [hlog.card, h] at h'; exact absurd h' (by decide)) cause
  exact ⟨hset.card, hset.cause, hset.drain⟩

/-! ### Power failure -/

theorem sget_map_snd [DecidableEq α] {d : α} (m : Sparse α) (f : α → α) (k : Nat) (hk : sget d m k ≠ d) :
    sget d (m.map (fun e => (e.1, f e.2))) k = f (sget d m k) := by
  induction m with
  | nil => exact absurd rfl hk
  | cons e m ih =>
    obtain ⟨j, v⟩ := e
    rw [List.map_cons, sget_cons, sget_cons]
    rw [sget_cons] at hk
    split
    next => rfl
    next h => rw [if_neg h] at hk; exact ih hk

theorem unpowered_rings (s : State) (p : Pair) (h : (getRing s p).st = .active) : (getRing (unpowered s) p).st = .lost := by
  have hne : sget ringReset s.rings p.val ≠ ringReset := fun he => by
    have : (sget ringReset s.rings p.val).st = .active := h
    rw [he] at this
    exact absurd this (by decide)
  exact congrArg Ring.st (sget_map_snd (d := ringReset) s.rings
    (fun r => { r with st := .lost, cause := 3, held := none, outstanding := 0 }) p.val hne)

/-- R424: a card in service becomes suspect at once, with no drain asked for. -/
def suspectNow (s : State) (cause : BitVec 4) : State :=
  if s.ward.card == .service then
    setCard (modWard s (fun w => { w with
      frame := w32 (frameNow s), suspectNs := s.time.ns, suspectFrame := w64 (frameNow s) })) .suspect cause
  else s

theorem suspectNow_frame (s : State) (cause : BitVec 4) : Frame [.ward, .out] s (suspectNow s cause) := by
  unfold suspectNow
  split
  next => exact setCard_only (closedOn_frame _ s) _ _ _ (modWard_only ((closedOn_frame _ s).sub (by decide)) _ _ (Frame.refl _ s))
  next => exact Frame.refl _ s

theorem suspectNow_of_ne {s : State} (h : s.ward.card ≠ .service) (cause : BitVec 4) : suspectNow s cause = s :=
  if_neg (by simpa using h)

theorem suspectNow_logged {s : State} (h : s.ward.card = .service) (cause : BitVec 4) :
    Logged ({ s.ward with frame := w32 (frameNow s), suspectNs := s.time.ns, suspectFrame := w64 (frameNow s) }.enter
      .suspect cause) (suspectNow s cause).ward := by
  unfold suspectNow
  rw [if_pos (by rw [h]; rfl)]
  exact setCard_logged (s := modWard s _) (by rw [modWard_ward, h]; decide) cause

/-- R442: the card as the input fails, before its supply is gone. -/
def failing (s : State) : State :=
  let last (t : Sec) : Nat := (getSteps s t).latest.getD 0
  suspectNow (logClass s 0x10 0xF 0xF 0 (w64 (last 0 % 2 ^ 16 + last 1 % 2 ^ 16 * 2 ^ 16 + last 2 % 2 ^ 16 * 2 ^ 32
    + last 3 % 2 ^ 16 * 2 ^ 48))) causePower

theorem powerFails_eq (s : State) : powerFails s = if s.ward.stage == .halted || s.ward.stage == .off then s else
    modWard (unpowered (departLinks (failing s))) (fun w => { w with stage := .halted, drain := .none }) := rfl

theorem failing_frame (s : State) : Frame [.ward, .out] s (failing s) :=
  (logClass_only (closedOn_frame [.ward, .out] s) s 0x10 0xF 0xF 0 _ (Frame.refl _ s)).trans (suspectNow_frame _ _)

theorem failing_card {s : State} (h : s.ward.card = .service) :
    (failing s).ward.card = .suspect ∧ (failing s).ward.cause = causePower := by
  have hcard (d : W64) : (logClass s 0x10 0xF 0xF 0 d).ward.card = .service := (logClass_logged s 0x10 0xF 0xF 0 d).card.trans h
  exact ⟨(suspectNow_logged (hcard _) causePower).card, (suspectNow_logged (hcard _) causePower).cause⟩

/-- R443: what a power failure leaves. -/
theorem powerFails_effects {s : State} (hh : s.ward.stage ≠ .halted) (ho : s.ward.stage ≠ .off) : let u := powerFails s
    u.ward.stage = .halted ∧ u.ward.drain = .none ∧ counterDead u = true ∧ u.time.frame = none ∧ u.time.lock = .free ∧
    u.time.ns = s.time.ns ∧ u.power.on = 0 ∧ u.tiers.mem = [] ∧ u.slate = [] ∧ u.commons = [] ∧
    u.hif = hifReset ∧ (∀ t, getCmds u t = [] ∧ u.recs.get t = []) ∧
    (∀ p, (getRing s p).st = .active → (getRing u p).st = .lost) ∧
    (s.ward.card = .service → u.ward.card = .suspect ∧ u.ward.cause = causePower) := by
  intro u
  have hu : u = modWard (unpowered (departLinks (failing s))) (fun w => { w with stage := .halted, drain := .none }) := by
    show powerFails s = _
    rw [powerFails_eq, if_neg (by simp [hh, ho])]
  have hfail := failing_frame s
  have hdep := departLinks_only (closedOn_frame [.links] (failing s)) (failing s) (Frame.refl _ _)
  have htime : (departLinks (failing s)).time = s.time :=
    Eq.trans (hdep.2 .time (by decide)) (hfail.2 .time (by decide))
  have hrings : (departLinks (failing s)).rings = s.rings :=
    Eq.trans (hdep.2 .rings (by decide)) (hfail.2 .rings (by decide))
  have hward : (departLinks (failing s)).ward = (failing s).ward := hdep.2 .ward (by decide)
  have hcard := failing_card (s := s)
  rw [← hward] at hcard
  rw [hu]
  generalize departLinks (failing s) = v at htime hrings hcard ⊢
  refine ⟨rfl, rfl, rfl, rfl, rfl, ?_, rfl, rfl, rfl, rfl, rfl, fun t => ?_, fun p hp => ?_, fun hc => hcard hc⟩
  · show v.time.ns = s.time.ns
    rw [htime]
  · exact ⟨Four.get_all _ _, Four.get_all _ _⟩
  · refine unpowered_rings v p ?_
    unfold getRing
    rw [hrings]
    exact hp

theorem getSparse_nil_linkState {s : State} (h : s.links = []) (l : Nat) : linkState s l = lsOff := by
  unfold linkState getLink; rw [h]; rfl

/-- R452: where a section's log ends, as the warden keeps it. -/
def logTail (s : State) (t : Sec) : Option (W64 × BitVec 384) :=
  if bit64 (getTrace s t).rlcfg 63 then some (w64 (getTrace s t).rlSeq, (getTrace s t).chain) else none

/-- R444: what the warden writes to flash at the end of the hold-up time. -/
def flashOf (s : State) : FlashRec :=
  ⟨s.ward.errlog.drop (s.ward.errlog.length - 256), ⟨logTail s 0, logTail s 1, logTail s 2, logTail s 3⟩,
    ⟨(getSteps s 0).latest, (getSteps s 1).latest, (getSteps s 2).latest, (getSteps s 3).latest⟩⟩

theorem Four.get_mk (a : Sec → α) (t : Sec) : (⟨a 0, a 1, a 2, a 3⟩ : Four α).get t = a t := by
  obtain ⟨k, hk⟩ := t
  match k, hk with
  | 0, _ => rfl
  | 1, _ => rfl
  | 2, _ => rfl
  | 3, _ => rfl

theorem exec_holdUpEnd {s : State} (h : s.ward.stage = .halted) : exec .holdUpEnd s = .next
    (modWard { begin s with fresh := s.fresh + 1, links := [] } (fun w => { w with
      running := false
      flashRec := if s.ward.running && (decide (150000000 ≤ s.time.ns.toNat) || Config.writtenAtStop s.fresh 0) then
        some (flashOf s) else w.flashRec })) := by
  show (.next (if s.ward.stage != .halted then begin s else _) : Res) = _
  rw [if_neg (by rw [h]; decide)]
  rfl

/-- R443, R444: the end of the hold-up time. -/
theorem holdUpEnd_effects {s : State} (h : s.ward.stage = .halted) :
    Effects .holdUpEnd s [.links, .ward, .fresh, .out] (fun u => u.ward.running = false ∧ (∀ l, linkState u l = lsOff) ∧
    (s.ward.running = true → 150000000 ≤ s.time.ns.toNat → ∃ f, u.ward.flashRec = some f ∧
      f.errs = s.ward.errlog.drop (s.ward.errlog.length - 256) ∧
      ∀ t, f.steps.get t = (getSteps s t).latest ∧
        f.tails.get t = if bit64 (getTrace s t).rlcfg 63 then some (w64 (getTrace s t).rlSeq, (getTrace s t).chain)
          else none)) := by
  refine effects_of_exec (exec_holdUpEnd h) rfl ⟨rfl, fun l => getSparse_nil_linkState rfl l, fun hrun hns => ?_⟩
  refine ⟨flashOf s, ?_, by simp only [flashOf], fun t => ⟨Four.get_mk (fun t => (getSteps s t).latest) t, Four.get_mk (logTail s) t⟩⟩
  rw [modWard_ward]
  show (if s.ward.running && (decide (150000000 ≤ s.time.ns.toNat) || Config.writtenAtStop s.fresh 0) then some (flashOf s)
    else s.ward.flashRec) = _
  refine if_pos ?_
  rw [hrun, Bool.true_and, Bool.or_eq_true, decide_eq_true_eq]
  exact .inl hns

/-! ### Limits -/

theorem limitReached_frame (s : State) : Frame [.ward, .out] s (limitReached s) := limitReached_only (closedOn_frame _ s) s (Frame.refl _ s)

theorem limitReached_ward {s : State} (hrun : s.ward.running = true) (hc : s.ward.card = .service) :
    (limitReached s).ward.card = .suspect ∧ (limitReached s).ward.cause = causeThermal ∧
      (limitReached s).ward.drain = .guard := by
  unfold limitReached
  rw [if_pos hrun]
  exact suspect_ward hc _ _ _

/-- A reading that is kept, and what exceeds its limit. -/
theorem effects_of_reading {c : Instr} {s : State} {f : Power → Power} {exceeds : Prop} [Decidable exceeds] {L : List Piece}
    {Q : State → Prop} (hexec : exec c s = .next (if exceeds then limitReached (modPower (begin s) f) else modPower (begin s) f))
    (hL : (changes c).all (fun p => decide (p ∈ L)) = true)
    (hpower : ∀ u, u.power = f s.power → (exceeds → s.ward.running = true → s.ward.card = .service →
      u.ward.card = .suspect ∧ u.ward.cause = causeThermal ∧ u.ward.drain = .guard) → (¬ exceeds → u.ward = s.ward) → Q u) :
    Effects c s L Q := by
  refine effects_of_exec hexec hL (hpower _ ?_ (fun ho hrun hc => ?_) (fun ho => ?_))
  · split
    next => exact (limitReached_frame (modPower (begin s) f)).2 .power (by decide)
    next => rfl
  · rw [if_pos ho]
    exact limitReached_ward (s := modPower (begin s) f) hrun hc
  · rw [if_neg ho]
    rfl

theorem exec_inputOvervoltage (s : State) (mv : W16) : exec (.inputOvervoltage mv) s = .next (
    if 66000 < mv.toNat then powerFails (modPower (begin s) (fun w => { w with vin := mv }))
    else if 60000 < mv.toNat then limitReached (modPower (begin s) (fun w => { w with vin := mv }))
    else modPower (begin s) (fun w => { w with vin := mv })) := rfl

/-- Settles O44: the power failure, the hold-up's end, and the readings against their limits. -/
theorem powerFailsAndLimitsDrain : Obligations.PowerFailsAndLimitsDrain := by
  unfold Obligations.PowerFailsAndLimitsDrain
  refine ⟨fun s hh ho => effects_of_exec (t := powerFails (begin s)) rfl rfl (powerFails_effects (s := begin s) hh ho),
    fun s h => holdUpEnd_effects h, fun s mv => ⟨fun h => ?_, fun hlo hhi hrun => ?_, fun h hh ho => ?_⟩, fun s k amps => ?_,
    fun s k r => ?_⟩
  · have hexec := exec_inputOvervoltage s mv
    rw [if_neg (by omega), if_neg (by omega)] at hexec
    exact ⟨_, hexec, rfl, modPower_only ((closedOn_frame _ s).sub (by decide)) _ _ (begin_frame (by decide) s)⟩
  · have hexec := exec_inputOvervoltage s mv
    rw [if_neg (by omega), if_pos hlo] at hexec
    have hlimit := limitReached_frame (modPower (begin s) (fun w => { w with vin := mv }))
    refine ⟨_, hexec, ⟨hlimit.2 .power (by decide), fun hc => limitReached_ward
      (s := modPower (begin s) (fun w => { w with vin := mv })) hrun hc⟩, ?_⟩
    exact Frame.trans (modPower_only ((closedOn_frame _ s).sub (by decide)) _ _ (begin_frame (by decide) s))
      (hlimit.mono (by decide))
  · have hexec := exec_inputOvervoltage s mv
    rw [if_pos h] at hexec
    have heff := powerFails_effects (s := modPower (begin s) (fun w => { w with vin := mv })) hh ho
    obtain ⟨hstage, -, -, -, -, -, hon, -⟩ := heff
    exact effects_of_exec hexec rfl ⟨hstage, hon⟩
  · have hexec : exec (.railOvercurrent k amps) s = .next (if railLimit k.val < 10 * amps.toNat then
        limitReached (modPower (begin s) (fun w => { w with rail := if k.val < 40 then sset 0 w.rail k.val amps else w.rail }))
        else modPower (begin s) (fun w => { w with rail := if k.val < 40 then sset 0 w.rail k.val amps else w.rail })) := rfl
    refine effects_of_reading hexec rfl fun u hp hover hunder => ⟨fun hk => ?_, fun hk => ?_, fun hle => ?_, hover⟩
    · rw [hp, if_pos hk, sget_sset, if_pos rfl]
    · rw [hp, if_neg (by omega)]
    · exact hunder (by omega)
  · have hexec : exec (.thermalLimit k r) s = .next (if r == 0x8000 || tempLimit k.val < r.toInt then
        limitReached (modPower (begin s) (fun w => { w with temp := sset 0 w.temp k.val r }))
        else modPower (begin s) (fun w => { w with temp := sset 0 w.temp k.val r })) := rfl
    refine effects_of_reading hexec rfl fun u hp hover hunder => ⟨?_, fun hne hle => ?_, fun h => hover ?_⟩
    · rw [hp, sget_sset, if_pos rfl]
    · exact hunder (by simpa using ⟨hne, hle⟩)
    · simpa using h

end Sys2Proof.Machine
end

section
/-!
PROOFS. Drains change the warden in its logs alone, and links in their queues alone (R290, R408, R426, R429); the card's drain,
its departure and its sentry.
-/
namespace Sys2Proof.Machine

/-! ### Operations that only log -/

/-- A property that the warden's logs leave. -/
def LogClosed (P : State → Prop) : Prop := ∀ (u : State) (w : Warden), Logged u.ward w → P u → P { u with ward := w }

/-- A property that the queues of a link leave. -/
def QueueClosed (P : State → Prop) : Prop := ∀ (u : State) (l k : Nat) (f : List Body → List Body), P u →
  P (modLink u l (fun x => modSpace x k (fun y => { y with queue := f y.queue })))

section
variable {P : State → Prop} (hl : LogClosed P) {s : State} (hs : P s)

include hl hs

theorem logError_keeps (hout : ClosedOn P [.out]) (cls sev sect kind ix : Nat) (d : W64) :
    P (logError s cls sev sect kind ix d) := by
  have hlog := logError_logged s cls sev sect kind ix d
  have hframe := logError_only (closedOn_frame [.ward, .out] s) s cls sev sect kind ix d (Frame.refl _ s)
  generalize logError s cls sev sect kind ix d = u at hlog hframe ⊢
  have heq : u = { { s with ward := u.ward } with out := u.out } := by
    refine eq_of_same hframe.1 fun p => ?_
    have hp := hframe.2 p
    cases p <;> first | rfl | exact hp (by decide)
  rw [heq]
  exact hout .out (by decide) _ _ (hl s u.ward hlog hs)

theorem logClass_keeps (hout : ClosedOn P [.out]) (cls sect kind ix : Nat) (d : W64) : P (logClass s cls sect kind ix d) :=
  logError_keeps hl hs hout _ _ _ _ _ _

theorem capMem_keeps (hc : ClosedOn P [.sect, .out]) (t : Sec) (addr kind src : Nat) : P (capMem s t addr kind src) :=
  logClass_keeps hl (modSect_only (hc.sub (by decide)) _ _ _ hs) (hc.sub (by decide)) _ _ _ _ _

theorem capLoss_keeps (hc : ClosedOn P [.sect, .out]) (t : Sec) (step : Option Nat) (id : W16) (cause : Nat) :
    P (capLoss s t step id cause) := by
  unfold capLoss
  refine logError_keeps hl ?_ (hc.sub (by decide)) _ _ _ _ _ _
  exact p_ite _ _ _ hs (modSect_only (hc.sub (by decide)) _ _ _ hs)

theorem noteCorrected_keeps (hc : ClosedOn P [.tiers, .out]) (p : Nat) : P (noteCorrected s p) := by
  unfold noteCorrected
  split
  · exact hs
  · exact logClass_keeps hl (addCe_only (hc.sub (by decide)) _ _ _ hs) (hc.sub (by decide)) _ _ _ _ _

theorem noteDecodes_keeps (hc : ClosedOn P [.tiers, .out]) (a n : Nat) : P (noteDecodes s a n) :=
  p_ite _ _ _ hs (p_foldl _ _ hs fun _ _ hu => noteCorrected_keeps hl hu hc _)

theorem notePartWrite_keeps (hc : ClosedOn P [.tiers, .out]) (a n : Nat) : P (notePartWrite s a n) := by
  have hfirst : P (if a % 256 == 0 && 256 ≤ n then s else noteDecodes s a (min n 1)) :=
    p_ite _ _ _ hs (noteDecodes_keeps hl hs hc _ _)
  exact p_ite _ _ _ hfirst (noteDecodes_keeps hl hfirst hc _ _)

theorem hostApply_keeps (hc : ClosedOn P [.tiers, .out]) (ws : List (Nat × Nat)) (poison : Bool) : P (hostApply s ws poison) :=
  wrPlaces_only (hc.sub (by decide)) _ _ _ (wrPlaces_only (hc.sub (by decide)) _ _ _
    (p_foldl _ _ hs fun _ _ hu => notePartWrite_keeps hl hu hc _ _))

theorem finishInline_keeps (hc : ClosedOn P [.rings, .cmds, .recs, .steps, .colls, .tiers, .trace, .out]) (t : Sec) :
    P (finishInline s t) := by
  refine p_foldl _ _ hs fun u c hu => ?_
  split
  · exact p_ite _ _ _ (complete_only (hc.sub (by decide)) _ _ _ _ _ _ (hostApply_keeps hl hu (hc.sub (by decide)) _ _)) hu
  · exact hu

theorem releaseHeld_keeps (hc : ClosedOn P [.tiers, .out]) (page : Nat) : P (releaseHeld s page) :=
  p_foldl _ _ (upd_tiers hc (by decide) _ hs rfl) fun _ _ hu => hostApply_keeps hl hu hc _ _

theorem dropMoves_keeps (hc : ClosedOn P [.tiers, .out]) (ord : Nat) : P (dropMoves s ord) :=
  p_foldl _ _ (upd_tiers hc (by decide) _ hs rfl) fun _ _ hu => p_ite _ _ _ hu (releaseHeld_keeps hl hu hc _)

theorem ckptCopy_keeps (hc : ClosedOn P [.sect, .tiers, .out]) (t : Sec) (g : Nat × Nat) : P (ckptCopy s t g) := by
  have hcopy : P (copyGranule (noteDecodes s g.1 256) (place s g.1) (place s g.2)) :=
    copyGranule_only (hc.sub (by decide)) _ _ _ (noteDecodes_keeps hl hs (hc.sub (by decide)) _ _)
  exact p_ite _ _ _ (capMem_keeps hl hcopy (hc.sub (by decide)) _ _ _ _) hcopy

theorem ckptStop_keeps (hc : ClosedOn P [.sect, .tiers, .out, .fresh]) (t : Sec) (k : CkptJob) : P (ckptStop s t k).1 := by
  unfold ckptStop
  split
  · exact hs
  · exact p_foldl _ _ (newStop_only (hc.sub (by decide)) _ hs) fun _ _ hu => ckptCopy_keeps hl hu (hc.sub (by decide)) _ _

variable (hc : ClosedOn P [.sect, .rings, .cmds, .recs, .steps, .colls, .tiers, .trace, .out, .fresh])
include hc

theorem drainOne_keeps (t : Sec) (c : Cmd) : P (drainOne s t c) := by
  unfold drainOne
  refine p_ite _ _ _ hs (p_ite _ _ _ (modCmd_only (hc.sub (by decide)) _ _ _ _ hs) ?_)
  split
  · exact completeOne_only (hc.sub (by decide)) _ _ _ _ _ _ (dropMoves_keeps hl hs (hc.sub (by decide)) _)
  · exact completeOne_only (hc.sub (by decide)) _ _ _ _ _ _
      (dropMoves_keeps hl (ckptStop_keeps hl hs (hc.sub (by decide)) _ _) (hc.sub (by decide)) _)
  · exact completeOne_only (hc.sub (by decide)) _ _ _ _ _ _ (dropMoves_keeps hl hs (hc.sub (by decide)) _)

theorem drainSection_keeps (t : Sec) : P (drainSection s t) := by
  refine p_foldl _ _ (p_foldl _ _ hs fun u c hu => ?_) fun u v hu => finishInline_keeps hl hu (hc.sub (by decide)) v
  split
  · exact drainOne_keeps hl hu hc _ _
  · exact hu

theorem drainTakes_keeps (t : Sec) : P (drainTakes s t) :=
  p_ite _ _ _ hs (setCmds_only (hc.sub (by decide)) _ _ _ (drainSection_keeps hl hs hc t))

end

/-! ### Operations that only queue flits -/

section
variable {P : State → Prop} (hq : QueueClosed P) {s : State} (hs : P s)
include hq hs

theorem queueControl_keeps (b : Body) : P (queueControl s b) :=
  p_foldl _ _ hs fun u l hu => p_ite _ _ _ (hq u l.val 4 (· ++ [b]) hu) hu

theorem finishDrains_keeps (hc : ClosedOn P [.rings, .cmds, .recs, .steps, .colls, .trace]) (t : Sec) : P (finishDrains s t) := by
  refine p_foldl _ _ hs fun u c hu => ?_
  split
  · exact complete_only hc _ _ _ _ _ _ hu
  · exact completeOne_only hc _ _ _ _ _ _ (p_ite _ _ _ hu (queueControl_keeps hq hu _))
  · exact hu

end

/-! ### The card's drain -/

/-- What a drain leaves of the warden and of the links' states. -/
def DrainKeeps (s u : State) : Prop := Logged s.ward u.ward ∧ (∀ l, linkState u l = linkState s l) ∧ u.id = s.id

theorem DrainKeeps.refl (s : State) : DrainKeeps s s := ⟨.refl _, fun _ => rfl, rfl⟩

theorem drainKeeps_closedOn (s : State) : ClosedOn (DrainKeeps s) [.sect, .rings, .cmds, .recs, .steps, .colls, .tiers, .trace,
    .out, .fresh] :=
  closedOn_of_frame fun u v hu hv => by
    obtain ⟨hward, hlink, hid⟩ := hu
    have hw : v.ward = u.ward := hv.2 .ward (by decide)
    have hl : v.links = u.links := hv.2 .links (by decide)
    refine ⟨by rwa [hw], fun l => ?_, (hv.2 .id (by decide)).trans hid⟩
    rw [linkState_eq, getLink_of_links hl]
    exact hlink l

theorem drainKeeps_logClosed (s : State) : LogClosed (DrainKeeps s) := fun _ _ hw hu => ⟨hu.1.trans hw, hu.2⟩

theorem drainKeeps_queueClosed (s : State) : QueueClosed (DrainKeeps s) := fun u l k f hu => by
  obtain ⟨hward, hlink, hid⟩ := hu
  refine ⟨hward, fun j => ?_, hid⟩
  rw [linkState_eq, getLink_modLink, ← hlink j, linkState_eq]
  split
  next h => rw [h]; rfl
  next => rfl

theorem cardDrainSection_keeps {s u : State} (hu : DrainKeeps s u) (t : Sec) : DrainKeeps s (cardDrainSection u t) := by
  have hc := drainKeeps_closedOn s
  have hl := drainKeeps_logClosed s
  have hloss : DrainKeeps s (if lossAtDrain u t then capLoss u t none 0 6 else u) :=
    p_ite _ _ _ (capLoss_keeps hl hu (hc.sub (by decide)) _ _ _ _) hu
  exact finishDrains_keeps (drainKeeps_queueClosed s) (drainSection_keeps hl (drainTakes_keeps hl hloss hc _) hc _)
    (hc.sub (by decide)) _

theorem queueRequests_keeps {s u : State} (hu : DrainKeeps s u) : DrainKeeps s (queueRequests u) :=
  p_ite _ _ _ hu (p_foldl _ _ hu fun _ _ hv => p_ite _ _ _ (queueControl_keeps (drainKeeps_queueClosed s) hv _) hv)

theorem getLink_departLinks (s : State) (k : Nat) : getLink (departLinks s) k =
    if k < 36 ∧ linkState s k = lsActive then { getLink s k with departTx := true } else getLink s k := by
  unfold departLinks
  have hfold := (foldl_links (L := [.links]) (s := s) (F := fun s l =>
      if linkState s l == lsActive then modLink s l (fun x => { x with departTx := true }) else s)
    (g := fun _ x => if x.st == lsActive then { x with departTx := true } else x) (fun u l hu => by
      refine ⟨p_ite _ _ _ (modLink_only (closedOn_frame _ s) _ _ _ hu) hu, fun j => ?_⟩
      rw [linkState_eq]
      by_cases hst : (getLink u l).st == lsActive
      · rw [if_pos hst, getLink_modLink, if_pos hst]
      · rw [if_neg hst, if_neg hst]; split
        next h => rw [h]
        next => rfl) (List.nodup_range (n := 36)) s (Frame.refl _ s)).2 k
  rw [hfold]
  by_cases hk : k < 36 <;> by_cases hst : (getLink s k).st = lsActive <;> simp [hk, hst, linkState_eq]

/-- R290, R426: in the guard band a draining card announces its departure on every ACTIVE link. -/
theorem drainCard_effects (s : State) : Logged { s.ward with drain := .armed } (drainCard s).ward ∧
    ∀ l : Link, linkState s l.val = lsActive → (getLink (drainCard s) l.val).departTx = true := by
  have hsect : DrainKeeps s (queueRequests (allSecs.foldl cardDrainSection s)) :=
    queueRequests_keeps (p_foldl _ _ (DrainKeeps.refl s) fun _ t hu => cardDrainSection_keeps hu t)
  unfold drainCard
  dsimp only
  generalize queueRequests (allSecs.foldl cardDrainSection s) = v at hsect ⊢
  obtain ⟨⟨log, events, audit, full, lost, hward⟩, hlink, -⟩ := hsect
  have hdep : (departLinks v).ward = v.ward := (departLinks_only (closedOn_frame [.links] v) v (Frame.refl _ v)).2 .ward (by decide)
  constructor
  · rw [modWard_ward, hdep, hward]
    exact ⟨_, _, _, _, _, rfl⟩
  · intro l hl
    rw [getLink_of_links (modWard_links _ _), getLink_departLinks, if_pos ⟨l.isLt, (hlink _).trans hl⟩]

/-! ### Departure -/

theorem getLink_sendNew (s : State) (l : Link) (k : Nat) (b : Body) (rest : List Body) {j : Nat} (hj : j ≠ l.val) :
    getLink (sendNew s l k b rest) j = getLink s j := by
  unfold sendNew
  dsimp only
  rw [getLink_of_links (emit_links _ _), getLink_modLink, if_neg hj]

theorem getLink_sendRest (n : Nat) (s : State) (l : Link) {j : Nat} (hj : j ≠ l.val) : getLink (sendRest n s l) j = getLink s j := by
  induction n generalizing s with
  | zero => rfl
  | succ n ih =>
    unfold sendRest
    split
    · rw [ih, getLink_sendNew _ _ _ _ _ hj]
    · rfl

theorem getLink_departLink_ne (s : State) (l : Link) {j : Nat} (hj : j ≠ l.val) : getLink (departLink s l) j = getLink s j := by
  unfold departLink
  split
  next => rfl
  next =>
    dsimp only
    rw [getLink_leaveLink, if_neg hj, getLink_sendRest _ _ _ hj, getLink_pushFlit, if_neg hj]

theorem departLink_frame {L : List Piece} (hL : [.links, .out] ⊆ L) {s u : State} (h : Frame L s u) (l : Link) :
    Frame L s (departLink u l) := departLink_only ((closedOn_frame L s).sub hL) u l h

theorem departLink_disabled {s : State} {l : Link} (h : linkState s l.val = lsActive) :
    linkState (departLink s l) l.val = lsDisabled ∧
      (getLink (departLink s l) l.val).cause = if isA1 s then 0 else 7 := by
  unfold departLink
  rw [if_neg (by rw [h]; decide), linkState_eq]
  dsimp only
  have hid (n : Nat) : isA1 (sendRest n (pushFlit s l.val 4 (departBody s)) l) = isA1 s :=
    isA1_of_frame (L := [.links, .out]) (sendRest_only (closedOn_frame _ s) n _ l
      (pushFlit_only ((closedOn_frame _ s).sub (by decide)) _ _ _ _ (Frame.refl _ s))) (by decide)
  rw [getLink_leaveLink, if_pos rfl, hid]
  exact ⟨LinkSt.inState_st _ _, rfl⟩

theorem foldl_departLink {l : List Link} (hl : l.Nodup) (s : State) : Frame [.links, .out] s (l.foldl departLink s) ∧
    (∀ k, (∀ m ∈ l, k ≠ m.val) → getLink (l.foldl departLink s) k = getLink s k) ∧
    ∀ m ∈ l, linkState s m.val = lsActive → linkState (l.foldl departLink s) m.val = lsDisabled ∧
      (getLink (l.foldl departLink s) m.val).cause = if isA1 s then 0 else 7 := by
  induction l generalizing s with
  | nil => exact ⟨Frame.refl _ s, fun _ _ => rfl, by simp⟩
  | cons a l ih =>
    obtain ⟨ha, hl⟩ := List.nodup_cons.1 hl
    obtain ⟨hframe, hsame, hdone⟩ := ih hl (departLink s a)
    have hstep := departLink_frame (L := [.links, .out]) (fun _ h => h) (Frame.refl _ s) a
    rw [List.foldl_cons]
    refine ⟨hstep.trans hframe, fun k hk => ?_, fun m hm hact => ?_⟩
    · rw [hsame k fun m hm => hk m (List.mem_cons_of_mem _ hm), getLink_departLink_ne _ _ (hk a (List.mem_cons_self ..))]
    · rcases List.mem_cons.1 hm with rfl | hm
      · have hrest := hsame m.val fun j hj he => ha (Fin.ext he ▸ hj)
        rw [linkState_eq, hrest]
        exact departLink_disabled hact
      · have hne : m.val ≠ a.val := fun he => ha (Fin.ext he ▸ hm)
        have h := hdone m hm (by rw [linkState_eq, getLink_departLink_ne _ _ hne]; exact hact)
        rwa [isA1_of_frame hstep (by decide)] at h

theorem depart_eq (s : State) : depart s = modWard (setCard (allLinks.foldl departLink s) .departed
    (allLinks.foldl departLink s).ward.cause) (fun w => { w with drain := .none }) := rfl

theorem departSend_effects {s : State} (hdrain : s.ward.drain = .send) (hguard : s.time.guard = false) :
    Effects .departSend s [.links, .ward, .out] (fun u => u.ward.card = .departed ∧ u.ward.drain = .none ∧
      ∀ l : Link, linkState s l.val = lsActive → linkState u l.val = lsDisabled ∧
        (getLink u l.val).cause = if isA1 s then 0 else 7) := by
  have hexec : exec .departSend s = .next (if s.ward.drain == .send && !s.time.guard then depart (begin s) else begin s) := rfl
  rw [if_pos (by rw [hdrain, hguard]; rfl), depart_eq] at hexec
  obtain ⟨hframe, -, hdone⟩ := foldl_departLink (l := allLinks) (List.nodup_finRange 36) (begin s)
  generalize allLinks.foldl departLink (begin s) = v at hexec hframe hdone
  have hset := setCard_only (closedOn_frame [.ward, .out] v) v .departed v.ward.cause (Frame.refl _ v)
  have hcard : (setCard v .departed v.ward.cause).ward.card = .departed := by
    by_cases hc : v.ward.card = .departed
    · unfold setCard
      rw [if_pos (by simpa using hc)]
      exact hc
    · exact (setCard_logged hc _).card
  refine effects_of_exec hexec rfl ⟨hcard, rfl, fun l hl => ?_⟩
  rw [linkState_eq, getLink_of_links (modWard_links _ _), getLink_of_links (hset.2 .links (by decide))]
  exact hdone l (List.mem_finRange l) hl

/-! ### The sentry -/

theorem sentryActs_eq (s : State) : sentryActs s = if s.ward.sentryActed then s else
    let u := suspectNow (modWard s (fun w => { w with sentryActed := true })) causeSentry
    if u.ward.card == .departed || u.ward.drain == .armed || u.ward.drain == .send then u else drainCard u := rfl

/-- R428, R473: what the sentry's act makes of the warden. -/
theorem sentryActs_ward (s : State) : (sentryActs s).ward.sentryActed = true ∧
    (sentryActs s).ward.sentryArmed = s.ward.sentryArmed ∧ (sentryActs s).ward.running = s.ward.running ∧
    (s.ward.sentryActed = false → s.ward.card = .service → (sentryActs s).ward.card = .suspect ∧
      (sentryActs s).ward.cause = causeSentry ∧ (sentryActs s).ward.flashCard = s.ward.flashCard ∧
      (s.ward.drain ≠ .armed → s.ward.drain ≠ .send → (sentryActs s).ward.drain = .armed)) := by
  rw [sentryActs_eq]
  by_cases hacted : s.ward.sentryActed = true
  · rw [if_pos hacted]
    exact ⟨hacted, rfl, rfl, fun h => by rw [hacted] at h; exact absurd h (by decide)⟩
  · rw [if_neg hacted]
    dsimp only
    let m := modWard s (fun w => { w with sentryActed := true })
    let u := suspectNow m causeSentry
    have hu : u.ward.sentryActed = true ∧ u.ward.sentryArmed = s.ward.sentryArmed ∧ u.ward.running = s.ward.running ∧
        (s.ward.card = .service → u.ward.card = .suspect ∧ u.ward.cause = causeSentry ∧
          u.ward.flashCard = s.ward.flashCard ∧ u.ward.drain = s.ward.drain) := by
      by_cases hc : m.ward.card = .service
      · have hlog := suspectNow_logged hc causeSentry
        exact ⟨hlog.sentryActed, hlog.sentryArmed, hlog.running, fun _ => ⟨hlog.card, hlog.cause, hlog.flashCard, hlog.drain⟩⟩
      · have hsame : u = m := suspectNow_of_ne hc _
        rw [hsame]
        exact ⟨rfl, rfl, rfl, fun h => absurd h hc⟩
    obtain ⟨hact, harm, hrun, hserv⟩ := hu
    show (if u.ward.card == .departed || u.ward.drain == .armed || u.ward.drain == .send then u else drainCard u).ward.sentryActed
      = true ∧ _
    by_cases hno : (u.ward.card == .departed || u.ward.drain == .armed || u.ward.drain == .send) = true
    · rw [if_pos hno]
      refine ⟨hact, harm, hrun, fun _ hc => ?_⟩
      obtain ⟨hcard, hcause, hflash, hdrain⟩ := hserv hc
      refine ⟨hcard, hcause, hflash, fun h1 h2 => ?_⟩
      rw [hcard, hdrain] at hno
      simp [h1, h2] at hno
    · rw [if_neg hno]
      have hlog := (drainCard_effects u).1
      refine ⟨hlog.sentryActed.trans hact, hlog.sentryArmed.trans harm, hlog.running.trans hrun, fun _ hc => ?_⟩
      obtain ⟨hcard, hcause, hflash, -⟩ := hserv hc
      exact ⟨hlog.card.trans hcard, hlog.cause.trans hcause, hlog.flashCard.trans hflash, fun _ _ => hlog.drain⟩

theorem exec_sentryKick {s : State} (hrun : s.ward.running = true) (word : W64) : exec (.sentryKick word) s = .next (
    if word == Config.selfCheck then modWard (begin s) (fun w => { w with sentryArmed := true })
    else sentryActs (modWard (begin s) (fun w => { w with sentryArmed := true }))) := by
  show (.next (if !s.ward.running then begin s else _) : Res) = _
  rw [hrun, if_neg (by decide)]

theorem exec_heartbeat (s : State) (data : BitVec 128) : exec (.heartbeat data) s = .next (
    if s.ward.card == .service && s.ward.sentryArmed && !s.ward.sentryActed then
      emit (begin s) (.heartbeat (data.setWidth 64) (BitVec.ofNat 4 (cardCode s.ward.card)) s.ward.cause)
    else begin s) := rfl

/-- Settles O43: the drain by what its sections leave (`DrainKeeps`), the departure link by link, the sentry by its act. -/
theorem cardsDrainAndDepart : Obligations.CardsDrainAndDepart := by
  unfold Obligations.CardsDrainAndDepart
  refine ⟨fun s hdrain hguard => ?_, fun s => departSend_effects, fun s word hrun => ⟨fun hword => ?_, fun hword => ?_⟩,
    fun s harm => ?_, fun s data hc harm hact => ?_, fun s data h => ?_⟩
  · have hexec : exec .cardDrain s = .next (if s.ward.drain == .guard && s.time.guard then drainCard (begin s) else begin s) := rfl
    rw [if_pos (by rw [hdrain, hguard]; rfl)] at hexec
    obtain ⟨hlog, hdep⟩ := drainCard_effects (begin s)
    exact effects_of_exec hexec rfl ⟨hlog.drain, hlog.card, hdep⟩
  · have hexec := exec_sentryKick hrun word
    rw [if_pos (by simpa using hword)] at hexec
    exact ⟨_, hexec, rfl, modWard_only ((closedOn_frame _ s).sub (by decide)) _ _ (begin_frame (by decide) s)⟩
  · have hexec := exec_sentryKick hrun word
    rw [if_neg (by simpa using hword)] at hexec
    obtain ⟨hact, harm, -, hserv⟩ := sentryActs_ward (modWard (begin s) (fun w => { w with sentryArmed := true }))
    exact effects_of_exec hexec rfl ⟨harm, hact, hserv⟩
  · have hexec : exec .sentryDeadline s = .next (if s.ward.sentryArmed then
        sentryActs (modWard (begin s) (fun w => { w with running := false })) else begin s) := rfl
    rw [if_pos harm] at hexec
    obtain ⟨hact, -, hrun, hserv⟩ := sentryActs_ward (modWard (begin s) (fun w => { w with running := false }))
    exact effects_of_exec hexec rfl ⟨hrun, hact, fun h hc => ⟨(hserv h hc).1, (hserv h hc).2.1⟩⟩
  · have hexec := exec_heartbeat s data
    rw [if_pos (by rw [hc, harm, hact]; rfl)] at hexec
    exact effects_of_exec hexec rfl rfl
  · rw [exec_heartbeat, if_neg]
    rcases h with h | h <;> simp [h]

end Sys2Proof.Machine
end

section
/-!
PROOFS. Flits in order (R267, R272, R275): a collective, and a drain, change links in their queues alone.
-/
namespace Sys2Proof.Machine

/-! ### Collectives queue flits -/

/-- A property that the count of discarded collective flits of a link leaves. -/
def DiscClosed (P : State → Prop) : Prop := ∀ (u : State) (l : Nat) (f : W32 → W32), P u →
  P (modLink u l (fun x => { x with cdisc := f x.cdisc }))

section
variable {P : State → Prop} (hq : QueueClosed P) (hc : ClosedOn P [.sect, .nflag, .cmds, .colls, .tiers, .ward, .out])
include hq

theorem pushFlit_keeps {s : State} (hs : P s) (l k : Nat) (b : Body) : P (pushFlit s l k b) := hq s l k (· ++ [b]) hs

theorem sendPieces_keeps {s : State} (hs : P s) (x : CollRun) (l dest level b : Nat) (mcast : Bool) (bs : List Nat) :
    P (sendPieces s x l dest level b mcast bs) :=
  p_foldl _ _ hs fun _ _ hu => pushFlit_keeps hq hu _ _ _

include hc

theorem gatherSend_keeps {s : State} (hs : P s) (x : CollRun) (l b : Nat) (rm : Nat → Rm) (vs : List Nat) :
    P (gatherSend s x l b rm vs) := by
  unfold gatherSend
  exact markSent_only (hc.sub (by decide)) _ _ _ (modColl_only (hc.sub (by decide)) _ _ _ _
    (sendPieces_keeps hq (raise_only (hc.sub (by decide)) _ _ _ _ _ hs) _ _ _ _ _ _ _))

theorem finishBlock_keeps {s : State} (hs : P s) (x : CollRun) (l b : Nat) (v : List Nat) : P (finishBlock s x l b v) := by
  have hraise (f : NumFlags) : P (raise s x.sec x.ord (fabricEngine l) f) := raise_only (hc.sub (by decide)) _ _ _ _ _ hs
  unfold finishBlock
  refine p_ite _ _ _ (p_ite _ _ _ hs ?_) (p_ite _ _ _ hs ?_)
  · exact markWrote_only (hc.sub (by decide)) _ _ _ (writeBlock_only (hc.sub (by decide)) _ _ _ _ (hraise _))
  · exact gatherSend_keeps hq hc (hraise _) _ _ _ _ _

theorem reduceBlock_keeps (fuel : Nat) {s : State} (hs : P s) (x : CollRun) (l b : Nat) : P (reduceBlock fuel s x l b) := by
  induction fuel generalizing s with
  | zero => exact hs
  | succ n ih =>
    have hwords (a c : List Nat) : P (addWords s x l a c).1 := addWords_only (hc.sub (by decide)) _ _ _ _ _ hs
    unfold reduceBlock
    split
    next =>
      split
      next => exact hs
      next hcontrib =>
        refine ih (putAcc_only (hc.sub (by decide)) _ _ _ _ _ ?_)
        split at hcontrib
        · exact contribution_only (hc.sub (by decide)) hs hcontrib
        · cases hcontrib
    next =>
      dsimp only
      refine p_ite _ _ _ (finishBlock_keeps hq hc hs _ _ _ _) (p_ite _ _ _ (p_ite _ _ _ hs ?_) (p_ite _ _ _ ?_ ?_))
      · exact markSent_only (hc.sub (by decide)) _ _ _
          (sendPieces_keeps hq (raise_only (hc.sub (by decide)) _ _ _ _ _ hs) _ _ _ _ _ _ _)
      · split
        next => exact hs
        next =>
          refine ih (putAcc_only (hc.sub (by decide)) _ _ _ _ _ ?_)
          split
          · exact writeBlock_only (hc.sub (by decide)) _ _ _ _ (raise_only (hc.sub (by decide)) _ _ _ _ _ (hwords _ _))
          · split
            · exact writeBlock_only (hc.sub (by decide)) _ _ _ _ (hwords _ _)
            · exact hwords _ _
      · exact ih (putAcc_only (hc.sub (by decide)) _ _ _ _ _ hs)

theorem sendUnit_keeps {s : State} (hs : P s) (x : CollRun) (i : Nat) (m : Nat × Nat × Nat) : P (sendUnit s x i m) := by
  have hread (l a : Nat) : P (readUnit s x l a).1 := readUnit_only (hc.sub (by decide)) _ _ _ _ hs
  unfold sendUnit
  refine markSent_only (hc.sub (by decide)) _ _ _ (p_ite _ _ _ ?_ ?_)
  · exact putRecv_only (hc.sub (by decide)) _ _ _ _ (hread _ _)
  · exact sendPieces_keeps hq (hread _ _) _ _ _ _ _ _ _

theorem pumpPermute_keeps {s : State} (hs : P s) (x : CollRun) : P (pumpPermute s x) :=
  p_ite _ _ _ hs (flushUnits_only (hc.sub (by decide)) _ _
    (p_foldl _ _ hs fun _ _ hu => p_ite _ _ _ hu (sendUnit_keeps hq hc hu _ _ _)))

theorem pumpGather_keeps {s : State} (hs : P s) (x : CollRun) : P (pumpGather s x) :=
  p_ite _ _ _ hs (p_foldl _ _ hs fun _ _ hu => p_ite _ _ _ hu
    (gatherSend_keeps hq hc (readBlock_only (hc.sub (by decide)) _ _ _ _ _ hu) _ _ _ _ _))

theorem pumpColl_keeps {s : State} (hs : P s) (x : CollRun) : P (pumpColl s x) := by
  unfold pumpColl
  split
  · exact pumpPermute_keeps hq hc hs x
  · exact pumpGather_keeps hq hc hs x
  · exact pumpGather_keeps hq hc hs x
  · exact p_foldl _ _ hs fun _ _ hu => reduceBlock_keeps hq hc _ hu _ _ _

omit hq
variable (hd : DiscClosed P)
include hd

omit hc in
theorem countDisc_keeps {s : State} (hs : P s) (l : Nat) : P (countDisc s l) := p_ite _ _ _ hs (hd s l satInc hs)

theorem blockIn_keeps {s : State} (hs : P s) (x : CollRun) (l level b : Nat) (a : Asm) : P (blockIn s x l level b a) := by
  have hnote {u : State} (hu : P u) (bad : Bool) : P (if bad then logClass (countDisc u l) 6 x.sec.val 2 l 0 else u) :=
    p_ite _ _ _ (logClass_only (hc.sub (by decide)) _ _ _ _ _ _ (countDisc_keeps hd hu l)) hu
  have hraise (f : NumFlags) : P (raise s x.sec x.ord (fabricEngine l) f) := raise_only (hc.sub (by decide)) _ _ _ _ _ hs
  unfold blockIn
  refine p_ite _ _ _ ?_ (p_ite _ _ _ ?_ ?_)
  · exact putRecv_only (hc.sub (by decide)) _ _ _ _ (wrDev_only (hc.sub (by decide)) _ _ _ (hnote (hraise _) _))
  · exact putRecv_only (hc.sub (by decide)) _ _ _ _ (gatherWrite_only (hc.sub (by decide)) _ _ _ _ _ (hnote hs _))
  · exact putRecv_only (hc.sub (by decide)) _ _ _ _ (hnote (hraise _) _)

include hq in
theorem collReceive_keeps {s : State} (hs : P s) (t : Sec) (l : Nat) (f : Flit) : P (collReceive s t l f) := by
  have hcoll (o : Nat) (g : CollSt → CollSt) : P (modColl s t o g) := modColl_only (hc.sub (by decide)) _ _ _ _ hs
  unfold collReceive
  refine p_ite _ _ _ hs ?_
  dsimp only
  split
  next => exact countDisc_keeps hd hs l
  next x _ =>
    exact p_ite _ _ _ (blockIn_keeps hc hd hs _ _ _ _ _) (p_ite _ _ _
      (pumpColl_keeps hq hc (blockIn_keeps hc hd (hcoll _ _) _ _ _ _ _) _) (hcoll _ _))

end

/-! ### What a delivery leaves of the sequence numbers -/

/-- What the receiver of a space keeps: the sequence number expected, the last one taken, and the requests for a resend. -/
def Space.numbers (y : Space) : Nat × Nat × Bool × Bool := (y.expect, y.ack, y.reqDue, y.reqSet)

/-- The receivers of all spaces stand as they did. -/
def NumbersKept (s u : State) : Prop := ∀ l k : Nat,
  (getLink u l).spaces[k]?.map Space.numbers = (getLink s l).spaces[k]?.map Space.numbers

theorem NumbersKept.refl (s : State) : NumbersKept s s := fun _ _ => rfl

theorem NumbersKept.of_links {s u : State} (h : u.links = s.links) : NumbersKept s u := fun l k => by rw [getLink_of_links h]

theorem NumbersKept.modLink {s u : State} (h : NumbersKept s u) (l : Nat) {f : LinkSt → LinkSt}
    (hf : ∀ x : LinkSt, ∀ k : Nat, (f x).spaces[k]?.map Space.numbers = x.spaces[k]?.map Space.numbers) :
    NumbersKept s (modLink u l f) := fun j k => by
  rw [getLink_modLink, ← h]
  split
  next heq => rw [hf, heq]
  next => rfl

theorem numbersKept_closedOn (s : State) {L : List Piece} (hL : .links ∉ L) : ClosedOn (NumbersKept s) L :=
  closedOn_of_frame fun _ _ hu hv l k => by rw [getLink_of_links (hv.2 .links hL)]; exact hu l k

theorem numbersKept_queueClosed (s : State) : QueueClosed (NumbersKept s) := fun _ _ k f hu =>
  hu.modLink _ fun x j => by
    rw [modSpace_spaces_get]
    split
    · cases x.spaces[j]? <;> rfl
    · rfl

theorem numbersKept_discClosed (s : State) : DiscClosed (NumbersKept s) := fun _ _ _ hu => hu.modLink _ fun _ _ => rfl

theorem requestDrain_numbers {s u : State} (hu : NumbersKept s u) (t : Sec) : NumbersKept s (requestDrain u t) := by
  have hcmds : NumbersKept s (setCmds { u with seq := u.seq + 1 } t (getCmds u t ++
      [⟨u.seq, 0, ⟨t.val * 16, by omega⟩, 0x0D, 0, false, none, 0, [], [], [], [], none, .netDrain false [] 0⟩])) := hu
  unfold requestDrain
  exact p_ite _ _ _ (finishDrains_keeps (numbersKept_queueClosed s)
    (drainTakes_only (numbersKept_closedOn s (by decide)) _ _ hcmds) (numbersKept_closedOn s (by decide)) _) hcmds

theorem takeDrain_numbers (s : State) (l : Nat) (f : Flit) : NumbersKept s (takeDrain s l f) := by
  unfold takeDrain
  exact p_ite _ _ _ (logClass_only (numbersKept_closedOn s (by decide)) _ _ _ _ _ _ (.refl s)) (p_ite _ _ _ (.refl s)
    (p_foldl _ _ (.of_links (modWard_links _ _)) fun _ _ hu => requestDrain_numbers hu _))

theorem timeMsg_numbers (s : State) (l : Link) (gm : W64) (off : Int) : NumbersKept s (timeMsg s l gm off) := by
  have hmod {u : State} (hu : NumbersKept s u) (b : Bool) : NumbersKept s (modLink u l.val (fun x => { x with timeDiff := b })) :=
    hu.modLink _ fun _ _ => rfl
  have hnote : NumbersKept s (modLink s l.val (fun x => { x with timeOk := true, timeOffset := off })) :=
    (NumbersKept.refl s).modLink _ fun _ _ => rfl
  have hsync := syncMsg_only (numbersKept_closedOn s (by decide)) _ gm off true hnote
  unfold timeMsg
  refine p_ite _ _ _ hnote (p_ite _ _ _ (p_ite _ _ _ hsync hnote) ?_)
  split
  · exact hnote
  · exact p_ite _ _ _ hsync (hmod hnote _)

/-! ### Flits as they are taken -/

theorem ackSpace_numbers (y : Space) (a : Nat) : (ackSpace y a).numbers = y.numbers := by
  unfold ackSpace
  split
  · rfl
  · dsimp only
    split <;> rfl

theorem ackSpace_expect (y : Space) (a : Nat) : (ackSpace y a).expect = y.expect := congrArg (·.1) (ackSpace_numbers y a)
theorem ackSpace_reqDue (y : Space) (a : Nat) : (ackSpace y a).reqDue = y.reqDue := congrArg (·.2.2.1) (ackSpace_numbers y a)
theorem ackSpace_reqSet (y : Space) (a : Nat) : (ackSpace y a).reqSet = y.reqSet := congrArg (·.2.2.2) (ackSpace_numbers y a)

/-- A link after the ACK and the LATE bit of a flit (R273, R275). -/
def acked (s : State) (l : Nat) (f : Flit) : State :=
  let s := ackLink s l f.space.toNat f.ack.toNat
  if f.late then addLcnt s l 5 else s

/-- R272: the space of a flit in order expects the next one. -/
def inOrder (s : State) (l : Nat) (f : Flit) : State :=
  modLink s l (fun x => modSpace x f.space.toNat (fun y => { y with
    expect := (y.expect + 1) % 4096, ack := f.seq.toNat, reqSet := false }))

/-- R272: the space of a flit beyond a gap asks for a resend, once. -/
def askResend (s : State) (l : Nat) (f : Flit) : State :=
  modLink s l (fun x => modSpace x f.space.toNat (fun y => if y.reqSet then y else { y with reqDue := true, reqSet := true }))

section
variable {s : State} {l : Nat} {f : Flit}

theorem acked_frame : Frame [.links] s (acked s l f) :=
  p_ite _ _ _ (addLcnt_only (closedOn_frame _ s) _ _ _ (modLink_only (closedOn_frame _ s) _ _ _ (Frame.refl _ s)))
    (modLink_only (closedOn_frame _ s) _ _ _ (Frame.refl _ s))

theorem getLink_acked : ∃ n, getLink (acked s l f) l =
    { modSpace (getLink s l) f.space.toNat (fun y => ackSpace y f.ack.toNat) with lcnt := n } := by
  unfold acked ackLink
  dsimp only
  split
  · exact ⟨_, by rw [getLink_addLcnt, if_pos rfl, getLink_modLink, if_pos rfl]⟩
  · exact ⟨_, by rw [getLink_modLink, if_pos rfl]⟩

theorem acked_st : (getLink (acked s l f) l).st = (getLink s l).st := by
  obtain ⟨n, hn⟩ := getLink_acked (s := s) (l := l) (f := f)
  rw [hn]; rfl

theorem acked_departRx : (getLink (acked s l f) l).departRx = (getLink s l).departRx := by
  obtain ⟨n, hn⟩ := getLink_acked (s := s) (l := l) (f := f)
  rw [hn]; rfl

theorem acked_space {y : Space} (hy : (getLink s l).spaces[f.space.toNat]? = some y) :
    (getLink (acked s l f) l).spaces[f.space.toNat]? = some (ackSpace y f.ack.toNat) := by
  obtain ⟨n, hn⟩ := getLink_acked (s := s) (l := l) (f := f)
  rw [hn]
  simp [hy]

theorem takeFlit_unfit {type : Nat} (hst : (getLink s l).st = lsActive) (h : typeFits type f.space.toNat = false) :
    takeFlit s l type f = (badFlit s l, false) := by
  simp [takeFlit, h, linkState_eq, hst, sendsUnits, lsActive]

/-- R272, R275: how an ACTIVE link takes a flit of a type that fits its space. -/
theorem takeFlit_active {type : Nat} {y : Space} (hst : (getLink s l).st = lsActive)
    (hy : (getLink s l).spaces[f.space.toNat]? = some y) (h : typeFits type f.space.toNat = true) :
    let d := (f.seq.toNat + 4096 - y.expect) % 4096
    takeFlit s l type f =
      if d = 0 then (inOrder (acked s l f) l f, !f.late)
      else if d < 1024 then (logClass (askResend (acked s l f) l f) 2 0xF 2 l 0, false)
      else if d < 3072 then (retrain (logClass (acked s l f) 2 0xF 2 l 0) l 0xA, false)
      else (acked s l f, false) := by
  have hexpect : (getSpace (getLink (acked s l f) l) f.space.toNat).expect = y.expect := by
    rw [getSpace_of_get (acked_space hy), ackSpace_expect]
  unfold takeFlit
  have hcaps : (linkState s l == lsCaps) = false := by rw [linkState_eq, hst]; rfl
  have hdelay : (linkState s l == lsDelay) = false := by rw [linkState_eq, hst]; rfl
  have hact : (linkState s l != lsActive) = false := by rw [linkState_eq, hst]; rfl
  simp only [h, hcaps, hdelay, hact, Bool.not_true, Bool.or_self, Bool.false_eq_true, if_false]
  rw [← hexpect]
  simp only [beq_iff_eq]
  rfl

end

/-! ### The flits of a link -/

/-- A command hands a flit of a type to a link, and what its content does leaves the receivers of an ACTIVE link, a DEPART
of a partner already leaving excepted. -/
def Hands (c : Instr) (s : State) (l : Link) (type : Nat) (f : Flit) : Prop :=
  ∃ k, exec c s = received s l.val type f k ∧
    ∀ u, (getLink u l.val).st = lsActive → (getLink u l.val).departRx = (getLink s l.val).departRx → NumbersKept u (k u)

/-- What the flits of a link change. -/
abbrev flitPieces : List Piece := [.nflag, .cmds, .recs, .rings, .steps, .colls, .cores, .slate, .commons, .tiers, .sect, .links,
  .time, .ward, .trace, .wear, .seq, .fresh, .out]

/-- What the content of a ROLLCALL flit does (R319). -/
def takeVote (f : Flit) (u : State) : State :=
  match (getSteps u (tagSec f)).pend.find? (wantsVote u (tagSec f) f) with
  | some q => keepVote u (tagSec f) f q
  | none => u

/-- What the content of a TIME flit does (R283). -/
def takeTime (l : Link) (f : Flit) (ns : W64) (frac : W32) (u : State) : State :=
  let gm := w64 (fieldAt f 0xC 8)
  let valid := linkState u l.val == lsActive && fieldAt f 0x16 1 == 1 && (u.time.lock == .free || gm == u.time.gm)
  if valid && u.ward.running then timeMsg u l gm (timeOff u l.val f ns frac) else u

/-- What the content of an MGMT flit does (R280). -/
def takeMgmt (l : Link) (f : Flit) (u : State) : State :=
  if linkState u l.val == lsCaps && f.tag == 1 then takeCaps u l.val f else u

/-- What the content of a DEPART flit does (R290, R430). -/
def takeDepart (l : Link) (f : Flit) (u : State) : State :=
  if (getLink u l.val).departRx then partnerGone (noteDeparture u l.val f) l.val else noteDeparture u l.val f

section
variable (s : State) (l : Link) (f : Flit)

theorem hands_dataFlit : Hands (.dataFlit l f) s l 1 f :=
  ⟨_, rfl, fun u _ _ => deliverData_only (numbersKept_closedOn u (by decide)) _ _ (.refl u)⟩

theorem hands_tokenFlit : Hands (.tokenFlit l f) s l 2 f :=
  ⟨_, rfl, fun u _ _ => deliverToken_only (numbersKept_closedOn u (by decide)) _ _ (.refl u)⟩

theorem hands_collFlit : Hands (.collFlit l f) s l 3 f :=
  ⟨_, rfl, fun u _ _ => collReceive_keeps (numbersKept_queueClosed u) (numbersKept_closedOn u (by decide))
    (numbersKept_discClosed u) (.refl u) _ _ _⟩

theorem hands_rollcallFlit : Hands (.rollcallFlit l f) s l 0xA f := ⟨takeVote f, rfl, fun u _ _ => by
  unfold takeVote keepVote
  split
  · exact modPendAny_only (numbersKept_closedOn u (by decide)) _ _ _ _ (.refl u)
  · exact .refl u⟩

theorem hands_timeFlit (ns : W64) (frac : W32) : Hands (.timeFlit l f ns frac) s l 0xB f :=
  ⟨takeTime l f ns frac, rfl, fun u _ _ => p_ite _ _ _ (timeMsg_numbers u _ _ _) (.refl u)⟩

theorem hands_mgmtFlit : Hands (.mgmtFlit l f) s l 0xC f := ⟨takeMgmt l f, rfl, fun u hst _ => by
  have hcaps : (linkState u l.val == lsCaps) = false := by rw [linkState_eq, hst]; rfl
  simp only [takeMgmt, hcaps, Bool.false_and, Bool.false_eq_true, if_false]
  exact .refl u⟩

theorem hands_drainFlit : Hands (.drainFlit l f) s l 9 f := ⟨_, rfl, fun u _ _ => takeDrain_numbers u _ _⟩

theorem hands_departFlit (h : (getLink s l.val).departRx = false) : Hands (.departFlit l f) s l 8 f :=
  ⟨takeDepart l f, rfl, fun u _ hrx => by
    rw [takeDepart, if_neg (by rw [hrx, h]; exact Bool.false_ne_true)]
    exact noteDeparture_only (numbersKept_closedOn u (by decide)) _ _ _ (.refl u)⟩

/-- A command that hands over a flit. -/
def FlitOf (c : Instr) (s : State) (l : Link) (f : Flit) (type : Nat) : Prop :=
  (c = .dataFlit l f ∧ type = 1) ∨ (c = .tokenFlit l f ∧ type = 2) ∨ (c = .collFlit l f ∧ type = 3) ∨
    (c = .rollcallFlit l f ∧ type = 0xA) ∨ (∃ ns frac, c = .timeFlit l f ns frac ∧ type = 0xB) ∨
    (c = .mgmtFlit l f ∧ type = 0xC) ∨ (c = .drainFlit l f ∧ type = 9) ∨
    (c = .departFlit l f ∧ type = 8 ∧ (getLink s l.val).departRx = false)

end

section
variable {c : Instr} {s : State} {l : Link} {f : Flit} {type : Nat}

theorem FlitOf.hands (h : FlitOf c s l f type) : Hands c s l type f ∧
    (changes c).all (fun p => decide (p ∈ flitPieces)) = true := by
  obtain ⟨rfl, rfl⟩ | ⟨rfl, rfl⟩ | ⟨rfl, rfl⟩ | ⟨rfl, rfl⟩ | ⟨ns, frac, rfl, rfl⟩ | ⟨rfl, rfl⟩ | ⟨rfl, rfl⟩ | ⟨rfl, rfl, hrx⟩ := h
  · exact ⟨hands_dataFlit s l f, rfl⟩
  · exact ⟨hands_tokenFlit s l f, rfl⟩
  · exact ⟨hands_collFlit s l f, rfl⟩
  · exact ⟨hands_rollcallFlit s l f, rfl⟩
  · exact ⟨hands_timeFlit s l f ns frac, rfl⟩
  · exact ⟨hands_mgmtFlit s l f, rfl⟩
  · exact ⟨hands_drainFlit s l f, rfl⟩
  · exact ⟨hands_departFlit s l f hrx, rfl⟩

/-- A flit that is not delivered leaves the card as it was taken. -/
theorem exec_of_notDelivered {u : State} (hc : Hands c s l type f) (h : takeFlit (begin s) l.val type f = (u, false)) :
    exec c s = .next u := by
  obtain ⟨k, hexec, -⟩ := hc
  rw [hexec]
  unfold received
  simp only [h, Bool.false_eq_true, if_false]

theorem unfit_effects (hc : Hands c s l type f) (hst : (getLink s l.val).st = lsActive)
    (h : typeFits type f.space.toNat = false) : Effects c s [.links, .ward, .out] (fun u =>
      getLink u l.val = { getLink s l.val with lcnt := sset 0 (getLink s l.val).lcnt 2 (satInc (sget 0 (getLink s l.val).lcnt 2)) }) := by
  refine ⟨badFlit (begin s) l.val, exec_of_notDelivered hc (takeFlit_unfit hst h), ?_,
    logClass_only ((closedOn_frame _ s).sub (by decide)) _ _ _ _ _ _
      (addLcnt_only ((closedOn_frame _ s).sub (by decide)) _ _ _ (begin_frame (by decide) s))⟩
  dsimp only [badFlit]
  rw [getLink_logClass, getLink_addLcnt, if_pos rfl, getLink_begin]

variable {y : Space} (hst : (getLink s l.val).st = lsActive) (hy : (getLink s l.val).spaces[f.space.toNat]? = some y)
  (hfit : typeFits type f.space.toNat = true)
include hst hy hfit

theorem inOrder_effects (hc : Hands c s l type f) (hL : (changes c).all (fun p => decide (p ∈ flitPieces)) = true)
    (hd : (f.seq.toNat + 4096 - y.expect) % 4096 = 0) : Effects c s flitPieces (fun u => ∃ z,
      (getLink u l.val).spaces[f.space.toNat]? = some z ∧ z.expect = (y.expect + 1) % 4096 ∧ z.ack = f.seq.toNat ∧
      z.reqDue = y.reqDue ∧ z.reqSet = false) := by
  obtain ⟨k, hexec, hk⟩ := hc
  have htake := takeFlit_active (s := begin s) hst hy hfit
  simp only [hd, if_true] at htake
  rw [received, htake] at hexec
  refine effects_of_exec hexec hL ?_
  have hspace : (getLink (inOrder (acked (begin s) l.val f) l.val f) l.val).spaces[f.space.toNat]? =
      some { ackSpace y f.ack.toNat with
        expect := (y.expect + 1) % 4096
        ack := f.seq.toNat
        reqSet := false } := by
    unfold inOrder
    rw [getLink_modLink, if_pos rfl, modSpace_spaces_get, if_pos rfl, acked_space (s := begin s) hy, Option.map_some,
      ackSpace_expect]
  have hkept : NumbersKept (inOrder (acked (begin s) l.val f) l.val f)
      (if !f.late then k (inOrder (acked (begin s) l.val f) l.val f) else inOrder (acked (begin s) l.val f) l.val f) := by
    refine p_ite _ _ _ (hk _ ?_ ?_) (.refl _)
    · rw [inOrder, getLink_modLink, if_pos rfl, modSpace_st, acked_st]; exact hst
    · rw [inOrder, getLink_modLink, if_pos rfl]; exact acked_departRx
  have hnumbers := hkept l.val f.space.toNat
  rw [hspace] at hnumbers
  obtain ⟨z, hz, hnum⟩ := Option.map_eq_some_iff.1 hnumbers
  have hreq := ackSpace_reqDue y f.ack.toNat
  simp only [Space.numbers, Prod.mk.injEq] at hnum
  obtain ⟨hexp, hack, hdue, hset⟩ := hnum
  exact ⟨z, hz, hexp, hack, hdue.trans hreq, hset⟩

theorem resend_effects (hc : Hands c s l type f) (hpos : 0 < (f.seq.toNat + 4096 - y.expect) % 4096)
    (hd : (f.seq.toNat + 4096 - y.expect) % 4096 < 1024) : Effects c s [.links, .ward, .out] (fun u =>
      (getLink u l.val).spaces[f.space.toNat]? = some (if y.reqSet then ackSpace y f.ack.toNat else
        { ackSpace y f.ack.toNat with reqDue := true, reqSet := true })) := by
  have htake := takeFlit_active (s := begin s) hst hy hfit
  simp only [Nat.ne_of_gt hpos, hd, if_true, if_false] at htake
  refine ⟨_, exec_of_notDelivered hc htake, ?_, logClass_only ((closedOn_frame _ s).sub (by decide)) _ _ _ _ _ _
    (modLink_only ((closedOn_frame _ s).sub (by decide)) _ _ _
      ((begin_frame (by decide) s).trans (acked_frame.mono (by decide))))⟩
  dsimp only
  rw [getLink_logClass, askResend, getLink_modLink, if_pos rfl, modSpace_spaces_get, if_pos rfl,
    acked_space (s := begin s) hy, Option.map_some, ackSpace_reqSet]

theorem far_effects (hc : Hands c s l type f) (hlow : 1024 ≤ (f.seq.toNat + 4096 - y.expect) % 4096)
    (hd : (f.seq.toNat + 4096 - y.expect) % 4096 < 3072) : Effects c s [.links, .wear, .ward, .out] (fun u =>
      (getLink u l.val).st = lsRetrain ∧ (getLink u l.val).cause = if isA1 s then 0 else 0xA) := by
  have htake := takeFlit_active (s := begin s) hst hy hfit
  have hne : (f.seq.toNat + 4096 - y.expect) % 4096 ≠ 0 := by omega
  simp only [hne, Nat.not_lt.2 hlow, hd, if_true, if_false] at htake
  have hframe : Frame [.links, .wear, .ward, .out] s (logClass (acked (begin s) l.val f) 2 0xF 2 l.val 0) :=
    logClass_only ((closedOn_frame _ s).sub (by decide)) _ _ _ _ _ _
      ((begin_frame (by decide) s).trans (acked_frame.mono (by decide)))
  have hact : linkState (logClass (acked (begin s) l.val f) 2 0xF 2 l.val 0) l.val = lsActive := by
    rw [linkState_eq, getLink_logClass, acked_st]; exact hst
  refine ⟨_, exec_of_notDelivered hc htake, ⟨retrain_st hact _, ?_⟩,
    retrain_only ((closedOn_frame _ s).sub (by decide)) _ _ _ hframe⟩
  rw [retrain_cause hact, isA1_of_frame hframe (by decide)]

theorem duplicate_effects (hc : Hands c s l type f) (hd : 3072 ≤ (f.seq.toNat + 4096 - y.expect) % 4096) :
    Effects c s [.links, .out] (fun u => (getLink u l.val).spaces[f.space.toNat]? = some (ackSpace y f.ack.toNat)) := by
  have htake := takeFlit_active (s := begin s) hst hy hfit
  have hne : (f.seq.toNat + 4096 - y.expect) % 4096 ≠ 0 := by omega
  have hnear : ¬ (f.seq.toNat + 4096 - y.expect) % 4096 < 1024 := by omega
  simp only [hne, hnear, Nat.not_lt.2 hd, if_false] at htake
  exact ⟨_, exec_of_notDelivered hc htake, acked_space (s := begin s) hy,
    (begin_frame (by decide) s).trans (acked_frame.mono (by decide))⟩

end

/-- Settles O39: a flit is taken by its distance from the number expected, and the delivery of its content leaves the
receivers as they are. -/
theorem flitsAreTakenInOrder : Obligations.FlitsAreTakenInOrder := by
  intro s l f c type y x hc hst hy
  obtain ⟨hands, hL⟩ := FlitOf.hands hc
  exact ⟨unfit_effects hands hst, fun hfit => ⟨inOrder_effects hst hy hfit hands hL, resend_effects hst hy hfit hands,
    far_effects hst hy hfit hands, duplicate_effects hst hy hfit hands⟩⟩

end Sys2Proof.Machine
end

section
/-!
PROOFS. The window's directory, its recalls, and what the window serves (R364-R379).
-/
namespace Sys2Proof.Machine

/-! ### The directory -/

section
variable (s : State) (line : Nat)

theorem dirEntry_of_hif {s u : State} (h : u.hif.dir = s.hif.dir) : dirEntry u line = dirEntry s line := by
  unfold dirEntry; rw [h]

theorem dirEntry_dirDrop : dirEntry (dirDrop s line) line = none := by
  unfold dirEntry dirDrop
  rw [modHif_hif, List.find?_eq_none]
  intro e he
  simpa using (List.mem_filter.1 he).2

theorem dirEntry_dirMod {f : DirEntry → DirEntry} (hf : ∀ e, (f e).line = e.line) :
    dirEntry (dirMod s line f) line = (dirEntry s line).map f := by
  unfold dirEntry dirMod
  rw [modHif_hif, List.find?_map]
  have hp : ((fun e : DirEntry => e.line == line) ∘ fun e => if e.line == line then f e else e) = fun e => e.line == line := by
    funext e
    dsimp only [Function.comp_apply]
    split
    next => rw [hf]
    next => rfl
  rw [hp]
  cases h : s.hif.dir.find? (fun e => e.line == line) with
  | none => rfl
  | some e =>
    have hline : (e.line == line) = true := List.find?_some (p := fun e : DirEntry => e.line == line) h
    rw [Option.map_some, if_pos hline, Option.map_some]

/-- R378: with no request waiting, an entry that is freed is gone. -/
theorem dirFree_of_idle {e : DirEntry} (h : s.hif.waiting = []) : dirFree s e = dirDrop s e.line := by
  unfold dirFree grantAll
  have hw : (dirDrop s e.line).hif.waiting = [] := h
  rw [hw]
  rfl

theorem line_of_dirEntry {s : State} {line : Nat} {e : DirEntry} (h : dirEntry s line = some e) : e.line = line :=
  eq_of_beq (List.find?_some (p := fun e : DirEntry => e.line == line) h)

theorem dirEntry_dirFree {e : DirEntry} (h : s.hif.waiting = []) (he : dirEntry s line = some e) :
    dirEntry (dirFree s e) line = none := by
  rw [dirFree_of_idle s h, line_of_dirEntry he]
  exact dirEntry_dirDrop s line

end

/-! ### Recalls -/

theorem recallMoves_of_none {s : State} {t : Sec} (h : ∀ m ∈ s.tiers.moves, m.sec ≠ t) : recallMoves s t = s := by
  unfold recallMoves
  generalize s.tiers.moves = l at h
  induction l with
  | nil => rfl
  | cons m ms ih =>
    obtain ⟨hm, hms⟩ := List.forall_mem_cons.1 h
    rw [List.foldl_cons, if_neg (by simpa using hm)]
    exact ih hms

/-- R376: a single recall that is due goes out. -/
theorem exec_recall {s : State} {t : Sec} {line : Nat} {q : Bool} {e : DirEntry} (hslot : inSlot0 s = true)
    (hup : windowUp s = true) (hdue : s.hif.due = [(line, t, q)]) (hmoves : ∀ m ∈ s.tiers.moves, m.sec ≠ t)
    (hentry : dirEntry s line = some e) (hsnp : e.snp = false)
    (hshare : recallShares s t (if q then 0 else 1) (if q then 1 else 0) = (if q then 0 else 1, if q then 1 else 0)) :
    ∃ b, exec (.backInvalidateRecall t) s =
      .next (sendSnoop { modHif (begin s) (fun h => { h with due := [] }) with budget := b } line) := by
  have hexec : exec (.backInvalidateRecall t) s = execBackInvalidateRecall t s := rfl
  have hkept : (s.hif.dir.any fun e => e.line == line && !e.snp) = true :=
    List.any_eq_true.2 ⟨e, List.mem_of_find?_eq_some hentry, by rw [line_of_dirEntry hentry, hsnp]; simp⟩
  have hdues : modHif (begin s) (fun h => { h with
      due := h.due.filter (fun d => d.2.1 != t || h.dir.any (fun e => e.line == d.1 && !e.snp)) }) = begin s := by
    have hfilter : s.hif.due.filter (fun d => d.2.1 != t || s.hif.dir.any (fun e => e.line == d.1 && !e.snp)) = s.hif.due := by
      rw [hdue]; simp [hkept]
    unfold modHif
    dsimp only [begin]
    rw [hfilter]
  have hslot' : (!inSlot0 (begin s) || !windowUp (begin s)) = false := by
    show (!inSlot0 s || !windowUp s) = false
    rw [hslot, hup]; rfl
  unfold execBackInvalidateRecall at hexec
  simp only [hslot', hdues, Bool.false_eq_true, if_false] at hexec
  rw [recallMoves_of_none (s := begin s) hmoves] at hexec
  have hmine : (begin s).hif.due.filter (fun d => d.2.1 == t) = [(line, t, q)] := by
    rw [show (begin s).hif.due = [(line, t, q)] from hdue]; simp
  have hrest (l : List (Nat × Sec × Bool)) (hl : l = [(line, t, q)]) :
      modHif (begin s) (fun h => { h with due := h.due.filter (fun d => !l.contains d) }) =
        modHif (begin s) (fun h => { h with due := [] }) := by
    have hfilter : s.hif.due.filter (fun d => !l.contains d) = [] := by rw [hdue, hl]; simp
    unfold modHif
    dsimp only [begin]
    rw [hfilter]
  simp only [hmine] at hexec
  rw [hexec]
  cases q
  · have hn : recallShares (begin s) t [(line, t, false)].length ([] : List (Nat × Sec × Bool)).length = (1, 0) := hshare
    simp only [List.filter_cons, List.filter_nil, Bool.not_false, Bool.false_eq_true, if_true, if_false, hn]
    rw [hrest (List.take 1 [(line, t, false)] ++ List.take 0 []) rfl]
    exact ⟨_, rfl⟩
  · have hn : recallShares (begin s) t ([] : List (Nat × Sec × Bool)).length [(line, t, true)].length = (0, 1) := hshare
    simp only [List.filter_cons, List.filter_nil, Bool.not_true, Bool.false_eq_true, if_true, if_false, hn]
    rw [hrest (List.take 0 [] ++ List.take 1 [(line, t, true)]) rfl]
    exact ⟨_, rfl⟩

theorem recallSent_effects {s : State} {t : Sec} {line : Nat} {q : Bool} {e : DirEntry} (hslot : inSlot0 s = true)
    (hup : windowUp s = true) (hdue : s.hif.due = [(line, t, q)]) (hmoves : ∀ m ∈ s.tiers.moves, m.sec ≠ t)
    (hentry : dirEntry s line = some e) (hsnp : e.snp = false)
    (hshare : recallShares s t (if q then 0 else 1) (if q then 1 else 0) = (if q then 0 else 1, if q then 1 else 0)) :
    Effects (.backInvalidateRecall t) s [.hif, .budget, .out] (fun u => u.hif.due = [] ∧
      u.out = [.bisnp (hostAddr s line)] ∧ dirEntry u line = some { e with snp := true }) := by
  obtain ⟨b, hexec⟩ := exec_recall hslot hup hdue hmoves hentry hsnp hshare
  have hentry' : dirEntry { modHif (begin s) (fun h => { h with due := [] }) with budget := b } line = some e := hentry
  refine effects_of_exec hexec rfl ?_
  unfold sendSnoop
  rw [hentry', if_pos (by rfl)]
  refine ⟨rfl, rfl, ?_⟩
  calc dirEntry (emit (dirMod { modHif (begin s) (fun h => { h with due := [] }) with budget := b } line
          (fun e => { e with snp := true })) _) line
      = dirEntry (dirMod { modHif (begin s) (fun h => { h with due := [] }) with budget := b } line
          (fun e => { e with snp := true })) line := rfl
    _ = some { e with snp := true } := by
        rw [dirEntry_dirMod _ _ (f := fun e => { e with snp := true }) fun _ => rfl, hentry']; rfl

/-! ### Answers and writes -/

section
variable {s : State} {hpa : W64} {a : Nat} {e : DirEntry}

theorem exec_birsp {crossing : Bool} (hup : windowUp s = true) (ha : windowAddr s hpa.toNat = some a)
    (he : dirEntry s (a / 64) = some e) : exec (.birsp ⟨hpa, crossing⟩) s = .next (if !e.snp then begin s
      else if crossing && !e.wrote then dirMod (begin s) (a / 64) (fun e => { e with rsp := true })
      else dirFree (begin s) e) := by
  have hup' : windowUp (begin s) = true := hup
  have ha' : windowAddr (begin s) hpa.toNat = some a := ha
  have he' : dirEntry (begin s) (a / 64) = some e := he
  show execBirsp ⟨hpa, crossing⟩ s = _
  unfold execBirsp
  simp only [hup', ha', he', Bool.not_true, Bool.false_eq_true, if_false]

theorem bufferWrite_hif (t : Sec) (data : BitVec 512) (enable : W64) : (bufferWrite s t a data enable false).hif =
    { s.hif with inbound := s.hif.inbound ++ [⟨s.hif.inNum, a, data, enable, false⟩], inNum := s.hif.inNum + 1 } := by
  unfold bufferWrite
  simp only [Bool.false_eq_true, if_false]
  exact (countWrite_only (closedOn_frame [.trace] _) _ _ _ _ _ (Frame.refl _ _)).2 .hif (by decide)

theorem exec_memWr_own {m : Meta} {data : BitVec 512} {t : Sec} (hup : windowUp s = true) (ha : windowAddr s hpa.toNat = some a)
    (hcred : noCredits s = false) (hroom : s.hif.inbound.length < 131072) (htarget : targetOf s a = .own t)
    (hwr : (getSect s t).winWr = true) (hlogs : inLogs s t a = false) (habort : abortsOnA1 s a = false) :
    exec (.memWr hpa m data false) s = .next (emit (dirWrite (bufferWrite (begin s) t a data (BitVec.ofNat 64 (2 ^ 64 - 1)) false)
      (a / 64) m) .cmp) := by
  have hup' : windowUp (begin s) = true := hup
  have hcred' : noCredits (begin s) = false := hcred
  have ha' : windowAddr (begin s) hpa.toNat = some a := ha
  have hroom' : ¬ 131072 ≤ (begin s).hif.inbound.length := by rw [show (begin s).hif = s.hif from rfl]; omega
  have htarget' : targetOf (begin s) a = .own t := htarget
  have hwr' : (getSect (begin s) t).winWr = true := hwr
  have hlogs' : inLogs (begin s) t a = false := hlogs
  have habort' : abortsOnA1 (begin s) a = false := habort
  show execMemWr hpa m data false s = _
  unfold execMemWr windowWrite
  simp only [hup', hcred', ha', hroom', htarget', hwr', hlogs', habort', Bool.not_true, Bool.or_self, Bool.false_eq_true,
    if_false]

theorem dirWrite_effects {u : State} (he : dirEntry s (a / 64) = some e) (hdir : u.hif.dir = s.hif.dir)
    (hwait : u.hif.waiting = s.hif.waiting) :
    (e.snp = true → e.rsp = false → dirEntry (dirWrite u (a / 64) .i) (a / 64) = some { e with wrote := true }) ∧
    (e.snp = false ∨ e.rsp = true → s.hif.waiting = [] → dirEntry (dirWrite u (a / 64) .i) (a / 64) = none) := by
  have heu : dirEntry u (a / 64) = some e := (dirEntry_of_hif _ hdir).trans he
  unfold dirWrite
  simp only [heu]
  refine ⟨fun hsnp hrsp => ?_, fun h hidle => ?_⟩
  · rw [if_pos (by rw [hsnp, hrsp]; rfl), dirEntry_dirMod _ _ (f := fun e => { e with wrote := true }) fun _ => rfl,
      heu]; rfl
  · rw [if_neg (by cases h with | inl h => simp [h] | inr h => simp [h])]
    exact dirEntry_dirFree _ _ (hwait.trans hidle) heu

theorem overdue_effects (ha : windowAddr s hpa.toNat = some a) (he : dirEntry s (a / 64) = some e) (hsnp : e.snp = true)
    (hrsp : e.rsp = false) (hover : e.overdue = false) : Effects (.birspOverdue hpa) s [.hif, .sect, .out] (fun u =>
      dirEntry u (a / 64) = some { e with overdue := true } ∧
      (isA1 s = false → (getSect u e.sec).hifErr = recWord (getSect s e.sec).hifErr (a / 256) 5 0) ∧
      (isA1 s = true → (getSect u e.sec).hifErr = (getSect s e.sec).hifErr)) := by
  have ha' : windowAddr (begin s) hpa.toNat = some a := ha
  have he' : dirEntry (begin s) (a / 64) = some e := he
  have hexec : exec (.birspOverdue hpa) s =
      .next (capHif (dirMod (begin s) (a / 64) (fun e => { e with overdue := true })) e.sec a 5) := by
    show execBirspOverdue hpa s = _
    unfold execBirspOverdue
    simp only [ha', he', hsnp, hrsp, hover, Bool.not_false, Bool.and_self, if_true]
  have hid : isA1 (dirMod (begin s) (a / 64) (fun e => { e with overdue := true })) = isA1 s := rfl
  refine effects_of_exec hexec rfl ⟨?_, fun h => ?_, fun h => ?_⟩
  · rw [dirEntry_of_hif _ (congrArg Hif.dir ((capHif_only (closedOn_frame [.sect] _) _ _ _ _ (Frame.refl _ _)).2 .hif
      (by decide))), dirEntry_dirMod _ _ (f := fun e => { e with overdue := true }) fun _ => rfl, he']
    rfl
  · rw [capHif, if_neg (by rw [hid, h]; exact Bool.false_ne_true), getSect_modSect, if_pos rfl]; rfl
  · rw [capHif, if_pos (by rw [hid, h]; rfl)]; rfl

end

/-- Settles O50: a recall that is due is the only one that goes out; its answer, or the write that crosses it, frees the
entry, with no waiting request to take its place. -/
theorem recallsGoOutAndComplete : Obligations.RecallsGoOutAndComplete := by
  refine ⟨fun s t line q e hslot hup hdue hmoves hentry hsnp hshare =>
      recallSent_effects hslot hup hdue hmoves hentry hsnp hshare, fun s hpa a e crossing hup ha he => ?_,
    fun s hpa a e ha he hsnp hrsp hover => overdue_effects ha he hsnp hrsp hover⟩
  have hexec := exec_birsp (crossing := crossing) hup ha he
  refine ⟨fun hsnp hcross hwrote => ?_, fun hsnp hfree => ?_, fun hsnp => ?_, fun data t hcred hroom htarget hwr hlogs habort => ?_⟩
  · rw [if_neg (by simp [hsnp]), if_pos (by simp [hcross, hwrote])] at hexec
    refine ⟨_, hexec, ?_, dirMod_only (closedOn_frame _ s |>.sub (by decide)) _ _ _ (begin_frame (by decide) s)⟩
    dsimp only
    rw [dirEntry_dirMod _ _ (f := fun e => { e with rsp := true }) fun _ => rfl, show dirEntry (begin s) (a / 64) = some e from he]
    rfl
  · rw [if_neg (by simp [hsnp]), if_neg (by cases hfree with | inl h => simp [h] | inr h => simp [h])] at hexec
    exact effects_of_exec hexec rfl fun hidle => dirEntry_dirFree (begin s) _ hidle he
  · rw [if_pos (by simp [hsnp])] at hexec
    exact hexec
  · refine effects_of_exec (exec_memWr_own hup ha hcred hroom htarget hwr hlogs habort) rfl ?_
    have hhif := bufferWrite_hif (s := begin s) (a := a) t data (BitVec.ofNat 64 (2 ^ 64 - 1))
    exact dirWrite_effects he (by rw [hhif]; rfl) (by rw [hhif]; rfl)

end Sys2Proof.Machine
end

section
/-!
PROOFS. What the flits of a section do (R111, R267, R293, R308).
-/
namespace Sys2Proof.Machine

/-! ### A flit in order that is not late -/

section
variable {s : State} {l : Link} {f : Flit} {y : Space}

/-- The card after the receiver of a flit in order. -/
def taken (s : State) (l : Link) (f : Flit) : State := inOrder (acked (begin s) l.val f) l.val f

theorem taken_frame : Frame [.links, .out] s (taken s l f) :=
  modLink_only ((closedOn_frame _ s).sub (by decide)) _ _ _ ((begin_frame (by decide) s).trans (acked_frame.mono (by decide)))

theorem taken_eq : ∃ links, taken s l f = { begin s with links := links } := by
  unfold taken inOrder acked ackLink
  dsimp only
  split <;> exact ⟨_, rfl⟩

theorem taken_cdisc : (getLink (taken s l f) l.val).cdisc = (getLink s l.val).cdisc := by
  obtain ⟨n, hn⟩ := getLink_acked (s := begin s) (l := l.val) (f := f)
  rw [taken, inOrder, getLink_modLink, if_pos rfl, hn]
  rfl

theorem received_of_inOrder {type : Nat} (k : State → State) (hst : (getLink s l.val).st = lsActive)
    (hy : (getLink s l.val).spaces[f.space.toNat]? = some y) (hseq : f.seq.toNat = y.expect) (hlate : f.late = false)
    (hfit : typeFits type f.space.toNat = true) : received s l.val type f k = .next (k (taken s l f)) := by
  have hd : (f.seq.toNat + 4096 - y.expect) % 4096 = 0 := by rw [hseq]; omega
  have htake := takeFlit_active (s := begin s) hst hy hfit
  simp only [hd, if_true, hlate] at htake
  rw [received, htake]
  rfl

theorem typeFits_section {type : Nat} (hspace : f.space.toNat < 4) (ht : type < 4) : typeFits type f.space.toNat = true := by
  simp [typeFits, ht, hspace]

end

/-! ### DATA and TOKEN -/

theorem leBytes_getD (n x i : Nat) (h : i < n) : (leBytes n x).getD i 0 = (x >>> (8 * i)) % 256 := by
  induction n generalizing x i with
  | zero => omega
  | succ n ih =>
    cases i with
    | zero => simp [leBytes]
    | succ i =>
      have hshift : x / 256 = x >>> 8 := by rw [Nat.shiftRight_eq_div_pow]
      rw [leBytes, List.getD_cons_succ, ih _ _ (by omega), hshift, ← Nat.shiftRight_add, Nat.mul_succ, Nat.add_comm]

theorem rd8_deliverData {s : State} {f : Flit} {i : Nat}
    (hown : coreSec s (Config.dataPlace f.tag f.payload).1.val = some (spaceSec f)) (hlen : i < f.len.toNat) (hi : i < 240)
    (hin : (Config.dataPlace f.tag f.payload).2.val + i < slateBytes) :
    rd8 (deliverData s f).slate
        (slateKey (Config.dataPlace f.tag f.payload).1.val ((Config.dataPlace f.tag f.payload).2.val + i)) =
      (f.payload.toNat >>> (8 * i)) % 256 := by
  generalize hplace : Config.dataPlace f.tag f.payload = place at hown hin ⊢
  obtain ⟨q, a⟩ := place
  have hslate : (deliverData s f).slate =
      wrBytes s.slate (slateKey q.val a.val) ((flitData f).take (slateBytes - a.val)) := by
    unfold deliverData
    rw [hplace]
    dsimp only
    rw [if_pos (by rw [hown]; exact beq_self_eq_true _)]
    unfold wrSpace
    rw [if_neg (by omega)]
    rfl
  have hkey : slateKey q.val (a.val + i) = slateKey q.val a.val + i := by unfold slateKey; omega
  have hcount : i < ((flitData f).take (slateBytes - a.val)).length := by
    unfold flitData
    rw [List.length_take, List.length_take, leBytes_length]
    dsimp only at hin
    omega
  have hbyte : ((flitData f).take (slateBytes - a.val)).getD i 0 = (f.payload.toNat >>> (8 * i)) % 256 := by
    rw [← leBytes_getD 240 _ _ hi, List.getD_eq_getElem _ _ hcount, List.getElem_take,
      List.getD_eq_getElem _ _ (by rw [leBytes_length]; exact hi)]
    exact List.getElem_take
  rw [hslate, hkey, rd8_wrBytes, if_pos (by omega), Nat.add_sub_cancel_left, hbyte, Nat.mod_mod]

theorem modChan_id (l : List Chan) (c : Nat) : modChan l c (fun x => x) = l := by
  refine List.ext_getElem? fun i => ?_
  rw [modChan, List.getElem?_mapIdx]
  cases l[i]? <;> simp

/-- R111: what a token does to the channel that it names. -/
def tokenUp (d : ChanDef) (c : Chan) : Chan := if d.used = true ∧ c.count < d.depth then { c with count := c.count + 1 } else c

theorem getCore_deliverToken {s : State} {f : Flit} {z : CoreRun}
    (hrun : coreRun s (Config.tokenOf f.tag f.payload).1.val = some z) (hsec : z.sec = spaceSec f) :
    let q := (Config.tokenOf f.tag f.payload).1.val
    let e := (Config.tokenOf f.tag f.payload).2.val
    let d := chanDef z.g z.v q (decide (8 ≤ e)) (e % 8)
    (getCore (deliverToken s f) q).inCh = (if e < 8 then modChan (getCore s q).inCh e (tokenUp d) else (getCore s q).inCh) ∧
    (getCore (deliverToken s f) q).outCh =
      (if e < 8 then (getCore s q).outCh else modChan (getCore s q).outCh (e - 8) (tokenUp d)) := by
  generalize hplace : Config.tokenOf f.tag f.payload = place at hrun ⊢
  obtain ⟨q, e⟩ := place
  dsimp only at hrun ⊢
  generalize hd : chanDef z.g z.v q.val (decide (8 ≤ e.val)) (e.val % 8) = d
  unfold deliverToken
  rw [hplace]
  dsimp only
  rw [hrun]
  dsimp only
  rw [if_neg (by rw [hsec]; simp), hd]
  by_cases hused : d.used = true
  · have hup : tokenUp d = fun c => if c.count < d.depth then { c with count := c.count + 1 } else c := by
      funext c; simp [tokenUp, hused]
    rw [if_neg (by simp [hused]), getCore_modCore, if_pos rfl, hup]
    split <;> exact ⟨rfl, rfl⟩
  · have hup : tokenUp d = fun c => c := by funext c; simp [tokenUp, hused]
    rw [if_pos (by simpa using hused), hup, modChan_id, modChan_id]
    split <;> exact ⟨rfl, rfl⟩

/-! ### COLL -/

section
variable {s : State} {t : Sec} {l : Nat} {f : Flit}

theorem collReceive_own (h : ∃ g, s.images.get t = some g ∧ f.src.toNat = g.logicalId) : collReceive s t l f = s := by
  obtain ⟨g, hg, hsrc⟩ := h
  unfold collReceive
  simp only [hg, hsrc, beq_self_eq_true, if_true]

variable (hother : ∀ g, s.images.get t = some g → f.src.toNat ≠ g.logicalId)
include hother

theorem collReceive_other : collReceive s t l f =
    match (sectionColls s t).find? (fun x => x.id == f.tag.toNat % 4096 && expects x (collLevelOf f) (collBlock f)) with
    | none => countDisc s l
    | some x =>
      let k := collKey x.id (collLevelOf f) (collBlock f)
      if (recvAt s x k).isSome then blockIn s x l (collLevelOf f) (collBlock f) ⟨collElen f, [], [], true⟩
      else
        let a := joinPiece ((((getColl s t x.ord).asm.find? (fun e => e.1 == k)).map (·.2)).getD ⟨collElen f, [], [], false⟩) f
        if pieceCount a ≤ a.got.length then
          pumpColl (blockIn (modColl s t x.ord (fun y => { y with asm := sdel y.asm k })) x l (collLevelOf f) (collBlock f) a) x
        else modColl s t x.ord (fun y => { y with asm := sins (sdel y.asm k) k a }) := by
  have hown : (match s.images.get t with | some g => f.src.toNat == g.logicalId | none => false) = false := by
    cases h : s.images.get t with
    | none => rfl
    | some g => simpa using hother g h
  exact (if_neg fun h => Bool.false_ne_true (hown.symm.trans h)).trans rfl

theorem collReceive_unexpected (h : ∀ c ∈ sectionColls s t, c.id = f.tag.toNat % 4096 →
    expects c (collLevelOf f) (collBlock f) = false) : collReceive s t l f = countDisc s l := by
  have hnone : (sectionColls s t).find? (fun x => x.id == f.tag.toNat % 4096 && expects x (collLevelOf f) (collBlock f)) =
      none := by
    rw [List.find?_eq_none]
    intro c hc hboth
    rw [Bool.and_eq_true, beq_iff_eq] at hboth
    rw [h c hc hboth.1] at hboth
    exact Bool.false_ne_true hboth.2
  rw [collReceive_other hother, hnone]

theorem collReceive_piece {c : CollRun} (hc : (sectionColls s t).find? (fun c => c.id == f.tag.toNat % 4096 &&
    expects c (collLevelOf f) (collBlock f)) = some c) (hrecv : recvAt s c (collKey c.id (collLevelOf f) (collBlock f)) = none) :
    let k := collKey c.id (collLevelOf f) (collBlock f)
    let a := joinPiece ((((getColl s t c.ord).asm.find? (fun e => e.1 == k)).map (·.2)).getD ⟨collElen f, [], [], false⟩) f
    a.got.length < (a.elen + 223) / 224 →
    collReceive s t l f = modColl s t c.ord (fun y => { y with asm := sins (sdel y.asm k) k a }) := by
  intro k a hfew
  rw [collReceive_other hother, hc]
  dsimp only
  rw [hrecv, if_neg (by simp), if_neg]
  exact Nat.not_le.2 hfew

end

theorem find?_sins {α : Type} (m : Sparse α) (k : Nat) (x : α) (h : ∀ e ∈ m, e.1 ≠ k) :
    (sins m k x).find? (fun e => e.1 == k) = some (k, x) := by
  induction m with
  | nil => simp [sins]
  | cons e m ih =>
    obtain ⟨he, hm⟩ := List.forall_mem_cons.1 h
    unfold sins
    split
    · simp
    · rw [List.find?_cons_of_neg (by simpa using he)]
      exact ih hm

theorem getColl_ord (s : State) (t : Sec) (o : Nat) : (getColl s t o).ord = o := by
  unfold getColl
  cases h : (s.colls.get t).find? (fun x => x.ord == o) with
  | none => rfl
  | some x => exact eq_of_beq (List.find?_some (p := fun x : CollSt => x.ord == o) h)

theorem getColl_modColl (s : State) (t : Sec) (o : Nat) {g : CollSt → CollSt} (hg : ∀ x, (g x).ord = x.ord) :
    getColl (modColl s t o g) t o = g (getColl s t o) := by
  have hord : (g (getColl s t o)).ord = o := (hg _).trans (getColl_ord s t o)
  have hnone : ((s.colls.get t).filter (fun y => y.ord != o)).find? (fun x => x.ord == o) = none := by
    rw [List.find?_eq_none]
    intro x hx
    simpa using (List.mem_filter.1 hx).2
  rw [getColl, modColl, putColl, hord]
  dsimp only
  rw [Four.get_set, if_pos rfl, List.find?_append, hnone, Option.none_or, List.find?_cons_of_pos (by simpa using hord)]
  rfl

theorem countDisc_cdisc (s : State) (l : Nat) : (getLink (countDisc s l) l).cdisc =
    if isA1 s then (getLink s l).cdisc else satInc (getLink s l).cdisc := by
  unfold countDisc
  split
  · rfl
  · rw [getLink_modLink, if_pos rfl]

/-- Settles O40: a flit in order changes its receiver alone before its content is delivered, so the content meets the card
as it was. -/
theorem sectionFlitsAreDelivered : Obligations.SectionFlitsAreDelivered := by
  intro s l f y x hst hy hspace hseq hlate
  have hrecv {type : Nat} (k : State → State) (ht : type < 4) : received s l.val type f k = .next (k (taken s l f)) :=
    received_of_inOrder k hst hy hseq hlate (typeFits_section hspace ht)
  have hdata : exec (.dataFlit l f) s = .next (deliverData (taken s l f) f) :=
    hrecv (type := 1) (fun s => deliverData s f) (by decide)
  have htoken : exec (.tokenFlit l f) s = .next (deliverToken (taken s l f) f) :=
    hrecv (type := 2) (fun s => deliverToken s f) (by decide)
  have hcoll : exec (.collFlit l f) s = .next (collReceive (taken s l f) (spaceSec f) l.val f) :=
    hrecv (type := 3) (fun s => collReceive s (spaceSec f) l.val f) (by decide)
  obtain ⟨links, hlinks⟩ := taken_eq (s := s) (l := l) (f := f)
  have hsame : ∀ q, coreSec (taken s l f) q = coreSec s q := fun q => by rw [hlinks]; rfl
  have hrun : ∀ q, coreRun (taken s l f) q = coreRun s q := fun q => by rw [hlinks]; rfl
  have hcore : ∀ q, getCore (taken s l f) q = getCore s q := fun q => by rw [hlinks]; rfl
  have himages : (taken s l f).images = s.images := by rw [hlinks]; rfl
  have hcolls : sectionColls (taken s l f) (spaceSec f) = sectionColls s (spaceSec f) := by rw [hlinks]; rfl
  have hget : ∀ t o, getColl (taken s l f) t o = getColl s t o := fun t o => by rw [hlinks]; rfl
  have hid : isA1 (taken s l f) = isA1 s := by rw [hlinks]; rfl
  refine ⟨fun hown => ?_, fun z hz hsec => ?_, fun hown => ?_, fun hother hun => ?_, fun c hother hc hsec hnone hfew => ?_⟩
  · exact effects_of_exec hdata rfl fun i hlen hi hin => rd8_deliverData ((hsame _).trans hown) hlen hi hin
  · refine effects_of_exec htoken rfl ?_
    have h := getCore_deliverToken ((hrun _).trans hz) hsec
    dsimp only at h
    rw [hcore] at h
    exact h
  · rw [collReceive_own (by rw [himages]; exact hown)] at hcoll
    exact ⟨_, hcoll, taken_cdisc, taken_frame⟩
  · rw [collReceive_unexpected (by rw [himages]; exact hother) (by rw [hcolls]; exact hun)] at hcoll
    refine ⟨_, hcoll, ?_, countDisc_only ((closedOn_frame _ s).sub (by decide)) _ _ taken_frame⟩
    dsimp only
    rw [countDisc_cdisc, hid, taken_cdisc]
  · rw [← hsec] at hother hc hcoll
    have hrecv' : recvAt (taken s l f) c (collKey c.id (collLevelOf f) (collBlock f)) = none := by rw [recvAt, hget]; exact hnone
    have hpiece := collReceive_piece (s := taken s l f) (l := l.val) (by rw [himages]; exact hother)
      (by rw [← hsec] at hcolls; rw [hcolls]; exact hc) hrecv' (by rw [hget]; exact hfew)
    rw [hget] at hpiece
    rw [hpiece] at hcoll
    refine ⟨_, hcoll, ?_, modColl_only ((closedOn_frame _ s).sub (by decide)) _ _ _ _ (taken_frame.mono (by decide))⟩
    dsimp only
    rw [getColl_modColl]
    · dsimp only
      rw [find?_sins _ _ _ fun e he => ((mem_sdel _ _ _).1 he).2]
      rfl
    · exact fun _ => rfl

end Sys2Proof.Machine
end

section
/-!
PROOFS. The warden's mailbox (R424, R480, R486, R525).
-/
namespace Sys2Proof.Machine

/-! ### The mailbox and its entries -/

theorem setResult_idle {s : State} (h : s.ward.busy = false) (r : Nat) :
    (setResult s r).ward = { s.ward with result := BitVec.ofNat 5 r } := by
  rw [setResult, modWard_ward, ← h]

theorem mailbox_runs {s : State} (hm : measured s = true) (hrun : s.ward.running = true) (hbusy : s.ward.busy = false)
    (k : State → State) : mailbox (begin s) .card k = k (begin s) := by
  have hm' : measured (begin s) = true := hm
  have hrun' : (begin s).ward.running = true := hrun
  have hbusy' : (begin s).ward.busy = false := hbusy
  simp only [mailbox, hm', hrun', hbusy', bne_self_eq_false, Bool.not_true, Bool.or_self, Bool.false_eq_true, if_false]

theorem mailbox_busy {s : State} (hm : measured s = true) (hrun : s.ward.running = true) (hbusy : s.ward.busy = true)
    (k : State → State) : mailbox (begin s) .card k = modWard (begin s) (fun w => { w with result := 3 }) := by
  have hm' : measured (begin s) = true := hm
  have hrun' : (begin s).ward.running = true := hrun
  have hbusy' : (begin s).ward.busy = true := hbusy
  simp only [mailbox, hm', hrun', hbusy', bne_self_eq_false, Bool.not_true, Bool.or_self, Bool.false_eq_true, if_false, if_true]

theorem mailbox_shut {s : State} {v : View} (h : v ≠ .card ∨ measured s = false ∨ s.ward.running = false)
    (k : State → State) : mailbox (begin s) v k = begin s := by
  have hshut : (v != .card || !measured (begin s) || !(begin s).ward.running) = true := by
    obtain h | h | h := h
    · simp [h]
    · simp [show measured (begin s) = false from h]
    · simp [begin_ward, h]
  rw [mailbox, if_pos hshut]

theorem auditRole_logged (s : State) (role channel action result : Nat) (kid target old new : W64) :
    Logged s.ward (auditRole s role channel action result kid target old new).ward := by
  unfold auditRole
  split
  · exact auditPut_logged _ _ _ _ _ _ _ _ _
  · exact .refl _

theorem auditCard_logged (s : State) (role channel action result : Nat) (kid : W64) (go : State → State) :
    Logged s.ward (auditCard s role channel action result kid go).ward := auditRole_logged _ _ _ _ _ _ _ _ _

theorem closeSession_logged (s : State) : Logged { s.ward with session := .none } (closeSession s).ward := by
  unfold closeSession
  split
  next h => rw [← h]; exact .refl _
  next => exact auditDevice_logged (modWard s (fun w => { w with session := .none })) _ _ _ _
  next => exact auditDevice_logged (modWard s (fun w => { w with session := .none })) _ _ _ _

theorem openSession_ward (s : State) (x : Session) (k : Key) (role : Nat) :
    ∃ w, Logged { s.ward with session := .none } w ∧ (openSession s x k role).ward = { w with session := x } :=
  ⟨_, (closeSession_logged s).trans (auditRole_logged _ _ _ _ _ _ _ _ _), modWard_ward _ _⟩

/-! ### The card's state -/

theorem setCard_session (s : State) (st : CardSt) (cause : BitVec 4) : (setCard s st cause).ward.session = s.ward.session := by
  by_cases h : s.ward.card = st
  · rw [setCard, if_pos (beq_iff_eq.2 h)]
  · exact (setCard_logged h cause).session

theorem suspect_session (s : State) (cls : Nat) (cause : BitVec 4) (d : W64) :
    (suspect s cls cause d).ward.session = s.ward.session := by
  unfold suspect
  dsimp only
  split
  · exact (logClass_logged _ _ _ _ _ _).session
  · rw [setCard_session, modWard_ward]
    exact (logClass_logged _ _ _ _ _ _).session

theorem suspect_card_of_ne {s : State} (h : s.ward.card ≠ .service) (cls : Nat) (cause : BitVec 4) (d : W64) :
    (suspect s cls cause d).ward.card = s.ward.card := by
  have hlog := (logClass_logged s cls 0xF 0xF 0 d).card
  rw [suspect, if_pos (by rw [hlog]; simpa using h), hlog]

theorem setCard_card (s : State) (st : CardSt) (cause : BitVec 4) : (setCard s st cause).ward.card = st := by
  by_cases h : s.ward.card = st
  · rw [setCard, if_pos (beq_iff_eq.2 h), h]
  · exact (setCard_logged h cause).card

theorem returnToService_ward (s : State) : (returnToService s).ward.session = s.ward.session ∧
    (returnToService s).ward.card = .service ∧ (returnToService s).ward.cause = 0 ∧ (returnToService s).ward.frame = 0 ∧
    (returnToService s).ward.drain = .none := by
  have hsession := setCard_session (modWard s (fun w => { w with sentryActed := false })) .service 0
  have hcard := setCard_card (modWard s (fun w => { w with sentryActed := false })) .service 0
  rw [modWard_ward] at hsession
  unfold returnToService
  rw [modWard_ward]
  exact ⟨hsession, hcard, rfl, rfl, rfl⟩

/-! ### The commands -/

section
variable {s : State} (hm : measured s = true) (hrun : s.ward.running = true) (hbusy : s.ward.busy = false)
include hm hrun hbusy

theorem challenge_effects {role : BitVec 2} (h : role = 1 ∨ role = 2) :
    Effects (.challenge .card role) s [.ward, .fresh, .out] (fun u =>
      u.ward = { s.ward with nonce := Config.nonce s.fresh, nonceRole := some role, result := 0 } ∧ u.fresh = s.fresh + 1) := by
  have hexec : exec (.challenge .card role) s = .next (challenge (begin s) role) :=
    congrArg Host.Outcome.next (mailbox_runs hm hrun hbusy _)
  rw [challenge, if_pos (by simpa using h)] at hexec
  refine effects_of_exec hexec rfl ⟨?_, rfl⟩
  rw [setResult_idle (by rw [modWard_ward]; exact hbusy), modWard_ward]
  rfl

theorem challenge_refused {role : BitVec 2} (h : ¬ (role = 1 ∨ role = 2)) :
    Effects (.challenge .card role) s [.ward, .out] (fun u => u.ward = { s.ward with result := 4 }) := by
  have hexec : exec (.challenge .card role) s = .next (challenge (begin s) role) :=
    congrArg Host.Outcome.next (mailbox_runs hm hrun hbusy _)
  rw [challenge, if_neg (by simpa using h)] at hexec
  exact ⟨_, hexec, setResult_idle (s := begin s) hbusy 4,
    modWard_only ((closedOn_frame _ s).sub (by decide)) _ _ (begin_frame (by decide) s)⟩

theorem submit_effects : Effects (.submit .card) s [.ward, .out] (fun u => u.ward.nonceRole = none ∧ u.ward.card = s.ward.card ∧
    match s.ward.nonceRole with
    | none => u.ward = { s.ward with result := 6 }
    | some role =>
      if roleKeys s role = [] then u.ward = { s.ward with nonceRole := none, denied := satInc s.ward.denied, result := 2 }
      else match (roleKeys s role).find? (fun e => verifies s role e.2) with
        | none => u.ward = { s.ward with nonceRole := none, denied := satInc s.ward.denied, result := 1 }
        | some e =>
          if auditRoom s then u.ward.session = e.1 ∧ u.ward.result = 0 ∧ u.ward.denied = s.ward.denied
          else u.ward = { s.ward with nonceRole := none, result := 5 }) := by
  have hexec : exec (.submit .card) s = .next (submit (begin s)) := congrArg Host.Outcome.next (mailbox_runs hm hrun hbusy _)
  have hspent : (modWard (begin s) (fun w => { w with nonceRole := none })).ward.busy = false := hbusy
  have hdenied : (countDenied (modWard (begin s) (fun w => { w with nonceRole := none }))).ward.busy = false := hbusy
  refine effects_of_exec hexec rfl ?_
  unfold submit
  rw [begin_ward]
  cases hrole : s.ward.nonceRole with
  | none =>
    have hward := setResult_idle (s := begin s) hbusy 6
    dsimp only
    rw [hward]
    exact ⟨hrole, rfl, rfl⟩
  | some role =>
    have hkeys : roleKeys (begin s) role = roleKeys s role := rfl
    have hverify : ∀ k, verifies (begin s) role k = verifies s role k := fun _ => rfl
    dsimp only
    simp only [hkeys, hverify]
    by_cases hnone : roleKeys s role = []
    · rw [if_pos (by rw [hnone]; rfl), if_pos hnone, setResult_idle hdenied]
      exact ⟨rfl, rfl, rfl⟩
    · rw [if_neg (by simpa using hnone), if_neg hnone]
      cases hfind : (roleKeys s role).find? (fun e => verifies s role e.2) with
      | none =>
        dsimp only
        rw [setResult_idle hdenied]
        exact ⟨rfl, rfl, rfl⟩
      | some e =>
        have hroom : auditRoom (modWard (begin s) (fun w => { w with nonceRole := none })) = auditRoom s := rfl
        dsimp only
        rw [hroom]
        by_cases hr : auditRoom s = true
        · rw [if_pos hr, if_pos hr]
          obtain ⟨w, hw, hopen⟩ := openSession_ward (modWard (begin s) (fun w => { w with nonceRole := none })) e.1 e.2 role.toNat
          obtain ⟨_, _, _, _, _, rfl⟩ := hw
          rw [setResult, modWard_ward, hopen]
          exact ⟨rfl, rfl, rfl, rfl, rfl⟩
        · rw [if_neg hr, if_neg hr, setResult_idle hspent]
          exact ⟨rfl, rfl, rfl⟩

/-- A mailbox command that needs a session is denied without one. -/
theorem denied_effects {c : Instr} {L : List Piece}
    (hexec : exec c s = .next (setResult (countDenied (begin s)) 4)) (hL : (changes c).all (fun p => decide (p ∈ L)) = true) :
    Effects c s L (fun u => u.ward = { s.ward with denied := satInc s.ward.denied, result := 4 }) :=
  effects_of_exec hexec hL (setResult_idle (s := countDenied (begin s)) hbusy 4)

theorem exec_close : exec (.close .card) s = .next (closeByRole (begin s)) :=
  congrArg Host.Outcome.next (mailbox_runs hm hrun hbusy _)

theorem close_effects (h : s.ward.session ≠ .none) : Effects (.close .card) s [.ward, .out] (fun u =>
    if auditRoom s then u.ward.session = .none ∧ u.ward.result = 0 ∧ u.ward.card = s.ward.card
    else u.ward = { s.ward with result := 5 }) := by
  refine effects_of_exec (exec_close hm hrun hbusy) rfl ?_
  have hroom : auditRoom (begin s) = auditRoom s := rfl
  have hlog (r ch a x : Nat) (k y o n : W64) := auditRole_logged (begin s) r ch a x k y o n
  unfold closeByRole
  rw [begin_ward]
  cases hsession : s.ward.session with
  | none => exact absurd hsession h
  | operator k =>
    dsimp only
    rw [hroom]
    by_cases hr : auditRoom s = true
    · simp only [hr, Bool.not_true, Bool.false_eq_true, if_false, if_true, setResult, modWard_ward]
      exact ⟨trivial, rfl, (hlog _ _ _ _ _ _ _ _).card⟩
    · simp only [hr, Bool.not_false, Bool.false_eq_true, if_false, if_true]
      exact setResult_idle (s := begin s) hbusy 5
  | installer =>
    dsimp only
    rw [hroom]
    by_cases hr : auditRoom s = true
    · simp only [hr, Bool.not_true, Bool.false_eq_true, if_false, if_true, setResult, modWard_ward]
      exact ⟨trivial, rfl, (hlog _ _ _ _ _ _ _ _).card⟩
    · simp only [hr, Bool.not_false, Bool.false_eq_true, if_false, if_true]
      exact setResult_idle (s := begin s) hbusy 5

theorem exec_mailboxDrain : exec (.mailboxDrain .card) s = .next (mailboxDrain (begin s)) :=
  congrArg Host.Outcome.next (mailbox_runs hm hrun hbusy _)

theorem drainFull_effects (h : s.ward.session ≠ .none) (hr : auditRoom s = false) :
    Effects (.mailboxDrain .card) s [.ward, .out] (fun u => u.ward = { s.ward with result := 5 }) := by
  have hexec := exec_mailboxDrain hm hrun hbusy
  rw [mailboxDrain, if_neg (by rw [begin_ward]; simpa using h), if_pos (by rw [show auditRoom (begin s) = false from hr]; rfl)]
    at hexec
  exact effects_of_exec hexec rfl (setResult_idle (s := begin s) hbusy 5)

theorem drain_effects (h : s.ward.session ≠ .none) (hr : auditRoom s = true) :
    Effects (.mailboxDrain .card) s [.ward, .out] (fun u => u.ward.result = 0 ∧ u.ward.session = s.ward.session ∧
      (s.ward.card ≠ .service → u.ward.card = s.ward.card) ∧
      (s.ward.card = .service → u.ward.card = .suspect ∧ u.ward.cause = causeOperator ∧ u.ward.drain = .guard)) := by
  have hexec := exec_mailboxDrain hm hrun hbusy
  rw [mailboxDrain, if_neg (by rw [begin_ward]; simpa using h), if_neg (by rw [show auditRoom (begin s) = true from hr]; decide)]
    at hexec
  have hlog := auditCard_logged (begin s) (sessionRole (begin s)) 2 10 0 (idOf (sessionKey (begin s))) operatorDrain
  refine effects_of_exec hexec rfl ?_
  rw [setResult, modWard_ward]
  refine ⟨rfl, (suspect_session _ _ _ _).trans hlog.session, fun hcard => ?_, fun hcard => ?_⟩
  · exact (suspect_card_of_ne (by rw [hlog.card]; exact hcard) _ _ _).trans hlog.card
  · exact suspect_ward (hlog.card.trans hcard) _ _ _

theorem return_effects : Effects (.mailboxReturn .card) s [.ward, .out] (fun u => u.ward.session = s.ward.session ∧
    match s.ward.session with
    | .none => u.ward = { s.ward with denied := satInc s.ward.denied, result := 4 }
    | .operator _ => u.ward.result = 4 ∧ u.ward.card = s.ward.card
    | .installer =>
      if auditIsFull s then u.ward.result = 5 ∧ u.ward.card = s.ward.card
      else u.ward.result = 0 ∧ u.ward.card = .service ∧ u.ward.cause = 0 ∧ u.ward.frame = 0 ∧ u.ward.drain = .none) := by
  have hexec : exec (.mailboxReturn .card) s = .next (mailboxReturn (begin s)) :=
    congrArg Host.Outcome.next (mailbox_runs hm hrun hbusy _)
  have hlog (r ch a x : Nat) (k : W64) (go : State → State) := auditCard_logged (begin s) r ch a x k go
  refine effects_of_exec hexec rfl ?_
  unfold mailboxReturn
  rw [begin_ward]
  cases hsession : s.ward.session with
  | none =>
    have hward := setResult_idle (s := countDenied (begin s)) hbusy 4
    dsimp only
    rw [hward]
    exact ⟨hsession, rfl⟩
  | operator k =>
    dsimp only
    rw [setResult, modWard_ward]
    exact ⟨(hlog _ _ _ _ _ _).session.trans hsession, rfl, (hlog _ _ _ _ _ _).card⟩
  | installer =>
    have hfull : auditIsFull (begin s) = auditIsFull s := rfl
    dsimp only
    rw [hfull]
    by_cases hf : auditIsFull s = true
    · rw [if_pos hf, if_pos hf, setResult, modWard_ward]
      exact ⟨(hlog _ _ _ _ _ _).session.trans hsession, rfl, (hlog _ _ _ _ _ _).card⟩
    · rw [if_neg hf, if_neg hf, setResult, modWard_ward]
      obtain ⟨hkeep, hserves⟩ := returnToService_ward (auditCard (begin s) 2 2 10 0 (installerId (begin s)) returnToService)
      exact ⟨hkeep.trans ((hlog _ _ _ _ _ _).session.trans hsession), rfl, hserves⟩

end

theorem sessionTimeout_effects (s : State) : Effects .sessionTimeout s [.ward, .out] (fun u => u.ward.session = .none ∧
    u.ward.card = s.ward.card ∧ (s.ward.session = .none → u.ward = s.ward)) := by
  have hlog := closeSession_logged (begin s)
  refine effects_of_exec (t := closeSession (begin s)) rfl rfl ⟨hlog.session, hlog.card, fun h => ?_⟩
  have hnone : (begin s).ward.session = .none := h
  rw [closeSession, hnone]
  rfl

/-- A command of the mailbox. -/
theorem exec_mailbox {s : State} {v : View} {role : BitVec 2} {c : Instr}
    (hc : c ∈ [.challenge v role, .submit v, .close v, .mailboxDrain v, .mailboxReturn v]) :
    ∃ k, exec c s = .next (mailbox (begin s) v k) := by
  simp only [List.mem_cons, List.not_mem_nil, or_false] at hc
  obtain rfl | rfl | rfl | rfl | rfl := hc <;> exact ⟨_, rfl⟩

/-- Settles O57: what the mailbox does with a command that it takes, refuses or finds itself busy for. -/
theorem wardenSessionsOpenAndAct : Obligations.WardenSessionsOpenAndAct := by
  refine ⟨fun s hm hrun hbusy => ⟨fun role => ⟨challenge_effects hm hrun hbusy, challenge_refused hm hrun hbusy⟩,
    submit_effects hm hrun hbusy, fun h => ?_, close_effects hm hrun hbusy, drainFull_effects hm hrun hbusy, fun h => ?_,
    drain_effects hm hrun hbusy, return_effects hm hrun hbusy⟩, sessionTimeout_effects, fun s v role c hc => ?_⟩
  · have hexec := exec_close hm hrun hbusy
    rw [closeByRole, begin_ward, h] at hexec
    exact denied_effects hm hrun hbusy hexec rfl
  · have hexec := exec_mailboxDrain hm hrun hbusy
    rw [mailboxDrain, if_pos (by rw [begin_ward, h]; rfl)] at hexec
    exact denied_effects hm hrun hbusy hexec rfl
  · obtain ⟨k, hexec⟩ := exec_mailbox hc
    refine ⟨fun h => by rw [hexec, mailbox_shut h], fun hv hm hrun hbusy => ?_⟩
    subst hv
    rw [mailbox_busy hm hrun hbusy] at hexec
    exact ⟨_, hexec, modWard_ward _ _, modWard_only ((closedOn_frame _ s).sub (by decide)) _ _ (begin_frame (by decide) s)⟩

end Sys2Proof.Machine
end

section
/-!
PROOFS. Domains, the assembly, and the stages of start-up (R84, R488-R490, R538-R543).
-/
namespace Sys2Proof.Machine

/-! ### Loops that establish a fact -/

/-- A loop over a list with k in it establishes what the body does at k, where every body keeps it. -/
theorem foldl_establishes {α : Type} {I Q : State → Prop} {f : State → α → State} {l : List α} {k : α} {s : State}
    (hk : k ∈ l) (hI : I s) (hkeep : ∀ u a, I u → I (f u a)) (hset : ∀ u, I u → Q (f u k))
    (hq : ∀ u a, I u → Q u → Q (f u a)) : Q (l.foldl f s) := by
  have hafter : ∀ (l : List α) (u : State), I u → Q u → Q (l.foldl f u) := by
    intro l
    induction l with
    | nil => exact fun u _ h => h
    | cons a l ih => exact fun u hi h => ih _ (hkeep u a hi) (hq u a hi h)
  induction l generalizing s with
  | nil => cases hk
  | cons a l ih =>
    rcases List.mem_cons.1 hk with rfl | hk
    · exact hafter l _ (hkeep s k hI) (hset s hI)
    · exact ih hk (hkeep s a hI)

/-! ### Domains -/

theorem getLsbD_setBit (x : BitVec 37) {d : Nat} (h : d < 37) (j : Nat) :
    (x ||| BitVec.ofNat 37 (2 ^ d)).getLsbD j = (x.getLsbD j || decide (j = d)) := by
  rw [BitVec.getLsbD_or, BitVec.getLsbD_ofNat, Nat.testBit_two_pow]
  by_cases hj : j = d
  · simp [hj, h]
  · simp [hj, Ne.symm hj]

theorem getLsbD_clearBit (x : BitVec 37) (d j : Nat) :
    (x &&& ~~~ BitVec.ofNat 37 (2 ^ d)).getLsbD j = (x.getLsbD j && decide (j ≠ d)) := by
  rw [BitVec.getLsbD_and, BitVec.getLsbD_not, BitVec.getLsbD_ofNat, Nat.testBit_two_pow]
  by_cases hj : j < 37
  · by_cases hd : j = d
    · simp [hd]
    · simp [hj, hd, Ne.symm hd]
  · rw [BitVec.getLsbD_of_ge _ _ (by omega)]
    rfl

theorem clusterDomain_of_id {s u : State} (h : u.id = s.id) (c : Nat) : clusterDomain u c = clusterDomain s c := by
  unfold clusterDomain; rw [h]

theorem clusterDomain_lt {s : State} {c d : Nat} (h : clusterDomain s c = some d) : d < 16 := by
  unfold clusterDomain at h
  by_cases hgrade : (s.id.grade == 0x53) = true
  · rw [if_pos hgrade] at h
    by_cases hc : 14 ≤ c
    · rw [if_pos hc] at h; cases h
    · rw [if_neg hc] at h
      have hdie : c / 7 ≤ 1 := by omega
      have hk : c % 7 < 7 := Nat.mod_lt _ (by decide)
      cases Option.some.inj h
      generalize (if c / 7 == 0 then s.id.site0 else s.id.site1).toNat = site
      split <;> omega
  · rw [if_neg hgrade] at h
    by_cases hc : c < 16
    · rw [if_pos hc] at h
      cases h
      exact hc
    · rw [if_neg hc] at h; cases h

theorem clusterOwner_of_sect {s u : State} (h : u.sect = s.sect) (c : Nat) : clusterOwner u c = clusterOwner s c := by
  unfold clusterOwner getSect; rw [h]

theorem setClusterDomain_on {s : State} {c e : Nat} (h : clusterDomain s c = some e) (d : Nat) :
    (setClusterDomain s c true).power.on.getLsbD d = (s.power.on.getLsbD d || decide (d = e)) := by
  rw [setClusterDomain, h]
  dsimp only
  rw [setDomain, modPower_power]
  have hlt := clusterDomain_lt h
  exact getLsbD_setBit _ (by omega) d

/-- R488: the domain of every cluster is on. -/
theorem clustersOn_on {s : State} {k d : Nat} (hd : clusterDomain s k = some d) (hk : k < 16) :
    (clustersOn s).power.on.getLsbD d = true := by
  unfold clustersOn
  refine foldl_establishes (I := Frame [.power] s) (Q := fun u => u.power.on.getLsbD d = true) (List.mem_range.2 hk)
    (Frame.refl _ s) (fun u c hu => ?_) (fun u hu => ?_) (fun u c hu hon => ?_)
  · exact setClusterDomain_only (closedOn_frame _ s) _ _ _ hu
  · rw [setClusterDomain_on ((clusterDomain_of_id (hu.2 .id (by decide)) k).trans hd)]
    simp
  · cases he : clusterDomain u c with
    | none => rw [setClusterDomain, he]; exact hon
    | some e => rw [setClusterDomain_on he, hon]; rfl

/-! ### Clusters that doze -/

theorem any_sset_self {α : Type} [DecidableEq α] {x v : α} (m : Sparse α) (k : Nat) (h : v ≠ x) :
    (sset x m k v).any (fun e => e.1 == k) = true := by
  rw [sset, if_neg h, List.any_eq_true]
  exact ⟨(k, v), (mem_sins _ _ _ _).2 (.inl rfl), by simp⟩

theorem any_sset_of_any {α : Type} [DecidableEq α] {x v : α} (m : Sparse α) (k j : Nat) (h : v ≠ x)
    (hj : m.any (fun e => e.1 == j) = true) : (sset x m k v).any (fun e => e.1 == j) = true := by
  by_cases hjk : j = k
  · rw [hjk]; exact any_sset_self m k h
  · obtain ⟨e, he, hej⟩ := List.any_eq_true.1 hj
    rw [sset, if_neg h, List.any_eq_true]
    refine ⟨e, (mem_sins _ _ _ _).2 (.inr ((mem_sdel _ _ _).2 ⟨he, ?_⟩)), hej⟩
    rw [eq_of_beq hej]
    exact hjk

theorem sleepCluster_power {s : State} {c d : Nat} (h : clusterDomain s c = some d) : (sleepCluster s c).power =
    { s.power with
      on := s.power.on &&& ~~~ (BitVec.ofNat 37 (2 ^ d))
      dozeAt := sset 0 s.power.dozeAt c (frameOf s + 1)
      wakeDue := s.power.wakeDue &&& ~~~ (BitVec.ofNat 16 (2 ^ c)) } := by
  rw [sleepCluster, h]
  rfl

/-- A cluster is asleep: its domain is off. -/
def Asleep (k d : Nat) (u : State) : Prop := u.power.on.getLsbD d = false ∧ isDozing u k = true

theorem asleep_sleepCluster {s : State} {k d : Nat} (h : clusterDomain s k = some d) : Asleep k d (sleepCluster s k) := by
  unfold Asleep isDozing
  rw [sleepCluster_power h]
  exact ⟨(getLsbD_clearBit _ d d).trans (by simp), any_sset_self _ _ (Nat.succ_ne_zero _)⟩

theorem asleep_sleepCluster_of {s : State} {k d : Nat} (h : Asleep k d s) (c : Nat) : Asleep k d (sleepCluster s c) := by
  cases hc : clusterDomain s c with
  | none => rw [sleepCluster, hc]; exact h
  | some e =>
    obtain ⟨hon, hdoze⟩ := h
    unfold Asleep isDozing
    rw [sleepCluster_power hc]
    exact ⟨(getLsbD_clearBit _ e d).trans (by rw [hon]; rfl), any_sset_of_any _ _ _ (Nat.succ_ne_zero _) hdoze⟩

/-- R489: from LINKS on, a cluster of no section sleeps. -/
theorem asleep_sleepUnassigned {s : State} (hstage : s.ward.stage = .links) {k d : Nat} (hk : k < 16)
    (hd : clusterDomain s k = some d) (howner : clusterOwner s k = none) : Asleep k d (sleepUnassigned s) := by
  rw [sleepUnassigned, if_neg (by rw [hstage]; decide)]
  refine foldl_establishes (I := Frame [.power] s) (Q := Asleep k d) (List.mem_range.2 hk) (Frame.refl _ s)
    (fun u c hu => ?_) (fun u hu => ?_) (fun u c hu hsleep => ?_)
  · exact p_ite _ _ _ (sleepCluster_only (closedOn_frame _ s) _ _ hu) hu
  · rw [if_pos (by rw [clusterOwner_of_sect (hu.2 .sect (by decide)), howner]; rfl)]
    exact asleep_sleepCluster ((clusterDomain_of_id (hu.2 .id (by decide)) k).trans hd)
  · split
    · exact asleep_sleepCluster_of hsleep c
    · exact hsleep

theorem sleepUnassigned_frame (s : State) : Frame [.power] s (sleepUnassigned s) :=
  sleepUnassigned_only (closedOn_frame _ s) s (Frame.refl _ s)

theorem sleepUnassigned_power (s : State) : ∃ on dozeAt wakeDue, (sleepUnassigned s).power =
    { s.power with on := on, dozeAt := dozeAt, wakeDue := wakeDue } := by
  unfold sleepUnassigned
  split
  · exact ⟨_, _, _, rfl⟩
  · refine List.foldlRecOn (motive := fun u : State => ∃ on dozeAt wakeDue, u.power =
      { s.power with on := on, dozeAt := dozeAt, wakeDue := wakeDue }) _ _ ⟨_, _, _, rfl⟩ fun u hu c _ => ?_
    split
    · obtain ⟨on, dozeAt, wakeDue, hu⟩ := hu
      cases hc : clusterDomain u c with
      | none => rw [sleepCluster, hc]; exact ⟨_, _, _, hu⟩
      | some d => rw [sleepCluster_power hc, hu]; exact ⟨_, _, _, rfl⟩
    · exact hu

/-! ### PRESENT and BOOT -/

theorem present_effects {s : State} {ms : Nat} (hstage : s.ward.stage = .off ∨ s.ward.stage = .halted) (hms : 10 ≤ ms) :
    exec (.present ms) s = .next (modWard (powerOn (begin s)) (fun w => { w with stage := .present })) := by
  have hcond : (decide (ms < 10) || !((begin s).ward.stage == .off || (begin s).ward.stage == .halted)) = false := by
    rw [begin_ward]
    obtain h | h := hstage <;> simp [h, Nat.not_lt.2 hms]
  show execPresent ms s = _
  rw [execPresent, hcond]
  rfl

theorem present_short {s : State} {ms : Nat} (hms : ms < 10) : exec (.present ms) s = .next (begin s) := by
  show execPresent ms s = _
  rw [execPresent, decide_eq_true hms]
  rfl

theorem auditDevice_id (u : State) (action : Nat) (target old new : W64) : (auditDevice u action target old new).id = u.id :=
  (auditDevice_only (closedOn_frame [.ward, .out] u) _ _ _ _ _ (Frame.refl _ u)).2 .id (by decide)

section
variable {s : State} (hstage : s.ward.stage = .present)
include hstage

theorem exec_boot (a b : Bool) : exec (.boot a b) s = .next (
    if !a && !b then modWard (begin s) (fun w => { w with stage := .failed })
    else
      let v := if a then activate (begin s) else swapBanks (activate (begin s))
      let u := modWard { v with time := timeReset } (fun w => { w with stage := .boot, running := true })
      if s.ward.staged.isSome || !a then auditDevice u 6 (w64 (b2n u.id.bank)) (w64 s.id.activeSvn.toNat) (w64 u.id.activeSvn.toNat)
      else u) := by
  show execBoot a b s = _
  rw [execBoot]
  dsimp only
  rw [begin_ward, hstage]
  rfl

theorem boot_none (h : s.ward.staged = none) : Effects (.boot true false) s [.time, .ward, .out] (fun u =>
    u.ward.stage = .boot ∧ u.ward.running = true ∧ u.time = State.reset.time) := by
  have hexec := exec_boot hstage true false
  have hactivate : activate (begin s) = begin s := by rw [activate, begin_ward, h]
  simp only [Bool.not_true, Bool.false_and, Bool.false_eq_true, if_false, if_true, h, Option.isSome_none, Bool.or_false,
    hactivate] at hexec
  exact ⟨_, hexec, ⟨rfl, rfl, rfl⟩, modWard_only ((closedOn_frame _ s).sub (by decide)) _ _
    (upd_time (closedOn_frame _ s) (by decide) _ (begin_frame (by decide) s))⟩

theorem boot_staged {v : Byte} (h : s.ward.staged = some v) : Effects (.boot true true) s [.id, .time, .ward, .out] (fun u =>
    u.ward.stage = .boot ∧ u.ward.running = true ∧ u.ward.staged = none ∧ u.id.activeSvn = v ∧ u.id.stagedSvn = 0xFF ∧
    u.id.otherSvn = s.id.activeSvn ∧ u.id.bank = !s.id.bank) := by
  have hexec := exec_boot hstage true true
  have hactivate : activate (begin s) = modWard { begin s with id := { s.id with
      bank := !s.id.bank, otherSvn := s.id.activeSvn, activeSvn := v, stagedSvn := 0xFF } } (fun w => { w with staged := none }) := by
    rw [activate, begin_ward, h]; rfl
  simp only [Bool.not_true, Bool.false_and, Bool.false_eq_true, if_false, if_true, h, Option.isSome_some, Bool.true_or,
    hactivate] at hexec
  refine effects_of_exec hexec rfl ?_
  rw [auditDevice_id]
  obtain ⟨_, _, _, _, _, hlog⟩ := auditDevice_logged (modWard { modWard { begin s with id := { s.id with
      bank := !s.id.bank, otherSvn := s.id.activeSvn, activeSvn := v, stagedSvn := 0xFF } } (fun w => { w with staged := none })
      with time := timeReset } (fun w => { w with stage := .boot, running := true })) 6
    (w64 (b2n !s.id.bank)) (w64 s.id.activeSvn.toNat) (w64 v.toNat)
  exact ⟨congrArg Warden.stage hlog, congrArg Warden.running hlog, congrArg Warden.staged hlog, rfl, rfl, rfl, rfl⟩

theorem boot_other (h : s.ward.staged = none) : Effects (.boot false true) s [.id, .time, .ward, .out] (fun u =>
    u.ward.stage = .boot ∧ u.ward.running = true ∧ u.id = { s.id with
      bank := !s.id.bank, activeSvn := s.id.otherSvn, otherSvn := s.id.activeSvn }) := by
  have hexec := exec_boot hstage false true
  have hactivate : activate (begin s) = begin s := by rw [activate, begin_ward, h]
  simp only [Bool.not_false, Bool.not_true, Bool.and_false, Bool.false_eq_true, if_false, if_true, Bool.or_true, hactivate]
    at hexec
  refine effects_of_exec hexec rfl ?_
  rw [auditDevice_id]
  have hlog := auditDevice_logged (modWard { swapBanks (begin s) with time := timeReset }
      (fun w => { w with stage := .boot, running := true })) 6
    (w64 (b2n !s.id.bank)) (w64 s.id.activeSvn.toNat) (w64 s.id.otherSvn.toNat)
  exact ⟨hlog.stage, hlog.running, rfl⟩

theorem boot_fails : Effects (.boot false false) s [.ward, .out] (fun u => u.ward = { s.ward with stage := .failed }) :=
  ⟨_, exec_boot hstage false false, rfl, modWard_only ((closedOn_frame _ s).sub (by decide)) _ _ (begin_frame (by decide) s)⟩

end

/-! ### MEASURE and MEMORY -/

theorem setCard_stage (s : State) (st : CardSt) (cause : BitVec 4) : (setCard s st cause).ward.stage = s.ward.stage := by
  by_cases h : s.ward.card = st
  · rw [setCard, if_pos (beq_iff_eq.2 h)]
  · exact (setCard_logged h cause).stage

theorem suspect_stage (s : State) (cls : Nat) (cause : BitVec 4) (d : W64) :
    (suspect s cls cause d).ward.stage = s.ward.stage := by
  unfold suspect
  dsimp only
  split
  · exact (logClass_logged _ _ _ _ _ _).stage
  · rw [setCard_stage, modWard_ward]
    exact (logClass_logged _ _ _ _ _ _).stage

/-- R539: the card with its state from flash and its first readings. -/
def measuredState (s : State) (mv inlet outlet : W16) : State :=
  modWard (modPower s (fun w => { w with vin := mv, temp := sset 0 (sset 0 w.temp 14 inlet) 15 outlet }))
    (fun w => { w with card := w.flashCard, cause := w.flashCause, stage := .measure })

/-- R534, R537: the reading of a temperature is at its limit. -/
def hotReading (k : Nat) (x : W16) : Bool := x == 0x8000 || decide (tempLimit k < x.toInt)

section
variable {s : State} {mv inlet outlet : W16}

theorem exec_measure (hstage : s.ward.stage = .boot) : exec (.measure mv inlet outlet) s = .next (
    if mv.toNat < 38000 || 66000 < mv.toNat then powerFails (measuredState (begin s) mv inlet outlet)
    else if 60000 < mv.toNat || hotReading 14 inlet || hotReading 15 outlet then
      limitReached (measuredState (begin s) mv inlet outlet)
    else measuredState (begin s) mv inlet outlet) := by
  show execMeasure mv inlet outlet s = _
  rw [execMeasure]
  dsimp only
  rw [begin_ward, hstage]
  rfl

theorem measuredState_frame : Frame [.ward, .power, .out] s (measuredState (begin s) mv inlet outlet) :=
  modWard_only ((closedOn_frame _ s).sub (by decide)) _ _ (modPower_only ((closedOn_frame _ s).sub (by decide)) _ _
    (begin_frame (by decide) s))

theorem hotReadings : (hotReading 14 inlet || hotReading 15 outlet) = true ↔
    inlet = 0x8000 ∨ tempLimit 14 < inlet.toInt ∨ outlet = 0x8000 ∨ tempLimit 15 < outlet.toInt := by
  simp [hotReading, or_assoc]

theorem measure_effects (hstage : s.ward.stage = .boot) (hlo : 38000 ≤ mv.toNat) (hhi : mv.toNat ≤ 60000)
    (hcool : ¬ (inlet = 0x8000 ∨ tempLimit 14 < inlet.toInt ∨ outlet = 0x8000 ∨ tempLimit 15 < outlet.toInt)) :
    Effects (.measure mv inlet outlet) s [.ward, .power, .out] (fun u =>
      u.ward = { s.ward with card := s.ward.flashCard, cause := s.ward.flashCause, stage := .measure } ∧
      u.power.vin = mv ∧ sget 0 u.power.temp 14 = inlet ∧ sget 0 u.power.temp 15 = outlet) := by
  have hexec := exec_measure (mv := mv) (inlet := inlet) (outlet := outlet) hstage
  have hok : ¬ (decide (mv.toNat < 38000) || decide (66000 < mv.toNat)) = true := by simp; omega
  have hlow : ¬ (decide (60000 < mv.toNat) || hotReading 14 inlet || hotReading 15 outlet) = true := by
    rw [Bool.or_assoc, Bool.or_eq_true, hotReadings, decide_eq_true_eq]
    exact fun h => h.elim (Nat.not_lt.2 hhi) hcool
  rw [if_neg hok, if_neg hlow] at hexec
  refine ⟨_, hexec, ⟨rfl, rfl, ?_, ?_⟩, measuredState_frame⟩
  · show sget 0 (sset 0 (sset 0 s.power.temp 14 inlet) 15 outlet) 14 = inlet
    rw [sget_sset, if_neg (by decide), sget_sset, if_pos rfl]
  · show sget 0 (sset 0 (sset 0 s.power.temp 14 inlet) 15 outlet) 15 = outlet
    rw [sget_sset, if_pos rfl]

theorem limitReached_stage (u : State) : (limitReached u).ward.stage = u.ward.stage := by
  unfold limitReached
  split
  · exact suspect_stage _ _ _ _
  · rfl

theorem limitReached_card_of_ne {u : State} (h : u.ward.card ≠ .service) : Logged u.ward (limitReached u).ward := by
  unfold limitReached
  split
  · have hlog := logClass_logged u 0x11 0xF 0xF 0 0
    rw [suspect, if_pos (by rw [hlog.card]; simpa using h)]
    exact hlog
  · exact .refl _

theorem measure_hot (hstage : s.ward.stage = .boot) (hlo : 38000 ≤ mv.toNat) (hhi : mv.toNat ≤ 66000)
    (hhot : 60000 < mv.toNat ∨
      (inlet = 0x8000 ∨ tempLimit 14 < inlet.toInt ∨ outlet = 0x8000 ∨ tempLimit 15 < outlet.toInt))
    (hrun : s.ward.running = true) : Effects (.measure mv inlet outlet) s [.ward, .power, .out] (fun u =>
      u.ward.stage = .measure ∧
      (s.ward.flashCard = .service → u.ward.card = .suspect ∧ u.ward.cause = causeThermal ∧ u.ward.drain = .guard) ∧
      (s.ward.flashCard ≠ .service → u.ward.card = s.ward.flashCard ∧ u.ward.cause = s.ward.flashCause)) := by
  have hexec := exec_measure (mv := mv) (inlet := inlet) (outlet := outlet) hstage
  have hok : ¬ (decide (mv.toNat < 38000) || decide (66000 < mv.toNat)) = true := by simp; omega
  have hhigh : (decide (60000 < mv.toNat) || hotReading 14 inlet || hotReading 15 outlet) = true := by
    rw [Bool.or_assoc, Bool.or_eq_true, hotReadings, decide_eq_true_eq]
    exact hhot
  rw [if_neg hok, if_pos hhigh] at hexec
  have hstaged : (limitReached (measuredState (begin s) mv inlet outlet)).ward.stage = .measure := limitReached_stage _
  refine ⟨_, hexec, ⟨hstaged, fun hc => limitReached_ward hrun hc, fun hc => ?_⟩,
    measuredState_frame.trans ((limitReached_frame _).mono (by decide))⟩
  have hlog := limitReached_card_of_ne (u := measuredState (begin s) mv inlet outlet) hc
  exact ⟨hlog.card, hlog.cause⟩

theorem measure_fails (hstage : s.ward.stage = .boot) (hbad : mv.toNat < 38000 ∨ 66000 < mv.toNat) :
    Effects (.measure mv inlet outlet) s [.time, .rings, .cmds, .recs, .cores, .store, .slate, .commons, .acc, .colls, .tiers,
      .links, .hif, .ward, .power, .out] (fun u => u.ward.stage = .halted ∧ u.power.on = 0) := by
  have hexec := exec_measure (mv := mv) (inlet := inlet) (outlet := outlet) hstage
  rw [if_pos (by simpa using hbad)] at hexec
  obtain ⟨hst, -, -, -, -, -, hon, -⟩ := powerFails_effects (s := measuredState (begin s) mv inlet outlet)
    (fun h : Stage0.measure = .halted => by cases h) (fun h : Stage0.measure = .off => by cases h)
  exact effects_of_exec hexec rfl ⟨hst, hon⟩

end

/-- R542: what a stage that fails leaves. -/
theorem stageFails_ward (s : State) : (stageFails s).ward.stage = .failed ∧
    (s.ward.card = .service → (stageFails s).ward.card = .suspect ∧ (stageFails s).ward.cause = causeSelftest) := by
  rw [stageFails, modWard_ward]
  refine ⟨rfl, fun h => ?_⟩
  obtain ⟨hcard, hcause, -⟩ := suspect_ward h 0xE causeSelftest 0
  exact ⟨hcard, hcause⟩

theorem stageFails_frame (s : State) : Frame [.ward, .out] s (stageFails s) := stageFails_only (closedOn_frame _ s) s (Frame.refl _ s)

/-- R539: the memory domains on, and every granule zero. -/
def memoryReady (s : State) : State :=
  { modPower s (fun w => { w with on := w.on ||| 0xFFF0000 }) with
    tiers := { s.tiers with mem := [], poison := [], upset := [] } }

theorem memory_effects {s : State} {ok : Bool} (hstage : s.ward.stage = .measure) :
    Effects (.memory ok) s [.tiers, .ward, .power, .out] (fun u =>
      (∀ a, rd8 u.tiers.mem a = 0) ∧ u.tiers.poison = [] ∧ u.tiers.blk = s.tiers.blk ∧
      (∀ d, 16 ≤ d → d < 28 → u.power.on.getLsbD d = true) ∧
      (ok = true → u.ward = { s.ward with stage := .memory }) ∧
      (ok = false → u.ward.stage = .failed ∧
        (s.ward.card = .service → u.ward.card = .suspect ∧ u.ward.cause = causeSelftest))) := by
  have hexec : exec (.memory ok) s = .next (if ok then modWard (memoryReady (begin s)) (fun w => { w with stage := .memory })
      else stageFails (memoryReady (begin s))) := by
    show execMemory ok s = _
    rw [execMemory]
    dsimp only
    rw [begin_ward, hstage]
    rfl
  have hon : ∀ d, 16 ≤ d → d < 28 → (memoryReady (begin s)).power.on.getLsbD d = true := by
    intro d hlo hhi
    show (s.power.on ||| 0xFFF0000).getLsbD d = true
    rw [BitVec.getLsbD_or, show (0xFFF0000 : BitVec 37).getLsbD d = true by interval_cases d <;> rfl, Bool.or_true]
  refine effects_of_exec hexec rfl ?_
  cases ok with
  | true => exact ⟨fun _ => rfl, rfl, rfl, hon, fun _ => rfl, fun h => by cases h⟩
  | false =>
    have hframe := stageFails_frame (memoryReady (begin s))
    have htiers : (stageFails (memoryReady (begin s))).tiers = (memoryReady (begin s)).tiers := hframe.2 .tiers (by decide)
    have hpower : (stageFails (memoryReady (begin s))).power = (memoryReady (begin s)).power := hframe.2 .power (by decide)
    obtain ⟨hst, hcard⟩ := stageFails_ward (memoryReady (begin s))
    rw [if_neg Bool.false_ne_true, htiers, hpower]
    exact ⟨fun _ => rfl, rfl, rfl, hon, fun h => (by cases h), fun _ => ⟨hst, hcard⟩⟩

/-! ### CORE and LINKS -/

section
variable {s : State} (hstage : s.ward.stage = .memory)
include hstage

theorem exec_core (ok : Bool) : exec (.core ok) s = .next (if !ok then stageFails (clustersOn (begin s))
    else modWard { clustersOn (begin s) with id := { (clustersOn (begin s)).id with
      minSvn := if (clustersOn (begin s)).id.minSvn.toNat < (clustersOn (begin s)).id.activeSvn.toNat then
        (clustersOn (begin s)).id.activeSvn else (clustersOn (begin s)).id.minSvn } } (fun w => { w with
      stage := .core
      drain := if w.card == .suspect && w.drain == .none then .armed else w.drain })) := by
  show execCore ok s = _
  rw [execCore]
  dsimp only
  rw [begin_ward, hstage]
  rfl

theorem core_effects : Effects (.core true) s [.id, .ward, .power, .out] (fun u =>
    u.id = { s.id with minSvn := if s.id.minSvn.toNat < s.id.activeSvn.toNat then s.id.activeSvn else s.id.minSvn } ∧
    u.ward.stage = .core ∧ u.ward.drain = (if s.ward.card = .suspect ∧ s.ward.drain = .none then .armed else s.ward.drain) ∧
    ∀ k d, clusterDomain s k = some d → k < 16 → u.power.on.getLsbD d = true) := by
  have hexec := exec_core hstage true
  have hframe := clustersOn_only (closedOn_frame [.power] (begin s)) _ (Frame.refl _ _)
  have hid : (clustersOn (begin s)).id = s.id := hframe.2 .id (by decide)
  have hward : (clustersOn (begin s)).ward = s.ward := hframe.2 .ward (by decide)
  have hon : ∀ k d, clusterDomain s k = some d → k < 16 → (clustersOn (begin s)).power.on.getLsbD d = true :=
    fun k d hd hk => clustersOn_on (s := begin s) hd hk
  rw [if_neg (by decide)] at hexec
  generalize clustersOn (begin s) = v at hexec hid hward hon
  rw [← hid, ← hward]
  refine effects_of_exec hexec rfl ⟨rfl, rfl, ?_, hon⟩
  rw [modWard_ward]
  simp only [Bool.and_eq_true, beq_iff_eq]

theorem core_fails : Effects (.core false) s [.ward, .power, .out] (fun u => u.ward.stage = .failed ∧
    (s.ward.card = .service → u.ward.card = .suspect ∧ u.ward.cause = causeSelftest)) := by
  have hframe := clustersOn_only (closedOn_frame [.power] (begin s)) _ (Frame.refl _ _)
  have hward : (clustersOn (begin s)).ward = s.ward := hframe.2 .ward (by decide)
  have hfail := stageFails_ward (clustersOn (begin s))
  rw [hward] at hfail
  exact ⟨_, exec_core hstage false, hfail, ((begin_frame (by decide) s).trans (hframe.mono (by decide))).trans
    ((stageFails_frame _).mono (by decide))⟩

end

theorem headerOn_power (s : State) (h : Nat) : (headerOn s h).power = { s.power with
    on := s.power.on ||| BitVec.ofNat 37 (2 ^ (28 + h))
    hdr := s.power.hdr ||| BitVec.ofNat 9 (2 ^ h) } := by
  unfold headerOn
  generalize hv : modPower s _ = v
  have hkept : ((linksOf h).foldl startDetect v).power = v.power :=
    (p_foldl _ _ (Frame.refl [.links] v) fun _ _ hu => startDetect_only (closedOn_frame _ v) _ _ hu).2 .power (by decide)
  rw [hkept, ← hv, modPower_power]

theorem headerOn_detects {s : State} {l : Nat} (h : l ∈ linksOf (headerOf l)) :
    linkState (headerOn s (headerOf l)) l = lsDetect := by
  unfold headerOn
  refine foldl_establishes (I := fun _ => True) (Q := fun u => linkState u l = lsDetect) h trivial (fun _ _ _ => trivial)
    (fun u _ => ?_) (fun u k _ hu => ?_)
  · rw [linkState_eq, getLink_startDetect, if_pos rfl, LinkSt.inState_st]
  · rw [linkState_eq, getLink_startDetect]
    split
    · exact LinkSt.inState_st _ _
    · exact hu

theorem headerOn_keeps_detect {s : State} {l : Nat} (hl : linkState s l = lsDetect) (h : Nat) :
    linkState (headerOn s h) l = lsDetect := by
  unfold headerOn
  refine List.foldlRecOn (motive := fun u : State => linkState u l = lsDetect) _ _ hl fun u hu k _ => ?_
  rw [linkState_eq, getLink_startDetect]
  split
  · exact LinkSt.inState_st _ _
  · exact hu

/-- R541: the headers that PWR_HDR gives are switched on. -/
def headersOn (s : State) : State := (List.range 9).foldl (fun s h => if s.power.hdr.getLsbD h then headerOn s h else s) s

theorem headersOn_frame (s : State) : Frame [.links, .power] s (headersOn s) :=
  p_foldl _ _ (Frame.refl _ s) fun _ _ hu => p_ite _ _ _ (headerOn_only (closedOn_frame _ s) _ _ hu) hu

/-- A header's domain is on and one of its links in DETECT. -/
theorem headersOn_starts {s : State} (l : Link) (h : s.power.hdr.getLsbD (headerOf l.val) = true) :
    headerOnBit (headersOn s) (headerOf l.val) = true ∧ linkState (headersOn s) l.val = lsDetect := by
  have hl : l.val < 36 := l.isLt
  have hhdr : headerOf l.val < 9 := by unfold headerOf; omega
  have hmem : l.val ∈ linksOf (headerOf l.val) := by
    unfold linksOf headerOf
    simp only [List.mem_cons, List.not_mem_nil, or_false]
    omega
  unfold headersOn
  refine foldl_establishes (I := fun u => u.power.hdr.getLsbD (headerOf l.val) = true)
    (Q := fun u => headerOnBit u (headerOf l.val) = true ∧ linkState u l.val = lsDetect) (List.mem_range.2 hhdr) h
    (fun u k hu => ?_) (fun u hu => ?_) (fun u k _ hq => ?_)
  · split
    · rw [headerOn_power, BitVec.getLsbD_or, hu]; rfl
    · exact hu
  · rw [if_pos hu]
    refine ⟨?_, headerOn_detects hmem⟩
    rw [headerOnBit, headerOn_power, getLsbD_setBit _ (by omega)]
    simp
  · split
    · obtain ⟨hon, hst⟩ := hq
      refine ⟨?_, headerOn_keeps_detect hst k⟩
      rw [headerOnBit] at hon
      rw [headerOnBit, headerOn_power, BitVec.getLsbD_or, hon]
      rfl
    · exact hq

/-- R541: no cluster's domain is a header's. -/
theorem headersOn_off {s : State} {d : Nat} (hd : d < 16) (h : s.power.on.getLsbD d = false) :
    (headersOn s).power.on.getLsbD d = false := by
  refine List.foldlRecOn (motive := fun u : State => u.power.on.getLsbD d = false) _ _ h fun u hu k hk => ?_
  have hk9 : k < 9 := List.mem_range.1 hk
  split
  · rw [headerOn_power, getLsbD_setBit _ (by omega), hu, Bool.false_or, decide_eq_false_iff_not]
    omega
  · exact hu

section
variable {s : State}

theorem exec_links : exec .links s = .next (if s.ward.stage != .core || s.ward.card != .service then begin s
    else headersOn (sleepUnassigned (modWard (begin s) (fun w => { w with stage := .links })))) := rfl

theorem links_effects (hstage : s.ward.stage = .core) (hcard : s.ward.card = .service) :
    Effects .links s [.links, .ward, .power, .out] (fun u => u.ward = { s.ward with stage := .links } ∧
      (∀ l : Link, s.power.hdr.getLsbD (headerOf l.val) = true → headerOnBit u (headerOf l.val) = true ∧
        linkState u l.val = lsDetect) ∧
      ∀ k d, clusterDomain s k = some d → k < 16 → clusterOwner s k = none → u.power.on.getLsbD d = false) := by
  have hexec := exec_links (s := s)
  rw [if_neg (by rw [hstage, hcard]; decide)] at hexec
  have hsleep := sleepUnassigned_frame (modWard (begin s) (fun w => { w with stage := .links }))
  have hhdr : (sleepUnassigned (modWard (begin s) (fun w => { w with stage := .links }))).power.hdr = s.power.hdr := by
    obtain ⟨_, _, _, hpower⟩ := sleepUnassigned_power (modWard (begin s) (fun w => { w with stage := .links }))
    rw [hpower]
    rfl
  refine effects_of_exec hexec rfl ⟨?_, fun l hl => headersOn_starts l (by rw [hhdr]; exact hl), fun k d hd hk howner => ?_⟩
  · rw [show ∀ u, (headersOn u).ward = u.ward from fun u => (headersOn_frame u).2 .ward (by decide),
      show (sleepUnassigned _).ward = _ from hsleep.2 .ward (by decide), modWard_ward]
    rfl
  · have hoff := asleep_sleepUnassigned (s := modWard (begin s) (fun w => { w with stage := .links })) rfl hk hd howner
    exact headersOn_off (clusterDomain_lt hd) hoff.1

theorem links_refused (h : s.ward.stage ≠ .core ∨ s.ward.card ≠ .service) : exec .links s = .next (begin s) := by
  rw [exec_links, if_pos (by simpa using h)]

/-! ### The assembly -/

theorem getLsbD_dozeMask {k : Nat} (hk : k < 16) : (dozeMask s).getLsbD k = isDozing s k := by
  have hbit (m : W16) (c : Nat) (hc : c < 16) : (m ||| BitVec.ofNat 16 (2 ^ c)).getLsbD k = (m.getLsbD k || decide (k = c)) := by
    rw [BitVec.getLsbD_or, BitVec.getLsbD_ofNat, Nat.testBit_two_pow]
    by_cases h : k = c
    · simp [h, hc]
    · simp [h, Ne.symm h]
  have hfold : ∀ (l : List Nat) (m : W16), (∀ c ∈ l, c < 16) → (l.foldl (fun (m : W16) c =>
      if s.power.dozeAt.any (fun e => e.1 == c) then m ||| BitVec.ofNat 16 (2 ^ c) else m) m).getLsbD k =
        (m.getLsbD k || (l.contains k && isDozing s k)) := by
    intro l
    induction l with
    | nil => simp
    | cons c l ih =>
      intro m hl
      obtain ⟨hc, hl⟩ := List.forall_mem_cons.1 hl
      rw [List.foldl_cons, ih _ hl, List.contains_cons]
      by_cases hkc : k = c
      · subst hkc
        by_cases hd : isDozing s k = true
        · rw [if_pos (by exact hd), hbit _ _ hc, hd]; simp
        · rw [if_neg (by exact hd), Bool.eq_false_iff.2 hd]; simp
      · have hne : (k == c) = false := by simpa using hkc
        rw [hne, Bool.false_or]
        split
        · rw [hbit _ _ hc]; simp [hkc]
        · rfl
  rw [dozeMask, hfold _ _ fun c hc => List.mem_range.1 hc]
  simp [hk]

theorem getSect_foldl_modSect (f : Sect → Sect) {l : List Sec} (hl : l.Nodup) (u : State) (t : Sec) :
    getSect (l.foldl (fun s t => modSect s t f) u) t = if t ∈ l then f (getSect u t) else getSect u t := by
  induction l generalizing u with
  | nil => simp
  | cons a l ih =>
    obtain ⟨ha, hl⟩ := List.nodup_cons.1 hl
    rw [List.foldl_cons, ih hl, getSect_modSect]
    by_cases h : t = a
    · subst h; simp [ha]
    · simp [h]

theorem getLsbD_allOnes : ∀ k : Fin 16, (0xFFFF : W16).getLsbD k.val = true := by decide

theorem assembly_effects (s : State) : Effects .assembly s [.sect, .power, .out] (fun u => u.power.assembly = true ∧
    (∀ k : Fin 16, isDozing s k.val = true → u.power.wakeDue.getLsbD k.val = true) ∧
    ∀ t, getSect u t = { getSect s t with cdoze := (getSect s t).cdoze &&& dozeMask s }) := by
  have hexec : exec .assembly s = .next (requestWake (modPower (begin s) (fun w => { w with assembly := true })) 0xFFFF) := rfl
  have hpower (v : State) (f : Sect → Sect) : (allSecs.foldl (fun s t => modSect s t f) v).power = v.power :=
    (p_foldl _ _ (Frame.refl [.sect] v) fun _ _ hu => modSect_only (closedOn_frame _ v) _ _ _ hu).2 .power (by decide)
  refine effects_of_exec hexec rfl ?_
  unfold requestWake
  rw [hpower, modPower_power]
  refine ⟨rfl, fun k hk => ?_, fun t => ?_⟩
  · have hmask : (0xFFFF &&& dozeMask s).getLsbD k.val = true := by
      rw [BitVec.getLsbD_and, getLsbD_dozeMask k.isLt, hk, Bool.and_true]
      exact getLsbD_allOnes k
    show (s.power.wakeDue ||| (0xFFFF &&& dozeMask s)).getLsbD k.val = true
    rw [BitVec.getLsbD_or, hmask, Bool.or_true]
  · rw [getSect_foldl_modSect _ (by decide), if_pos (mem_allSecs t)]
    have hmask (x y : W16) : x &&& ~~~ (0xFFFF &&& ~~~ y) = x &&& y := by
      ext i hi
      simp only [BitVec.getElem_and, BitVec.getElem_not, Bool.not_and, Bool.not_not]
      rw [← BitVec.getLsbD_eq_getElem (x := 0xFFFF), getLsbD_allOnes ⟨i, hi⟩, Bool.not_true, Bool.false_or]
    show { getSect s t with cdoze := (getSect s t).cdoze &&& ~~~ (0xFFFF &&& ~~~ dozeMask s) } = _
    rw [hmask]

/-- R84: the assembly is over, and unassigned clusters doze again. -/
def assembled (s : State) : State := sleepUnassigned (modPower s (fun w => { w with assembly := false }))

theorem assembled_assembly (s : State) : (assembled s).power.assembly = false := by
  obtain ⟨_, _, _, hpower⟩ := sleepUnassigned_power (modPower s (fun w => { w with assembly := false }))
  rw [assembled, hpower]
  rfl

theorem exec_assemblyComplete (h : s.power.assembly = true) : exec .assemblyComplete s = .next (
    if !anyRun s && (absentCores s).isEmpty && atTick s then assembled (begin s) else begin s) := by
  show (.next (if (begin s).power.assembly && !anyRun (begin s) && (absentCores (begin s)).isEmpty && atTick (begin s) then
    assembled (begin s) else begin s) : Res) = _
  rw [show (begin s).power.assembly = true from h, Bool.true_and]
  rfl

theorem assemblyComplete_effects (h : s.power.assembly = true) (hrun : anyRun s = false) (habsent : absentCores s = [])
    (htick : atTick s = true) : Effects .assemblyComplete s [.power, .out] (fun u =>
      u.power.assembly = false ∧ (s.ward.stage ≠ .links → u.power = { s.power with assembly := false }) ∧
      (s.ward.stage = .links → ∀ k d, k < 16 → clusterDomain s k = some d → clusterOwner s k = none →
        u.power.on.getLsbD d = false ∧ isDozing u k = true)) := by
  have hexec := exec_assemblyComplete h
  rw [if_pos (by rw [hrun, habsent, htick]; rfl)] at hexec
  refine effects_of_exec hexec rfl ⟨assembled_assembly _, fun hstage => ?_, fun hstage k d hk hd howner => ?_⟩
  · rw [assembled, sleepUnassigned, if_pos (by rw [modPower_ward, begin_ward]; simpa using hstage)]
    rfl
  · exact asleep_sleepUnassigned (s := modPower (begin s) (fun w => { w with assembly := false })) hstage hk hd howner

theorem assemblyComplete_waits (h : s.power.assembly = true)
    (hwait : anyRun s = true ∨ absentCores s ≠ [] ∨ atTick s = false) : exec .assemblyComplete s = .next (begin s) := by
  rw [exec_assemblyComplete h, if_neg]
  simp only [Bool.and_eq_true, Bool.not_eq_true', List.isEmpty_iff, not_and]
  intro hfree htick
  obtain ⟨hrun, habsent⟩ := hfree
  obtain hr | ha | ht := hwait
  · rw [hrun] at hr; cases hr
  · exact ha habsent
  · rw [htick] at ht; cases ht

theorem exec_assemblyTimeout (h : s.power.assembly = true) : exec .assemblyTimeout s = .next (
    if !anyRun s then sleepUnassigned (modWard (suspect (modPower (begin s) (fun w => { w with assembly := false })) 0xE
      causeAssembly ((lateCores s).headD 0)) (fun w => { w with
        lateCores := lateCores s, stage := if w.stage == .memory then .failed else w.stage }))
    else begin s) := by
  show execAssemblyTimeout s = _
  rw [execAssemblyTimeout]
  dsimp only
  rw [show (begin s).power.assembly = true from h, Bool.true_and]
  rfl

theorem assemblyTimeout_effects (h : s.power.assembly = true) (hrun : anyRun s = false) :
    Effects .assemblyTimeout s [.ward, .power, .out] (fun u => u.power.assembly = false ∧
      u.ward.lateCores = lateCores s ∧ u.ward.stage = (if s.ward.stage = .memory then .failed else s.ward.stage) ∧
      (s.ward.card = .service → u.ward.card = .suspect ∧ u.ward.cause = causeAssembly ∧ u.ward.drain = .guard)) := by
  have hexec := exec_assemblyTimeout h
  rw [if_pos (by rw [hrun]; rfl)] at hexec
  refine effects_of_exec hexec rfl ?_
  have hfail (hc : s.ward.card = .service) := suspect_ward (s := modPower (begin s) (fun w => { w with assembly := false })) hc 0xE
    causeAssembly ((lateCores s).headD 0)
  have hst := suspect_stage (modPower (begin s) (fun w => { w with assembly := false })) 0xE causeAssembly ((lateCores s).headD 0)
  have hpower : (suspect (modPower (begin s) (fun w => { w with assembly := false })) 0xE causeAssembly
      ((lateCores s).headD 0)).power.assembly = false :=
    congrArg Power.assembly ((suspect_only (closedOn_frame [.ward, .out] _) _ _ _ _ (Frame.refl _ _)).2 .power (by decide))
  generalize suspect (modPower (begin s) (fun w => { w with assembly := false })) 0xE causeAssembly ((lateCores s).headD 0) = v
    at hfail hst hpower
  obtain ⟨_, _, _, hsleep⟩ := sleepUnassigned_power (modWard v (fun w => { w with
    lateCores := lateCores s, stage := if w.stage == .memory then .failed else w.stage }))
  have hward : (sleepUnassigned (modWard v (fun w => { w with
      lateCores := lateCores s, stage := if w.stage == .memory then .failed else w.stage }))).ward = _ :=
    (sleepUnassigned_frame _).2 .ward (by decide)
  rw [hward, hsleep, modWard_ward]
  refine ⟨hpower, rfl, ?_, fun hc => hfail hc⟩
  show (if v.ward.stage == .memory then Stage0.failed else v.ward.stage) = _
  rw [hst]
  simp only [beq_iff_eq]
  rfl

end

/-- Settles O59: each stage of start-up, after the one before it, and the assembly. -/
theorem startUpPassesItsStages : Obligations.StartUpPassesItsStages := by
  refine ⟨fun s ms hstage => ⟨fun hms => ?_, present_short⟩,
    fun s hstage => ⟨boot_none hstage, fun v => boot_staged hstage, boot_other hstage, boot_fails hstage⟩,
    fun s mv inlet outlet hstage => ⟨measure_effects hstage, measure_hot hstage, measure_fails hstage⟩,
    fun s ok hstage => memory_effects hstage, fun s hstage => ⟨core_effects hstage, core_fails hstage⟩,
    fun s => ⟨links_effects, links_refused⟩, assembly_effects,
    fun s h => ⟨assemblyComplete_effects h, assemblyComplete_waits h, fun hrun => ?_, assemblyTimeout_effects h⟩⟩
  · exact effects_of_exec (present_effects hstage hms) rfl ⟨rfl, rfl, rfl, rfl, rfl, rfl, rfl, rfl, rfl, rfl, rfl, rfl, rfl, rfl,
      rfl, rfl, rfl, rfl, rfl, rfl, rfl, rfl, rfl, rfl⟩
  · rw [exec_assemblyTimeout h, if_neg (by rw [hrun]; decide)]

end Sys2Proof.Machine
end

section
/-!
PROOFS. Clusters and tiers that doze and wake; the log and the trace that slot 0 writes (R450-R465, R489-R495).
-/
namespace Sys2Proof.Machine

/-! ### Clusters -/

section
variable {s : State} {c : Fin 16}

theorem isDozing_sdel (m : Sparse Nat) (k : Nat) : (sdel m k).any (fun e => e.1 == k) = false := by
  rw [List.any_eq_false]
  intro e he
  simpa using ((mem_sdel _ _ _).1 he).2

/-- Table 17.7: what core q keeps of a cluster that dozes. -/
def CoreCleared (q : Nat) (u : State) : Prop := getCore u q = coreReset ∧
  (∀ a, slateKey q 0 ≤ a → a < slateKey (q + 1) 0 → rd8 u.slate a = 0) ∧
  ∀ a, 262144 * q ≤ a → a < 262144 * (q + 1) → sget 0 u.acc a = 0

theorem zeroCluster_clears (stores : Bool) (n : Nat) {q : Nat} (hq : q ∈ coresOf (BitVec.ofNat 16 (2 ^ n))) :
    CoreCleared q (zeroCluster s n stores) := by
  have hslate (q' : Nat) : slateKey (q' + 1) 0 = slateKey q' 0 + slateBytes := by unfold slateKey; rw [Nat.mul_succ]; omega
  have hacc (m : Sparse (BitVec 32)) (q' a : Nat) :
      sget 0 (m.filter (fun e => !(decide (262144 * q' ≤ e.1 ∧ e.1 < 262144 * (q' + 1))))) a =
        if 262144 * q' ≤ a ∧ a < 262144 * (q' + 1) then 0 else sget 0 m a := by
    rw [sget_filter_key 0 m (fun k => !(decide (262144 * q' ≤ k ∧ k < 262144 * (q' + 1))))]
    by_cases h : 262144 * q' ≤ a ∧ a < 262144 * (q' + 1) <;> simp [h]
  unfold zeroCluster
  refine foldl_establishes (I := fun _ => True) (Q := CoreCleared q) hq trivial (fun _ _ _ => trivial) (fun u _ => ?_)
    (fun u k _ hu => ?_)
  · refine ⟨?_, fun a hlo hhi => ?_, fun a hlo hhi => ?_⟩
    · exact (sget_sdel _ _ _ _).trans (if_pos rfl)
    · exact (rd8_zeroRange _ _ _ _).trans (if_pos ⟨hlo, by rw [hslate] at hhi; exact hhi⟩)
    · exact (hacc _ _ _).trans (if_pos ⟨hlo, hhi⟩)
  · obtain ⟨hcore, hs, ha⟩ := hu
    refine ⟨?_, fun a hlo hhi => ?_, fun a hlo hhi => ?_⟩
    · exact (sget_sdel _ _ _ _).trans (by split; rfl; exact hcore)
    · exact (rd8_zeroRange _ _ _ _).trans (by rw [hs a hlo hhi, ite_self])
    · exact (hacc _ _ _).trans (by rw [ha a hlo hhi, ite_self])

theorem zeroCluster_frame (n : Nat) : Frame [.cores, .slate, .acc] s (zeroCluster s n false) := by
  have hc := closedOn_frame [.cores, .slate, .acc] s
  refine p_foldl _ _ (Frame.refl _ s) fun u q hu => ?_
  exact upd_cores hc (by decide) _ (upd_acc hc (by decide) _ (upd_slate hc (by decide) _ hu fun h => wf_zeroRange _ _ _ h))

theorem coreCleared_of_frame {u v : State} {q : Nat} {L : List Piece} (h : Frame L u v) (hcores : .cores ∉ L)
    (hslate : .slate ∉ L) (hacc : .acc ∉ L) (hu : CoreCleared q u) : CoreCleared q v := by
  have hc : v.cores = u.cores := h.2 .cores hcores
  have hs : v.slate = u.slate := h.2 .slate hslate
  have ha : v.acc = u.acc := h.2 .acc hacc
  unfold CoreCleared getCore
  rw [hc, hs, ha]
  exact hu

/-- R464: the DOZE records of a cluster. -/
def dozeRecords (s : State) (t : Sec) (n : Nat) : State := (clusterCores s n).foldl (dozeRecord t) s

theorem dozeRecords_frame (t : Sec) (n : Nat) : Frame [.trace] s (dozeRecords s t n) :=
  p_foldl _ _ (Frame.refl _ s) fun _ _ hu => traceCore_only (closedOn_frame _ s) _ _ _ _ _ _ hu

section
variable {t : Sec} (howner : clusterOwner s c.val = some t) (hask : (getSect s t).cdoze.getLsbD c.val = true)
  (hawake : isDozing s c.val = false)
include howner hask hawake

theorem exec_clusterDoze : exec (.clusterDoze c) s = .next (if (clusterCores s c.val).all (queueOut s t) then
    sleepCluster (zeroCluster (dozeRecords (begin s) t c.val) c.val false) c.val else begin s) := by
  have howner' : clusterOwner (begin s) c.val = some t := howner
  have hask' : (getSect (begin s) t).cdoze.getLsbD c.val = true := hask
  have hawake' : isDozing (begin s) c.val = false := hawake
  have hall : (clusterCores (begin s) c.val).all (queueOut (begin s) t) = (clusterCores s c.val).all (queueOut s t) := rfl
  show execClusterDoze c s = _
  unfold execClusterDoze
  dsimp only
  rw [howner']
  simp only [hask', hawake', hall, Bool.not_true, Bool.false_or]
  cases (clusterCores s c.val).all (queueOut s t) <;> rfl

theorem clusterDoze_effects {d : Nat} (hd : clusterDomain s c.val = some d)
    (hout : ∀ q ∈ clusterCores s c.val, queueOut s t q = true) :
    Effects (.clusterDoze c) s [.cores, .slate, .acc, .power, .trace, .out] (fun u =>
      isDozing u c.val = true ∧ u.power.on.getLsbD d = false ∧
      ∀ q, q ∈ coresOf (BitVec.ofNat 16 (2 ^ c.val)) → getCore u q = coreReset ∧
        (∀ a, slateKey q 0 ≤ a → a < slateKey (q + 1) 0 → rd8 u.slate a = 0) ∧
        ∀ a, 262144 * q ≤ a → a < 262144 * (q + 1) → sget 0 u.acc a = 0) := by
  have hexec := exec_clusterDoze howner hask hawake
  rw [if_pos (List.all_eq_true.2 hout)] at hexec
  have hrecords : Frame [.cores, .slate, .acc, .power, .trace, .out] s (dozeRecords (begin s) t c.val) :=
    (begin_frame (by decide) s).trans ((dozeRecords_frame t c.val).mono (by decide))
  have hzero : Frame [.cores, .slate, .acc, .power, .trace, .out] s (zeroCluster (dozeRecords (begin s) t c.val) c.val false) :=
    hrecords.trans ((zeroCluster_frame c.val).mono (by decide))
  have hsleep := sleepCluster_only (closedOn_frame [.power] (zeroCluster (dozeRecords (begin s) t c.val) c.val false)) _ c.val
    (Frame.refl _ _)
  have hasleep : Asleep c.val d (sleepCluster (zeroCluster (dozeRecords (begin s) t c.val) c.val false) c.val) :=
    asleep_sleepCluster ((clusterDomain_of_id (hzero.2 .id (by decide)) c.val).trans hd)
  refine ⟨_, hexec, ⟨hasleep.2, hasleep.1, fun q hq => ?_⟩, hzero.trans (hsleep.mono (by decide))⟩
  exact coreCleared_of_frame hsleep (by decide) (by decide) (by decide) (zeroCluster_clears false c.val hq)

end

/-! ### Waking -/

/-- R490: a cluster that comes on. -/
def wokenCluster (s : State) (n : Nat) : State := modPower (setClusterDomain s n true) (fun w => { w with
  dozeAt := sdel w.dozeAt n, wakeDue := w.wakeDue &&& ~~~ (BitVec.ofNat 16 (2 ^ n)) })

theorem wokenCluster_frame (n : Nat) : Frame [.power] s (wokenCluster s n) :=
  modPower_only (closedOn_frame _ s) _ _ (setClusterDomain_only (closedOn_frame _ s) _ _ _ (Frame.refl _ s))

theorem wokenCluster_awake : isDozing (wokenCluster s c.val) c.val = false ∧
    (wokenCluster s c.val).power.wakeDue.getLsbD c.val = false ∧
    ∀ d, clusterDomain s c.val = some d → d < 37 → (wokenCluster s c.val).power.on.getLsbD d = true := by
  unfold wokenCluster isDozing
  rw [modPower_power]
  refine ⟨isDozing_sdel _ _, ?_, fun d hd _ => ?_⟩
  · dsimp only
    rw [BitVec.getLsbD_and, BitVec.getLsbD_not, BitVec.getLsbD_ofNat, Nat.testBit_two_pow_self]
    simp
  · dsimp only
    rw [setClusterDomain_on hd]
    simp

section
variable (hdoze : isDozing s c.val = true) (hdue : s.power.wakeDue.getLsbD c.val = true)
include hdoze hdue

theorem exec_clusterWake : exec (.clusterWake c) s = .next (if s.power.scrubs.contains (.cluster c) then begin s else
    match clusterOwner (wokenCluster (begin s) c.val) c.val with
    | none => wokenCluster (begin s) c.val
    | some t => (clusterCores (wokenCluster (begin s) c.val) c.val).foldl (wakeRecord t (sget 0 s.power.dozeAt c.val - 1))
        (modSect (wokenCluster (begin s) c.val) t (fun x => { x with cdoze := x.cdoze &&& ~~~ (BitVec.ofNat 16 (2 ^ c.val)) }))) := by
  have hdoze' : isDozing (begin s) c.val = true := hdoze
  have hdue' : (begin s).power.wakeDue.getLsbD c.val = true := hdue
  show execClusterWake c s = _
  unfold execClusterWake
  simp only [hdoze', hdue', Bool.not_true, Bool.false_or]
  rfl

theorem clusterWake_waits (h : .cluster c ∈ s.power.scrubs) : exec (.clusterWake c) s = .next (begin s) := by
  rw [exec_clusterWake hdoze hdue, if_pos (by simpa using h)]

theorem clusterWake_free (h : .cluster c ∉ s.power.scrubs) (howner : clusterOwner s c.val = none) :
    Effects (.clusterWake c) s [.power, .out] (fun u => isDozing u c.val = false ∧ u.power.wakeDue.getLsbD c.val = false ∧
      ∀ d, clusterDomain s c.val = some d → d < 37 → u.power.on.getLsbD d = true) := by
  have hexec := exec_clusterWake hdoze hdue
  have hframe := wokenCluster_frame (s := begin s) c.val
  have howner' : clusterOwner (wokenCluster (begin s) c.val) c.val = none :=
    (clusterOwner_of_sect (hframe.2 .sect (by decide)) c.val).trans howner
  rw [if_neg (by simpa using h), howner'] at hexec
  exact ⟨_, hexec, wokenCluster_awake (s := begin s), (begin_frame (by decide) s).trans (hframe.mono (by decide))⟩

theorem clusterWake_effects {t : Sec} (h : .cluster c ∉ s.power.scrubs) (howner : clusterOwner s c.val = some t) :
    Effects (.clusterWake c) s [.sect, .power, .trace, .out] (fun u =>
      isDozing u c.val = false ∧ u.power.wakeDue.getLsbD c.val = false ∧ (getSect u t).cdoze.getLsbD c.val = false ∧
      (∀ d, clusterDomain s c.val = some d → d < 37 → u.power.on.getLsbD d = true) ∧
      ∀ v, v ≠ t → getSect u v = getSect s v) := by
  have hexec := exec_clusterWake hdoze hdue
  have hframe := wokenCluster_frame (s := begin s) c.val
  have howner' : clusterOwner (wokenCluster (begin s) c.val) c.val = some t :=
    (clusterOwner_of_sect (hframe.2 .sect (by decide)) c.val).trans howner
  have hsect : (wokenCluster (begin s) c.val).sect = s.sect := hframe.2 .sect (by decide)
  rw [if_neg (by simpa using h), howner'] at hexec
  dsimp only at hexec
  obtain ⟨hawake, hnotdue, hon⟩ := wokenCluster_awake (s := begin s) (c := c)
  refine effects_of_exec hexec rfl ?_
  generalize hw : modSect (wokenCluster (begin s) c.val) t _ = w
  have hrecords : Frame [.trace] w ((clusterCores (wokenCluster (begin s) c.val) c.val).foldl
      (wakeRecord t (sget 0 s.power.dozeAt c.val - 1)) w) :=
    p_foldl _ _ (Frame.refl _ w) fun _ _ hu => wakeRecord_only (closedOn_frame _ w) _ _ _ _ hu
  generalize (clusterCores (wokenCluster (begin s) c.val) c.val).foldl (wakeRecord t (sget 0 s.power.dozeAt c.val - 1)) w = u
    at hrecords
  have hpower : u.power = (wokenCluster (begin s) c.val).power := (hrecords.2 .power (by decide)).trans (by rw [← hw]; rfl)
  have hget : ∀ v, getSect u v = getSect w v := fun v => by
    unfold getSect
    rw [show u.sect = w.sect from hrecords.2 .sect (by decide)]
  refine ⟨?_, by rw [hpower]; exact hnotdue, ?_, by rw [hpower]; exact hon, fun v hv => ?_⟩
  · unfold isDozing
    rw [hpower]
    exact hawake
  · rw [hget, ← hw, getSect_modSect, if_pos rfl]
    dsimp only
    rw [BitVec.getLsbD_and, BitVec.getLsbD_not, BitVec.getLsbD_ofNat, Nat.testBit_two_pow_self]
    simp
  · rw [hget, ← hw, getSect_modSect, if_neg hv]
    unfold getSect
    rw [hsect]

end

end

/-! ### Tiers and scrubs -/

/-- R492: a wake of a tier is no longer under way. -/
def tierAwake (s : State) (k : Nat) : State := modPower s (fun w => { w with waking := w.waking &&& ~~~ (BitVec.ofNat 2 (2 ^ k)) })

/-- R492: the domains of a tier come on. -/
def domainsOn (l : List Nat) (s : State) : State := l.foldl (fun s d => setDomain s d true) s

theorem setDomain_waking (s : State) (d : Nat) (b : Bool) : (setDomain s d b).power.waking = s.power.waking := by
  rw [setDomain, modPower_power]

theorem setDomain_getLsbD (s : State) {d : Nat} (h : d < 37) (j : Nat) :
    (setDomain s d true).power.on.getLsbD j = (s.power.on.getLsbD j || decide (j = d)) := by
  rw [setDomain, modPower_power]
  exact getLsbD_setBit _ h j

theorem domainsOn_waking (l : List Nat) (s : State) : (domainsOn l s).power.waking = s.power.waking :=
  List.foldlRecOn (motive := fun u : State => u.power.waking = s.power.waking) _ _ rfl fun _ hu _ _ =>
    (setDomain_waking _ _ _).trans hu

theorem domainsOn_on {l : List Nat} (s : State) (hl : ∀ d ∈ l, d < 37) {d : Nat} (hd : d ∈ l) :
    (domainsOn l s).power.on.getLsbD d = true := by
  induction l generalizing s with
  | nil => cases hd
  | cons a l ih =>
    obtain ⟨ha, hl⟩ := List.forall_mem_cons.1 hl
    unfold domainsOn
    rw [List.foldl_cons]
    by_cases hmem : d ∈ l
    · exact ih _ hl hmem
    · have had : d = a := (List.mem_cons.1 hd).resolve_right hmem
      refine List.foldlRecOn (motive := fun u : State => u.power.on.getLsbD d = true) _ _ ?_ fun u hu e he => ?_
      · rw [setDomain_getLsbD _ ha, had]; simp
      · rw [setDomain_getLsbD _ (hl e he), hu]; rfl

theorem tierWake_effects {s : State} {bridge : Bool} (h : s.power.waking.getLsbD (if bridge then 1 else 0) = true) :
    Effects (.tierWakeComplete bridge) s [.power, .out] (fun u =>
      u.power.waking.getLsbD (if bridge then 1 else 0) = false ∧
      u.power.waking.getLsbD (if bridge then 0 else 1) = s.power.waking.getLsbD (if bridge then 0 else 1) ∧
      ∀ d, (if bridge then 24 else 16) ≤ d → d < (if bridge then 28 else 24) → u.power.on.getLsbD d = true) := by
  have hexec : exec (.tierWakeComplete bridge) s = .next (domainsOn (if bridge then [24, 25, 26, 27] else
      [16, 17, 18, 19, 20, 21, 22, 23]) (tierAwake (begin s) (if bridge then 1 else 0))) := by
    show execTierWakeComplete bridge s = _
    unfold execTierWakeComplete
    dsimp only
    rw [begin_power, h]
    rfl
  have hwaking (k : Nat) : (tierAwake (begin s) k).power.waking = s.power.waking &&& ~~~ (BitVec.ofNat 2 (2 ^ k)) := rfl
  refine effects_of_exec hexec rfl ⟨?_, ?_, fun d hlo hhi => ?_⟩
  · rw [domainsOn_waking, hwaking]
    cases bridge <;> simp [BitVec.getLsbD_and]
  · rw [domainsOn_waking, hwaking]
    cases bridge <;> simp [BitVec.getLsbD_and]
  · refine domainsOn_on _ ?_ ?_
    · cases bridge <;> decide
    · cases bridge
      · simp only [Bool.false_eq_true, if_false, List.mem_cons, List.not_mem_nil, or_false] at hlo hhi ⊢
        omega
      · simp only [if_true, List.mem_cons, List.not_mem_nil, or_false] at hlo hhi ⊢
        omega

theorem scrubComplete_effects (s : State) (x : Scrub) : Effects (.clusterScrubComplete x) s [.power, .out] (fun u =>
    ∀ y, y ∈ u.power.scrubs ↔ y ∈ s.power.scrubs ∧ y ≠ x) := by
  have hexec : exec (.clusterScrubComplete x) s =
    .next (modPower (begin s) (fun w => { w with scrubs := w.scrubs.filter (· != x) })) := rfl
  refine effects_of_exec hexec rfl fun y => ?_
  rw [modPower_power, begin_power]
  simp

/-! ### Writes with no page resident and no granule poisoned -/

/-- No page is resident, and no granule is poisoned. -/
def Plain (s : State) : Prop := s.tiers.pages = [] ∧ ∀ g, sget false s.tiers.poison g = false

theorem Plain.place {s : State} (h : Plain s) (a : Nat) : place s a = a := by
  unfold Machine.place getPage
  rw [h.1]
  rfl

theorem Plain.wrGranule {s : State} (h : Plain s) (p : Nat) (bs : List Nat) : Plain (wrGranule s p bs) ∧
    (wrGranule s p bs).tiers.mem = wrBytes s.tiers.mem p bs := by
  obtain ⟨hpages, hpoison⟩ := h
  unfold Machine.wrGranule
  rw [hpoison, if_neg (by simp)]
  refine ⟨⟨hpages, fun g => ?_⟩, rfl⟩
  exact (sget_sset false s.tiers.poison (p / 256) false g).trans (by split; rfl; exact hpoison g)

theorem rd8_wrDevN {s : State} (h : Plain s) {fuel a : Nat} {bs : List Nat} (hfuel : bs.length + a % 256 ≤ 256 * fuel) (x : Nat) :
    rd8 (wrDevN fuel s a bs).tiers.mem x =
      if a ≤ x ∧ x < a + bs.length then bs.getD (x - a) 0 % 256 else rd8 s.tiers.mem x := by
  induction fuel generalizing s a bs with
  | zero =>
    rw [if_neg (by omega)]
    rfl
  | succ n ih =>
    unfold wrDevN
    dsimp only
    by_cases hempty : bs = []
    · subst hempty
      rw [List.isEmpty_nil, if_pos rfl, if_neg (by simp)]
    · rw [if_neg (by simpa using hempty), h.place]
      obtain ⟨hplain, hmem⟩ := h.wrGranule a (bs.take (256 - a % 256))
      rw [ih hplain (by rw [List.length_drop]; omega), hmem, rd8_wrBytes, List.length_drop, List.length_take]
      simp only [List.getD_eq_getElem?_getD, List.getElem?_drop, List.getElem?_take]
      by_cases hin : a ≤ x ∧ x < a + bs.length
      · rw [if_pos hin]
        by_cases hlate : a + (256 - a % 256) ≤ x
        · rw [if_pos (by omega), show 256 - a % 256 + (x - (a + (256 - a % 256))) = x - a by omega]
        · rw [if_neg (by omega), if_pos (by omega), if_pos (by omega)]
      · rw [if_neg hin, if_neg (by omega), if_neg (by omega)]

theorem rd8_wrDev {s : State} (h : Plain s) (a : Nat) (bs : List Nat) (x : Nat) : rd8 (wrDev s a bs).tiers.mem x =
    if a ≤ x ∧ x < a + bs.length then bs.getD (x - a) 0 % 256 else rd8 s.tiers.mem x :=
  rd8_wrDevN h (by omega) x

theorem wrDev_frame (s : State) (a : Nat) (bs : List Nat) : Frame [.tiers] s (wrDev s a bs) :=
  wrDev_only (closedOn_frame _ s) _ _ _ (Frame.refl _ s)

theorem wrDev_trace (s : State) (a : Nat) (bs : List Nat) (t : Sec) : getTrace (wrDev s a bs) t = getTrace s t := by
  unfold getTrace
  rw [show (wrDev s a bs).trace = s.trace from (wrDev_frame s a bs).2 .trace (by decide)]

/-! ### The log -/

/-- The bytes of an entry of the log (R451). -/
def entryText (chain : BitVec 384) (e : LogEntry) (seq : Nat) : List Nat :=
  entryHead e.kind.toNat e.payload.length e.ring.toNat seq ++ be384 chain ++ e.payload.flatMap (fun w => leBytes 64 w.toNat)

/-- R451: the chain value of the next entry. -/
def nextChain (r : Trace) (e : LogEntry) : BitVec 384 := shaNum (be384 r.chain ++
  entryHead e.kind.toNat e.payload.length e.ring.toNat r.rlSeq ++ e.payload.flatMap (fun w => leBytes 64 w.toNat))

theorem entryText_length (chain : BitVec 384) (e : LogEntry) (seq : Nat) : (entryText chain e seq).length = entryBytes e := by
  have hbody : (e.payload.flatMap (fun w => leBytes 64 w.toNat)).length = 64 * e.payload.length := by
    induction e.payload with
    | nil => rfl
    | cons w l ih => rw [List.flatMap_cons, List.length_append, leBytes_length, ih, List.length_cons]; omega
  unfold entryText entryHead be384 byteList entryBytes
  simp only [List.length_append, List.length_reverse, leBytes_length, hbody, List.length_cons, List.length_nil]
  omega

section
variable {s : State} {t : Sec} {e : LogEntry} (hslot : inSlot0 s = true) (hq : (getTrace s t).logQ = [e])
include hslot hq

theorem exec_logEntryWrite : exec (.logEntryWrite t) s = .next (
    if 262144 < (s.budget.get t).logBytes + (entryBytes e + if needsPad s t (entryBytes e) then 64 else 0) then begin s
    else
      let u := putEntry (modTrace (padLog (begin s) t (entryBytes e)) t (fun r => { r with logQ := [] })) t e.kind.toNat
        e.ring.toNat e.payload
      { u with budget := u.budget.set t { s.budget.get t with
        logBytes := (s.budget.get t).logBytes + (entryBytes e + if needsPad s t (entryBytes e) then 64 else 0) } }) := by
  have hslot' : inSlot0 (begin s) = true := hslot
  have hq' : (getTrace (begin s) t).logQ = [e] := hq
  show execLogEntryWrite t s = _
  unfold execLogEntryWrite
  dsimp only
  rw [if_pos hslot', hq', List.length_singleton, writeLog, hq']
  rfl

theorem logWrite_waits (h : 262144 < (s.budget.get t).logBytes + entryBytes e) : exec (.logEntryWrite t) s = .next (begin s) := by
  rw [exec_logEntryWrite hslot hq, if_pos (by omega)]

theorem logWrite_effects (hplain : Plain s)
    (hfit : (getTrace s t).rlOff + entryBytes e ≤ (sizedRegion (getTrace s t).rlcfg).2)
    (hbudget : (s.budget.get t).logBytes + entryBytes e ≤ 262144) :
    let r := getTrace s t
    let base := (sizedRegion r.rlcfg).1
    let chain := nextChain r e
    Effects (.logEntryWrite t) s [.tiers, .trace, .budget, .out] (fun u =>
      getTrace u t = { r with
        rlSeq := r.rlSeq + 1, chain := chain, logQ := []
        rlOff := if r.rlOff + entryBytes e = (sizedRegion r.rlcfg).2 then 0 else r.rlOff + entryBytes e } ∧
      (∀ i, i < entryBytes e → rd8 u.tiers.mem (base + r.rlOff + i) = (entryText chain e r.rlSeq).getD i 0 % 256) ∧
      MemFrame (fun a => base + r.rlOff ≤ a ∧ a < base + r.rlOff + entryBytes e) s u) := by
  intro r base chain
  have hpad : needsPad s t (entryBytes e) = false := decide_eq_false (Nat.not_lt.2 hfit)
  have hnopad : padLog (begin s) t (entryBytes e) = begin s := by
    rw [padLog, if_pos (by rw [show needsPad (begin s) t (entryBytes e) = false from hpad]; rfl)]
  have hexec := exec_logEntryWrite hslot hq
  rw [hpad, if_neg (by simp only [Bool.false_eq_true, if_false]; omega), hnopad] at hexec
  have hlength : (entryText chain e r.rlSeq).length = entryBytes e := entryText_length _ _ _
  generalize hv : modTrace (begin s) t (fun r => { r with logQ := [] }) = v at hexec
  have hget : getTrace v t = { r with logQ := [] } := by rw [← hv, getTrace_modTrace, if_pos rfl]; rfl
  have hvplain : Plain v := by rw [← hv]; exact hplain
  have hvmem : v.tiers.mem = s.tiers.mem := by rw [← hv]; rfl
  have hmem (x : Nat) : rd8 (putEntry v t e.kind.toNat e.ring.toNat e.payload).tiers.mem x =
      if base + r.rlOff ≤ x ∧ x < base + r.rlOff + entryBytes e then (entryText chain e r.rlSeq).getD (x - (base + r.rlOff)) 0 % 256
      else rd8 s.tiers.mem x := by
    have h := rd8_wrDev hvplain (base + r.rlOff) (entryText chain e r.rlSeq) x
    rw [hlength, hvmem] at h
    unfold putEntry
    rw [hget]
    exact h
  refine effects_of_exec hexec rfl ⟨?_, fun i hi => ?_, fun x hx => ?_⟩
  · show getTrace (putEntry v t e.kind.toNat e.ring.toNat e.payload) t = _
    unfold putEntry
    rw [getTrace_modTrace, if_pos rfl, wrDev_trace, hget]
    simp only [beq_iff_eq]
    rfl
  · rw [show ∀ (u : State) b, ({ u with budget := b } : State).tiers = u.tiers from fun _ _ => rfl, hmem, if_pos (by omega),
      Nat.add_sub_cancel_left]
  · rw [show ∀ (u : State) b, ({ u with budget := b } : State).tiers = u.tiers from fun _ _ => rfl, hmem, if_neg hx]

end

/-! ### The comparison -/

section
variable {s u : State} (h : u.tiers = s.tiers)
include h

theorem rdDev_of_tiers (a : Nat) : rdDev u a = rdDev s a := by
  unfold rdDev isPoison place getPage
  rw [h]

theorem rdDevBytes_of_tiers (a n : Nat) : rdDevBytes u a n = rdDevBytes s a n := by
  unfold rdDevBytes
  simp only [rdDev_of_tiers h]

theorem refEntry_of_tiers (a : Nat) : refEntry u a = refEntry s a := by
  unfold refEntry
  simp only [rdDev_of_tiers h]

theorem refKey_of_tiers (x : Scan) (e : RefEntry) : refKey u x e = refKey s x e := by
  unfold refKey
  simp only [rdDev_of_tiers h, rdDevBytes_of_tiers h]

theorem findRef_of_tiers (q : LogEntry) (n a : Nat) (x : Scan) : findRef u q n a x = findRef s q n a x := by
  induction n generalizing a x with
  | zero => rfl
  | succ n ih =>
    unfold findRef
    simp only [refEntry_of_tiers h, refKey_of_tiers h, ih]

theorem firstDiff_of_tiers {t : Sec} (hdelta : (getTrace u t).rcdelta = (getTrace s t).rcdelta) (q : LogEntry) (e : RefEntry) :
    firstDiff u t q e = firstDiff s t q e := by
  unfold firstDiff
  simp only [rdDevBytes_of_tiers h, hdelta]

end

/-- R459: TRACE_DIV at a first difference. -/
def divWord (q : LogEntry) (off : Nat) : W64 := w64 ((q.ordinal % 2 ^ 32) * 2 ^ 32 + (q.kind.toNat % 16) * 2 ^ 28 +
  (q.ring.toNat % 16) * 2 ^ 24 + off * 2 ^ 14 + 1)

theorem divWord_fields (q : LogEntry) {off : Nat} (h : off < 1024) : bit64 (divWord q off) 0 = true ∧
    bits (divWord q off) 28 4 = q.kind.toNat % 16 ∧ bits (divWord q off) 24 4 = q.ring.toNat % 16 ∧
    bits (divWord q off) 32 32 = q.ordinal % 2 ^ 32 ∧ bits (divWord q off) 14 10 = off := by
  have ho : q.ordinal % 2 ^ 32 < 4294967296 := Nat.mod_lt _ (by decide)
  have hk : q.kind.toNat % 16 < 16 := Nat.mod_lt _ (by decide)
  have hr : q.ring.toNat % 16 < 16 := Nat.mod_lt _ (by decide)
  have hnat : (divWord q off).toNat = (q.ordinal % 2 ^ 32) * 2 ^ 32 + (q.kind.toNat % 16) * 2 ^ 28 +
      (q.ring.toNat % 16) * 2 ^ 24 + off * 2 ^ 14 + 1 := toNat_w64_of_lt (by omega)
  generalize q.ordinal % 2 ^ 32 = o at ho hnat ⊢
  generalize q.kind.toNat % 16 = k at hk hnat ⊢
  generalize q.ring.toNat % 16 = r at hr hnat ⊢
  refine ⟨?_, ?_, ?_, ?_, ?_⟩
  · rw [bit64, BitVec.getLsbD, Nat.testBit_zero, hnat]
    simp only [decide_eq_true_eq]
    omega
  all_goals rw [bits, hnat, Nat.shiftRight_eq_div_pow]; omega

theorem recordDiv_div (s : State) (t : Sec) (q : LogEntry) {off : Nat} (h : bit64 (getTrace s t).div 0 = false) :
    getTrace (recordDiv s t q off) t = { getTrace s t with div := divWord q off } := by
  unfold recordDiv
  simp only [h, Bool.false_eq_true, if_false]
  generalize hv : modTrace s t _ = v
  have hkept : (raiseEvent v evReplayDivergence t.val 1 (.word (divWord q off))).trace = v.trace :=
    (raiseEvent_only (closedOn_frame [.ward, .out] v) _ _ _ _ _ (Frame.refl _ v)).2 .trace (by decide)
  show (raiseEvent v evReplayDivergence t.val 1 (.word (divWord q off))).trace.get t = _
  rw [hkept, ← hv]
  exact (getTrace_modTrace _ _ _ _).trans (if_pos rfl)

theorem recordDiv_cmpQ (s : State) (t : Sec) (q : LogEntry) (off : Nat) :
    (getTrace (recordDiv s t q off) t).cmpQ = (getTrace s t).cmpQ := by
  by_cases h : bit64 (getTrace s t).div 0 = true
  · unfold recordDiv
    simp only [h, if_true]
    rw [getTrace_modTrace, if_pos rfl]
  · rw [recordDiv_div _ _ _ (Bool.eq_false_iff.2 h)]

section
variable {s : State} {t : Sec} (hon : cmpOn s t = true) (hlag : bit64 (getTrace s t).rccfg 61 = false)
include hon hlag

theorem exec_replayComparison : exec (.replayComparison t) s = .next (
    if 65536 ≤ (getTrace s t).cmpQ.length then
      modTrace (begin s) t (fun r => { r with rccfg := r.rccfg ||| 0x2000000000000000, cmpQ := [] })
    else (getTrace s t).cmpQ.foldl (fun s q => compareOne s t q) (modTrace (begin s) t (fun r => { r with cmpQ := [] }))) := by
  have hon' : cmpOn (begin s) t = true := hon
  have hlag' : bit64 (getTrace (begin s) t).rccfg 61 = false := hlag
  show execReplayComparison t s = _
  unfold execReplayComparison
  dsimp only
  rw [hon', hlag']
  rfl

theorem comparison_stops (h : 65536 ≤ (getTrace s t).cmpQ.length) : Effects (.replayComparison t) s [.trace, .out] (fun u =>
    bit64 (getTrace u t).rccfg 61 = true ∧ (getTrace u t).cmpQ = [] ∧ (getTrace u t).div = (getTrace s t).div) := by
  have hexec := exec_replayComparison hon hlag
  rw [if_pos h] at hexec
  refine ⟨_, hexec, ?_, modTrace_only ((closedOn_frame _ s).sub (by decide)) _ _ _ (begin_frame (by decide) s)⟩
  dsimp only
  rw [getTrace_modTrace, if_pos rfl]
  refine ⟨?_, rfl, rfl⟩
  rw [bit64, BitVec.getLsbD_or, show (0x2000000000000000 : W64).getLsbD 61 = true by decide, Bool.or_true]

theorem comparison_effects {q : LogEntry} (h : (getTrace s t).cmpQ = [q]) :
    Effects (.replayComparison t) s [.ward, .trace, .out] (fun u => (getTrace u t).cmpQ = [] ∧
      match (findRef s q (getTrace s t).rclen.toNat (bits (getTrace s t).rccfg 6 42 * 64) ⟨[], []⟩).bind (firstDiff s t q) with
      | none => (getTrace u t).div = (getTrace s t).div
      | some off => off < 1024 → bit64 (getTrace s t).div 0 = false → bit64 (getTrace u t).div 0 = true ∧
          bits (getTrace u t).div 28 4 = q.kind.toNat % 16 ∧ bits (getTrace u t).div 24 4 = q.ring.toNat % 16 ∧
          bits (getTrace u t).div 32 32 = q.ordinal % 2 ^ 32 ∧ bits (getTrace u t).div 14 10 = off) := by
  have hexec := exec_replayComparison hon hlag
  rw [if_neg (by rw [h]; simp), h] at hexec
  refine effects_of_exec hexec rfl ?_
  rw [List.foldl_cons, List.foldl_nil]
  generalize hv : modTrace (begin s) t (fun r => { r with cmpQ := [] }) = v
  have hget : getTrace v t = { getTrace s t with cmpQ := [] } := by rw [← hv, getTrace_modTrace, if_pos rfl]; rfl
  have htiers : v.tiers = s.tiers := by rw [← hv]; rfl
  have hdelta : (getTrace v t).rcdelta = (getTrace s t).rcdelta := by rw [hget]
  unfold compareOne
  rw [hget]
  dsimp only
  rw [findRef_of_tiers htiers]
  cases findRef s q (getTrace s t).rclen.toNat (bits (getTrace s t).rccfg 6 42 * 64) ⟨[], []⟩ with
  | none => exact ⟨by rw [hget], by rw [hget]; rfl⟩
  | some e =>
    dsimp only
    rw [firstDiff_of_tiers htiers hdelta, Option.bind_some]
    cases firstDiff s t q e with
    | none => exact ⟨by rw [hget], by rw [hget]⟩
    | some off =>
      refine ⟨by rw [recordDiv_cmpQ, hget], fun hoff hdiv => ?_⟩
      rw [recordDiv_div _ _ _ (by rw [hget]; exact hdiv)]
      exact divWord_fields q hoff

end

/-! ### The trace buffer -/

theorem traceBytes_length (x : TraceRec) : (traceBytes x).length = 32 := by
  unfold traceBytes byteList
  simp only [List.length_append, leBytes_length, List.length_cons, List.length_nil]

theorem traceBytes_lt (x : TraceRec) (i : Nat) : (traceBytes x).getD i 0 < 256 := by
  have hall : ∀ b ∈ traceBytes x, b < 256 := by
    intro b hb
    unfold traceBytes byteList at hb
    simp only [List.mem_append, List.mem_cons, List.not_mem_nil, or_false] at hb
    obtain (((((hb | hb) | rfl | rfl) | hb) | hb) | hb) | hb := hb
    case inl.inl.inl.inl.inr.inl => exact x.event.isLt
    case inl.inl.inl.inl.inr.inr => exact x.srcKind.isLt
    all_goals exact leBytes_lt _ _ b hb
  rw [List.getD_eq_getElem?_getD]
  cases h : (traceBytes x)[i]? with
  | none => decide
  | some b => exact hall b (List.mem_of_getElem? h)

theorem traceWrite_effects {s : State} {t : Sec} {x : TraceRec} (hslot : inSlot0 s = true) (hq : (getTrace s t).traceQ = [x])
    (hgap : (getTrace s t).gap = 0) (hplain : Plain s) :
    let r := getTrace s t
    let at_ := (sizedRegion r.tcfg).1 + r.written % (sizedRegion r.tcfg).2
    Effects (.traceRecordWrite t) s [.tiers, .trace, .out] (fun u =>
      getTrace u t = { r with written := r.written + 32, traceQ := [] } ∧
      (∀ i, i < 32 → rd8 u.tiers.mem (at_ + i) = (traceBytes x).getD i 0) ∧
      MemFrame (fun a => at_ ≤ a ∧ a < at_ + 32) s u) := by
  intro r at_
  generalize hv : modTrace (begin s) t (fun r => { r with traceQ := [] }) = v
  have hget : getTrace v t = { r with traceQ := [] } := by rw [← hv, getTrace_modTrace, if_pos rfl]; rfl
  have hvplain : Plain v := by rw [← hv]; exact hplain
  have hvmem : v.tiers.mem = s.tiers.mem := by rw [← hv]; rfl
  have hput : getTrace (putTrace v t x) t = { r with written := r.written + 32, traceQ := [] } := by
    unfold putTrace
    rw [getTrace_modTrace, if_pos rfl, wrDev_trace, hget]
  have hexec : exec (.traceRecordWrite t) s = .next (putTrace v t x) := by
    have hslot' : inSlot0 (begin s) = true := hslot
    have hq' : (getTrace (begin s) t).traceQ = [x] := hq
    have hflush : flushTrace (begin s) t = putTrace v t x := by
      unfold flushTrace
      rw [hq', ← hv]
      rfl
    show execTraceRecordWrite t s = _
    unfold execTraceRecordWrite
    dsimp only
    rw [if_pos hslot', writeTrace, hflush]
    dsimp only
    rw [hput]
    dsimp only
    rw [if_pos (by rw [show r.gap = 0 from hgap]; rfl)]
  have hmem (a : Nat) : rd8 (putTrace v t x).tiers.mem a =
      if at_ ≤ a ∧ a < at_ + 32 then (traceBytes x).getD (a - at_) 0 % 256 else rd8 s.tiers.mem a := by
    have h := rd8_wrDev hvplain at_ (traceBytes x) a
    rw [traceBytes_length, hvmem] at h
    unfold putTrace
    rw [hget]
    exact h
  refine effects_of_exec hexec rfl ⟨hput, fun i hi => ?_, fun a ha => ?_⟩
  · rw [hmem, if_pos (by omega), Nat.add_sub_cancel_left, Nat.mod_eq_of_lt (traceBytes_lt x i)]
  · rw [hmem, if_neg ha]

theorem Plain.of_nil {s : State} (hpages : s.tiers.pages = []) (hpoison : s.tiers.poison = []) : Plain s :=
  ⟨hpages, fun g => by rw [hpoison]; rfl⟩

/-- Settles O60: clusters and tiers, and what slot 0 writes where every byte lies in its place. -/
theorem dozeWakeScrubAndLogs : Obligations.DozeWakeScrubAndLogs := by
  refine ⟨fun s c t d howner hask hawake hd => ⟨fun hwait => ?_, clusterDoze_effects howner hask hawake hd⟩,
    fun s c hdoze hdue => ⟨clusterWake_waits hdoze hdue, clusterWake_free hdoze hdue⟩,
    fun s c t howner hdoze hdue h => clusterWake_effects hdoze hdue h howner, fun s bridge h => tierWake_effects h,
    scrubComplete_effects, fun s t hslot => ⟨?_, ?_⟩,
    fun s t e hslot hq hpages hpoison => ⟨fun hfit hbudget => logWrite_effects hslot hq (.of_nil hpages hpoison) hfit hbudget,
      logWrite_waits hslot hq⟩,
    fun s t hon hlag => ⟨comparison_stops hon hlag, fun q => comparison_effects hon hlag⟩,
    fun s t x hslot hq hgap hpages hpoison _ => traceWrite_effects hslot hq hgap (.of_nil hpages hpoison)⟩
  · rw [exec_clusterDoze howner hask hawake, if_neg]
    obtain ⟨q, hq, hout⟩ := hwait
    intro hall
    rw [List.all_eq_true.1 hall q hq] at hout
    cases hout
  · show (.next (if inSlot0 s = true then _ else begin s) : Res) = _
    rw [if_neg (by rw [hslot]; exact Bool.false_ne_true)]
  · show (.next (if inSlot0 s = true then _ else begin s) : Res) = _
    rw [if_neg (by rw [hslot]; exact Bool.false_ne_true)]

end Sys2Proof.Machine
end

section
/-!
PROOFS. Commands that end before their time: what an operation on other commands leaves of a command (R384, R408), and DRAIN.
-/
namespace Sys2Proof.Machine

/-! ### What other commands' ends leave of a command -/

/-- The same command, where a drain may wait for fewer others; one that has taken effect stays so. -/
def Tame (x y : Cmd) : Prop :=
  y = x ∨ (∃ e n w e' n' w', x.job = .drain e n w ∧ (e = true → e' = true) ∧ y = { x with job := .drain e' n' w' }) ∨
    ∃ e w f e' w' f', x.job = .netDrain e w f ∧ (e = true → e' = true) ∧ y = { x with job := .netDrain e' w' f' }

theorem Tame.refl (x : Cmd) : Tame x x := .inl rfl

theorem Tame.trans {x y z : Cmd} (h : Tame x y) (k : Tame y z) : Tame x z := by
  rcases h with rfl | ⟨e, n, w, e', n', w', hx, he, rfl⟩ | ⟨e, w, f, e', w', f', hx, he, rfl⟩
  · exact k
  · rcases k with rfl | ⟨_, _, _, e'', n'', w'', hj, hk, rfl⟩ | ⟨_, _, _, _, _, _, hy, -, -⟩
    · exact .inr (.inl ⟨e, n, w, e', n', w', hx, he, rfl⟩)
    · obtain ⟨rfl, -, -⟩ := by simpa using hj
      exact .inr (.inl ⟨e, n, w, e'', n'', w'', hx, hk ∘ he, rfl⟩)
    · simp at hy
  · rcases k with rfl | ⟨_, _, _, _, _, _, hy, -, -⟩ | ⟨_, _, _, e'', w'', f'', hj, hk, rfl⟩
    · exact .inr (.inr ⟨e, w, f, e', w', f', hx, he, rfl⟩)
    · simp at hy
    · obtain ⟨rfl, -, -⟩ := by simpa using hj
      exact .inr (.inr ⟨e, w, f, e'', w'', f'', hx, hk ∘ he, rfl⟩)

theorem Tame.ord {x y : Cmd} (h : Tame x y) : y.ord = x.ord := by
  rcases h with rfl | ⟨_, _, _, _, _, _, _, _, rfl⟩ | ⟨_, _, _, _, _, _, _, _, rfl⟩ <;> rfl

/-- A command that is no drain stays as it is. -/
theorem Tame.eq_of_not_drain {x y : Cmd} (h : Tame x y) (hx : isDrain x = false) : y = x := by
  rcases h with rfl | ⟨_, _, _, _, _, _, hj, -, rfl⟩ | ⟨_, _, _, _, _, _, hj, -, rfl⟩
  · rfl
  · simp [isDrain, hj] at hx
  · simp [isDrain, hj] at hx

/-- What a command of section t with read order k becomes while others end: it stays, up to what drains wait for, and none
with its order appears. -/
structure Spares (t : Sec) (k : Nat) (s u : State) : Prop where
  old : ∀ y ∈ getCmds u t, y.ord = k → ∃ x ∈ getCmds s t, Tame x y
  new : ∀ x ∈ getCmds s t, x.ord = k → ∃ y ∈ getCmds u t, Tame x y

/-- No command of section t has read order k. -/
def Gone (t : Sec) (k : Nat) (u : State) : Prop := ∀ y ∈ getCmds u t, y.ord ≠ k

/-- Command c is in flight in section t, up to what a drain waits for, and is the only one with its order. -/
structure Sole (t : Sec) (c : Cmd) (u : State) : Prop where
  mem : ∃ y ∈ getCmds u t, Tame c y
  only : ∀ y ∈ getCmds u t, y.ord = c.ord → Tame c y

section
variable {t v : Sec} {k : Nat} {s u w : State}

theorem Spares.trans (h : Spares t k s u) (g : Spares t k u w) : Spares t k s w where
  old y hy hk := by
    obtain ⟨x, hx, htame⟩ := g.old y hy hk
    obtain ⟨z, hz, htame'⟩ := h.old x hx (htame.ord.symm.trans hk)
    exact ⟨z, hz, htame'.trans htame⟩
  new x hx hk := by
    obtain ⟨y, hy, htame⟩ := h.new x hx hk
    obtain ⟨z, hz, htame'⟩ := g.new y hy (htame.ord.trans hk)
    exact ⟨z, hz, htame.trans htame'⟩

theorem spares_of_getCmds (hcmds : getCmds u t = getCmds s t) : Spares t k s u :=
  ⟨fun y hy _ => ⟨y, hcmds ▸ hy, .refl y⟩, fun x hx _ => ⟨x, hcmds ▸ hx, .refl x⟩⟩

theorem Spares.refl (t : Sec) (k : Nat) (s : State) : Spares t k s s := spares_of_getCmds rfl

theorem spares_of_cmds (hcmds : u.cmds = s.cmds) : Spares t k s u := spares_of_getCmds (by rw [getCmds, hcmds]; rfl)

/-- Commands that change one by one, up to what drains wait for. -/
theorem spares_of_map {f : Cmd → Cmd} (hf : ∀ x ∈ getCmds s t, x.ord ≠ k ∧ (f x).ord = x.ord ∨ Tame x (f x))
    (hcmds : getCmds u t = (getCmds s t).map f) : Spares t k s u where
  old y hy hk := by
    obtain ⟨x, hx, rfl⟩ := List.mem_map.1 (hcmds ▸ hy)
    rcases hf x hx with ⟨hne, hord⟩ | h
    · exact absurd (hord.symm.trans hk) hne
    · exact ⟨x, hx, h⟩
  new x hx hk := by
    refine ⟨f x, hcmds ▸ List.mem_map_of_mem hx, ?_⟩
    rcases hf x hx with ⟨hne, _⟩ | h
    · exact absurd hk hne
    · exact h

theorem Spares.gone (h : Spares t k s u) (hs : Gone t k s) : Gone t k u := by
  intro y hy hk
  obtain ⟨x, hx, htame⟩ := h.old y hy hk
  exact hs x hx (htame.ord.symm.trans hk)

theorem Spares.sole {c : Cmd} (h : Spares t c.ord s u) (hs : Sole t c s) : Sole t c u where
  mem := by
    obtain ⟨y, hy, htame⟩ := hs.mem
    obtain ⟨z, hz, htame'⟩ := h.new y hy htame.ord
    exact ⟨z, hz, htame.trans htame'⟩
  only y hy hk := by
    obtain ⟨x, hx, htame⟩ := h.old y hy hk
    exact (hs.only x hx (htame.ord.symm.trans hk)).trans htame

theorem sole_of_unique {c : Cmd} (hc : c ∈ getCmds s t) (h : ∀ x ∈ getCmds s t, x.ord = c.ord → x = c) : Sole t c s :=
  ⟨⟨c, hc, .refl c⟩, fun y hy hk => h y hy hk ▸ .refl _⟩

end

/-! ### A completion -/

/-- R408: a drain waits no longer for command `ord`. -/
def waitLess (ord : Nat) (d : Cmd) : Cmd :=
  match d.job with
  | .drain e n w => { d with job := .drain e n (w.filter (· != ord)) }
  | .netDrain e w f => { d with job := .netDrain e (w.filter (· != ord)) f }
  | _ => d

theorem tame_waitLess (ord : Nat) (d : Cmd) : Tame d (waitLess ord d) := by
  unfold waitLess
  split
  next e n w h => exact .inr (.inl ⟨e, n, w, _, _, _, h, id, rfl⟩)
  next e w f h => exact .inr (.inr ⟨e, w, f, _, _, _, h, id, rfl⟩)
  · exact .refl d

theorem leaveNoRecord_cmds (s : State) (t : Sec) (c : Cmd) :
    (leaveNoRecord s t c).cmds = s.cmds.set t ((getCmds s t).map (waitLess c.ord)) := rfl

/-- A command and its collective are gone. -/
def dropCmd (s : State) (t : Sec) (c : Cmd) : State :=
  { setCmds s t ((getCmds s t).filter (fun x => x.ord != c.ord)) with
    colls := s.colls.set t ((s.colls.get t).filter (fun x => x.ord != c.ord)) }

/-- R396, R411: the record of a completion, or none where the host link is lost. -/
def putRecord (s : State) (t : Sec) (c : Cmd) (status detail : BitVec 8) (result : BitVec 128) : State :=
  if c.stop == some .lost then leaveNoRecord s t c
  else { s with recs := s.recs.set t (insertRec (recordOf s c status detail result) (s.recs.get t)) }

/-- What a completion changes besides commands and records. -/
def afterRecord (s : State) (t : Sec) (c : Cmd) (status : BitVec 8) : State :=
  let s := modRing s c.pair (fun r => if r.held == some c.ord then { r with held := none } else r)
  let s := countStep s t c status
  if c.stop == some .lost then s
  else traceRec s t 3 0 0 (w64 (c.id.toNat + c.op.toNat * 2 ^ 16 + status.toNat * 2 ^ 24)) (w64 (frameNow s))

section
variable (s : State) (t : Sec) (c : Cmd) (st dt : BitVec 8) (res : BitVec 128)

theorem afterRecord_frame : Frame [.rings, .steps, .trace] s (afterRecord s t c st) := by
  have hring := modRing_only (P := Frame [.rings, .steps, .trace] s) ((closedOn_frame _ s).sub (by decide)) s c.pair
    (fun r => if r.held == some c.ord then { r with held := none } else r) (Frame.refl _ s)
  have hstep := countStep_only ((closedOn_frame _ s).sub (by decide)) _ t c st hring
  exact p_ite _ _ _ hstep (traceRec_only ((closedOn_frame _ s).sub (by decide)) _ _ _ _ _ _ _ hstep)

theorem completeOne_cases : completeOne s t c st dt res = dropCmd s t c ∨
    completeOne s t c st dt res = afterRecord (putRecord (logEnd (dropCmd s t c) t c) t c st dt res) t c st := by
  unfold completeOne
  cases c.job
  case netDrain => exact .inl rfl
  all_goals exact .inr rfl

theorem putRecord_cmds : ∃ f : Cmd → Cmd, (∀ x, Tame x (f x)) ∧
    (putRecord s t c st dt res).cmds = s.cmds.set t ((getCmds s t).map f) := by
  have hset : s.cmds.set t (s.cmds.get t) = s.cmds := by unfold Four.set Four.get; split <;> rfl
  unfold putRecord
  split
  next => exact ⟨waitLess c.ord, tame_waitLess _, leaveNoRecord_cmds s t c⟩
  next => exact ⟨id, .refl, by rw [List.map_id]; exact hset.symm⟩

/-- The other commands of the section stay; where no record is left, no drain waits for one. -/
theorem completeOne_cmds : ∃ f : Cmd → Cmd, (∀ x, Tame x (f x)) ∧
    (completeOne s t c st dt res).cmds = s.cmds.set t (((getCmds s t).filter (fun x => x.ord != c.ord)).map f) := by
  have hset (l m : List Cmd) : (s.cmds.set t l).set t m = s.cmds.set t m := by unfold Four.set; split <;> rfl
  have hdrop : (dropCmd s t c).cmds = s.cmds.set t ((getCmds s t).filter (fun x => x.ord != c.ord)) := rfl
  obtain h | h := completeOne_cases s t c st dt res
  · exact ⟨id, .refl, by rw [h, List.map_id]; rfl⟩
  · obtain ⟨f, hf, hcmds⟩ := putRecord_cmds (logEnd (dropCmd s t c) t c) t c st dt res
    have hlog : (logEnd (dropCmd s t c) t c).cmds = (dropCmd s t c).cmds := (logEnd_frame _ t c).2 .cmds (by decide)
    refine ⟨f, hf, ?_⟩
    rw [h, show (afterRecord _ t c st).cmds = _ from (afterRecord_frame _ t c st).2 .cmds (by decide), hcmds, getCmds, hlog, hdrop,
      Four.get_set, if_pos rfl, hset]

theorem mem_insertRec_of_mem {r x : Rec} {l : List Rec} (h : x ∈ l) : x ∈ insertRec r l := by
  induction l with
  | nil => cases h
  | cons y l ih =>
    unfold insertRec
    split
    · exact List.mem_cons_of_mem _ h
    · rcases List.mem_cons.1 h with rfl | h
      · exact List.mem_cons_self
      · exact List.mem_cons_of_mem _ (ih h)

theorem mem_insertRec_self (r : Rec) (l : List Rec) : r ∈ insertRec r l := by
  induction l with
  | nil => exact List.mem_cons_self
  | cons y l ih =>
    unfold insertRec
    split
    · exact List.mem_cons_self
    · exact List.mem_cons_of_mem _ ih

theorem putRecord_recs (v : Sec) : ∀ r ∈ s.recs.get v, r ∈ (putRecord s t c st dt res).recs.get v := by
  intro r hr
  unfold putRecord
  split
  · exact hr
  · rw [Four.get_set]
    split
    next h => subst h; exact mem_insertRec_of_mem hr
    next => exact hr

theorem recs_subset_completeOne (v : Sec) : ∀ r ∈ s.recs.get v, r ∈ (completeOne s t c st dt res).recs.get v := by
  intro r hr
  obtain h | h := completeOne_cases s t c st dt res
  · rw [h]; exact hr
  · have hlog : (logEnd (dropCmd s t c) t c).recs = (dropCmd s t c).recs := (logEnd_frame _ t c).2 .recs (by decide)
    rw [h, show (afterRecord _ t c st).recs = _ from (afterRecord_frame _ t c st).2 .recs (by decide)]
    exact putRecord_recs _ _ _ _ _ _ _ r (by rw [hlog]; exact hr)

end

/-- A completion spares every other command of its section, and those of other sections. -/
theorem spares_completeOne {s : State} {t v : Sec} {c : Cmd} {k : Nat} (h : v ≠ t ∨ c.ord ≠ k) (st dt : BitVec 8)
    (res : BitVec 128) : Spares t k s (completeOne s v c st dt res) := by
  obtain ⟨f, hf, hcmds⟩ := completeOne_cmds s v c st dt res
  have hget : getCmds (completeOne s v c st dt res) t =
      if t = v then ((getCmds s v).filter (fun x => x.ord != c.ord)).map f else getCmds s t := by
    rw [getCmds, hcmds, Four.get_set]; rfl
  by_cases htv : t = v
  · subst htv
    have hne : c.ord ≠ k := h.resolve_left fun h => h rfl
    rw [if_pos rfl] at hget
    refine ⟨fun y hy hk => ?_, fun x hx hk => ?_⟩
    · rw [hget] at hy
      obtain ⟨x, hx, rfl⟩ := List.mem_map.1 hy
      exact ⟨x, (List.mem_filter.1 hx).1, hf x⟩
    · refine ⟨f x, ?_, hf x⟩
      rw [hget]
      exact List.mem_map_of_mem (List.mem_filter.2 ⟨hx, by simpa [hk] using hne.symm⟩)
  · rw [if_neg htv] at hget
    exact spares_of_getCmds hget

/-- A completion leaves no command with its order. -/
theorem completeOne_gone (s : State) (t : Sec) (c : Cmd) (st dt : BitVec 8) (res : BitVec 128) :
    Gone t c.ord (completeOne s t c st dt res) := by
  obtain ⟨f, hf, hcmds⟩ := completeOne_cmds s t c st dt res
  intro y hy
  rw [getCmds, hcmds, Four.get_set, if_pos rfl] at hy
  obtain ⟨x, hx, rfl⟩ := List.mem_map.1 hy
  rw [(hf x).ord]
  simpa using (List.mem_filter.1 hx).2

end Sys2Proof.Machine
end

section
/-!
PROOFS. Pages that switch and patrol scrub (R193, R194, R205, R206).
-/
namespace Sys2Proof.Machine

/-! ### Bytes encoded anew -/

/-- Of the tiers, at most the bytes with their check state, and the counters of corrected errors, differ. -/
def Encoded (s u : State) : Prop := ∃ mem poison upset ce, u.tiers = { s.tiers with
  mem := mem, poison := poison, upset := upset, ce := ce }

theorem Encoded.refl (s : State) : Encoded s s := ⟨_, _, _, _, rfl⟩

theorem Encoded.trans {s u v : State} (h : Encoded s u) (k : Encoded u v) : Encoded s v := by
  obtain ⟨_, _, _, _, hu⟩ := h
  obtain ⟨_, _, _, _, hv⟩ := k
  exact ⟨_, _, _, _, by rw [hv, hu]⟩

theorem Counted.encoded {s u : State} (h : Counted s u) : Encoded s u := by
  obtain ⟨ce, h⟩ := h
  exact ⟨_, _, _, _, h⟩

theorem Encoded.pages {s u : State} (h : Encoded s u) : u.tiers.pages = s.tiers.pages := by obtain ⟨_, _, _, _, h⟩ := h; rw [h]
theorem Encoded.held {s u : State} (h : Encoded s u) : u.tiers.held = s.tiers.held := by obtain ⟨_, _, _, _, h⟩ := h; rw [h]

theorem foldl_encoded {α : Type} {f : State → α → State} (hf : ∀ u x, Encoded u (f u x)) (l : List α) (s : State) :
    Encoded s (l.foldl f s) := p_foldl (P := Encoded s) f l (.refl s) fun u x hu => hu.trans (hf u x)

theorem setPoison_encoded (s : State) (g : Nat) (b : Bool) : Encoded s (setPoison s g b) := ⟨_, _, _, _, rfl⟩

theorem wrGranule_encoded (s : State) (p : Nat) (bs : List Nat) : Encoded s (wrGranule s p bs) := by
  unfold wrGranule
  split
  · exact .refl s
  · exact ⟨_, _, _, _, rfl⟩

theorem poisonGranule_encoded (s : State) (p : Nat) : Encoded s (poisonGranule s p) := by
  unfold poisonGranule
  dsimp only
  split
  · exact setPoison_encoded _ _ _
  · exact ⟨_, _, _, _, rfl⟩

theorem wrPlaces_encoded (s : State) (ws : List (Nat × Nat)) (poison : Bool) : Encoded s (wrPlaces s ws poison) := by
  refine foldl_encoded (fun u g => ?_) _ s
  dsimp only
  split
  · exact poisonGranule_encoded _ _
  · split
    · exact foldl_encoded (fun _ _ => wrGranule_encoded _ _ _) _ _
    · refine Encoded.trans ?_ (foldl_encoded (fun _ _ => wrGranule_encoded _ _ _) _ _)
      split
      · exact setPoison_encoded _ _ _
      · exact .refl u

theorem hostApply_encoded (s : State) (ws : List (Nat × Nat)) (poison : Bool) : Encoded s (hostApply s ws poison) :=
  ((foldl_encoded (fun u g => (notePartWrite_counted u _ _).encoded) _ s).trans (wrPlaces_encoded _ _ _)).trans
    (wrPlaces_encoded _ _ _)

/-! ### A page in its new place -/

/-- Page g stands in frame x, no write waits for it, and no MIGRATE is in flight. -/
structure Switched (g : Nat) (x : Option Nat) (u : State) : Prop where
  frame : (getPage u g).frame = x
  held : ∀ h ∈ u.tiers.held, h.page ≠ g
  still : ∀ t, ∀ c ∈ getCmds u t, isMigrate c = false

theorem Tame.isMigrate {x y : Cmd} (h : Tame x y) : isMigrate y = isMigrate x := by
  rcases h with rfl | ⟨_, _, _, _, _, _, hx, -, rfl⟩ | ⟨_, _, _, _, _, _, hx, -, rfl⟩
  · rfl
  · rw [Machine.isMigrate, Machine.isMigrate, hx]
  · rw [Machine.isMigrate, Machine.isMigrate, hx]

section
variable {g : Nat} {x : Option Nat} {u v : State}

theorem Switched.of_encoded (h : Switched g x u) (he : Encoded u v) (hcmds : v.cmds = u.cmds) : Switched g x v where
  frame := by rw [getPage, he.pages]; exact h.frame
  held := by rw [he.held]; exact h.held
  still := by unfold getCmds; rw [hcmds]; exact h.still

theorem Switched.of_cmds (h : Switched g x u) {t : Sec} {l : List Cmd} (hcmds : v.cmds = u.cmds.set t l)
    (htiers : v.tiers = u.tiers) (hl : ∀ c ∈ l, isMigrate c = false) : Switched g x v where
  frame := by rw [getPage, htiers]; exact h.frame
  held := by rw [htiers]; exact h.held
  still w c hc := by
    rw [getCmds, hcmds, Four.get_set] at hc
    split at hc
    · exact hl c hc
    · exact h.still w c hc

theorem Switched.completeOne (h : Switched g x u) (t : Sec) (c : Cmd) (st dt : BitVec 8) (res : BitVec 128) :
    Switched g x (completeOne u t c st dt res) := by
  obtain ⟨f, hf, hcmds⟩ := completeOne_cmds u t c st dt res
  refine h.of_cmds hcmds ((completeOne_only (closedOn_frame [.rings, .cmds, .recs, .steps, .colls, .trace] u) _ _ _ _ _ _
    (Frame.refl _ u)).2 .tiers (by decide)) fun d hd => ?_
  obtain ⟨y, hy, rfl⟩ := List.mem_map.1 hd
  rw [(hf y).isMigrate]
  exact h.still t y (List.mem_filter.1 hy).1

theorem Switched.modCmd (h : Switched g x u) (t : Sec) (o : Nat) {f : Cmd → Cmd} (hf : ∀ c, isMigrate c = false →
    isMigrate (f c) = false) : Switched g x (modCmd u t o f) := by
  refine h.of_cmds (l := (getCmds u t).map (fun c => if c.ord == o then f c else c)) rfl rfl fun d hd => ?_
  obtain ⟨y, hy, rfl⟩ := List.mem_map.1 hd
  split
  · exact hf y (h.still t y hy)
  · exact h.still t y hy

theorem Switched.releaseFrom (h : Switched g x u) (fuel : Nat) (t : Sec) (ord next : Nat) :
    Switched g x (releaseFrom fuel u t ord next) := by
  induction fuel generalizing u ord next with
  | zero => exact h
  | succ n ih =>
    unfold Machine.releaseFrom
    split
    · exact h
    · split
      · dsimp only
        split
        · exact h.modCmd _ _ fun _ _ => rfl
        · exact ih (h.modCmd _ _ fun _ _ => rfl) _ _
      · exact h

theorem Switched.complete (h : Switched g x u) (t : Sec) (c : Cmd) (st dt : BitVec 8) (res : BitVec 128) :
    Switched g x (complete u t c st dt res) := by
  unfold Machine.complete
  refine p_ite _ _ _ (p_foldl _ _ (h.completeOne t c st dt res) fun _ _ hu => hu.completeOne _ _ _ _ _) ?_
  split
  · exact (h.completeOne t c st dt res).releaseFrom _ _ _ _
  · exact h.completeOne t c st dt res

theorem hostApply_cmds (s : State) (ws : List (Nat × Nat)) (poison : Bool) : (hostApply s ws poison).cmds = s.cmds :=
  (hostApply_only (closedOn_frame [.tiers, .ward, .out] s) _ _ _ (Frame.refl _ s)).2 .cmds (by decide)

theorem Switched.finishInline (h : Switched g x u) (t : Sec) : Switched g x (finishInline u t) := by
  refine p_foldl _ _ h fun w c hw => ?_
  split
  · exact p_ite _ _ _ ((hw.of_encoded (hostApply_encoded _ _ _) (hostApply_cmds _ _ _)).complete _ _ _ _ _) hw
  · exact hw

theorem modPage_frame_same (s : State) (k g : Nat) {f : Page → Page} (hf : ∀ p, (f p).frame = p.frame) :
    (getPage (modPage s k f) g).frame = (getPage s g).frame := by
  unfold getPage modPage
  rw [sget_sset]
  split
  next h => subst h; exact hf _
  next => rfl

theorem Switched.modPages (h : Switched g x u) (l : List Nat) {f : Page → Page} (hf : ∀ p, (f p).frame = p.frame) :
    Switched g x (modPages u l f) :=
  p_foldl _ _ h fun w k hw => ⟨(modPage_frame_same w k g hf).trans hw.frame, hw.held, hw.still⟩

theorem isMigrate_of_job {c : Cmd} {pages : List Nat} {up : Bool} {n : Nat} (h : c.job = .migrate pages up n) :
    isMigrate c = true := by rw [isMigrate, h]

theorem Switched.pumpMoves (h : Switched g x u) (t : Sec) : Switched g x (pumpMoves u t) := by
  refine List.foldlRecOn (motive := Switched g x) _ _ h fun w hw c hc => ?_
  have hstill := h.still t c hc
  split
  next hjob => rw [isMigrate_of_job hjob] at hstill; cases hstill
  next pages _ =>
    have hpin : Switched g x (Machine.modPages w pages (fun q => { q with pinned := true })) := hw.modPages _ fun _ => rfl
    exact p_ite _ _ _ hw (hpin.complete _ _ _ _ _)
  next => exact hw

end

/-! ### The switch -/

theorem releaseHeld_held (s : State) (g : Nat) : (∀ h ∈ (releaseHeld s g).tiers.held, h.page ≠ g) ∧
    (releaseHeld s g).tiers.pages = s.tiers.pages ∧ (releaseHeld s g).cmds = s.cmds := by
  unfold releaseHeld
  dsimp only
  generalize hv : ({ s with tiers := { s.tiers with held := s.tiers.held.filter (fun h => h.page != g) } } : State) = v
  generalize s.tiers.held.filter (fun h => h.page == g) = l
  have henc : Encoded v (l.foldl (fun s h => hostApply s h.data h.poison) v) :=
    foldl_encoded (fun _ _ => hostApply_encoded _ _ _) l v
  have hframe : Frame [.tiers, .ward, .out] v (l.foldl (fun s h => hostApply s h.data h.poison) v) :=
    p_foldl _ _ (Frame.refl _ v) fun _ _ hu => hostApply_only (closedOn_frame _ v) _ _ _ hu
  refine ⟨fun h hh => ?_, ?_, ?_⟩
  · rw [henc.held, ← hv] at hh
    simpa using (List.mem_filter.1 hh).2
  · rw [henc.pages, ← hv]
  · rw [show (l.foldl (fun s h => hostApply s h.data h.poison) v).cmds = v.cmds from hframe.2 .cmds (by decide), ← hv]

theorem getPage_modPage_same (s : State) (g : Nat) (f : Page → Page) : getPage (modPage s g f) g = f (getPage s g) := by
  unfold getPage modPage
  rw [sget_sset, if_pos rfl]
  rfl

theorem applyMove_frame (s : State) (m : PageMove) : (getPage (applyMove s m) m.page).frame = m.target := by
  unfold applyMove
  dsimp only
  cases m.target with
  | some f => dsimp only; rw [getPage_modPage_same]
  | none =>
    dsimp only
    split
    next h => exact h
    next => rw [getPage_modPage_same]

theorem applyMove_cmds (s : State) (m : PageMove) : (applyMove s m).cmds = s.cmds :=
  (applyMove_only (closedOn_frame [.sect, .tiers, .ward, .out] s) _ _ (Frame.refl _ s)).2 .cmds (by decide)

theorem countMove_migrate (m : PageMove) (c : Cmd) (h : isMigrate c = false) : isMigrate (match c.job with
    | .migrate pages up n => if pages.contains m.page then { c with job := .migrate pages up (n + 1) } else c
    | _ => c) = false := by
  split
  next hjob => rw [isMigrate_of_job hjob] at h; cases h
  next => exact h

theorem Switched.countMove {g : Nat} {x : Option Nat} {u : State} (h : Switched g x u) (m : PageMove) :
    Switched g x (countMove u m) := by
  unfold Machine.countMove
  split
  · exact h
  · exact h.modCmd _ _ (countMove_migrate m)

theorem pageSwitch_effects {s : State} {page : W64} {m : PageMove}
    (hm : s.tiers.moves.find? (fun m => m.page == pageNo page.toNat) = some m) (hblocked : moveBlocked s m = false)
    (hrecalled : moveRecalled s m = true) (hfree : targetFree s m = true) (hcanopy : canopyDozing s = false)
    (hbridge : bridgeDozing s = false) (hstill : ∀ t, ∀ c ∈ getCmds s t, isMigrate c = false) :
    Effects (.pageSwitch page) s [.sect, .rings, .cmds, .recs, .steps, .colls, .tiers, .hif, .ward, .trace, .out] (fun u =>
      (getPage u (pageNo page.toNat)).frame = m.target ∧ ∀ h ∈ u.tiers.held, h.page ≠ pageNo page.toNat) := by
  have hpage : m.page = pageNo page.toNat := eq_of_beq (List.find?_some (p := fun m : PageMove => m.page == pageNo page.toNat) hm)
  have hexec : exec (.pageSwitch page) s = .next (allSecs.foldl (fun s t => pumpMoves (finishInline s t) t)
      (countMove (releaseHeld (applyMove (begin s) m) (pageNo page.toNat)) m)) := by
    have hm' : (begin s).tiers.moves.find? (fun m => m.page == pageNo page.toNat) = some m := hm
    have hgoes : (moveBlocked (begin s) m || !moveRecalled (begin s) m || !targetFree (begin s) m || canopyDozing (begin s) ||
        bridgeDozing (begin s)) = false := by
      show (moveBlocked s m || !moveRecalled s m || !targetFree s m || canopyDozing s || bridgeDozing s) = false
      rw [hblocked, hrecalled, hfree, hcanopy, hbridge]
      rfl
    show execPageSwitch page s = _
    unfold execPageSwitch
    simp only [hm', hgoes, Bool.false_eq_true, if_false]
  obtain ⟨hheld, hpages, hcmds⟩ := releaseHeld_held (applyMove (begin s) m) (pageNo page.toNat)
  have hswitched : Switched (pageNo page.toNat) m.target (releaseHeld (applyMove (begin s) m) (pageNo page.toNat)) := by
    refine ⟨?_, hheld, fun t => ?_⟩
    · rw [getPage, hpages, ← hpage]
      exact applyMove_frame _ m
    · rw [getCmds, hcmds, applyMove_cmds]
      exact hstill t
  have hend : Switched (pageNo page.toNat) m.target (allSecs.foldl (fun s t => pumpMoves (finishInline s t) t)
      (countMove (releaseHeld (applyMove (begin s) m) (pageNo page.toNat)) m)) :=
    p_foldl _ _ (hswitched.countMove m) fun _ _ hu => (hu.finishInline _).pumpMoves _
  exact effects_of_exec hexec rfl ⟨hend.frame, hend.held⟩

/-! ### Patrol scrub -/

/-- R194: the scrub at a granule. -/
def scrubbedAt (s : State) (g : Nat) : State := { s with tiers := { s.tiers with scrubPos := g } }

theorem patrolScrub_effects {s : State} {g : BitVec 40} {r : ScrubFind} (hholds : holdsPoison s (g.toNat * 256) = true)
    (hblock : (blockOf (g.toNat * 256)).isSome = true) (hawake : dozing s (g.toNat * 256) = false) :
    Effects (.patrolScrub g r) s [.sect, .tiers, .ward, .out] (fun u => u.tiers.scrubPos = g.toNat ∧
      match r with
      | .clean => u.tiers.ce = s.tiers.ce ∧ u.tiers.poison = s.tiers.poison
      | .corrected n => u.tiers.poison = s.tiers.poison ∧ sget 0 u.tiers.ce (tierIndex (g.toNat * 256)) =
          BitVec.ofNat 32 (min (2 ^ 32 - 1) ((sget 0 s.tiers.ce (tierIndex (g.toNat * 256))).toNat +
            if g.toNat * 256 < canopyEnd then min n 1 else n))
      | .uncorrectable => sget false u.tiers.poison g.toNat = true ∧ u.tiers.mem = s.tiers.mem) := by
  have hgoes : (!holdsPoison (begin s) (g.toNat * 256) || (blockOf (g.toNat * 256)).isNone || dozing (begin s) (g.toNat * 256)) =
      false := by
    show (!holdsPoison s (g.toNat * 256) || (blockOf (g.toNat * 256)).isNone || dozing s (g.toNat * 256)) = false
    rw [hholds, hawake]
    cases h : blockOf (g.toNat * 256) with
    | none => rw [h] at hblock; cases hblock
    | some b => rfl
  have hexec : exec (.patrolScrub g r) s = execPatrolScrub g r s := rfl
  unfold execPatrolScrub at hexec
  simp only [hgoes, Bool.false_eq_true, if_false] at hexec
  refine effects_of_exec hexec rfl ?_
  cases r with
  | clean => exact ⟨rfl, rfl, rfl⟩
  | corrected n =>
    dsimp only
    rw [logClass_tiers]
    refine ⟨rfl, rfl, ?_⟩
    exact (sget_sset _ _ _ _ _).trans (if_pos rfl)
  | uncorrectable =>
    have hholds' : holdsPoison (scrubbedAt (begin s) g.toNat) (g.toNat * 256) = true := hholds
    have hpoison : poisonGranule (scrubbedAt (begin s) g.toNat) (g.toNat * 256) =
        setPoison (scrubbedAt (begin s) g.toNat) g.toNat true := by
      have hg : g.toNat * 256 / 256 = g.toNat := Nat.mul_div_cancel _ (by decide)
      unfold poisonGranule
      dsimp only
      rw [hg, if_pos hholds', hg]
    have hset : sget false (setPoison (scrubbedAt (begin s) g.toNat) g.toNat true).tiers.poison g.toNat = true := by
      show sget false (sset false s.tiers.poison g.toNat true) g.toNat = true
      rw [sget_sset, if_pos rfl]
    show (_ : State).tiers.scrubPos = g.toNat ∧ _
    rw [show ({ begin s with tiers := { (begin s).tiers with scrubPos := g.toNat } } : State) = scrubbedAt (begin s) g.toNat
      from rfl, hpoison]
    generalize hv : setPoison (scrubbedAt (begin s) g.toNat) g.toNat true = v at hset
    have hpos : v.tiers.scrubPos = g.toNat := by rw [← hv]; rfl
    have hmem : v.tiers.mem = s.tiers.mem := by rw [← hv]; rfl
    dsimp only
    cases errOwner v (g.toNat * 256) with
    | some owner =>
      have hcap (x y : Nat) : (capMem v owner.1 owner.2 x y).tiers = v.tiers :=
        (capMem_only (closedOn_frame [.sect, .ward, .out] v) _ _ _ _ _ (Frame.refl _ v)).2 .tiers (by decide)
      dsimp only
      rw [hcap]
      exact ⟨hpos, hset, hmem⟩
    | none =>
      dsimp only
      rw [logClass_tiers]
      exact ⟨hpos, hset, hmem⟩

/-- Settles O32: the bytes of a switch may count as they will, the page's place and what waits for it are its own; and the
scrub of a granule. -/
theorem pagesSwitchAndAreScrubbed : Obligations.PagesSwitchAndAreScrubbed :=
  ⟨fun _ _ _ hm hblocked hrecalled hfree hcanopy hbridge hstill =>
    pageSwitch_effects hm hblocked hrecalled hfree hcanopy hbridge hstill,
  fun _ _ _ hholds hblock hawake => patrolScrub_effects hholds hblock hawake⟩

end Sys2Proof.Machine
end

section
/-!
PROOFS. Commands that a drain or the loss of the host link ends (R384, R408, R414).
-/
namespace Sys2Proof.Machine

/-! ### What spares a command -/

section
variable {t v : Sec} {k : Nat} {s u : State}

/-- A loop whose every body spares a command spares it. -/
theorem spares_foldl {α : Type} {f : State → α → State} {l : List α} (h : ∀ u, Spares t k s u → ∀ a ∈ l, Spares t k u (f u a)) :
    Spares t k s (l.foldl f s) :=
  List.foldlRecOn (motive := Spares t k s) _ _ (.refl t k s) fun u hu a ha => hu.trans (h u hu a ha)

theorem spares_of_frame {L : List Piece} (h : Frame L s u) (hL : .cmds ∉ L) : Spares t k s u := spares_of_cmds (h.2 .cmds hL)

theorem spares_modCmd {o : Nat} (h : v ≠ t ∨ o ≠ k) {f : Cmd → Cmd} (hf : ∀ x, (f x).ord = x.ord) :
    Spares t k s (modCmd s v o f) := by
  by_cases hv : v = t
  · subst hv
    have ho : o ≠ k := h.resolve_left fun h => h rfl
    refine spares_of_map (f := fun c => if c.ord == o then f c else c) (fun x _ => ?_) (by simp [modCmd, getCmds, setCmds])
    by_cases hx : x.ord = o
    · exact .inl ⟨hx ▸ ho, by rw [if_pos (by simpa using hx), hf]⟩
    · exact .inr (by rw [if_neg (by simpa using hx)]; exact .refl x)
  · exact spares_of_getCmds (by simp [modCmd, getCmds, setCmds, Ne.symm hv])

/-- R408: a completion of a drain or of an INLINE_WRITE. -/
theorem spares_complete {c : Cmd} (hrun : isRunOp c = false) (hgrove : isGroveOp c = false) (h : v ≠ t ∨ c.ord ≠ k)
    (st dt : BitVec 8) (res : BitVec 128) : Spares t k s (complete s v c st dt res) := by
  rw [complete_eq_completeOne hrun hgrove]
  exact spares_completeOne h st dt res

theorem queueControl_frame (s : State) (b : Body) : Frame [.links] s (queueControl s b) :=
  queueControl_only (closedOn_frame _ s) _ _ (Frame.refl _ s)

/-- A drain's end spares what is no drain. -/
theorem spares_finishDrains (h : v = t → ∀ y ∈ getCmds s v, y.ord = k → isDrain y = false) : Spares t k s (finishDrains s v) := by
  refine spares_foldl fun u _ c hc => ?_
  have hother (hdrain : isDrain c = true) : v ≠ t ∨ c.ord ≠ k := by
    refine or_iff_not_imp_left.2 fun hv hk => ?_
    rw [h (not_not.1 hv) c hc hk] at hdrain
    cases hdrain
  split
  next hjob =>
    exact spares_complete (by rw [isRunOp, hjob]) (by rw [isGroveOp, hjob]) (hother (by rw [isDrain, hjob])) _ _ _
  next hjob =>
    exact (spares_of_frame (p_ite (P := Frame [.links] u) _ _ _ (Frame.refl _ u) (queueControl_frame u _)) (by decide)).trans
      (spares_completeOne (hother (by rw [isDrain, hjob])) _ _ _)
  next => exact .refl t k u

/-- An INLINE_WRITE's end spares what is none. -/
theorem spares_finishInline (h : v = t → ∀ y ∈ getCmds s v, y.ord = k → ∀ ws, y.job ≠ .inlineWrite ws) :
    Spares t k s (finishInline s v) := by
  refine spares_foldl fun u _ c hc => ?_
  split
  next ws hjob =>
    have hother : v ≠ t ∨ c.ord ≠ k := or_iff_not_imp_left.2 fun hv hk => h (not_not.1 hv) c hc hk ws hjob
    refine p_ite _ _ _ (Spares.trans (spares_of_cmds (hostApply_cmds u ws false)) ?_) (.refl t k u)
    exact spares_complete (by rw [isRunOp, hjob]) (by rw [isGroveOp, hjob]) hother _ _ _
  next => exact .refl t k u

theorem spares_dropMoves (o : Nat) : Spares t k s (dropMoves s o) :=
  spares_of_frame (dropMoves_only (closedOn_frame [.tiers, .ward, .out] s) _ _ (Frame.refl _ s)) (by decide)

theorem spares_ckptStop (job : CkptJob) : Spares t k s (ckptStop s v job).1 :=
  spares_of_frame (ckptStop_only (closedOn_frame [.sect, .tiers, .ward, .out, .fresh] s) _ _ _ (Frame.refl _ s)) (by decide)

/-- A command ended with its moves. -/
theorem spares_ended {c : Cmd} (h : v ≠ t ∨ c.ord ≠ k) (o : Nat) (st dt : BitVec 8) (res : BitVec 128) :
    Spares t k s (completeOne (dropMoves s o) v c st dt res) := (spares_dropMoves o).trans (spares_completeOne h st dt res)

theorem setStop_ord (c : Cmd) (x : Stop) : (setStop c x).ord = c.ord := rfl

theorem spares_drainOne {c : Cmd} (h : v ≠ t ∨ c.ord ≠ k) : Spares t k s (drainOne s v c) := by
  unfold drainOne
  refine p_ite _ _ _ (.refl t k s) (p_ite _ _ _ (spares_modCmd h fun _ => rfl) ?_)
  split
  · exact spares_ended h _ _ _ _
  · exact (spares_ckptStop _).trans (spares_ended h _ _ _ _)
  · exact spares_ended h _ _ _ _

theorem spares_loseOne {c : Cmd} (h : v ≠ t ∨ c.ord ≠ k) : Spares t k s (loseOne s v c) := by
  unfold loseOne
  refine p_ite _ _ _ (spares_modCmd h fun _ => rfl) ?_
  split
  · exact .refl t k s
  · exact (spares_ckptStop _).trans (spares_ended (c := { c with stop := some .lost }) h _ _ _ _)
  · exact spares_ended (c := { c with stop := some .lost }) h _ _ _ _

end

/-! ### A loop that ends commands, each as it stands when its turn comes -/

section
variable {t : Sec} {c : Cmd} {u : State}

theorem findCmd_of_sole (h : Sole t c u) : ∃ y, findCmd u t c.ord = some y ∧ Tame c y := by
  obtain ⟨y, hy, htame⟩ := h.mem
  cases hfind : findCmd u t c.ord with
  | none => exact absurd htame.ord (by simpa using List.find?_eq_none.1 hfind y hy)
  | some z =>
    have hord : z.ord = c.ord := eq_of_beq (List.find?_some (p := fun x : Cmd => x.ord == c.ord) hfind)
    exact ⟨z, rfl, h.only z (List.mem_of_find?_eq_some hfind) hord⟩

theorem findCmd_of_gone {k : Nat} (h : Gone t k u) : findCmd u t k = none :=
  List.find?_eq_none.2 fun x hx => by simpa using h x hx

/-- A command of the list, handled as it stands. -/
def handleOne (f : State → Sec → Cmd → State) (t : Sec) (u : State) (c : Cmd) : State :=
  match findCmd u t c.ord with
  | some c => f u t c
  | none => u

theorem handleOne_of_ne {f : State → Sec → Cmd → State} (hf : ∀ u d, d.ord ≠ c.ord → Spares t c.ord u (f u t d)) {d : Cmd}
    (hd : d.ord ≠ c.ord) : Spares t c.ord u (handleOne f t u d) := by
  unfold handleOne
  cases h : findCmd u t d.ord with
  | none => exact .refl _ _ u
  | some e =>
    have hord : e.ord = d.ord := eq_of_beq (List.find?_some (p := fun x : Cmd => x.ord == d.ord) h)
    exact hf u e (by rw [hord]; exact hd)

/-- Once a command has met its end, a turn of the loop leaves that so. -/
theorem handleOne_keeps {f : State → Sec → Cmd → State} {After : State → Prop}
    (hagain : ∀ u, After u → ∀ y, findCmd u t c.ord = some y → After (f u t y))
    (hkeep : ∀ u d, d.ord ≠ c.ord → After u → After (f u t d)) (h : After u) (d : Cmd) : After (handleOne f t u d) := by
  unfold handleOne
  cases hy : findCmd u t d.ord with
  | none => exact h
  | some e =>
    have hord : e.ord = d.ord := eq_of_beq (List.find?_some (p := fun x : Cmd => x.ord == d.ord) hy)
    by_cases hd : d.ord = c.ord
    · exact hagain u h e (hd ▸ hy)
    · exact hkeep u e (hord ▸ hd) h

/-- A command that is in flight meets its end in the loop, and keeps it. -/
theorem foldl_handles {f : State → Sec → Cmd → State} {After : State → Prop} {l : List Cmd}
    (hspare : ∀ u d, d.ord ≠ c.ord → Spares t c.ord u (f u t d)) (hends : ∀ u y, Sole t c u → Tame c y → After (f u t y))
    (hagain : ∀ u, After u → ∀ y, findCmd u t c.ord = some y → After (f u t y))
    (hkeep : ∀ u d, d.ord ≠ c.ord → After u → After (f u t d)) (hc : ∃ y ∈ l, y.ord = c.ord) (hs : Sole t c u) :
    After (l.foldl (handleOne f t) u) := by
  have hgoes (u : State) (h : Sole t c u ∨ After u) {d : Cmd} (hd : d.ord = c.ord) : After (handleOne f t u d) := by
    rw [show handleOne f t u d = handleOne f t u c by simp only [handleOne, hd]]
    obtain h | h := h
    · obtain ⟨y, hy, htame⟩ := findCmd_of_sole h
      simp only [handleOne, hy]
      exact hends u y h htame
    · exact handleOne_keeps hagain hkeep h c
  have hstays (u : State) (h : After u) (d : Cmd) : After (handleOne f t u d) := handleOne_keeps hagain hkeep h d
  obtain ⟨y, hy, hord⟩ := hc
  refine foldl_establishes (I := fun u => Sole t c u ∨ After u) (Q := After) hy (.inl hs) (fun u d hu => ?_)
    (fun u hu => hgoes u hu hord) (fun u d _ hu => hstays u hu d)
  by_cases hd : d.ord = c.ord
  · exact .inr (hgoes u hu hd)
  · exact hu.imp (handleOne_of_ne hspare hd).sole fun h => hstays u h d

end

end Sys2Proof.Machine
end

section
/-!
PROOFS. DRAIN (R408).
-/
namespace Sys2Proof.Machine

theorem exec_drain {s : State} {p : Pair} {d : Desc} (hform : ringForm s (.drain p d) = some (p, 0x0D, d, true))
    (hread : canRead s p d = true) : ∃ rings trace out seq,
    exec (.drain p d) s = .next (
      let w := hold (takeIn (s.afterRead rings trace out seq) (secOf p) { readCmd s p 0x0D d none 0 with job := .drain false 0 [] }) p s.seq
      if s.time.guard then finishDrains (drainTakes w (secOf p)) (secOf p) else w) := by
  have hfields : (headerOk d 0 && noStep d && d.fields == 0) = true := by simpa [ringForm] using hform
  obtain ⟨rings, trace, out, seq, -, hexec⟩ :=
    exec_of_read (c := .drain p d) rfl hread (.inr (.inl rfl)) (fun _ _ _ _ => hfields)
  exact ⟨rings, trace, out, seq, hexec.trans rfl⟩

/-- In the guard band no INLINE_WRITE lands. -/
theorem finishInline_guard {s : State} (h : s.time.guard = true) (t : Sec) : finishInline s t = s := by
  have hslot : inSlot0 s = false := by
    unfold inSlot0
    cases s.time.frame
    · rfl
    · simp [h]
  have hland (ws : List (Nat × Nat)) : inlineMayLand s ws = false := by simp [inlineMayLand, hslot]
  unfold finishInline
  refine List.foldlRecOn (motive := fun u => u = s) _ _ rfl fun u hu c _ => ?_
  subst hu
  split
  · simp [hland]
  · rfl

/-- A drain that finds no other command takes effect at once. -/
theorem drainTakes_alone {s : State} {t : Sec} {c : Cmd} {n : Nat} {w : List Nat} (hguard : s.time.guard = true)
    (hcmds : getCmds s t = [c]) (hjob : c.job = .drain false n w) :
    drainTakes s t = setCmds s t [{ c with job := .drain true 0 [] }] := by
  have hnone : drained s t = [] := by simp [drained, hcmds, isDrain, hjob]
  have hin : allSecs.foldl finishInline s = s :=
    List.foldlRecOn (motive := fun u => u = s) _ _ rfl fun u hu t _ => by rw [hu, finishInline_guard hguard]
  have hsame : drainSection s t = s := by rw [drainSection, hnone, List.foldl_nil, hin]
  simp [drainTakes, hsame, hnone, hcmds, hjob]

theorem finishDrains_alone {s : State} {t : Sec} {c : Cmd} {n : Nat} (hcmds : getCmds s t = [c]) (hjob : c.job = .drain true n []) :
    finishDrains s t = complete s t c stOk 0 (resultOf [(0, 4, n)]) := by
  unfold finishDrains
  rw [hcmds, List.foldl_cons, List.foldl_nil]
  simp [hjob]

/-- R408: a DRAIN read before the guard band waits, and holds its ring. -/
theorem drain_waits {s : State} {p : Pair} {d : Desc} (hform : ringForm s (.drain p d) = some (p, 0x0D, d, true))
    (hread : canRead s p d = true) (hguard : s.time.guard = false) :
    Effects (.drain p d) s [.rings, .cmds, .trace, .out, .seq] (fun t =>
      InFlight t (secOf p) s.seq (.drain false 0 []) ∧ (getRing t p).held = some s.seq) := by
  obtain ⟨rings, trace, out, seq, hexec⟩ := exec_drain hform hread
  rw [hguard] at hexec
  have hc := closedOn_frame [.rings, .cmds, .trace, .out, .seq] s
  refine ⟨_, hexec, ⟨?_, getRing_hold ..⟩, hold_only (hc.sub (by decide)) _ _ _ <|
    takeIn_only (hc.sub (by decide)) _ _ _ <| (frame_of_read s rings trace out seq).mono (by decide)⟩
  exact inFlight_takeIn _ (secOf p) { readCmd s p 0x0D d none 0 with job := .drain false 0 [] }

/-- R408: one read in the guard band with nothing else in flight ends at once. -/
theorem drain_ends {s : State} {p : Pair} {d : Desc} (hform : ringForm s (.drain p d) = some (p, 0x0D, d, true))
    (hread : canRead s p d = true) (hguard : s.time.guard = true) (hnone : getCmds s (secOf p) = []) :
    Records (.drain p d) s (readRec s p 0x0D d stOk 0 0) [.sect, .rings, .cmds, .recs, .steps, .colls, .tiers, .links, .ward,
      .trace, .out, .fresh, .seq] := by
  obtain ⟨rings, trace, out, seq, hexec⟩ := exec_drain hform hread
  let c : Cmd := { readCmd s p 0x0D d none 0 with job := .drain false 0 [] }
  let w := hold (takeIn (s.afterRead rings trace out seq) (secOf p) c) p s.seq
  have hw : getCmds w (secOf p) = [c] := by
    rw [show getCmds w (secOf p) = getCmds s (secOf p) ++ [c] from getCmds_takeIn .., hnone, List.nil_append]
  have htakes : drainTakes w (secOf p) = setCmds w (secOf p) [{ c with job := .drain true 0 [] }] :=
    drainTakes_alone hguard hw rfl
  simp only [hguard, if_true] at hexec
  have hexec : exec (.drain p d) s = .next (finishDrains (drainTakes w (secOf p)) (secOf p)) := hexec
  rw [htakes, finishDrains_alone (c := { c with job := .drain true 0 [] }) (by simp [getCmds, setCmds]) rfl,
    complete_eq_completeOne rfl rfl] at hexec
  refine ⟨_, hexec, ?_, frame_of_exec hexec⟩
  have hrec : recordOf (setCmds w (secOf p) [{ c with job := .drain true 0 [] }]) { c with job := .drain true 0 [] } stOk 0
      (resultOf [(0, 4, 0)]) = readRec s p 0x0D d stOk 0 0 := recordOf_readCmd (s := s) (v := w) rfl p 0x0D d none 0 [] stOk 0 _
  have hrecs := completeOne_recs (s := setCmds w (secOf p) [{ c with job := .drain true 0 [] }]) (t := secOf p)
    (c := { c with job := .drain true 0 [] }) (by simp [c, readCmd, cmdOf]) (by simp) stOk 0 (resultOf [(0, 4, 0)])
  rw [hrecs, hrec, insertRec_of_not_tick rfl]
  exact (Four.get_set ..).trans (if_pos rfl)

/-! ### The guard band -/

/-- A command ended with the record of its end, unless the host link was lost. -/
structure Ended (t : Sec) (c : Cmd) (st : BitVec 8) (u : State) : Prop where
  gone : Gone t c.ord u
  recorded : c.stop ≠ some .lost → ∃ r ∈ u.recs.get t, r.ord = c.ord ∧ r.id = c.id ∧ r.status = st

/-- Nothing is taken from the records of section t. -/
def RecsStay (t : Sec) (s u : State) : Prop := ∀ r ∈ s.recs.get t, r ∈ u.recs.get t

section
variable {t : Sec} {c : Cmd} {s u : State}

theorem RecsStay.trans {w : State} (h : RecsStay t s u) (k : RecsStay t u w) : RecsStay t s w := fun r hr => k r (h r hr)

theorem recsStay_of_frame {L : List Piece} (h : Frame L s u) (hL : .recs ∉ L) : RecsStay t s u := by
  intro r hr
  rw [show u.recs = s.recs from h.2 .recs hL]
  exact hr

theorem recsStay_ended (o : Nat) (c : Cmd) (st dt : BitVec 8) (res : BitVec 128) :
    RecsStay t s (completeOne (dropMoves s o) t c st dt res) :=
  (recsStay_of_frame (dropMoves_only (closedOn_frame [.tiers, .ward, .out] s) _ _ (Frame.refl _ s)) (by decide)).trans
    (recs_subset_completeOne _ _ _ _ _ _ _)

theorem Ended.keep {st : BitVec 8} (h : Ended t c st s) (hspare : Spares t c.ord s u) (hrecs : RecsStay t s u) : Ended t c st u :=
  ⟨hspare.gone h.gone, fun hstop => let ⟨r, hr, h⟩ := h.recorded hstop; ⟨r, hrecs r hr, h⟩⟩

theorem completeOne_ended (hc : isDrain c = false) (s : State) (st dt : BitVec 8) (res : BitVec 128) :
    Ended t c st (completeOne s t c st dt res) := by
  refine ⟨completeOne_gone s t c st dt res, fun hstop => ⟨recordOf s c st dt res, ?_, rfl, rfl, rfl⟩⟩
  have hnet : ∀ e w f, c.job ≠ .netDrain e w f := fun e w f h => by simp [isDrain, h] at hc
  rw [completeOne_recs hstop hnet]
  simp [mem_insertRec_self]

theorem drainOne_recs (s : State) (t : Sec) (c : Cmd) : RecsStay t s (drainOne s t c) := by
  unfold drainOne
  refine p_ite _ _ _ (fun _ h => h) (p_ite _ _ _ (fun _ h => h) ?_)
  split
  · exact recsStay_ended _ _ _ _ _
  next k _ =>
    exact (recsStay_of_frame (ckptStop_only (closedOn_frame [.sect, .tiers, .ward, .out, .fresh] s) _ t k (Frame.refl _ s))
      (by decide)).trans (recsStay_ended _ _ _ _ _)
  · exact recsStay_ended _ _ _ _ _

/-- R408: a command that has not started ends. -/
theorem drainOne_ends (hc : isDrain c = false) (hrun : isRunning c = false) (s : State) : Ended t c stDrained (drainOne s t c) := by
  unfold drainOne
  rw [hc, hrun]
  simp only [Bool.false_eq_true, if_false]
  split <;> exact completeOne_ended hc _ _ _ _

/-- R408: a started one is marked to stop. -/
theorem drainOne_marks (hc : isDrain c = false) (hrun : isRunning c = true) (s : State) :
    drainOne s t c = modCmd s t c.ord (fun c => setStop c .drained) := by
  simp [drainOne, hc, hrun]

/-- The only command with its order changes as `f` says. -/
theorem sole_modCmd {f : Cmd → Cmd} (hc : isDrain c = false) (hf : (f c).ord = c.ord) (h : Sole t c u) :
    Sole t (f c) (modCmd u t c.ord f) := by
  have hcmds : getCmds (modCmd u t c.ord f) t = (getCmds u t).map (fun x => if x.ord == c.ord then f x else x) := by
    simp [modCmd, getCmds, setCmds]
  refine ⟨⟨f c, ?_, .refl _⟩, fun y hy hk => ?_⟩
  · obtain ⟨y, hy, htame⟩ := h.mem
    obtain rfl := htame.eq_of_not_drain hc
    exact hcmds ▸ List.mem_map.2 ⟨y, hy, by simp⟩
  · obtain ⟨x, hx, rfl⟩ := List.mem_map.1 (hcmds ▸ hy)
    by_cases hord : x.ord = c.ord
    · obtain rfl := (h.only x hx hord).eq_of_not_drain hc
      rw [if_pos (by simp)]
      exact .refl _
    · rw [if_neg (by simpa using hord)] at hk
      exact absurd (hk.trans hf) hord

theorem strongerStop_drained (x : Option Stop) :
    strongerStop (some (strongerStop x .drained)) .drained = strongerStop x .drained := by
  cases x with
  | none => rfl
  | some x => cases x <;> rfl

/-- R408: the commands of the section, each in its turn. -/
theorem drainSection_guard (hguard : s.time.guard = true) (t : Sec) :
    drainSection s t = (drained s t).foldl (handleOne drainOne t) s := by
  have htime : ((drained s t).foldl (handleOne drainOne t) s).time.guard = true := by
    refine List.foldlRecOn (motive := fun u : State => u.time.guard = true) _ _ hguard fun u hu c _ => ?_
    unfold handleOne
    split
    next d _ =>
      have hframe := drainOne_only (closedOn_frame _ u) u t d (Frame.refl _ u)
      rw [show (drainOne u t d).time = u.time from hframe.2 .time (by decide)]
      exact hu
    next => exact hu
  have hin : ∀ u : State, u.time.guard = true → allSecs.foldl finishInline u = u := fun u hu =>
    List.foldlRecOn (motive := fun v => v = u) _ _ rfl fun v hv t _ => by rw [hv, finishInline_guard hu]
  exact (hin _ htime).trans rfl

theorem drainSection_ends (hguard : s.time.guard = true) (hmem : c ∈ getCmds s t) (hone : ∀ x ∈ getCmds s t, x.ord = c.ord → x = c)
    (hc : isDrain c = false) (hrun : isRunning c = false) : Ended t c stDrained (drainSection s t) := by
  rw [drainSection_guard hguard]
  refine foldl_handles (fun u d hd => spares_drainOne (.inr hd)) (fun u y _ htame => ?_) (fun u hu y hy => ?_)
    (fun u d hd hu => hu.keep (spares_drainOne (.inr hd)) (drainOne_recs u t d)) ⟨c, List.mem_filter.2 ⟨hmem, by simp [hc]⟩, rfl⟩
    (sole_of_unique hmem hone)
  · rw [htame.eq_of_not_drain hc]
    exact drainOne_ends hc hrun u
  · rw [findCmd_of_gone hu.gone] at hy
    cases hy

theorem drainSection_marks (hguard : s.time.guard = true) (hmem : c ∈ getCmds s t) (hone : ∀ x ∈ getCmds s t, x.ord = c.ord → x = c)
    (hc : isDrain c = false) (hrun : isRunning c = true) : Sole t (setStop c .drained) (drainSection s t) := by
  have hagain : setStop (setStop c .drained) .drained = setStop c .drained :=
    congrArg (fun x : Option Stop => { c with stop := x }) (congrArg some (strongerStop_drained c.stop))
  rw [drainSection_guard hguard]
  refine foldl_handles (c := c) (fun u d hd => spares_drainOne (.inr hd)) (fun u y hu htame => ?_) (fun u hu y hy => ?_)
    (fun u d hd hu => (spares_drainOne (k := (setStop c .drained).ord) (.inr hd)).sole hu)
    ⟨c, List.mem_filter.2 ⟨hmem, by simp [hc]⟩, rfl⟩ (sole_of_unique hmem hone)
  · rw [htame.eq_of_not_drain hc, drainOne_marks hc hrun]
    exact sole_modCmd (f := fun c => setStop c .drained) hc rfl hu
  · obtain ⟨z, hz, htame⟩ := findCmd_of_sole hu
    obtain rfl := Option.some.inj (hz.symm.trans hy)
    rw [htame.eq_of_not_drain (x := setStop c .drained) hc, drainOne_marks (c := setStop c .drained) hc hrun]
    have hsole := sole_modCmd (f := fun c => setStop c .drained) (c := setStop c .drained) hc rfl hu
    rw [hagain] at hsole
    exact hsole

/-- R408: no drain of the section has still to take effect. -/
def AllTaken (t : Sec) (u : State) : Prop :=
  ∀ c ∈ getCmds u t, (∀ n w, c.job ≠ .drain false n w) ∧ ∀ w f, c.job ≠ .netDrain false w f

/-- A drain takes effect; it waits for the commands `ords`. -/
def takeEffect (ords : List Nat) (frame : Nat) (c : Cmd) : Cmd :=
  match c.job with
  | .drain false _ _ => { c with job := .drain true 0 ords }
  | .netDrain false _ _ => { c with job := .netDrain true ords frame }
  | _ => c

theorem tame_takeEffect (ords : List Nat) (frame : Nat) (c : Cmd) : Tame c (takeEffect ords frame c) := by
  unfold takeEffect
  split
  next n w h => exact .inr (.inl ⟨false, n, w, true, 0, ords, h, fun _ => rfl, rfl⟩)
  next w f h => exact .inr (.inr ⟨false, w, f, true, ords, frame, h, fun _ => rfl, rfl⟩)
  next => exact .refl c

theorem takeEffect_taken (ords : List Nat) (frame : Nat) (c : Cmd) :
    (∀ n w, (takeEffect ords frame c).job ≠ .drain false n w) ∧ ∀ w f, (takeEffect ords frame c).job ≠ .netDrain false w f := by
  unfold takeEffect
  split
  · exact ⟨by simp, by simp⟩
  · exact ⟨by simp, by simp⟩
  next h h' => exact ⟨h, h'⟩

theorem drainTakes_eq (h : ∃ c ∈ getCmds s t, (∃ n w, c.job = .drain false n w) ∨ ∃ w f, c.job = .netDrain false w f) :
    drainTakes s t = setCmds (drainSection s t) t
      ((getCmds (drainSection s t) t).map (takeEffect ((drained s t).map (·.ord)) (frameOf (drainSection s t)))) := by
  obtain ⟨c, hc, hjob⟩ := h
  unfold drainTakes
  rw [if_neg]
  · rfl
  · rw [List.isEmpty_iff, List.filter_eq_nil_iff]
    intro hnone
    have hc := hnone c hc
    rcases hjob with ⟨n, w, hjob⟩ | ⟨w, f, hjob⟩ <;> simp [hjob] at hc

theorem AllTaken.completeOne (h : AllTaken t u) (c : Cmd) (st dt : BitVec 8) (res : BitVec 128) :
    AllTaken t (Machine.completeOne u t c st dt res) := by
  obtain ⟨f, hf, hcmds⟩ := completeOne_cmds u t c st dt res
  intro y hy
  rw [getCmds, hcmds, Four.get_set, if_pos rfl] at hy
  obtain ⟨x, hx, rfl⟩ := List.mem_map.1 hy
  have hx := h x (List.mem_filter.1 hx).1
  rcases hf x with he | ⟨e, n, w, e', n', w', hj, he, hy⟩ | ⟨e, w, g, e', w', g', hj, he, hy⟩
  · rw [he]; exact hx
  · rw [hy]
    refine ⟨fun m v hm => ?_, by simp⟩
    obtain ⟨rfl, -, -⟩ := by simpa using hm
    cases e
    · exact hx.1 n w hj
    · cases he rfl
  · rw [hy]
    refine ⟨by simp, fun v m hm => ?_⟩
    obtain ⟨rfl, -, -⟩ := by simpa using hm
    cases e
    · exact hx.2 w g hj
    · cases he rfl

theorem spares_drainTakes {k : Nat}
    (h : ∃ c ∈ getCmds s t, (∃ n w, c.job = .drain false n w) ∨ ∃ w f, c.job = .netDrain false w f) :
    Spares t k (drainSection s t) (drainTakes s t) :=
  spares_of_map (f := takeEffect ((drained s t).map (·.ord)) (frameOf (drainSection s t)))
    (fun x _ => .inr (tame_takeEffect _ _ x)) (by rw [drainTakes_eq h]; simp [getCmds, setCmds])

/-- What holds at every end of a drain holds after all have ended that can. -/
theorem drainEnds_keep {P : State → Prop} (hends : ∀ u (c : Cmd) st res, isDrain c = true → P u → P (completeOne u t c st 0 res))
    (hlinks : ∀ u v, Frame [.links] u v → P u → P v) (h : P s) : P (finishDrains s t) := by
  unfold finishDrains
  refine List.foldlRecOn (motive := P) _ _ h fun u hu c _ => ?_
  split
  next hjob =>
    rw [complete_eq_completeOne (by rw [isRunOp, hjob]) (by rw [isGroveOp, hjob])]
    exact hends _ _ _ _ (by rw [isDrain, hjob]) hu
  next hjob =>
    exact hends _ _ _ _ (by rw [isDrain, hjob]) (hlinks u _ (p_ite (P := Frame [.links] u) _ _ _ (Frame.refl _ u)
      (queueControl_frame u _)) hu)
  next => exact hu

theorem finishDrains_recs (s : State) (t : Sec) : RecsStay t s (finishDrains s t) :=
  drainEnds_keep (fun _ _ _ _ _ h => h.trans (recs_subset_completeOne _ _ _ _ _ _ _))
    (fun _ _ hf h => h.trans (recsStay_of_frame hf (by decide))) fun _ h => h

end

theorem exec_drainTakesEffect {s : State} {t : Sec} (hguard : s.time.guard = true) :
    exec (.drainTakesEffect t) s = .next (finishDrains (drainTakes (begin s) t) t) :=
  congrArg Host.Outcome.next (if_pos hguard)

/-- Settles O21. -/
theorem drainEndsWhatTheSectionHasInFlight : Obligations.DrainEndsWhatTheSectionHasInFlight := by
  refine ⟨fun s p d hform hread => ⟨drain_waits hform hread, drain_ends hform hread⟩, fun s t hguard hdrain => ?_⟩
  refine effects_of_exec (exec_drainTakesEffect hguard) rfl ?_
  have htakes : drainTakes (begin s) t = _ := drainTakes_eq hdrain
  refine ⟨?_, fun c hmem hone hc => ⟨fun hrun => ?_, fun hrun => ?_⟩⟩
  · show AllTaken t _
    refine drainEnds_keep (fun _ _ _ _ _ h => h.completeOne _ _ _ _) (fun u v hf h => ?_) ?_
    · rw [AllTaken, getCmds, show v.cmds = u.cmds from hf.2 .cmds (by decide)]
      exact h
    · rw [htakes]
      intro c hc
      obtain ⟨x, -, rfl⟩ := List.mem_map.1 (show c ∈ List.map _ _ by simpa [getCmds, setCmds] using hc)
      exact takeEffect_taken _ _ x
  · have hended : Ended t c stDrained (drainTakes (begin s) t) := by
      refine (drainSection_ends (s := begin s) hguard hmem hone hc hrun).keep (spares_drainTakes hdrain) ?_
      rw [htakes]
      exact fun _ h => h
    have hfinal := hended.keep (spares_finishDrains fun _ y hy hk => absurd hk (hended.gone y hy)) (finishDrains_recs _ t)
    exact ⟨hfinal.gone, hfinal.recorded⟩
  · have hsole := Spares.sole (c := setStop c .drained) (spares_drainTakes (s := begin s) hdrain)
      (drainSection_marks (s := begin s) hguard hmem hone hc hrun)
    have hfinal := Spares.sole (spares_finishDrains fun _ y hy hk =>
      (hsole.only y hy hk).eq_of_not_drain (x := setStop c .drained) hc ▸ hc) hsole
    obtain ⟨x, hx, htame⟩ := hfinal.mem
    obtain rfl := htame.eq_of_not_drain (x := setStop c .drained) hc
    exact ⟨_, hx, rfl, rfl, rfl⟩

end Sys2Proof.Machine
end

section
/-!
PROOFS. The loss of the host link (R384, R413, R414, R540).
-/
namespace Sys2Proof.Machine

/-! ### What becomes of a command -/

/-- A state of affairs of command d that the loss of the host link brings about, and that all else leaves. -/
structure Loses (t : Sec) (d : Cmd) (After : State → Prop) : Prop where
  ends : ∀ u y, Sole t d u → Tame d y → After (loseOne u t y)
  again : ∀ u, After u → ∀ y, findCmd u t d.ord = some y → After (loseOne u t y)
  spared : ∀ u w, Spares t d.ord u w → After u → After w
  clean : ∀ u, After u → ∀ y ∈ getCmds u t, y.ord = d.ord → isDrain y = false ∧ ∀ ws, y.job ≠ .inlineWrite ws

section
variable {t v : Sec} {d : Cmd} {After : State → Prop} {s u : State} {k : Nat}

/-- R413: a drain of a lost link waits for no record. -/
def forget (rs : List Rec) (c : Cmd) : Cmd :=
  match c.job with
  | .netDrain e w n => { c with job := .netDrain e (w.filter (fun o => !rs.any (fun r => r.ord == o))) n }
  | _ => c

theorem tame_forget (rs : List Rec) (c : Cmd) : Tame c (forget rs c) := by
  unfold forget
  split
  next e w n h => exact .inr (.inr ⟨e, w, n, e, _, n, h, id, rfl⟩)
  next => exact .refl c

theorem spares_dropRecs (s : State) (v : Sec) : Spares t k s (dropRecs s v) := by
  have hfold : Frame [.rings] s ((s.recs.get v).foldl (fun s r => modRing s r.pair (fun q =>
      { q with outstanding := q.outstanding - 1 })) s) :=
    p_foldl _ _ (Frame.refl _ s) fun u r hu => modRing_only ((closedOn_frame _ s).sub (by decide)) _ _ _ hu
  refine (spares_of_frame hfold (by decide)).trans ?_
  by_cases hv : v = t
  · subst hv
    exact spares_of_map (f := forget (s.recs.get v)) (fun x _ => .inr (tame_forget _ x)) 
      ((Four.get_set ..).trans (if_pos rfl))
  · exact spares_of_getCmds (by simp [dropRecs, getCmds, setCmds, Ne.symm hv])

end

section
variable {t v : Sec} {d : Cmd} {After : State → Prop} {s u : State}

theorem spares_handleOne {f : State → Sec → Cmd → State} {k : Nat} (hf : ∀ u c, Spares t k u (f u v c)) (c : Cmd) :
    Spares t k u (handleOne f v u c) := by
  unfold handleOne
  split
  · exact hf _ _
  · exact .refl t k u

theorem loseSection_eq (s : State) (t : Sec) : ∃ u, Frame [.sect, .ward, .out] s u ∧
    loseSection s t = finishDrains (dropRecs ((getCmds u t).foldl (handleOne loseOne t) u) t) t := by
  refine ⟨_, ?_, rfl⟩
  split
  · exact capLoss_only (closedOn_frame _ s) s t _ _ _ (Frame.refl _ s)
  · exact Frame.refl _ s

theorem Loses.tail (hl : Loses t d After) (h : After u) (v : Sec) : After (finishDrains (dropRecs u v) v) := by
  have h := hl.spared _ _ (spares_dropRecs u v) h
  exact hl.spared _ _ (spares_finishDrains fun hv y hy hk => (hl.clean _ h y (hv ▸ hy) hk).1) h

/-- R384: what became of the command in its section's turn stays in every section's turn. -/
theorem Loses.loseSection_keeps (hl : Loses t d After) (h : After s) (v : Sec) : After (loseSection s v) := by
  obtain ⟨u, hframe, heq⟩ := loseSection_eq s v
  rw [heq]
  refine hl.tail (List.foldlRecOn (motive := After) _ _ (hl.spared _ _ (spares_of_frame hframe (by decide)) h) fun w hw c _ => ?_) v
  by_cases hv : v = t
  · subst hv
    exact handleOne_keeps hl.again (fun x e he hx => hl.spared _ _ (spares_loseOne (.inr he)) hx) hw c
  · exact hl.spared _ _ (spares_handleOne (fun _ _ => spares_loseOne (.inl hv)) c) hw

theorem sole_loseSection (hv : v ≠ t) (h : Sole t d s) : Sole t d (loseSection s v) := by
  obtain ⟨u, hframe, heq⟩ := loseSection_eq s v
  rw [heq]
  have hfold : Spares t d.ord u ((getCmds u v).foldl (handleOne loseOne v) u) :=
    spares_foldl fun _ _ c _ => spares_handleOne (fun _ _ => spares_loseOne (.inl hv)) c
  exact ((((spares_of_frame hframe (by decide)).trans hfold).trans (spares_dropRecs _ v)).trans
    (spares_finishDrains fun h => absurd h hv)).sole h

/-- R384: in its own section's turn the command meets it. -/
theorem Loses.loseSection (hl : Loses t d After) (h : Sole t d s) : After (Machine.loseSection s t) := by
  obtain ⟨u, hframe, heq⟩ := loseSection_eq s t
  have hsole := (spares_of_frame hframe (by decide)).sole h
  obtain ⟨y, hy, htame⟩ := hsole.mem
  rw [heq]
  exact hl.tail (foldl_handles (fun w e he => spares_loseOne (.inr he)) hl.ends hl.again
    (fun w e he hw => hl.spared _ _ (spares_loseOne (.inr he)) hw) ⟨y, hy, htame.ord⟩ hsole) t

/-- R384: every section loses its host link, and INLINE_WRITEs land. -/
theorem Loses.allSections (hl : Loses t d After) (h : Sole t d s) :
    After (allSecs.foldl finishInline (allSecs.foldl Machine.loseSection s)) := by
  have hlost : After (allSecs.foldl Machine.loseSection s) := by
    refine foldl_establishes (I := fun u => Sole t d u ∨ After u) (Q := After) (mem_allSecs t) (.inl h) (fun u v hu => ?_)
      (fun u hu => ?_) fun u v _ hu => hl.loseSection_keeps hu v
    · by_cases hv : v = t
      · subst hv
        exact .inr (hu.elim hl.loseSection fun h => hl.loseSection_keeps h v)
      · exact hu.imp (sole_loseSection hv) fun h => hl.loseSection_keeps h v
    · exact hu.elim hl.loseSection fun h => hl.loseSection_keeps h t
  exact List.foldlRecOn (motive := After) _ _ hlost fun u hu v _ =>
    hl.spared _ _ (spares_finishInline fun hv y hy hk => (hl.clean _ hu y (hv ▸ hy) hk).2) hu

/-- Table 13.14: a command that has not started ends. -/
theorem loses_gone (hrun : isRunning d = false) (hnet : ∀ e w f, d.job ≠ .netDrain e w f) : Loses t d (Gone t d.ord) where
  ends u y _ htame := by
    have hjob (x : Cmd) (hrun : isRunning x = false) (hnet : ∀ e w f, x.job ≠ .netDrain e w f) :
        Gone t x.ord (loseOne u t x) := by
      unfold loseOne
      rw [hrun]
      simp only [Bool.false_eq_true, if_false]
      split
      next h => exact absurd h (hnet _ _ _)
      next => exact completeOne_gone _ _ { x with stop := some .lost } _ _ _
      next => exact completeOne_gone _ _ { x with stop := some .lost } _ _ _
    rcases htame with rfl | ⟨e, n, w, e', n', w', hd, -, rfl⟩ | ⟨e, w, f, -, -, -, hd, -, -⟩
    · exact hjob _ hrun hnet
    · exact hjob { d with job := .drain e' n' w' } rfl (by simp)
    · exact absurd hd (hnet e w f)
  again u hu y hy := by
    rw [findCmd_of_gone hu] at hy
    cases hy
  spared _ _ h hu := h.gone hu
  clean u hu y hy hk := absurd hk (hu y hy)

theorem not_drain_of_running {c : Cmd} (h : isRunning c = true) : isDrain c = false ∧ ∀ ws, c.job ≠ .inlineWrite ws := by
  cases hjob : c.job <;> simp [isRunning, hjob] at h
  all_goals exact ⟨by simp [isDrain, hjob], by simp⟩

theorem strongerStop_lost (x : Option Stop) : strongerStop x .lost = .lost := by
  cases x with
  | none => rfl
  | some x => cases x <;> rfl

/-- R384: a started one is marked to stop without a record. -/
theorem loses_marked (hrun : isRunning d = true) : Loses t d (Sole t { d with stop := some .lost }) := by
  obtain ⟨hdrain, hinline⟩ := not_drain_of_running hrun
  have hmarks (u : State) (c : Cmd) (hc : isRunning c = true) (hu : Sole t c u) :
      Sole t { c with stop := some .lost } (loseOne u t c) := by
    have hsole := sole_modCmd (f := fun c => setStop c .lost) (not_drain_of_running hc).1 rfl hu
    rw [show setStop c .lost = { c with stop := some .lost } by rw [setStop, strongerStop_lost]] at hsole
    rw [loseOne, if_pos hc]
    exact hsole
  refine ⟨fun u y hu htame => ?_, fun u hu y hy => ?_, fun u w h hu => Spares.sole (c := { d with stop := some .lost }) h hu,
    fun u hu y hy hk => ?_⟩
  · rw [htame.eq_of_not_drain hdrain]
    exact hmarks u d hrun hu
  · obtain ⟨z, hz, htame⟩ := findCmd_of_sole hu
    obtain rfl := Option.some.inj (hz.symm.trans hy)
    rw [htame.eq_of_not_drain (x := { d with stop := some .lost }) hdrain]
    exact hmarks u { d with stop := some .lost } hrun hu
  · rw [(hu.only y hy hk).eq_of_not_drain (x := { d with stop := some .lost }) hdrain]
    exact ⟨hdrain, hinline⟩

end

/-! ### The pairs -/

/-- The state of every pair is the same. -/
def PairsStay (s u : State) : Prop := ∀ p, (getRing u p).st = (getRing s p).st

section
variable {s u w : State}

theorem PairsStay.refl (s : State) : PairsStay s s := fun _ => rfl

theorem PairsStay.trans (h : PairsStay s u) (k : PairsStay u w) : PairsStay s w := fun p => (k p).trans (h p)

theorem PairsStay.frame {L : List Piece} (h : PairsStay s u) (hframe : Frame L u w) (hL : .rings ∉ L) : PairsStay s w := by
  intro p
  rw [getRing, show w.rings = u.rings from hframe.2 .rings hL]
  exact h p

theorem PairsStay.foldl {α : Type} {f : State → α → State} {l : List α} (hf : ∀ u a, PairsStay u (f u a)) (h : PairsStay s u) :
    PairsStay s (l.foldl f u) :=
  List.foldlRecOn (motive := PairsStay s) _ _ h fun u hu a _ => hu.trans (hf u a)

theorem pairsStay_modRing (p : Pair) {f : Ring → Ring} (hf : ∀ r, (f r).st = r.st) : PairsStay s (modRing s p f) := by
  intro q
  rw [getRing_modRing]
  split
  next h => rw [h, hf]
  next => rfl

theorem pairsStay_completeOne (t : Sec) (c : Cmd) (st dt : BitVec 8) (res : BitVec 128) :
    PairsStay s (completeOne s t c st dt res) := by
  have hdrop : Frame [.cmds, .colls, .trace] s (logEnd (dropCmd s t c) t c) :=
    logEnd_only ((closedOn_frame _ s).sub (by decide)) _ _ _ ⟨rfl, fun p hp => by cases p <;> simp at hp <;> rfl⟩
  obtain h | h := completeOne_cases s t c st dt res
  · rw [h]; exact .refl s
  · rw [h]
    have hput : PairsStay (logEnd (dropCmd s t c) t c) (putRecord (logEnd (dropCmd s t c) t c) t c st dt res) := by
      unfold putRecord
      split
      · exact pairsStay_modRing c.pair (f := fun r => { r with outstanding := r.outstanding - 1 }) fun _ => rfl
      · exact .refl _
    refine (((PairsStay.refl s).frame hdrop (by decide)).trans hput).trans ?_
    generalize putRecord (logEnd (dropCmd s t c) t c) t c st dt res = u
    have hring : PairsStay u (modRing u c.pair (fun r => if r.held == some c.ord then { r with held := none } else r)) :=
      pairsStay_modRing _ fun r => by split <;> rfl
    refine hring.frame (L := [.steps, .trace]) ?_ (by decide)
    have hc := closedOn_frame [.steps, .trace] (modRing u c.pair (fun r => if r.held == some c.ord then { r with held := none } else r))
    have hstep := countStep_only (hc.sub (by decide)) _ t c st (Frame.refl _ _)
    exact p_ite _ _ _ hstep (traceRec_only (hc.sub (by decide)) _ _ _ _ _ _ _ hstep)

theorem pairsStay_ended (o : Nat) (t : Sec) (c : Cmd) (st dt : BitVec 8) (res : BitVec 128) :
    PairsStay s (completeOne (dropMoves s o) t c st dt res) :=
  ((PairsStay.refl s).frame (dropMoves_only (closedOn_frame [.tiers, .ward, .out] s) _ _ (Frame.refl _ s)) (by decide)).trans
    (pairsStay_completeOne t c st dt res)

theorem pairsStay_finishDrains (t : Sec) : PairsStay s (finishDrains s t) :=
  drainEnds_keep (fun _ c st res _ h => h.trans (pairsStay_completeOne t c st 0 res))
    (fun _ _ hf h => h.frame hf (by decide)) (.refl s)

theorem pairsStay_finishInline (t : Sec) : PairsStay s (finishInline s t) := by
  refine PairsStay.foldl (fun u c => ?_) (.refl s)
  split
  next ws hjob =>
    refine p_ite _ _ _ ?_ (.refl u)
    rw [complete_eq_completeOne (by rw [isRunOp, hjob]) (by rw [isGroveOp, hjob])]
    exact ((PairsStay.refl u).frame (hostApply_only (closedOn_frame [.tiers, .ward, .out] u) u ws false (Frame.refl _ u))
      (by decide)).trans (pairsStay_completeOne _ _ _ _ _)
  next => exact .refl u

theorem pairsStay_loseOne (t : Sec) (c : Cmd) : PairsStay s (loseOne s t c) := by
  unfold loseOne
  refine p_ite _ _ _ (.refl s) ?_
  split
  next => exact .refl s
  next k _ =>
    exact ((PairsStay.refl s).frame (ckptStop_only (closedOn_frame [.sect, .tiers, .ward, .out, .fresh] s) s t k (Frame.refl _ s))
      (by decide)).trans (pairsStay_ended _ _ _ _ _ _)
  next => exact pairsStay_ended _ _ _ _ _ _

theorem pairsStay_dropRecs (t : Sec) : PairsStay s (dropRecs s t) :=
  PairsStay.foldl (f := fun s (r : Rec) => modRing s r.pair (fun q => { q with outstanding := q.outstanding - 1 }))
    (l := s.recs.get t) (fun _ _ => pairsStay_modRing _ fun _ => rfl) (.refl s)

theorem pairsStay_loseSection (t : Sec) : PairsStay s (loseSection s t) := by
  obtain ⟨u, hframe, heq⟩ := loseSection_eq s t
  rw [heq]
  refine ((PairsStay.foldl (fun v c => ?_) ((PairsStay.refl s).frame hframe (by decide))).trans
    (pairsStay_dropRecs t)).trans (pairsStay_finishDrains t)
  unfold handleOne
  split
  · exact pairsStay_loseOne _ _
  · exact .refl v

/-- R414: a pair whose records can no longer be written. -/
def lostRing (r : Ring) : Ring :=
  if r.st == .active || r.st == .stopping || r.st == .error then
    { setRingSt r .lost with cause := 3, rung := false, irqDue := false }
  else r

theorem lostRing_of_open {r : Ring} (h : r.st = .active ∨ r.st = .stopping ∨ r.st = .error) :
    (lostRing r).st = .lost ∧ (lostRing r).cause = 3 ∧ (lostRing r).rung = false := by
  unfold lostRing
  rw [if_pos (by rcases h with h | h | h <;> simp [h])]
  refine ⟨?_, rfl, rfl⟩
  rcases h with h | h | h <;> simp [setRingSt, h]

theorem getRing_foldl_loseRing (s : State) (p : Pair) : getRing (allPairs.foldl loseRing s) p = lostRing (getRing s p) :=
  getRing_foldl_allPairs (g := lostRing) (fun s p q => by
    rw [loseRing, getRing_modRing]
    rfl) s p

end

/-! ### The loss -/

/-- R384: what the loss of the host link leaves of the host interface. -/
def unhosted (h : Hif) : Hif := { h with reads := [], cache := [], stale := [], dir := [], waiting := [], due := [] }

/-- The loss up to the sections: the buffered writes are in memory, and nothing of the host interface is left. -/
def cutOff (s : State) : State := modHif (drainLines s.hif.inbound.length s) unhosted

/-- The loss up to the pairs. -/
def sectionsLost (s : State) : State := allSecs.foldl finishInline (allSecs.foldl loseSection (cutOff s))

section
variable {s : State}

theorem cutOff_frame (s : State) : Frame [.tiers, .hif, .ward, .out] s (cutOff s) :=
  modHif_only ((closedOn_frame _ s).sub (by decide)) _ _ (drainLines_only (closedOn_frame _ s) _ _ (Frame.refl _ s))

theorem drainLines_mode (n : Nat) (s : State) : (drainLines n s).hif.mode = s.hif.mode := by
  unfold drainLines
  refine p_foldl (P := fun u : State => u.hif.mode = s.hif.mode) _ _ rfl fun u e hu => ?_
  have hframe := drainLine_only (closedOn_frame [.tiers, .ward, .out] u) u e (Frame.refl _ u)
  rw [show (drainLine u e).hif = u.hif from hframe.2 .hif (by decide)]
  exact hu

theorem sectionsLost_frame (s : State) : Frame [.sect, .rings, .cmds, .recs, .steps, .colls, .tiers, .links, .ward, .trace,
    .out, .fresh] (cutOff s) (sectionsLost s) := by
  have hc := closedOn_frame [.sect, .rings, .cmds, .recs, .steps, .colls, .tiers, .links, .ward, .trace, .out, .fresh] (cutOff s)
  exact p_foldl _ _ (p_foldl _ _ (Frame.refl _ _) fun u t hu => loseSection_only hc u t hu)
    fun u t hu => finishInline_only (hc.sub (by decide)) u t hu

theorem hostLoss_cases (s : State) : hostLoss s = closeSession (allPairs.foldl loseRing (sectionsLost s)) ∨
    hostLoss s = logError (closeSession (allPairs.foldl loseRing (sectionsLost s))) 0xC 1 0xF 0xF 0 0 := by
  unfold hostLoss
  dsimp only
  split
  · exact .inr rfl
  · exact .inl rfl

/-- After the pairs, the session and the log alone change. -/
theorem hostLoss_frame (s : State) :
    Frame [.ward, .out] (allPairs.foldl loseRing (sectionsLost s)) (hostLoss s) := by
  have hclose := closeSession_only (closedOn_frame [.ward, .out] _) (allPairs.foldl loseRing (sectionsLost s)) (Frame.refl _ _)
  obtain h | h := hostLoss_cases s
  · exact h ▸ hclose
  · exact h ▸ logError_only (closedOn_frame _ _) _ _ _ _ _ _ _ hclose

theorem foldl_loseRing_frame (u : State) : Frame [.rings] u (allPairs.foldl loseRing u) :=
  p_foldl _ _ (Frame.refl _ u) fun _ p hv => loseRing_only (closedOn_frame _ _) _ p hv

theorem hostLoss_hif (s : State) : (hostLoss s).hif = unhosted (drainLines s.hif.inbound.length s).hif := by
  rw [show (hostLoss s).hif = _ from (hostLoss_frame s).2 .hif (by decide),
    show (allPairs.foldl loseRing (sectionsLost s)).hif = _ from (foldl_loseRing_frame _).2 .hif (by decide),
    show (sectionsLost s).hif = _ from (sectionsLost_frame s).2 .hif (by decide)]
  rfl

theorem hostLoss_session (s : State) : (hostLoss s).ward.session = .none := by
  have hclose := (closeSession_logged (allPairs.foldl loseRing (sectionsLost s))).session
  obtain h | h := hostLoss_cases s
  · rw [h, hclose]
  · rw [h, (logError_logged _ _ _ _ _ _ _).session, hclose]

theorem getRing_hostLoss (s : State) (p : Pair) : ∃ r : Ring, r.st = (getRing s p).st ∧ getRing (hostLoss s) p = lostRing r := by
  refine ⟨getRing (sectionsLost s) p, ?_, ?_⟩
  · have hcut : PairsStay s (cutOff s) := (PairsStay.refl s).frame (cutOff_frame s) (by decide)
    exact ((hcut.foldl fun _ => pairsStay_loseSection).foldl fun _ => pairsStay_finishInline) p
  · rw [← getRing_foldl_loseRing, getRing, show (hostLoss s).rings = _ from (hostLoss_frame s).2 .rings (by decide)]
    rfl

theorem Loses.hostLoss {t : Sec} {d : Cmd} {After : State → Prop} (hl : Loses t d After) (h : Sole t d s) :
    After (Machine.hostLoss s) := by
  have hlost : After (sectionsLost s) := hl.allSections ((spares_of_frame (cutOff_frame s) (by decide)).sole h)
  exact hl.spared _ _ (spares_of_frame (hostLoss_frame s) (by decide))
    (hl.spared _ _ (spares_of_frame (foldl_loseRing_frame _) (by decide)) hlost)

/-- What the loss of the host link brings, whatever brought it. -/
structure HostLost (s u : State) : Prop where
  hif : u.hif.cache = [] ∧ u.hif.stale = [] ∧ u.hif.dir = [] ∧ u.hif.waiting = [] ∧ u.hif.reads = [] ∧ u.hif.due = []
  session : u.ward.session = .none
  rings : ∀ p, (getRing s p).st = .active ∨ (getRing s p).st = .stopping ∨ (getRing s p).st = .error →
    (getRing u p).st = .lost ∧ (getRing u p).cause = 3 ∧ (getRing u p).rung = false
  cmds : ∀ t, ∀ d ∈ getCmds s t, (∀ x ∈ getCmds s t, x.ord = d.ord → x = d) →
    (isRunning d = false → (∀ w e f, d.job ≠ .netDrain e w f) → ∀ x ∈ getCmds u t, x.ord ≠ d.ord) ∧
    (isRunning d = true → ∃ x ∈ getCmds u t, x.ord = d.ord ∧ x.stop = some .lost)

theorem hostLoss_lost (s : State) : HostLost s (hostLoss s) where
  hif := by rw [hostLoss_hif]; exact ⟨rfl, rfl, rfl, rfl, rfl, rfl⟩
  session := hostLoss_session s
  rings p hp := by
    obtain ⟨r, hst, hring⟩ := getRing_hostLoss s p
    rw [hring]
    exact lostRing_of_open (by rwa [hst])
  cmds t d hd hone := by
    refine ⟨fun hrun hnet => (loses_gone hrun fun e w f => hnet w e f).hostLoss (sole_of_unique hd hone), fun hrun => ?_⟩
    obtain ⟨x, hx, htame⟩ := ((loses_marked hrun).hostLoss (sole_of_unique hd hone)).mem
    obtain rfl := htame.eq_of_not_drain (x := { d with stop := some .lost }) (not_drain_of_running hrun).1
    exact ⟨_, hx, rfl, rfl⟩

theorem linkDown_lost {u : State} (h : HostLost s u) : HostLost s (linkDown u) := ⟨h.hif, h.session, h.rings, h.cmds⟩

/-- R412: a fundamental reset masks the vector of a pair. -/
theorem getRing_maskVectors (u : State) (p : Pair) :
    getRing (maskVectors u) p = { getRing u p with msixMasked := true, msixPend := false } :=
  getRing_foldl_allPairs (g := fun r => { r with msixMasked := true, msixPend := false })
    (fun s p q => getRing_modRing s p q _) u p

theorem maskVectors_frame (u : State) : Frame [.rings] u (maskVectors u) :=
  maskVectors_only (closedOn_frame _ u) u (Frame.refl _ u)

theorem maskVectors_lost {u : State} (h : HostLost s u) : HostLost s (maskVectors u) where
  hif := by rw [show (maskVectors u).hif = u.hif from (maskVectors_frame u).2 .hif (by decide)]; exact h.hif
  session := by rw [show (maskVectors u).ward = u.ward from (maskVectors_frame u).2 .ward (by decide)]; exact h.session
  rings p hp := by rw [getRing_maskVectors]; exact h.rings p hp
  cmds := by
    intro t
    rw [getCmds, getCmds, show (maskVectors u).cmds = u.cmds from (maskVectors_frame u).2 .cmds (by decide)]
    exact h.cmds t

theorem hostLoss_mode (s : State) : (hostLoss s).hif.mode = s.hif.mode := by
  rw [hostLoss_hif]
  exact drainLines_mode _ s

end

/-- Settles O47. -/
theorem hostLinkLossStopsTheWork : Obligations.HostLinkLossStopsTheWork := by
  intro s c hc
  have hlost : HostLost s (hostLoss (begin s)) :=
    have h := hostLoss_lost (begin s)
    ⟨h.hif, h.session, h.rings, h.cmds⟩
  rcases hc with ⟨rfl, hmode⟩ | rfl | rfl | rfl
  · have hexec : exec .dlDown s = .next (linkDown (hostLoss (begin s))) :=
      congrArg Host.Outcome.next (if_neg (show ¬ (s.hif.mode == 0) = true by simpa using hmode))
    obtain ⟨⟨h1, h2, h3, h4, h5, h6⟩, hsession, hrings, hcmds⟩ := linkDown_lost hlost
    exact effects_of_exec hexec rfl ⟨h1, h2, h3, h4, h5, h6, hsession, hrings, hcmds, rfl, by simp⟩
  · obtain ⟨⟨h1, h2, h3, h4, h5, h6⟩, hsession, hrings, hcmds⟩ := linkDown_lost hlost
    exact effects_of_exec (t := linkDown (hostLoss (begin s))) rfl rfl
      ⟨h1, h2, h3, h4, h5, h6, hsession, hrings, hcmds, rfl, by simp⟩
  · obtain ⟨⟨h1, h2, h3, h4, h5, h6⟩, hsession, hrings, hcmds⟩ := hlost
    exact effects_of_exec (t := hostLoss (begin s)) rfl rfl
      ⟨h1, h2, h3, h4, h5, h6, hsession, hrings, hcmds, hostLoss_mode (begin s), by simp⟩
  · let v := modHif (linkDown (hostLoss (begin s))) (fun h => { h with hostRid := 0, ridSet := false, hdm0 := none, hdm1 := none })
    have hv : HostLost s v := ⟨hlost.hif, hlost.session, hlost.rings, hlost.cmds⟩
    have hhif : (maskVectors v).hif = v.hif := (maskVectors_frame v).2 .hif (by decide)
    obtain ⟨⟨h1, h2, h3, h4, h5, h6⟩, hsession, hrings, hcmds⟩ := maskVectors_lost hv
    refine effects_of_exec (t := maskVectors v) rfl rfl
      ⟨h1, h2, h3, h4, h5, h6, hsession, hrings, hcmds, by rw [hhif]; rfl, fun _ => ?_⟩
    rw [hhif]
    exact ⟨rfl, rfl, rfl, rfl, fun p => by rw [getRing_maskVectors]; exact ⟨rfl, rfl⟩⟩

end Sys2Proof.Machine
end

section
/-!
PROOFS. What a Helzu link sends, and the link units that arrive (R265, R266, R269-R278, R290).
-/
namespace Sys2Proof.Machine

/-! ### Link units sent (R269, R270) -/

/-- R270: a link unit has left. -/
def afterUnit (x : LinkSt) : LinkSt :=
  { x with
    cycle := x.cycle + (if x.st == lsDelay || x.st == lsActive then 1 else 0)
    spaces := x.spaces.map (fun y => { y with reqDue := false }) }

theorem afterUnit_cycle (x : LinkSt) : (afterUnit x).cycle = if x.st = lsDelay ∨ x.st = lsActive then x.cycle + 1 else x.cycle := by
  by_cases h : x.st = lsDelay ∨ x.st = lsActive
  · have hb : (x.st == lsDelay || x.st == lsActive) = true := by simpa using h
    rw [if_pos h]; simp [afterUnit, hb]
  · have hb : (x.st == lsDelay || x.st == lsActive) = false := by simpa using h
    rw [if_neg h]; simp [afterUnit, hb]

theorem exec_linkUnitSend {s : State} {l : Link} (h : sendsUnits (getLink s l.val).st = true) :
    exec (.linkUnitSend l) s = .next (
      let x := getLink s l.val
      modLink (emit (begin s) (.unit l (linkUnitOf x.cycle x.echo.toNat (time16 s - x.echoAt) (ackWords x) (unitState x))))
        l.val afterUnit) :=
  congrArg Host.Outcome.next (if_neg (show ¬ (!sendsUnits (getLink s l.val).st) = true by simp [h]))

theorem linkUnit_sent {s : State} {l : Link} (h : sendsUnits (getLink s l.val).st = true) :
    let x := getLink s l.val
    Effects (.linkUnitSend l) s [.links, .out] (fun u =>
      u.out = [.unit l (linkUnitOf x.cycle x.echo.toNat (time16 s - x.echoAt) (ackWords x) (unitState x))] ∧
      (getLink u l.val).cycle = (if x.st = lsDelay ∨ x.st = lsActive then x.cycle + 1 else x.cycle) ∧
      ∀ y ∈ (getLink u l.val).spaces, y.reqDue = false) := by
  intro x
  refine effects_of_exec (exec_linkUnitSend h) rfl ⟨rfl, ?_⟩
  dsimp only
  rw [getLink_modLink, if_pos rfl]
  refine ⟨afterUnit_cycle x, fun y hy => ?_⟩
  obtain ⟨z, -, rfl⟩ := List.mem_map.1 hy
  rfl

/-! ### A departed partner (R290) -/

/-- What becomes of a link whose partner may have departed. -/
def goneIfDeparted (a1 : Bool) (x : LinkSt) : LinkSt :=
  if x.departWait then { x.cleared.inState lsDetect with cause := if a1 then 0 else 7 } else x

theorem getLink_partnerGone (s : State) (l k : Nat) : getLink (partnerGone s l) k = if k = l then
    { (getLink s l).cleared.inState lsDetect with cause := if isA1 s then 0 else 7 } else getLink s k :=
  getLink_leaveLink s l k lsDetect 7

theorem leaveDeparted_links (s : State) : Frame [.links] s (leaveDeparted s) ∧
    ∀ k, getLink (leaveDeparted s) k = if k ∈ List.range 36 then goneIfDeparted (isA1 s) (getLink s k) else getLink s k := by
  refine foldl_links (L := [.links]) (s := s) (g := fun _ => goneIfDeparted (isA1 s)) (fun u l hu => ⟨?_, fun k => ?_⟩)
    List.nodup_range s (Frame.refl _ s)
  · exact p_ite _ _ _ (partnerGone_only (closedOn_frame _ s) u l hu) hu
  · unfold goneIfDeparted
    by_cases h : (getLink u l).departWait = true
    · rw [if_pos h, if_pos h, getLink_partnerGone, isA1_of_frame hu (by decide)]
    · rw [if_neg h, if_neg h]
      split
      next hk => rw [hk]
      next => rfl

theorem leaveDeparted_of_none {s : State} (h : ∀ k, k < 36 → (getLink s k).departWait = false) : leaveDeparted s = s := by
  refine List.foldlRecOn (motive := fun u => u = s) _ _ rfl fun u hu l hl => ?_
  rw [hu, h l (List.mem_range.1 hl)]
  rfl

/-! ### A position (R265, R274, R277) -/

/-- What an idle link does at a position. -/
theorem exec_flitSend_departed {s : State} {l : Link} {slot : Fin 50} (hslot : slot.val ≠ 0)
    (hwait : (getLink s l.val).departWait = true) : exec (.flitSend l slot) s = .next (leaveDeparted (begin s)) := by
  have hst : (getLink (leaveDeparted (begin s)) l.val).st = lsDetect := by
    rw [(leaveDeparted_links (begin s)).2, if_pos (List.mem_range.2 l.isLt), getLink_begin, goneIfDeparted, if_pos hwait]
    exact LinkSt.inState_st _ _
  have hexec : exec (.flitSend l slot) s = execFlitSend l slot s := rfl
  have hpos : (if (slot.val == 0) = true then begin s else leaveDeparted (begin s)) = leaveDeparted (begin s) :=
    if_neg (by simpa using hslot)
  rw [hexec, execFlitSend, hpos]
  dsimp only
  rw [hst]
  rfl

theorem exec_flitSend_active {s : State} {l : Link} {slot : Fin 50} (hst : (getLink s l.val).st = lsActive)
    (hnone : slot.val = 0 ∨ ∀ k, k < 36 → (getLink s k).departWait = false) :
    exec (.flitSend l slot) s = .next (sendActive (begin s) l slot.val) := by
  have hexec : exec (.flitSend l slot) s = execFlitSend l slot s := rfl
  have hpos : (if (slot.val == 0) = true then begin s else leaveDeparted (begin s)) = begin s := by
    rcases hnone with h | h
    · exact if_pos (by simpa using h)
    · rw [leaveDeparted_of_none (s := begin s) h, ite_self]
  rw [hexec, execFlitSend, hpos]
  dsimp only
  rw [getLink_begin, hst]
  rfl

theorem idle_sent {c : Instr} {s : State} {l : Link} (hexec : exec c s = .next (emit (begin s) (.unit l idleUnit))) :
    Effects c s [.out] (fun u => u.out = [.unit l idleUnit]) :=
  ⟨_, hexec, rfl, emit_only (closedOn_frame _ s) _ _ (begin_frame (by decide) s)⟩

section
variable {s : State} {l : Link} {slot : Nat} {k : Nat} {y : Space}

/-- The space of a position that it may use. -/
theorem sendActive_of_space (hspace : slotSpace s l.val slot = some k) (hy : (getLink s l.val).spaces[k]? = some y)
    (hdepart : k ≠ 4 → (getLink s l.val).departTx = false ∧ (getLink s l.val).departRx = false) : sendActive s l slot =
      match y.replay with
      | some i => if k == 4 && (getLink s l.val).departTx then emit s (.unit l idleUnit) else sendReplay s l k i
      | none =>
        if 1024 ≤ y.out.length || (s.time.guard && k != 4) then emit s (.unit l idleUnit)
        else match pickQueued (getLink s l.val) k with
          | some (b, rest) => ownPart (sendNew s l k b rest) l k b
          | none => emit s (.unit l idleUnit) := by
  have hstays : ¬ (k != 4 && ((getLink s l.val).departTx || (getLink s l.val).departRx)) = true := by
    intro h
    obtain ⟨hk, hor⟩ := Bool.and_eq_true_iff.1 h
    obtain ⟨htx, hrx⟩ := hdepart (by simpa using hk)
    simp [htx, hrx] at hor
  unfold sendActive
  rw [hspace]
  dsimp only
  rw [if_neg hstays, getSpace_of_get hy] <;> rfl

theorem getLink_modSpace_get (s : State) (l k : Nat) (f : Space → Space) :
    (getLink (modLink s l (fun x => modSpace x k f)) l).spaces[k]? = (getLink s l).spaces[k]?.map f := by
  rw [getLink_modLink, if_pos rfl, modSpace_spaces_get, if_pos rfl]

theorem sendReplay_of {i seq : Nat} {b : Body} (hy : (getLink s l.val).spaces[k]? = some y) (hout : y.out[i]? = some (seq, b)) :
    (sendReplay s l k i).out = s.out ++ [.unit l (flitUnit (flitOf s (getLink s l.val) k seq b) b.type)] ∧
    (getLink (sendReplay s l k i) l.val).spaces[k]? = some { y with replay := if i + 1 < y.out.length then some (i + 1) else none } := by
  unfold sendReplay
  dsimp only
  rw [getSpace_of_get hy, hout]
  refine ⟨rfl, ?_⟩
  rw [getLink_of_links (emit_links _ _), getLink_modSpace_get, hy]
  rfl

theorem sendNew_of {b : Body} {rest : List Body} (hy : (getLink s l.val).spaces[k]? = some y) :
    (sendNew s l k b rest).out = s.out ++ [.unit l (flitUnit (flitOf s (getLink s l.val) k y.next b) b.type)] ∧
    (getLink (sendNew s l k b rest) l.val).spaces[k]? =
      some { y with queue := rest, next := (y.next + 1) % 4096, out := y.out ++ [(y.next, b)] } := by
  unfold sendNew
  dsimp only
  rw [getSpace_of_get hy]
  refine ⟨rfl, ?_⟩
  rw [getLink_of_links (emit_links _ _), getLink_modSpace_get, hy]
  rfl

end

/-! ### The sender's own part (R293) -/

theorem raise_onlyEvents (s : State) (t : Sec) (ord n : Nat) (f : NumFlags) : OnlyEvents s (raise s t ord n f) := by
  unfold raise
  split
  next => exact .of_out rfl
  next =>
    split
    next => exact .of_out rfl
    next =>
      dsimp only
      split
      next => exact OnlyEvents.trans (.of_out rfl) (logError_onlyEvents _ _ _ _ _ _ _)
      next => exact .of_out rfl

theorem gatherWrite_onlyEvents (s : State) (x : CollRun) (l b : Nat) (bs : List Nat) : OnlyEvents s (gatherWrite s x l b bs) := by
  unfold gatherWrite
  dsimp only
  refine (raise_onlyEvents s x.sec x.ord (fabricEngine l)
    (decodeWire (fabEng s x.sec l) x.coll.wire (collFmt (tensorAt x.g x.coll.dst)) bs).2.1).trans (.of_out ?_)
  generalize raise s x.sec x.ord (fabricEngine l) _ = u
  exact (markWrote_only ((closedOn_frame [.colls, .tiers] u).sub (by decide)) _ _ _
    (writeBlock_only ((closedOn_frame [.colls, .tiers] u).sub (by decide)) u _ _ _ (Frame.refl _ u))).2 .out (by decide)

theorem takeOwn_onlyEvents (s : State) (x : CollRun) (l b : Nat) : OnlyEvents s (takeOwn s x l b) := by
  unfold takeOwn
  dsimp only
  split
  next => exact OnlyEvents.trans (.of_out rfl) (gatherWrite_onlyEvents _ _ _ _ _)
  next => exact .of_out rfl

theorem ownPart_onlyEvents (s : State) (l : Link) (k : Nat) (b : Body) : OnlyEvents s (ownPart s l k b) := by
  unfold ownPart
  split
  next => exact .of_out rfl
  next =>
    dsimp only
    split
    next => exact .of_out rfl
    next =>
      split
      next => exact .of_out rfl
      next =>
        split
        next => exact takeOwn_onlyEvents _ _ _ _
        next => exact .of_out rfl

theorem getLink_ownPart (s : State) (l : Link) (k : Nat) (b : Body) (j : Nat) : getLink (ownPart s l k b) j = getLink s j :=
  getLink_of_links ((ownPart_only (closedOn_frame [.nflag, .cmds, .colls, .tiers, .ward, .out] s) s l k b (Frame.refl _ s)).2
    .links (by decide)) j

theorem OnlyEvents.head {s u : State} {o : Out} (h : OnlyEvents s u) (hs : s.out = [o]) : u.out.head? = some o := by
  obtain ⟨l, hl, -⟩ := h
  rw [hl, hs]
  rfl

/-- R277: what a position of a slot carries. -/
theorem position_sent (s : State) (l : Link) (slot : Fin 50) (hst : (getLink s l.val).st = lsActive)
    (hnone : slot.val = 0 ∨ ∀ k, k < 36 → (getLink s k).departWait = false) :
    let x := getLink s l.val
    (slotSpace s l.val slot.val = none → Effects (.flitSend l slot) s [.out] (fun u => u.out = [.unit l idleUnit])) ∧
    (∀ (k : Nat) (y : Space), slotSpace s l.val slot.val = some k → x.spaces[k]? = some y →
      (k ≠ 4 → x.departTx = false ∧ x.departRx = false) →
      (∀ (i seq : Nat) (b : Body), y.replay = some i → (k = 4 → x.departTx = false) → y.out[i]? = some (seq, b) →
        Effects (.flitSend l slot) s [.links, .out] (fun u =>
          u.out = [.unit l (flitUnit (flitOf s x k seq b) b.type)] ∧
          (getLink u l.val).spaces[k]? =
            some { y with replay := if i + 1 < y.out.length then some (i + 1) else none })) ∧
      (∀ (b : Body) (rest : List Body), y.replay = none → y.out.length < 1024 → (k ≠ 4 → s.time.guard = false) →
        pickQueued x k = some (b, rest) →
        Effects (.flitSend l slot) s
          (if b.type = 3 ∧ b.tag.getLsbD 15 = true then [.nflag, .cmds, .colls, .tiers, .links, .ward, .out]
            else [.links, .out]) (fun u =>
          u.out.head? = some (.unit l (flitUnit (flitOf s x k y.next b) b.type)) ∧
          (getLink u l.val).spaces[k]? = some { y with
            queue := rest, next := (y.next + 1) % 4096, out := y.out ++ [(y.next, b)] })) ∧
      (y.replay = none → pickQueued x k = none →
        Effects (.flitSend l slot) s [.out] (fun u => u.out = [.unit l idleUnit]))) := by
  intro x
  have hexec := exec_flitSend_active (slot := slot) hst hnone
  have hframe {L : List Piece} (hout : [.out] ⊆ L) : Frame L s (begin s) := begin_frame hout s
  refine ⟨fun hspace => idle_sent (hexec.trans ?_), fun k y hspace hy hdepart => ?_⟩
  · rw [sendActive, show slotSpace (begin s) l.val slot.val = none from hspace]
  have hsend := sendActive_of_space (s := begin s) (slot := slot.val) hspace hy hdepart
  rw [hsend] at hexec
  refine ⟨fun i seq b hreplay htx hout => ?_, fun b rest hreplay hlen hguard hpick => ?_, fun hreplay hpick => idle_sent ?_⟩
  · rw [hreplay] at hexec
    have hidle : ¬ (k == 4 && (getLink (begin s) l.val).departTx) = true := fun h => by
      obtain ⟨hk, htx'⟩ := Bool.and_eq_true_iff.1 h
      exact absurd (htx (by simpa using hk)) (by simpa using htx')
    dsimp only at hexec
    rw [if_neg hidle] at hexec
    exact ⟨_, hexec, sendReplay_of (s := begin s) hy hout, sendReplay_only (closedOn_frame _ s) _ _ _ _ (hframe (by decide))⟩
  · have hfull : ¬ (1024 ≤ y.out.length || (begin s).time.guard && k != 4) = true := fun h => by
      rcases Bool.or_eq_true_iff.1 h with h | h
      · have := of_decide_eq_true h; omega
      · obtain ⟨hg, hk⟩ := Bool.and_eq_true_iff.1 h
        exact absurd (hguard (by simpa using hk)) (by simpa using hg)
    rw [hreplay] at hexec
    dsimp only at hexec
    rw [if_neg hfull, show pickQueued (getLink (begin s) l.val) k = some (b, rest) from hpick] at hexec
    dsimp only at hexec
    obtain ⟨hout, hspaces⟩ := sendNew_of (s := begin s) (b := b) (rest := rest) hy
    refine ⟨_, hexec, ⟨(ownPart_onlyEvents _ l k b).head hout, by rw [getLink_ownPart, hspaces]⟩, ?_⟩
    split
    next =>
      exact ownPart_only ((closedOn_frame _ s).sub (by decide)) _ _ _ _
        (sendNew_only ((closedOn_frame _ s).sub (by decide)) _ _ _ _ _ (hframe (by decide)))
    next hown =>
      have hsame : ownPart (sendNew (begin s) l k b rest) l k b = sendNew (begin s) l k b rest :=
        if_pos (by simpa [or_iff_not_imp_left] using hown)
      rw [hsame]
      exact sendNew_only (closedOn_frame _ s) _ _ _ _ _ (hframe (by decide))
  · rw [hreplay] at hexec
    dsimp only at hexec
    rw [show pickQueued (getLink (begin s) l.val) k = none from hpick] at hexec
    rw [hexec]
    dsimp only
    rw [ite_self]

/-! ### Link units that arrive (R269, R273, R274, R276, R290) -/

/-- What a link keeps while its codewords are counted. -/
def SameButCounts (x y : LinkSt) : Prop := ∃ c, y = { x with lcnt := c }

theorem noteFec_link (s : State) (l fixed lost : Nat) : SameButCounts (getLink s l) (getLink (noteFec s l fixed lost) l) := by
  have hcount (u : State) (j n : Nat) : SameButCounts (getLink u l) (getLink (addLcntN u l j n) l) := by
    rw [getLink_addLcntN, if_pos rfl]
    exact ⟨_, rfl⟩
  have hfix : SameButCounts (getLink s l) (getLink (if fixed == 0 then s else logClass (addLcntN s l 0 fixed) 1 0xF 2 l 0) l) := by
    split
    · exact ⟨_, rfl⟩
    · rw [getLink_logClass]
      exact hcount s 0 fixed
  unfold noteFec
  dsimp only
  split
  · exact hfix
  · obtain ⟨c, hc⟩ := hfix
    rw [getLink_modLinkWear]
    obtain ⟨d, hd⟩ := hcount (if fixed == 0 then s else logClass (addLcntN s l 0 fixed) 1 0xF 2 l 0) 1 lost
    exact ⟨d, by rw [hd, hc]⟩

theorem noteFec_frame (s : State) (l fixed lost : Nat) : Frame [.links, .wear, .ward, .out] s (noteFec s l fixed lost) :=
  noteFec_only (closedOn_frame _ s) s l fixed lost (Frame.refl _ s)

/-- R269, R281: what an intact unit leaves of its link before its ACK words count. -/
def heardUnit (s : State) (l : Nat) (v : Unit256) : State :=
  let st := linkState s l
  let s := if sendsUnits st then noteFec s l v.fixed v.lost else s
  let s := if (st == lsDelay || st == lsActive) && echoesOwn (getLink s l) v then addSample s l v else s
  modLink s l (fun x => { x with echo := v.cycle, echoAt := time16 s })

/-- R273, R274: the ACK words of a unit, one space after the other. -/
def takeAcks (s : State) (l : Nat) (v : Unit256) : State :=
  (List.range 5).foldl (fun s k =>
    let s := ackLink s l k (ackWord v k % 4096)
    if ackWord v k / 4096 % 2 == 1 then startReplay s l k else s) s

theorem exec_linkUnit {s : State} {l : Link} {v : Unit256} (hintact : v.intact = true)
    (hst : (getLink s l.val).st = lsCaps ∨ (getLink s l.val).st = lsDelay ∨ (getLink s l.val).st = lsActive) :
    exec (.linkUnit l v) s = .next (
      let u := heardUnit (begin s) l.val v
      if (getLink s l.val).st != lsActive then u
      else if v.state == 3 then retrain u l.val 3
      else
        let u := takeAcks u l.val v
        if v.state == 2 then noteDepart u l.val else u) := by
  have hexec : exec (.linkUnit l v) s = execLinkUnit l v s := rfl
  have hgoes : (!v.intact || !(linkState (begin s) l.val == lsCaps || linkState (begin s) l.val == lsDelay ||
      linkState (begin s) l.val == lsActive)) = false := by
    rw [linkState_eq, getLink_begin, hintact]
    rcases hst with h | h | h <;> simp [h]
  rw [hexec, execLinkUnit]
  dsimp only
  rw [hgoes]
  rfl

theorem heardUnit_link (s : State) (l : Nat) (v : Unit256) : (getLink (heardUnit s l v) l).echo = v.cycle ∧
    (getLink (heardUnit s l v) l).st = (getLink s l).st ∧ (getLink (heardUnit s l v) l).spaces = (getLink s l).spaces := by
  have hfec : SameButCounts (getLink s l) (getLink (if sendsUnits (linkState s l) then noteFec s l v.fixed v.lost else s) l) := by
    split
    · exact noteFec_link s l _ _
    · exact ⟨_, rfl⟩
  unfold heardUnit
  dsimp only
  rw [getLink_modLink, if_pos rfl]
  obtain ⟨c, hc⟩ := hfec
  generalize (if sendsUnits (linkState s l) = true then noteFec s l v.fixed v.lost else s) = u at *
  refine ⟨rfl, ?_, ?_⟩ <;>
  · split
    · simp only [addSample, getLink_modLink, if_true, hc]
    · rw [hc]

theorem heardUnit_frame (s : State) (l : Nat) (v : Unit256) : Frame [.links, .wear, .ward, .out] s (heardUnit s l v) := by
  have hc := closedOn_frame [.links, .wear, .ward, .out] s
  have hfec : Frame [.links, .wear, .ward, .out] s (if sendsUnits (linkState s l) then noteFec s l v.fixed v.lost else s) :=
    p_ite _ _ _ (noteFec_frame s l _ _) (Frame.refl _ s)
  unfold heardUnit
  dsimp only
  generalize (if sendsUnits (linkState s l) = true then noteFec s l v.fixed v.lost else s) = u at *
  exact modLink_only (hc.sub (by decide)) _ _ _ (p_ite _ _ _ (modLink_only (hc.sub (by decide)) _ _ _ hfec) hfec)

theorem startReplay_link (s : State) (l k : Nat) :
    ∃ c f, getLink (startReplay s l k) l = { modSpace (getLink s l) k f with lcnt := c } := by
  unfold startReplay
  split
  · exact ⟨(getLink s l).lcnt, id, by simp [modSpace, List.mapIdx_eq_ofFn]⟩
  · rw [getLink_addLcnt, if_pos rfl, getLink_modLink, if_pos rfl]
    exact ⟨_, _, rfl⟩

/-- One ACK word counts. -/
def takeAck (v : Unit256) (l : Nat) (s : State) (k : Nat) : State :=
  let s := ackLink s l k (ackWord v k % 4096)
  if ackWord v k / 4096 % 2 == 1 then startReplay s l k else s

/-- What an ACK word does to a link: nothing but its space and the counters changes. -/
theorem takeAck_link (v : Unit256) (l : Nat) (s : State) (k : Nat) :
    (getLink (takeAck v l s k) l).echo = (getLink s l).echo ∧ (getLink (takeAck v l s k) l).st = (getLink s l).st ∧
    (∀ j, j ≠ k → (getLink (takeAck v l s k) l).spaces[j]? = (getLink s l).spaces[j]?) ∧
    (ackWord v k / 4096 % 2 = 0 → (getLink (takeAck v l s k) l).spaces[k]? =
      (getLink s l).spaces[k]?.map (ackSpace · (ackWord v k % 4096))) := by
  have hack : getLink (ackLink s l k (ackWord v k % 4096)) l = modSpace (getLink s l) k (ackSpace · (ackWord v k % 4096)) := by
    rw [ackLink, getLink_modLink, if_pos rfl]
  unfold takeAck
  dsimp only
  split
  next hreq =>
    obtain ⟨c, f, hlink⟩ := startReplay_link (ackLink s l k (ackWord v k % 4096)) l k
    rw [hlink, hack]
    refine ⟨rfl, rfl, fun j hj => ?_, fun h => absurd (beq_iff_eq.1 hreq) (by omega)⟩
    show (modSpace (modSpace _ k _) k f).spaces[j]? = _
    rw [modSpace_spaces_get, modSpace_spaces_get, if_neg hj, if_neg hj]
  next =>
    rw [hack]
    refine ⟨rfl, rfl, fun j hj => ?_, fun _ => ?_⟩
    · rw [modSpace_spaces_get, if_neg hj]
    · rw [modSpace_spaces_get, if_pos rfl]

theorem takeAcks_link (s : State) (l : Nat) (v : Unit256) :
    (getLink (takeAcks s l v) l).echo = (getLink s l).echo ∧ (getLink (takeAcks s l v) l).st = (getLink s l).st ∧
    ∀ k, k < 5 → ackWord v k / 4096 % 2 = 0 → (getLink (takeAcks s l v) l).spaces[k]? =
      (getLink s l).spaces[k]?.map (ackSpace · (ackWord v k % 4096)) := by
  have hkeep : ∀ (ks : List Nat) (u : State), ks.Nodup →
      (getLink (ks.foldl (takeAck v l) u) l).echo = (getLink u l).echo ∧
      (getLink (ks.foldl (takeAck v l) u) l).st = (getLink u l).st ∧
      (∀ k, k ∉ ks → (getLink (ks.foldl (takeAck v l) u) l).spaces[k]? = (getLink u l).spaces[k]?) ∧
      ∀ k ∈ ks, ackWord v k / 4096 % 2 = 0 → (getLink (ks.foldl (takeAck v l) u) l).spaces[k]? =
        (getLink u l).spaces[k]?.map (ackSpace · (ackWord v k % 4096)) := by
    intro ks
    induction ks with
    | nil => exact fun u _ => ⟨rfl, rfl, fun _ _ => rfl, by simp⟩
    | cons a ks ih =>
      intro u hnodup
      obtain ⟨ha, hks⟩ := List.nodup_cons.1 hnodup
      obtain ⟨hecho, hst, hother, hmine⟩ := ih (takeAck v l u a) hks
      obtain ⟨hecho', hst', hother', hmine'⟩ := takeAck_link v l u a
      refine ⟨hecho.trans hecho', hst.trans hst', fun k hk => ?_, fun k hk hreq => ?_⟩
      · rw [List.mem_cons, not_or] at hk
        exact (hother k hk.2).trans (hother' k hk.1)
      · rcases List.mem_cons.1 hk with rfl | hk
        · exact (hother k ha).trans (hmine' hreq)
        · refine (hmine k hk hreq).trans ?_
          rw [hother' k fun h => ha (h ▸ hk)]
  obtain ⟨hecho, hst, -, hmine⟩ := hkeep (List.range 5) s List.nodup_range
  exact ⟨hecho, hst, fun k hk => hmine k (List.mem_range.2 hk)⟩

theorem noteDepart_link (s : State) (l : Nat) : (getLink (noteDepart s l) l).departRx = true ∧
    (getLink (noteDepart s l) l).echo = (getLink s l).echo ∧ (getLink (noteDepart s l) l).st = (getLink s l).st ∧
    (getLink (noteDepart s l) l).spaces = (getLink s l).spaces := by
  rw [noteDepart, getLink_modLink, if_pos rfl]
  split
  next h => exact ⟨h, rfl, rfl, rfl⟩
  next => exact ⟨rfl, rfl, rfl, rfl⟩

/-- R273, R290: the unit of a partner that does not retrain. -/
theorem linkUnit_heard {s : State} {l : Link} {v : Unit256} (hintact : v.intact = true)
    (hst : (getLink s l.val).st = lsCaps ∨ (getLink s l.val).st = lsDelay ∨ (getLink s l.val).st = lsActive) (hstate : v.state ≠ 3) :
    let x := getLink s l.val
    Effects (.linkUnit l v) s [.links, .wear, .ward, .out] (fun u =>
      (getLink u l.val).echo = v.cycle ∧ (getLink u l.val).st = x.st ∧
      (x.st = lsActive → v.state = 2 → (getLink u l.val).departRx = true) ∧
      (x.st = lsActive → ∀ (k : Nat) (y : Space), k < 5 → x.spaces[k]? = some y → ackWord v k / 4096 % 2 = 0 →
        (getLink u l.val).spaces[k]? = some (ackSpace y (ackWord v k % 4096)))) := by
  intro x
  obtain ⟨hecho, hsame, hspaces⟩ := heardUnit_link (begin s) l.val v
  have hexec := exec_linkUnit hintact hst
  dsimp only at hexec
  by_cases hact : (getLink s l.val).st = lsActive
  · rw [if_neg (by simpa using hact), if_neg (by simpa using hstate)] at hexec
    obtain ⟨hecho', hst', hacks⟩ := takeAcks_link (heardUnit (begin s) l.val v) l.val v
    have hmine (k : Nat) (y : Space) (hk : k < 5) (hy : x.spaces[k]? = some y) (hreq : ackWord v k / 4096 % 2 = 0) :
        (getLink (takeAcks (heardUnit (begin s) l.val v) l.val v) l.val).spaces[k]? = some (ackSpace y (ackWord v k % 4096)) := by
      rw [hacks k hk hreq, hspaces, getLink_begin, show (getLink s l.val).spaces[k]? = some y from hy]
      rfl
    refine effects_of_exec hexec rfl ?_
    by_cases hdepart : v.state = 2
    · rw [if_pos (by simpa using hdepart)]
      obtain ⟨hrx, hecho'', hst'', hspaces'⟩ := noteDepart_link (takeAcks (heardUnit (begin s) l.val v) l.val v) l.val
      exact ⟨(hecho''.trans hecho').trans hecho, (hst''.trans hst').trans hsame, fun _ _ => hrx,
        fun _ k y hk hy hreq => hspaces' ▸ hmine k y hk hy hreq⟩
    · rw [if_neg (by simpa using hdepart)]
      exact ⟨hecho'.trans hecho, hst'.trans hsame, fun _ h => absurd h hdepart, fun _ => hmine⟩
  · rw [if_pos (by simpa using hact)] at hexec
    exact effects_of_exec hexec rfl ⟨hecho, hsame, fun h => absurd h hact, fun h => absurd h hact⟩

/-- R276: the unit of one that does. -/
theorem linkUnit_retrains {s : State} {l : Link} {v : Unit256} (hintact : v.intact = true)
    (hact : (getLink s l.val).st = lsActive) (hstate : v.state = 3) :
    Effects (.linkUnit l v) s [.links, .wear, .ward, .out] (fun u =>
      (getLink u l.val).st = lsRetrain ∧ (getLink u l.val).cause = if isA1 s then 0 else 3) := by
  have hexec := exec_linkUnit hintact (.inr (.inr hact))
  dsimp only at hexec
  rw [if_neg (by simpa using hact), if_pos (by simpa using hstate)] at hexec
  have hst : linkState (heardUnit (begin s) l.val v) l.val = lsActive := (heardUnit_link (begin s) l.val v).2.1.trans hact
  refine effects_of_exec hexec rfl ⟨retrain_st hst 3, ?_⟩
  rw [retrain_cause hst, isA1_of_frame (heardUnit_frame (begin s) l.val v) (by decide), isA1_begin]

/-- Settles O38. -/
theorem linkUnitsAndFlitsAreSent : Obligations.LinkUnitsAndFlitsAreSent := by
  refine ⟨fun s l => linkUnit_sent, fun s l slot => ⟨fun hslot hwait => ?_, position_sent s l slot⟩, fun s l v hintact =>
    ⟨fun hst hstate => linkUnit_heard hintact hst hstate, fun hact hstate => linkUnit_retrains hintact hact hstate⟩⟩
  obtain ⟨hframe, hlink⟩ := leaveDeparted_links (begin s)
  refine ⟨_, exec_flitSend_departed hslot hwait, ?_, (begin_frame (by decide) s).trans (hframe.mono (by decide))⟩
  dsimp only
  rw [hlink, if_pos (List.mem_range.2 l.isLt), getLink_begin, goneIfDeparted, if_pos hwait, isA1_begin]
  exact ⟨LinkSt.inState_st _ _, rfl⟩

end Sys2Proof.Machine
end

section
/-!
PROOFS. Settings of blocks and managed regions (R187, R200, R207, R237, R498).
-/
namespace Sys2Proof.Machine

/-! ### What a fill leaves -/

/-- The settings, pages and moves of the tiers are the same. -/
structure Placed (s u : State) : Prop where
  blk : u.tiers.blk = s.tiers.blk
  gblk : u.tiers.gblk = s.tiers.gblk
  pages : u.tiers.pages = s.tiers.pages
  moves : u.tiers.moves = s.tiers.moves

theorem Placed.refl (s : State) : Placed s s := ⟨rfl, rfl, rfl, rfl⟩

theorem Placed.trans {s u v : State} (h : Placed s u) (k : Placed u v) : Placed s v :=
  ⟨k.blk.trans h.blk, k.gblk.trans h.gblk, k.pages.trans h.pages, k.moves.trans h.moves⟩

theorem Encoded.placed {s u : State} (h : Encoded s u) : Placed s u := by
  obtain ⟨_, _, _, _, h⟩ := h
  exact ⟨by rw [h], by rw [h], by rw [h], by rw [h]⟩

theorem drainLine_placed (s : State) (e : Inbound) : Placed s (drainLine s e) := by
  unfold drainLine landWrite
  dsimp only
  exact p_foldl (P := Placed s) _ _ (hostApply_encoded _ _ _).placed fun u g hu => hu.trans ⟨rfl, rfl, rfl, rfl⟩

/-- R187: what the fill of block b leaves of the other blocks and of the rest of the card. -/
structure Alike (b : Nat) (s u : State) : Prop where
  blk : getBlk u b = getBlk s b
  gblk : getGblk u b = getGblk s b
  pages : u.tiers.pages = s.tiers.pages
  moves : u.tiers.moves = s.tiers.moves
  rest : Frame [.tiers, .hif, .ward, .out] s u

section
variable {b : Nat} {s u v : State}

theorem Alike.refl (b : Nat) (s : State) : Alike b s s := ⟨rfl, rfl, rfl, rfl, Frame.refl _ s⟩

theorem Alike.trans (h : Alike b s u) (k : Alike b u v) : Alike b s v :=
  ⟨k.blk.trans h.blk, k.gblk.trans h.gblk, k.pages.trans h.pages, k.moves.trans h.moves, h.rest.trans k.rest⟩

theorem Alike.ownedBy (h : Alike b s u) (t : Sec) : Machine.ownedBy u t b = Machine.ownedBy s t b := by
  rw [Machine.ownedBy, h.blk]; rfl

theorem Alike.isBusy (h : Alike b s u) : Machine.isBusy u b = Machine.isBusy s b := by
  rw [Machine.isBusy, gblkBusy, h.blk, h.gblk]; rfl

theorem Alike.isPinnedBlk (h : Alike b s u) : Machine.isPinnedBlk u b = Machine.isPinnedBlk s b := by
  rw [Machine.isPinnedBlk, h.gblk]; rfl

theorem Alike.blockHasPage (h : Alike b s u) : Machine.blockHasPage u b = Machine.blockHasPage s b := by
  rw [Machine.blockHasPage, h.pages, h.moves]; rfl

theorem Alike.loadedNames (h : Alike b s u) (t : Sec) : Machine.loadedNames u t b = Machine.loadedNames s t b := by
  rw [Machine.loadedNames, show u.images = s.images from h.rest.2 .images (by decide)]; rfl

theorem Alike.groveNames (h : Alike b s u) (t : Sec) : Machine.groveNames u t b = Machine.groveNames s t b := by
  rw [Machine.groveNames, getCmds, show u.cmds = s.cmds from h.rest.2 .cmds (by decide)]; rfl

theorem Alike.isScrubbing (h : Alike b s u) (t : Sec) : Machine.isScrubbing u t = Machine.isScrubbing s t := by
  rw [Machine.isScrubbing, getSect, show u.sect = s.sect from h.rest.2 .sect (by decide)]; rfl

end

section
variable (s : State) (b : Nat) (x : Byte)

/-- The buffered writes of a block land, and leave the buffer. -/
def landBlock : State :=
  (s.hif.inbound.filter (fun e => blockOf e.addr == some b)).foldl drainLine
    (modHif s (fun h => { h with inbound := h.inbound.filter (fun e => blockOf e.addr != some b) }))

theorem startFill_eq : startFill s b x = fillBlock (setBlk (setGblk (landBlock s b) b 0) b (x ||| 4)) b := rfl

theorem landBlock_placed : Placed s (landBlock s b) :=
  p_foldl (P := Placed s) _ _ ⟨rfl, rfl, rfl, rfl⟩ fun _ e hu => hu.trans (drainLine_placed _ e)

theorem landBlock_of_nil (h : s.hif.inbound = []) : (landBlock s b).hif.inbound = [] ∧ (landBlock s b).tiers = s.tiers := by
  unfold landBlock
  rw [h]
  exact ⟨by simp [modHif, h], rfl⟩

theorem startFill_frame : Frame [.tiers, .hif, .ward, .out] s (startFill s b x) :=
  startFill_only (closedOn_frame _ s) s b x (Frame.refl _ s)

theorem getBlk_startFill (k : Nat) : getBlk (startFill s b x) k = if k = b then x ||| 4 else getBlk s k := by
  have hset : getBlk (startFill s b x) k = sget blkReset (sset blkReset (landBlock s b).tiers.blk b (x ||| 4)) k := rfl
  rw [hset, sget_sset, (landBlock_placed s b).blk]
  rfl

theorem getGblk_startFill (k : Nat) : getGblk (startFill s b x) k = if k = b then 0 else getGblk s k := by
  have hset : getGblk (startFill s b x) k = sget 0 (sset 0 (landBlock s b).tiers.gblk b 0) k := rfl
  rw [hset, sget_sset, (landBlock_placed s b).gblk]
  rfl

theorem startFill_alike {k : Nat} (hk : k ≠ b) : Alike k s (startFill s b x) where
  blk := by rw [getBlk_startFill, if_neg hk]
  gblk := by rw [getGblk_startFill, if_neg hk]
  pages := (landBlock_placed s b).pages
  moves := (landBlock_placed s b).moves
  rest := startFill_frame s b x

/-- With no window write buffered a fill writes zeros over the block, and nothing else. -/
theorem startFill_mem (h : s.hif.inbound = []) (a : Nat) : (startFill s b x).hif.inbound = [] ∧
    rd8 (startFill s b x).tiers.mem a = if blockBase b ≤ a ∧ a < blockBase b + blockBytes then 0 else rd8 s.tiers.mem a := by
  obtain ⟨hin, htiers⟩ := landBlock_of_nil s b h
  have hmem : (startFill s b x).tiers.mem = zeroRange (landBlock s b).tiers.mem (blockBase b) blockBytes := rfl
  exact ⟨hin, by rw [hmem, rd8_zeroRange, htiers]⟩

end

theorem block_of_canopy {a b : Nat} (hb : b < 8192) (h : blockOf a = some b) : blockBase b ≤ a ∧ a < blockBase b + blockBytes := by
  unfold blockOf at h
  rw [blockBase, if_pos hb]
  split at h
  · have h := Option.some.inj h
    unfold blockBytes at *
    omega
  · split at h
    · have h := Option.some.inj h
      unfold blockBytes at *
      omega
    · cases h

/-! ### Entries of an array register (R507) -/

/-- One entry of the array takes effect in its turn. -/
theorem eachEntry_at {I Q : State → Prop} {R : Prop} {f : State → Nat × Byte → State × Bool} {s : State} {es : List (Nat × Byte)}
    {b : Nat} {x : Byte} (hmem : (b, x) ∈ es) (hnodup : (es.map (·.1)).Nodup) (hI : I s)
    (hkeep : ∀ u e, e.1 ≠ b → I u → I (f u e).1) (hset : ∀ u, I u → Q (f u (b, x)).1 ∧ (R → (f u (b, x)).2 = true))
    (hq : ∀ u e, e.1 ≠ b → Q u → Q (f u e).1) : Q (eachEntry f s es).1 ∧ (R → (eachEntry f s es).2 = true) := by
  obtain ⟨l, r, rfl⟩ := List.append_of_mem hmem
  have hl : ∀ e ∈ l, e.1 ≠ b := fun e he h => by
    have hdis := (List.nodup_append.1 (by simpa using hnodup)).2.2
    exact hdis e.1 (List.mem_map_of_mem he) b (by simp) h
  have hr : ∀ e ∈ r, e.1 ≠ b := fun e he h => by
    have hcons : ((b, x) :: r).map (·.1) |>.Nodup := (List.nodup_append.1 (by simpa using hnodup)).2.1
    exact (List.nodup_cons.1 hcons).1 (h ▸ List.mem_map.2 ⟨e, he, rfl⟩)
  unfold eachEntry
  rw [List.foldl_append, List.foldl_cons]
  have hbefore := List.foldlRecOn (motive := fun y : State × Bool => I y.1) l (fun x e => ((f x.1 e).1, x.2 || (f x.1 e).2))
    (b := (s, false)) hI fun u hu e he => hkeep u.1 e (hl e he) hu
  obtain ⟨hQ, hR⟩ := hset _ hbefore
  refine List.foldlRecOn (motive := fun y : State × Bool => Q y.1 ∧ (R → y.2 = true)) r _ ⟨hQ, fun h => ?_⟩
    fun u hu e he => ⟨hq u.1 e (hr e he) hu.1, fun h => ?_⟩
  · simp [hR h]
  · simp [hu.2 h]

theorem mem_arrayBytes {off b : Nat} {wide : Bool} (data : W64) (hlo : off ≤ b) (hhi : b < off + (if wide then 8 else 4)) :
    (b, data.extractLsb' (8 * (b - off)) 8) ∈ arrayBytes off wide data :=
  List.mem_map.2 ⟨b - off, List.mem_range.2 (by omega), by rw [Nat.add_sub_cancel' hlo]⟩

theorem arrayBytes_nodup (off : Nat) (wide : Bool) (data : W64) : ((arrayBytes off wide data).map (·.1)).Nodup := by
  rw [arrayBytes, List.map_map]
  exact List.Nodup.map (fun x y h => Nat.add_left_cancel h) List.nodup_range

/-! ### MEM_BLKCFG (R187) -/

section
variable {t : Sec} {s : State} {b : Nat} {x : Byte}

theorem blkcfgOne_cases (t : Sec) (u : State) (e : Nat × Byte) :
    (blkcfgOne t u e).1 = u ∨ ∃ y, (blkcfgOne t u e).1 = startFill u e.1 y := by
  unfold blkcfgOne
  dsimp only
  generalize (if ownedBy u t e.1 = true then getBlk u e.1 &&& 0x18 else 0) = old
  split
  · exact .inl rfl
  · split
    · exact .inl rfl
    · split
      · exact .inl rfl
      · exact .inr ⟨_, rfl⟩

theorem blkcfgOne_alike (t : Sec) (u : State) {e : Nat × Byte} (he : e.1 ≠ b) : Alike b u (blkcfgOne t u e).1 := by
  obtain h | ⟨y, h⟩ := blkcfgOne_cases t u e
  · rw [h]; exact .refl b u
  · rw [h]; exact startFill_alike u e.1 y he.symm

/-- A block's own bytes stay zero while other blocks change. -/
theorem blkcfgOne_zero (t : Sec) (u : State) (e : Nat × Byte) (hin : u.hif.inbound = []) :
    (blkcfgOne t u e).1.hif.inbound = [] ∧ ∀ a, rd8 u.tiers.mem a = 0 → rd8 (blkcfgOne t u e).1.tiers.mem a = 0 := by
  obtain h | ⟨y, h⟩ := blkcfgOne_cases t u e
  · rw [h]; exact ⟨hin, fun _ h => h⟩
  · rw [h]
    refine ⟨(startFill_mem u _ _ hin 0).1, fun a ha => ?_⟩
    rw [(startFill_mem u _ _ hin a).2, ha, ite_self]

/-- A byte that changes an own block takes effect where no rule protects it. -/
theorem blkcfgOne_own (hb : b < 8192) (hown : ownedBy s t b = true) (hnew : x &&& 0x18 ≠ getBlk s b &&& 0x18) :
    blkcfgOne t s (b, x) = if loadedNames s t b || blockHasPage s b || isBusy s b || isScrubbing s t then (s, true)
      else (startFill s b (getBlk s b &&& 0xE0 ||| (x &&& 0x18)), false) := by
  unfold blkcfgOne
  dsimp only
  rw [if_neg (by omega), hown, if_pos rfl, if_neg (by simpa using hnew)]
  rfl

end

theorem exec_memBlkcfgWrite (s : State) (t : Sec) (off : W16) (wide : Bool) (data : W64) :
    exec (.memBlkcfgWrite (.sect t) off wide data) s = .next (
      let x := eachEntry (blkcfgOne t) (begin s) (arrayBytes off.toNat wide data)
      modSect x.1 t (fun z => { z with cfgRefused := x.2 })) := rfl

theorem blkcfg_taken {s : State} {t : Sec} {off : W16} {wide : Bool} {data : W64} {b : Nat} (hlo : off.toNat ≤ b)
    (hhi : b < off.toNat + (if wide then 8 else 4)) (hb : b < 8192) (hown : ownedBy s t b = true)
    (hnew : data.extractLsb' (8 * (b - off.toNat)) 8 &&& 0x18 ≠ getBlk s b &&& 0x18)
    (hfree : loadedNames s t b = false ∧ blockHasPage s b = false ∧ isBusy s b = false ∧ isScrubbing s t = false) :
    Effects (.memBlkcfgWrite (.sect t) off wide data) s [.sect, .tiers, .hif, .ward, .out] (fun u =>
      getBlk u b = ((getBlk s b &&& 0xE0) ||| (data.extractLsb' (8 * (b - off.toNat)) 8 &&& 0x18)) ||| 4 ∧
      (s.hif.inbound = [] → ∀ a, blockOf a = some b → rd8 u.tiers.mem a = 0)) := by
  obtain ⟨hnames, hpage, hbusy, hscrub⟩ := hfree
  refine effects_of_exec (exec_memBlkcfgWrite s t off wide data) rfl ?_
  have hentry := eachEntry_at (s := begin s) (R := False)
    (I := fun u => Alike b s u ∧ (s.hif.inbound = [] → u.hif.inbound = []))
    (Q := fun u => getBlk u b = ((getBlk s b &&& 0xE0) ||| (data.extractLsb' (8 * (b - off.toNat)) 8 &&& 0x18)) ||| 4 ∧
      (s.hif.inbound = [] → u.hif.inbound = [] ∧ ∀ a, blockOf a = some b → rd8 u.tiers.mem a = 0))
    (mem_arrayBytes data hlo hhi) (arrayBytes_nodup _ _ _) ⟨⟨rfl, rfl, rfl, rfl, begin_frame (by decide) s⟩, id⟩
    (fun u e he hu => ⟨hu.1.trans (blkcfgOne_alike t u he), fun h => (blkcfgOne_zero t u e (hu.2 h)).1⟩)
    (fun u ⟨halike, hin⟩ => ⟨?_, False.elim⟩) fun u e he hu => ⟨(blkcfgOne_alike t u he).blk.trans hu.1, fun h => ?_⟩
  · exact ⟨hentry.1.1, fun hin => (hentry.1.2 hin).2⟩
  · rw [blkcfgOne_own hb ((halike.ownedBy t).trans hown) (by rw [halike.blk]; exact hnew), halike.loadedNames, halike.blockHasPage,
      halike.isBusy, halike.isScrubbing, hnames, hpage, hbusy, hscrub, halike.blk]
    refine ⟨by rw [if_neg (by simp), getBlk_startFill, if_pos rfl], fun h => ?_⟩
    rw [if_neg (by simp)]
    refine ⟨(startFill_mem u b _ (hin h) 0).1, fun a ha => ?_⟩
    rw [(startFill_mem u b _ (hin h) a).2, if_pos (block_of_canopy hb ha)]
  · obtain ⟨hin, hzero⟩ := hu.2 h
    exact ⟨(blkcfgOne_zero t u e hin).1, fun a ha => (blkcfgOne_zero t u e hin).2 a (hzero a ha)⟩

theorem blkcfg_refused {s : State} {t : Sec} {off : W16} {wide : Bool} {data : W64} {b : Nat} (hlo : off.toNat ≤ b)
    (hhi : b < off.toNat + (if wide then 8 else 4)) (hb : b < 8192) (hown : ownedBy s t b = true)
    (hnew : data.extractLsb' (8 * (b - off.toNat)) 8 &&& 0x18 ≠ getBlk s b &&& 0x18)
    (hheld : loadedNames s t b = true ∨ blockHasPage s b = true ∨ isBusy s b = true ∨ isScrubbing s t = true) :
    Effects (.memBlkcfgWrite (.sect t) off wide data) s [.sect, .tiers, .hif, .ward, .out] (fun u =>
      getBlk u b = getBlk s b ∧ (getSect u t).cfgRefused = true) := by
  refine effects_of_exec (exec_memBlkcfgWrite s t off wide data) rfl ?_
  dsimp only
  rw [getSect_modSect, if_pos rfl]
  have hentry := eachEntry_at (s := begin s) (R := True) (I := Alike b s) (Q := fun u => getBlk u b = getBlk s b)
    (mem_arrayBytes data hlo hhi) (arrayBytes_nodup _ _ _) ⟨rfl, rfl, rfl, rfl, begin_frame (by decide) s⟩
    (fun u e he hu => hu.trans (blkcfgOne_alike t u he)) (fun u hu => ?_)
    fun u e he hu => (blkcfgOne_alike t u he).blk.trans hu
  · exact ⟨hentry.1, hentry.2 trivial⟩
  · have hrefused : (loadedNames s t b || blockHasPage s b || isBusy s b || isScrubbing s t) = true := by
      simpa [or_assoc] using hheld
    rw [blkcfgOne_own hb ((hu.ownedBy t).trans hown) (by rw [hu.blk]; exact hnew), hu.loadedNames, hu.blockHasPage,
      hu.isBusy, hu.isScrubbing, hrefused]
    exact ⟨hu.blk, fun _ => rfl⟩

/-! ### GROVE_BLKMODE (R237) -/

section
variable {t : Sec} {s : State} {b : Nat} {x : Byte}

/-- The mode of a block changes. -/
def setMode (s : State) (b : Nat) (new : Bool) : State :=
  setGblk (setBlk (startFill s b (getBlk s b)) b (getBlk s b)) b (if new then 3 else 2)

theorem getBlk_setMode (s : State) (b : Nat) (new : Bool) (k : Nat) : getBlk (setMode s b new) k = getBlk s k := by
  have hset : getBlk (setMode s b new) k = sget blkReset (sset blkReset (startFill s b (getBlk s b)).tiers.blk b (getBlk s b)) k := rfl
  rw [hset, sget_sset]
  split
  next h => rw [h]
  next h =>
    have hfill := getBlk_startFill s b (getBlk s b) k
    rw [if_neg h] at hfill
    exact hfill

theorem getGblk_setMode (s : State) (b : Nat) (new : Bool) (k : Nat) :
    getGblk (setMode s b new) k = if k = b then (if new then 3 else 2) else getGblk s k := by
  have hset : getGblk (setMode s b new) k = sget 0 (sset 0 (startFill s b (getBlk s b)).tiers.gblk b (if new then 3 else 2)) k := rfl
  rw [hset, sget_sset]
  split
  next => rfl
  next h =>
    have hfill := getGblk_startFill s b (getBlk s b) k
    rw [if_neg h] at hfill
    exact hfill

theorem setMode_alike (s : State) (b : Nat) (new : Bool) {k : Nat} (hk : k ≠ b) : Alike k s (setMode s b new) where
  blk := getBlk_setMode s b new k
  gblk := by rw [getGblk_setMode, if_neg hk]
  pages := (landBlock_placed s b).pages
  moves := (landBlock_placed s b).moves
  rest := setGblk_only ((closedOn_frame _ s).sub (by decide)) _ _ _ <|
    setBlk_only ((closedOn_frame _ s).sub (by decide)) _ _ _ (startFill_frame s b (getBlk s b))

theorem blkmodeOne_alike (t : Sec) (u : State) {e : Nat × Byte} (he : e.1 ≠ b) : Alike b u (blkmodeOne t u e).1 := by
  unfold blkmodeOne
  dsimp only
  split
  · exact .refl b u
  · split
    · exact .refl b u
    · split
      · exact .refl b u
      · exact setMode_alike u e.1 (e.2.getLsbD 0) he.symm

theorem blkmodeOne_own (hb : b < 8192) (hown : ownedBy s t b = true) (hnew : x.getLsbD 0 ≠ isPinnedBlk s b) :
    blkmodeOne t s (b, x) = if blkType (getBlk s b) || blkUse (getBlk s b) || loadedNames s t b || groveNames s t b || isBusy s b
      || isScrubbing s t then (s, true) else (setMode s b (x.getLsbD 0), false) := by
  unfold blkmodeOne
  dsimp only
  rw [if_neg (by omega), hown, Bool.true_and, if_neg (by simpa using hnew)]
  rfl

end

theorem exec_groveBlkmodeWrite (s : State) (t : Sec) (off : BitVec 13) (wide : Bool) (data : W64) :
    exec (.groveBlkmodeWrite (.sect t) off wide data) s = .next (
      let x := eachEntry (blkmodeOne t) (begin s) (arrayBytes off.toNat wide data)
      modSect x.1 t (fun z => { z with pinRefused := x.2 })) := rfl

theorem blkmode_taken {s : State} {t : Sec} {off : BitVec 13} {wide : Bool} {data : W64} {b : Nat} (hlo : off.toNat ≤ b)
    (hhi : b < off.toNat + (if wide then 8 else 4)) (hb : b < 8192) (hown : ownedBy s t b = true)
    (hnew : (data.extractLsb' (8 * (b - off.toNat)) 8).getLsbD 0 ≠ isPinnedBlk s b)
    (hfree : (blkType (getBlk s b) || blkUse (getBlk s b) || loadedNames s t b || groveNames s t b || isBusy s b
      || isScrubbing s t) = false) :
    Effects (.groveBlkmodeWrite (.sect t) off wide data) s [.sect, .tiers, .hif, .ward, .out] (fun u =>
      isPinnedBlk u b = (data.extractLsb' (8 * (b - off.toNat)) 8).getLsbD 0 ∧ gblkBusy u b = true ∧ getBlk u b = getBlk s b) := by
  refine effects_of_exec (exec_groveBlkmodeWrite s t off wide data) rfl ?_
  generalize hbit : (data.extractLsb' (8 * (b - off.toNat)) 8).getLsbD 0 = new at hnew ⊢
  have hentry := eachEntry_at (s := begin s) (R := False) (I := Alike b s)
    (Q := fun u => getGblk u b = (if new then 3 else 2) ∧ getBlk u b = getBlk s b)
    (mem_arrayBytes data hlo hhi) (arrayBytes_nodup _ _ _) ⟨rfl, rfl, rfl, rfl, begin_frame (by decide) s⟩
    (fun u e he hu => hu.trans (blkmodeOne_alike t u he)) (fun u hu => ⟨?_, False.elim⟩)
    fun u e he hu => ⟨(blkmodeOne_alike t u he).gblk.trans hu.1, (blkmodeOne_alike t u he).blk.trans hu.2⟩
  · obtain ⟨hg, hblk⟩ := hentry.1
    refine ⟨?_, ?_, hblk⟩
    · exact (congrArg (fun y : Byte => y.getLsbD 0) hg).trans (by cases new <;> rfl)
    · exact (congrArg (fun y : Byte => y.getLsbD 1) hg).trans (by cases new <;> rfl)
  · rw [blkmodeOne_own hb ((hu.ownedBy t).trans hown) (by rw [hbit, hu.isPinnedBlk]; exact hnew), hu.blk, hu.loadedNames,
      hu.groveNames, hu.isBusy, hu.isScrubbing, hfree, hbit, if_neg (by simp)]
    exact ⟨by rw [getGblk_setMode, if_pos rfl], (getBlk_setMode _ _ _ _).trans hu.blk⟩

theorem blkmode_refused {s : State} {t : Sec} {off : BitVec 13} {wide : Bool} {data : W64} {b : Nat} (hlo : off.toNat ≤ b)
    (hhi : b < off.toNat + (if wide then 8 else 4)) (hb : b < 8192) (hown : ownedBy s t b = true)
    (hnew : (data.extractLsb' (8 * (b - off.toNat)) 8).getLsbD 0 ≠ isPinnedBlk s b)
    (hheld : (blkType (getBlk s b) || blkUse (getBlk s b) || loadedNames s t b || groveNames s t b || isBusy s b
      || isScrubbing s t) = true) :
    Effects (.groveBlkmodeWrite (.sect t) off wide data) s [.sect, .tiers, .hif, .ward, .out] (fun u =>
      getGblk u b = getGblk s b ∧ (getSect u t).pinRefused = true) := by
  refine effects_of_exec (exec_groveBlkmodeWrite s t off wide data) rfl ?_
  dsimp only
  rw [getSect_modSect, if_pos rfl]
  have hentry := eachEntry_at (s := begin s) (R := True) (I := Alike b s) (Q := fun u => getGblk u b = getGblk s b)
    (mem_arrayBytes data hlo hhi) (arrayBytes_nodup _ _ _) ⟨rfl, rfl, rfl, rfl, begin_frame (by decide) s⟩
    (fun u e he hu => hu.trans (blkmodeOne_alike t u he)) (fun u hu => ?_)
    fun u e he hu => (blkmodeOne_alike t u he).gblk.trans hu
  · exact ⟨hentry.1, hentry.2 trivial⟩
  · rw [blkmodeOne_own hb ((hu.ownedBy t).trans hown) (by rw [hu.isPinnedBlk]; exact hnew), hu.blk, hu.loadedNames,
      hu.groveNames, hu.isBusy, hu.isScrubbing, hheld]
    exact ⟨hu.gblk, fun _ => rfl⟩

/-! ### A fill that completes (R187, R498) -/

/-- The settings of all blocks stay while sections change. -/
theorem getBlk_of_tiers {s u : State} (h : u.tiers = s.tiers) (b : Nat) : getBlk u b = getBlk s b ∧ getGblk u b = getGblk s b := by
  unfold getBlk getGblk
  rw [h]
  exact ⟨rfl, rfl⟩

/-- R498: a fill of one section's release is over. -/
def fillOver (k : Nat) (s : State) (t : Sec) : State :=
  let x := getSect s t
  if !x.fills.contains k then s
  else if x.fills.all (· == k) then freeSection s t
  else modSect s t (fun x => { x with fills := x.fills.filter (· != k) })

theorem freeSection_sect (s : State) (t v : Sec) : getSect (freeSection s t) v =
    if v = t then { getSect s t with st := .free, fills := [] } else getSect s v := by
  have haudit : (auditDevice s 9 (w64 t.val) 2 0).sect = s.sect :=
    (auditDevice_only (closedOn_frame [.ward, .out] s) s _ _ _ _ (Frame.refl _ s)).2 .sect (by decide)
  rw [freeSection, getSect_modSect, getSect, getSect, haudit]
  rfl

theorem fillOver_other {k : Nat} {s : State} {t v : Sec} (hv : v ≠ t) : getSect (fillOver k s t) v = getSect s v := by
  unfold fillOver
  dsimp only
  split
  · rfl
  · split
    · rw [freeSection_sect, if_neg hv]
    · rw [getSect_modSect, if_neg hv]

theorem fillOver_frame (k : Nat) (s : State) (t : Sec) : Frame [.sect, .ward, .out] s (fillOver k s t) :=
  p_ite _ _ _ (Frame.refl _ s) (p_ite _ _ _ (freeSection_only ((closedOn_frame _ s).sub (by decide)) _ _ (Frame.refl _ s))
    (modSect_only ((closedOn_frame _ s).sub (by decide)) _ _ _ (Frame.refl _ s)))

/-- R498: a section whose release waited for this fill alone is free, and stays so. -/
theorem fillOver_frees {k : Nat} {s : State} {t : Sec} (hk : k ∈ (getSect s t).fills) (hall : ∀ x ∈ (getSect s t).fills, x = k) :
    (getSect (allSecs.foldl (fillOver k) s) t).st = .free := by
  refine (foldl_establishes (I := fun u => getSect u t = getSect s t ∨ (getSect u t).st = .free ∧ (getSect u t).fills = [])
    (Q := fun u => (getSect u t).st = .free ∧ (getSect u t).fills = []) (mem_allSecs t) (.inl rfl) (fun u v hu => ?_) (fun u hu => ?_)
    (fun u v _ hu => ?_)).1
  all_goals
    have hset (u : State) (hu : getSect u t = getSect s t ∨ (getSect u t).st = .free ∧ (getSect u t).fills = []) :
        (getSect (fillOver k u t) t).st = .free ∧ (getSect (fillOver k u t) t).fills = [] := by
      rcases hu with hu | hu
      · have hmem : (getSect u t).fills.contains k = true := by rw [hu]; simpa using hk
        have hone : (getSect u t).fills.all (· == k) = true := by rw [hu]; simpa using hall
        rw [fillOver, hmem, hone]
        simp [freeSection_sect]
      · rw [fillOver, hu.2]
        exact hu
  · by_cases hv : v = t
    · exact .inr (hv ▸ hset u hu)
    · rw [fillOver_other (Ne.symm hv)]
      exact hu
  · exact hset u hu
  · by_cases hv : v = t
    · exact hv ▸ hset u (.inr hu)
    · rw [fillOver_other (Ne.symm hv)]
      exact hu

theorem exec_blockFillComplete {s : State} {b : Fin 40960} (h : isBusy s b.val = true) :
    exec (.blockFillComplete b) s = .next (allSecs.foldl (fillOver b.val)
      (setGblk (setBlk (begin s) b.val (getBlk s b.val &&& 0xFB)) b.val (getGblk s b.val &&& 0xFD))) :=
  congrArg Host.Outcome.next (if_neg (show ¬ (!isBusy s b.val) = true by simp [h]))

theorem blkOwner_and (x : Byte) : blkOwner (x &&& 0xFB) = blkOwner x := by revert x; decide
theorem bits_and (x : Byte) : (x &&& 0xFB).getLsbD 2 = false ∧ (x &&& 0xFD).getLsbD 1 = false ∧
    (x &&& 0xFD).getLsbD 0 = x.getLsbD 0 := by revert x; decide

theorem fill_completes {s : State} {b : Fin 40960} (h : isBusy s b.val = true) :
    Effects (.blockFillComplete b) s [.sect, .tiers, .ward, .out] (fun u =>
      isBusy u b.val = false ∧ blkOwner (getBlk u b.val) = blkOwner (getBlk s b.val) ∧
      isPinnedBlk u b.val = isPinnedBlk s b.val ∧
      ∀ t, b.val ∈ (getSect s t).fills → (∀ x ∈ (getSect s t).fills, x = b.val) → (getSect u t).st = .free) := by
  refine effects_of_exec (exec_blockFillComplete h) rfl ?_
  generalize hv : setGblk (setBlk (begin s) b.val (getBlk s b.val &&& 0xFB)) b.val (getGblk s b.val &&& 0xFD) = v
  have hblk : getBlk v b.val = getBlk s b.val &&& 0xFB := by
    rw [← hv, show getBlk _ b.val = sget blkReset (sset blkReset s.tiers.blk b.val (getBlk s b.val &&& 0xFB)) b.val from rfl,
      sget_sset, if_pos rfl]
  have hgblk : getGblk v b.val = getGblk s b.val &&& 0xFD := by
    rw [← hv, show getGblk _ b.val = sget 0 (sset 0 s.tiers.gblk b.val (getGblk s b.val &&& 0xFD)) b.val from rfl,
      sget_sset, if_pos rfl]
  have hframe : Frame [.sect, .ward, .out] v (allSecs.foldl (fillOver b.val) v) :=
    p_foldl _ _ (Frame.refl _ v) fun u t hu => hu.trans (fillOver_frame _ u t)
  obtain ⟨hblk', hgblk'⟩ := getBlk_of_tiers (hframe.2 .tiers (by decide)) b.val
  have hbits := bits_and
  refine ⟨?_, ?_, ?_, fun t hmem hall => fillOver_frees (s := v) ?_ ?_⟩
  · rw [isBusy, gblkBusy, blkBusy, hblk', hgblk', hblk, hgblk, (bits_and _).1, (bits_and _).2.1, Bool.or_false]
  · rw [hblk', hblk, blkOwner_and]
  · rw [isPinnedBlk, hgblk', hgblk, (bits_and _).2.2]
    rfl
  · rw [← hv]; exact hmem
  · rw [← hv]; exact hall

/-! ### MEM_MRGN (R200, R207) -/

theorem getPage_clearPages {s : State} {x : W64} {g : Nat} (h : pagesOfRegion x g = true) : getPage (clearPages s x) g = pageReset := by
  unfold clearPages
  dsimp only
  generalize s.tiers.moves.filter (fun m => pagesOfRegion x m.page) = gone
  have hpages : ∀ u : State, (gone.foldl (fun s m => releaseHeld s m.page) u).tiers.pages = u.tiers.pages := fun u =>
    p_foldl (P := fun v : State => v.tiers.pages = u.tiers.pages) _ _ rfl fun v m hv => (releaseHeld_held v m.page).2.1.trans hv
  rw [getPage, hpages]
  exact (sget_filter_key _ _ (fun k => !pagesOfRegion x k) g).trans (if_neg (by simp [h]))

theorem exec_memMrgnWrite {s : State} {t : Sec} {i : Fin 16} {part : Part} {data : W64} (hscrub : isScrubbing s t = false)
    (hfew : ¬ (isA1 s = true ∧ 8 ≤ i.val)) :
    let old := getMrgn s t i.val
    let x := mergePart part old data &&& 0xF000FFFFFFFFFFFF
    exec (.memMrgnWrite (.sect t) t i part data) s = .next (
      if !(if mrgnOn old then !mrgnOn x && regionEmpty s old else !mrgnOn x || mrgnOk s t i.val x) then
        modSect (begin s) t (fun z => { z with mrgnRefused := true })
      else modSect (if mrgnOn old then clearPages (begin s) old else if mrgnOn x then clearPages (begin s) x else begin s) t
        (fun z => { z with mrgn := sset 0 z.mrgn i.val x, mrgnRefused := false })) := by
  intro old x
  have hexec : exec (.memMrgnWrite (.sect t) t i part data) s = .next (mrgnWrite (begin s) (.sect t) t i.val part data) := rfl
  have hdrives : (!drives (.sect t) t || (isA1 s && decide (8 ≤ i.val))) = false := by
    simpa [drives] using hfew
  rw [hexec, mrgnWrite, if_neg (by rw [isA1_begin, hdrives]; simp)]
  dsimp only
  rw [show isScrubbing (begin s) t = false from hscrub]
  rfl

theorem mrgn_written {s : State} {t : Sec} {i : Fin 16} {part : Part} {data : W64} (hscrub : isScrubbing s t = false)
    (hfew : ¬ (isA1 s = true ∧ 8 ≤ i.val)) :
    let old := getMrgn s t i.val
    let x := mergePart part old data &&& 0xF000FFFFFFFFFFFF
    let ok := if mrgnOn old then !mrgnOn x && regionEmpty s old else !mrgnOn x || mrgnOk s t i.val x
    (ok = true → Effects (.memMrgnWrite (.sect t) t i part data) s [.sect, .tiers, .ward, .out] (fun u => getMrgn u t i.val = x ∧
      (getSect u t).mrgnRefused = false ∧
      (mrgnOn x = true → ∀ g, mrgnBase x / pageBytes ≤ g → g < (mrgnBase x + mrgnBytes x) / pageBytes →
        getPage u g = pageReset))) ∧
    (ok = false → Effects (.memMrgnWrite (.sect t) t i part data) s [.sect, .out] (fun u =>
      getMrgn u t i.val = old ∧ (getSect u t).mrgnRefused = true)) := by
  intro old x ok
  have hexec := exec_memMrgnWrite (part := part) (data := data) hscrub hfew
  dsimp only at hexec
  refine ⟨fun hok => ?_, fun hok => ?_⟩
  · rw [if_neg (show ¬ (!ok) = true by simp [hok])] at hexec
    refine effects_of_exec hexec rfl ⟨?_, ?_, fun hon g hlo hhi => ?_⟩
    · rw [getMrgn, getSect_modSect, if_pos rfl, sget_sset, if_pos rfl]
    · rw [getSect_modSect, if_pos rfl]
    · have hoff : mrgnOn old = false := by
        cases hold : mrgnOn old
        · rfl
        · simp [ok, hold, hon] at hok
      rw [if_neg (show ¬ mrgnOn (getMrgn s t i.val) = true by simpa using hoff), if_pos hon]
      exact getPage_clearPages (s := begin s) (decide_eq_true ⟨hlo, hhi⟩)
  · rw [if_pos (show (!ok) = true by simp [hok])] at hexec
    refine ⟨_, hexec, ⟨?_, ?_⟩, modSect_only ((closedOn_frame _ s).sub (by decide)) _ _ _ (begin_frame (by decide) s)⟩
    · rw [getMrgn, getSect_modSect, if_pos rfl]
      rfl
    · rw [getSect_modSect, if_pos rfl]

/-- Settles O53. -/
theorem blocksAndRegionsAreConfigured : Obligations.BlocksAndRegionsAreConfigured := by
  refine ⟨fun s t off wide data b hlo hhi hb hown hnew => ⟨fun h1 h2 h3 h4 => blkcfg_taken hlo hhi hb hown hnew ⟨h1, h2, h3, h4⟩,
    blkcfg_refused hlo hhi hb hown hnew⟩, fun s t off wide data b hlo hhi hb hown hnew => ⟨fun h1 h2 h3 h4 h5 h6 => ?_, fun h => ?_⟩,
    fun s b => fill_completes, fun s t i part data => mrgn_written⟩
  · exact blkmode_taken hlo hhi hb hown hnew (by rw [h1, h2, h3, h4, h5, h6]; rfl)
  · exact blkmode_refused hlo hhi hb hown hnew (by simpa [or_assoc] using h)

end Sys2Proof.Machine
end

section
/-!
PROOFS. What the window serves (R364-R367): a byte whose place lies in another, poisoned granule than its line's first is not stored.
-/
namespace Sys2Proof.Machine

/-- A buffered write of one byte, the last of its line. -/
def strayWrite : Inbound := ⟨0, underBase, BitVec.ofNat 512 (2 ^ 504), 0x8000000000000000#64, false⟩

/-- A page stands in a frame at place 200, which no granule begins at; the granule of its bytes 56 to 63 is poisoned. -/
def strayFrame : State :=
  { State.reset with
    time := { State.reset.time with frame := some 0 }
    hif := { State.reset.hif with inbound := [strayWrite] }
    tiers := { State.reset.tiers with pages := [(pageNo underBase, ⟨true, false, some 200, 0⟩)], poison := [(1, true)] } }

theorem strayFrame_meets : inSlot0 strayFrame = true ∧ isPoison strayFrame strayWrite.addr = false ∧
    pageMoving strayFrame strayWrite.addr = false ∧
    (strayFrame.hif.inbound.filter (fun e => !dozing strayFrame (place strayFrame e.addr))).take 1 = [strayWrite] ∧
    (List.range 64).all (fun i => !inReadOnlyFrame strayFrame (strayWrite.addr + i)) = true := by decide +kernel

/-- The byte's place is in the poisoned granule, and keeps what it held. -/
theorem strayFrame_drops : place strayFrame (strayWrite.addr + 63) = 263 ∧
    rd8 (drainLines 1 (begin strayFrame)).tiers.mem 263 = 0 ∧
    (strayWrite.data.toNat >>> (8 * 63)) % 256 = 1 := by decide +kernel

/-- Refutes O49: the first byte of a line may stand in a sound granule and its last in a poisoned one, where the page's frame is
not aligned; then the byte of a window write is not stored. -/
theorem not_windowRequestsAreServed : ¬ Obligations.WindowRequestsAreServed := by
  intro h
  obtain ⟨-, -, -, -, hdrain⟩ := h
  obtain ⟨hslot, hsound, hstill, hgo, hwritable⟩ := strayFrame_meets
  obtain ⟨hplace, hkept, hdata⟩ := strayFrame_drops
  obtain ⟨u, hexec, ⟨-, -, hstored⟩, -⟩ := hdrain strayFrame 1 hslot
  have hu : exec (.inboundBufferDrain 1) strayFrame = .next (drainLines 1 (begin strayFrame)) :=
    congrArg Host.Outcome.next (if_pos (show inSlot0 (begin strayFrame) = true from hslot))
  obtain rfl : drainLines 1 (begin strayFrame) = u := by injection hu.symm.trans hexec
  have hbyte := hstored strayWrite hgo rfl rfl hsound hstill
    (fun i hi => by simpa using List.all_eq_true.1 hwritable i (List.mem_range.2 hi)) 63 (by decide) (by decide)
  rw [hplace, hkept, hdata] at hbyte
  cases hbyte

end Sys2Proof.Machine
end

section
/-!
PROOFS. The roll call of a step (R319-R321, R329-R334, R347).
-/
namespace Sys2Proof.Machine

/-! ### One pending step -/

section
variable {s u : State} {t : Sec} {q : Pend}

theorem eachPend_one (h : (getSteps s t).pend = [q]) (f : State → Pend → State) : eachPend (begin s) t f = f (begin s) q := by
  rw [eachPend, show (getSteps (begin s) t).pend = [q] from h]
  rfl

theorem pend_modPendAny (h : (getSteps u t).pend = [q]) (f : Pend → Pend) : (getSteps (modPendAny u t q.no f) t).pend = [f q] := by
  rw [modPendAny, getSteps_modSteps, if_pos rfl]
  simp [h]

/-! ### The contribution (R331) -/

theorem contributes (h : (getSteps s t).pend = [q]) (hopen : q.closed = false) (hframe : s.time.frame.isSome = true)
    (hroll : q.roll ≤ frameOf s) : Effects (.rollcallContribution t) s [.steps, .tiers, .ward, .out] (fun u => (getSteps u t).pend =
      [{ q with closed := true, causes := causesOf s t q, value := some (ownVote s q (causesOf s t q)),
                ownWord := if q.word.isSome then (ownVote s q (causesOf s t q)).orW else 0 }]) := by
  have hexec : exec (.rollcallContribution t) s = .next (contribute t (begin s) q) :=
    congrArg Host.Outcome.next (eachPend_one h (contribute t))
  have hgoes : ¬ (q.closed || (begin s).time.frame.isNone || frameOf (begin s) < q.roll) = true := by
    rw [hopen, show (begin s).time.frame = s.time.frame from rfl, show frameOf (begin s) = frameOf s from rfl]
    simpa [Option.isSome_iff_ne_none.1 hframe] using hroll
  rw [contribute, if_neg hgoes] at hexec
  refine effects_of_exec hexec rfl (pend_modPendAny ?_ _)
  split
  next a _ =>
    split
    · exact h
    · have hnote : Frame [.tiers, .ward, .out] (begin s) (noteDecodes (begin s) a 8) :=
        noteDecodes_only (closedOn_frame _ _) _ _ _ (Frame.refl _ _)
      rw [getSteps, show (noteDecodes (begin s) a 8).steps = (begin s).steps from hnote.2 .steps (by decide)]
      exact h
  next => exact h

/-! ### Sending a level (R319, R329) -/

theorem pushFlit_steps (s : State) (l sp : Nat) (b : Body) : (pushFlit s l sp b).steps = s.steps := rfl

theorem levelSent (h : (getSteps s t).pend = [q]) {v : Vote} (hv : q.value = some v) (hlevel : q.level < depthOf q.devices)
    (hdigit : digitAt q.logicalId q.level ≠ 0) (hslot : slotZeroOf s (rollFrame s t q q.level) = true) :
    Effects (.rollcallLevelSend t) s [.steps, .links, .out] (fun u =>
      (getSteps u t).pend = [{ q with level := sentMark }] ∧
      ∀ l, q.silent = false → firstActive s (digitAt q.logicalId q.level - 1) = some l → ∀ y, (getLink s l).spaces[4]? = some y →
        (getLink u l).spaces[4]? = some { y with queue := y.queue ++ [voteBody s t q v q.level
          (q.logicalId - digitAt q.logicalId q.level * 16 ^ q.level) false] }) := by
  have hexec : exec (.rollcallLevelSend t) s = .next (sendLevel t (begin s) q) :=
    congrArg Host.Outcome.next (eachPend_one h (sendLevel t))
  have hgoes : ¬ (depthOf q.devices ≤ q.level || digitAt q.logicalId q.level == 0 ||
      !slotZeroOf (begin s) (rollFrame (begin s) t q q.level)) = true := by
    rw [show slotZeroOf (begin s) (rollFrame (begin s) t q q.level) = true from hslot]
    simpa [hdigit] using hlevel
  unfold sendLevel at hexec
  rw [hv] at hexec
  dsimp only at hexec
  rw [if_neg hgoes] at hexec
  have hpend := pend_modPendAny (u := begin s) h (fun q => { q with level := sentMark })
  refine effects_of_exec hexec rfl ?_
  split
  next hs => exact ⟨hpend, fun l hsilent => absurd hs (by simp [hsilent])⟩
  next =>
    cases hact : firstActive s (digitAt q.logicalId q.level - 1) with
    | none =>
      rw [show firstActive (begin s) (digitAt q.logicalId q.level - 1) = none from hact]
      exact ⟨hpend, fun l _ hl => by cases hl⟩
    | some k =>
      rw [show firstActive (begin s) (digitAt q.logicalId q.level - 1) = some k from hact]
      refine ⟨hpend, fun l _ hl y hy => ?_⟩
      obtain rfl := Option.some.inj hl
      dsimp only
      rw [getLink_pushFlit, if_pos rfl]
      rw [List.getElem?_mapIdx, show (getLink (modPendAny (begin s) t q.no fun q => { q with level := sentMark }) k).spaces[4]? =
        some y from hy]
      rfl

/-! ### Combining and the result (R319, R320) -/

theorem levelCombined (h : (getSteps s t).pend = [q]) {v : Vote} (hv : q.value = some v) (hlevel : q.level < depthOf q.devices)
    (hcombines : combinesAt q.logicalId q.level = true) (hguard : guardCame s (rollFrame s t q q.level + hopsOf s t) = true) :
    Effects (.rollcallCombine t) s [.steps, .out] (fun u => (getSteps u t).pend =
      [{ q with value := some (combineVotes q v), level := q.level + 1 }]) := by
  have hexec : exec (.rollcallCombine t) s = .next (combineLevel t (begin s) q) :=
    congrArg Host.Outcome.next (eachPend_one h (combineLevel t))
  have hgoes : ¬ (depthOf q.devices ≤ q.level || !combinesAt q.logicalId q.level ||
      !guardCame (begin s) (rollFrame (begin s) t q q.level + hopsOf (begin s) t)) = true := by
    rw [show guardCame (begin s) (rollFrame (begin s) t q q.level + hopsOf (begin s) t) = true from hguard, hcombines]
    simpa using hlevel
  unfold combineLevel at hexec
  rw [hv] at hexec
  dsimp only at hexec
  rw [if_neg hgoes] at hexec
  exact effects_of_exec hexec rfl (pend_modPendAny (u := begin s) h _)

theorem resultSent (h : (getSteps s t).pend = [q]) {v : Vote} (hv : q.value = some v) (hrank : q.logicalId = 0)
    (hlevel : q.level = depthOf q.devices) (hresult : q.result = none)
    (hslot : slotZeroOf s (rollFrame s t q (depthOf q.devices)) = true) :
    Effects (.rollcallResultSend t) s [.steps, .links, .out] (fun u => (getSteps u t).pend =
      [{ q with result := some (checkCards q v) }]) := by
  have hexec : exec (.rollcallResultSend t) s = .next (sendResult t (begin s) q) :=
    congrArg Host.Outcome.next (eachPend_one h (sendResult t))
  have hgoes : ¬ (q.logicalId != 0 || q.level != depthOf q.devices || q.result.isSome ||
      !slotZeroOf (begin s) (rollFrame (begin s) t q (depthOf q.devices))) = true := by
    rw [show slotZeroOf (begin s) (rollFrame (begin s) t q (depthOf q.devices)) = true from hslot, hrank, hlevel, hresult]
    simp
  unfold sendResult at hexec
  rw [hv] at hexec
  dsimp only at hexec
  rw [if_neg hgoes] at hexec
  have hpend := pend_modPendAny (u := begin s) h (fun p => { p with result := some (checkCards q v) })
  refine effects_of_exec hexec rfl ?_
  split
  next => exact hpend
  next =>
    rw [getSteps, show (queueControl _ _).steps = _ from (queueControl_frame _ _).2 .steps (by decide)]
    exact hpend

theorem resultTaken (h : (getSteps s t).pend = [q]) (hopen : q.taken = false)
    (hguard : guardCame s (rollFrame s t q (depthOf q.devices) + hopsOf s t) = true) :
    Effects (.rollcallResult t) s [.steps, .out] (fun u => (getSteps u t).pend =
      [{ q with taken := true, lost := q.result.isNone }]) := by
  have hexec : exec (.rollcallResult t) s = .next (takeResult t (begin s) q) :=
    congrArg Host.Outcome.next (eachPend_one h (takeResult t))
  have hgoes : ¬ (q.taken || !guardCame (begin s) (rollFrame (begin s) t q (depthOf q.devices) + hopsOf (begin s) t)) = true := by
    rw [show guardCame (begin s) (rollFrame (begin s) t q (depthOf q.devices) + hopsOf (begin s) t) = true from hguard, hopen]
    simp
  rw [takeResult, if_neg hgoes] at hexec
  exact effects_of_exec hexec rfl (pend_modPendAny (u := begin s) h _)

end

/-! ### The return (R321, R333, R334) -/

/-- The steps of section t are x, none pending, and its roll-call registers read r. -/
structure Returned (t : Sec) (x : Steps) (r : W64 × W64 × W64) (u : State) : Prop where
  steps : getSteps u t = x
  regs : ((getSect u t).rcRes, (getSect u t).rcAnd, (getSect u t).rcOr) = r

section
variable {t v : Sec} {x : Steps} {r : W64 × W64 × W64} {s u : State}

theorem Returned.frame {L : List Piece} (h : Returned t x r s) (hframe : Frame L s u) (hsteps : .steps ∉ L) (hsect : .sect ∉ L) :
    Returned t x r u where
  steps := by rw [getSteps, show u.steps = s.steps from hframe.2 .steps hsteps]; exact h.steps
  regs := by rw [getSect, show u.sect = s.sect from hframe.2 .sect hsect]; exact h.regs

theorem Returned.modSect (h : Returned t x r s) {f : Sect → Sect}
    (hf : ∀ y, ((f y).rcRes, (f y).rcAnd, (f y).rcOr) = (y.rcRes, y.rcAnd, y.rcOr)) : Returned t x r (Machine.modSect s v f) where
  steps := h.steps
  regs := by
    rw [getSect_modSect]
    split
    next he => rw [hf, ← he]; exact h.regs
    next => exact h.regs

theorem Returned.countStep (hx : x.pend = []) (h : Returned t x r s) (c : Cmd) (st : BitVec 8) :
    Returned t x r (Machine.countStep s t c st) := by
  unfold Machine.countStep
  split
  · exact h
  · refine ⟨?_, h.regs⟩
    rw [modPend, getSteps_modSteps, if_pos rfl, h.steps, hx]
    cases x
    simp_all

theorem Returned.completeOne (hx : x.pend = []) (h : Returned t x r s) (c : Cmd) (st dt : BitVec 8) (res : BitVec 128) :
    Returned t x r (Machine.completeOne s t c st dt res) := by
  have hdrop : Returned t x r (dropCmd s t c) := ⟨h.steps, h.regs⟩
  obtain he | he := completeOne_cases s t c st dt res
  · rw [he]; exact hdrop
  · have hput : Returned t x r (putRecord (logEnd (dropCmd s t c) t c) t c st dt res) := by
      have hlog := hdrop.frame (logEnd_frame _ t c) (by decide) (by decide)
      unfold putRecord
      split
      · exact hlog.frame (leaveNoRecord_only (closedOn_frame _ _) _ _ _ (Frame.refl _ _)) (by decide) (by decide)
      · exact ⟨hlog.steps, hlog.regs⟩
    rw [he]
    unfold afterRecord
    dsimp only
    generalize putRecord (logEnd (dropCmd s t c) t c) t c st dt res = w at hput
    have hring : Returned t x r (modRing w c.pair (fun r => if r.held == some c.ord then { r with held := none } else r)) :=
      ⟨hput.steps, hput.regs⟩
    have hcount := hring.countStep hx c st
    split
    · exact hcount
    · exact hcount.frame (traceRec_only (closedOn_frame _ _) _ _ _ _ _ _ _ (Frame.refl _ _)) (by decide) (by decide)

theorem Returned.complete (hx : x.pend = []) (h : Returned t x r s) (c : Cmd) (st dt : BitVec 8) (res : BitVec 128) :
    Returned t x r (Machine.complete s t c st dt res) := by
  have hone := h.completeOne hx c st dt res
  unfold Machine.complete
  dsimp only
  refine p_ite _ _ _ (p_foldl _ _ hone fun u d hu => hu.completeOne hx d _ _ _) ?_
  split
  · exact hone.frame (releaseAfter_only (closedOn_frame [.cmds] _) _ _ _ (Frame.refl _ _)) (by decide) (by decide)
  · exact hone

theorem Returned.logError (h : Returned t x r s) (cls sev sect kind ix : Nat) (d : W64) :
    Returned t x r (Machine.logError s cls sev sect kind ix d) :=
  h.frame (logError_only (closedOn_frame [.ward, .out] s) _ _ _ _ _ _ _ (Frame.refl _ s)) (by decide) (by decide)

theorem Returned.traceRec (h : Returned t x r s) (e k i : Nat) (a b : W64) : Returned t x r (Machine.traceRec s v e k i a b) :=
  h.frame (traceRec_only (closedOn_frame [.trace] s) _ _ _ _ _ _ _ (Frame.refl _ s)) (by decide) (by decide)

theorem Returned.capOvr (h : Returned t x r s) (frame core cause path ring : Nat) :
    Returned t x r (Machine.capOvr s t frame core cause path ring) := by
  unfold Machine.capOvr
  dsimp only
  refine Returned.logError (Returned.traceRec ?_ _ _ _ _ _) _ _ _ _ _ _
  split
  · exact h.modSect fun _ => rfl
  · exact h.modSect fun _ => rfl

theorem Returned.capLoss (h : Returned t x r s) (step : Option Nat) (id : W16) (cause : Nat) :
    Returned t x r (Machine.capLoss s t step id cause) := by
  unfold Machine.capLoss
  dsimp only
  refine Returned.logError ?_ _ _ _ _ _ _
  split
  · exact h
  · exact h.modSect fun _ => rfl

/-- R255: what the outcome does to GATED commands leaves the section's roll call. -/
theorem Returned.actOnGate (hx : x.pend = []) (h : Returned t x r s) (step : Nat) (o : Option Vote) :
    Returned t x r (Machine.actOnGate s t step o) := by
  refine p_foldl _ _ h fun u c hu => ?_
  split
  next c _ =>
    unfold gateOne
    split
    next g _ =>
      refine p_ite _ _ _ hu ?_
      split
      · exact ⟨hu.steps, hu.regs⟩
      · exact Returned.complete hx (p_ite _ _ _ ((hu.capOvr _ _ _ _ _).capLoss _ _ _) hu) _ _ _ _
    next => exact hu
  next => exact hu

end

/-- R321: FAB_RCRES, FAB_RCAND and FAB_RCOR of a returned roll call. -/
def resRegs (a1 : Bool) (q : Pend) (v : Option Vote) : W64 × W64 × W64 :=
  let step := (q.step % 2 ^ 32) * 2 ^ 32
  match v with
  | none => (w64 (step + (if a1 then 0 else 16) + 4 + 2 + 1), 0, 0)
  | some v => (w64 (step + (v.voters % 2 ^ 17) * 2 ^ 15 + 8 * b2n (agrees v) + 4 * b2n v.missing + 2 * b2n v.bit + 1), v.andW, v.orW)

section
variable {s : State} {t : Sec} {q : Pend} {x : Steps} {r : W64 × W64 × W64}

theorem writeRes_returned (h : Returned t x r s) (v : Option Vote) : Returned t x (resRegs (isA1 s) q v) (writeRes s t q v) := by
  cases v <;> exact ⟨h.steps, by simp only [writeRes, getSect_modSect, if_true, resRegs]⟩

theorem recordSkip_returned (h : Returned t x r s) (v : Option Vote) : Returned t x r (recordSkip s t q v) := by
  have hskip : Returned t x r (if isA1 s then s else modSect s t (fun y => { y with errStep := stepWord y.errStep q v })) := by
    split
    · exact h
    · exact h.modSect fun _ => rfl
  unfold recordSkip
  dsimp only
  generalize (if isA1 s = true then s else modSect s t (fun y => { y with errStep := stepWord y.errStep q v })) = u at hskip ⊢
  have htrace := hskip.traceRec (v := t) 0x21 0 0 (w64 q.step) (getSect u t).errStep
  generalize traceRec u t 0x21 0 0 (w64 q.step) (getSect u t).errStep = w at htrace ⊢
  have hlog : Returned t x r (if q.causes.getLsbD 1 then logClass w 4 t.val 0xF 0 0 else w) := by
    split
    · exact htrace.logError _ _ _ _ _ _
    · exact htrace
  generalize (if q.causes.getLsbD 1 then logClass w 4 t.val 0xF 0 0 else w) = w at hlog ⊢
  split
  · exact hlog.logError _ _ _ _ _ _
  · exact hlog

theorem recordReturn_service (htrain : isTrain s t = false) (v : Option Vote) : recordReturn s t q v = s :=
  if_pos (by simp [htrain])

theorem recordReturn_train (h : Returned t x r s) (htrain : isTrain s t = true) (v : Option Vote) :
    Returned t x (resRegs (isA1 s) q v) (recordReturn s t q v) := by
  have hwrite := writeRes_returned (q := q) h v
  have hentry : Returned t x (resRegs (isA1 s) q v) (rollEntry (writeRes s t q v) t q) :=
    hwrite.frame (logAppend_only (closedOn_frame [.trace] _) _ _ _ _ _ _ (Frame.refl _ _)) (by decide) (by decide)
  unfold recordReturn
  rw [htrain]
  dsimp only
  rw [if_neg (by simp)]
  generalize rollEntry (writeRes s t q v) t q = u at hentry ⊢
  have hskip : Returned t x (resRegs (isA1 s) q v) (if skips (isA1 u) v || q.late then recordSkip u t q v else u) := by
    split
    · exact recordSkip_returned hentry v
    · exact hentry
  generalize (if skips (isA1 u) v || q.late then recordSkip u t q v else u) = w at hskip ⊢
  split
  · split
    · exact hskip
    · exact hskip.capLoss _ _ _
  · exact hskip

/-- R333: the step leaves, and its outcome is the section's. -/
theorem returnStep_returned (h : (getSteps s t).pend = [q]) (hframe : s.time.frame.isSome = true)
    (hroll : rollFrame s t q (depthOf q.devices + 1) ≤ frameOf s) :
    let v := if q.lost || !q.taken then none else q.result
    Returned t { getSteps s t with pend := [], outcomes := (getSteps s t).outcomes ++ [(q.step, v)] }
      (if isTrain s t then resRegs (isA1 s) q v else ((getSect s t).rcRes, (getSect s t).rcAnd, (getSect s t).rcOr))
      (returnStep t s q) := by
  intro v
  have hgoes : ¬ (s.time.frame.isNone || frameOf s < rollFrame s t q (depthOf q.devices + 1)) = true := by
    simpa [Option.isSome_iff_ne_none.1 hframe] using hroll
  have hagain : (getSteps s t).pend.any (fun p => p.step == q.step && decide (q.no < p.no)) = false := by
    rw [h]; simp
  have hself : Returned t (getSteps s t) ((getSect s t).rcRes, (getSect s t).rcAnd, (getSect s t).rcOr) s := ⟨rfl, rfl⟩
  have hrecord : Returned t (getSteps s t)
      (if isTrain s t then resRegs (isA1 s) q v else ((getSect s t).rcRes, (getSect s t).rcAnd, (getSect s t).rcOr))
      (recordReturn s t q v) := by
    cases htrain : isTrain s t
    · rw [recordReturn_service htrain]; exact hself
    · exact recordReturn_train hself htrain v
  unfold returnStep
  rw [if_neg hgoes]
  dsimp only
  rw [hagain]
  simp only [Bool.false_eq_true, if_false]
  refine Returned.actOnGate rfl ⟨?_, ?_⟩ q.step v
  · rw [getSteps_modSteps, if_pos rfl, hrecord.steps, h]
    simp [v]
  · exact hrecord.regs

/-- A word of a step index over 32 further bits. -/
theorem stepWord_bits {k low : Nat} (hk : k < 2 ^ 32) (hlow : low < 2 ^ 32) : bits (w64 (k * 2 ^ 32 + low)) 32 32 = k ∧
    ∀ i, i < 32 → bit64 (w64 (k * 2 ^ 32 + low)) i = low.testBit i := by
  refine ⟨?_, fun i hi => ?_⟩
  · rw [bits, w64, BitVec.toNat_ofNat, Nat.shiftRight_eq_div_pow]
    omega
  · rw [bit64, w64, BitVec.getLsbD_ofNat, Nat.mul_comm, Nat.testBit_two_pow_mul_add _ hlow]
    simp [hi, show i < 64 by omega]

theorem resRegs_spec (a1 : Bool) (q : Pend) (v : Option Vote) :
    bits (resRegs a1 q v).1 32 32 = q.step % 2 ^ 32 ∧ bit64 (resRegs a1 q v).1 0 = true ∧
    (v = none → (resRegs a1 q v).2.1 = 0 ∧ (resRegs a1 q v).2.2 = 0 ∧ bit64 (resRegs a1 q v).1 1 = true ∧
      bit64 (resRegs a1 q v).1 2 = true ∧ bit64 (resRegs a1 q v).1 4 = !a1) ∧
    ∀ w, v = some w → (resRegs a1 q v).2.1 = w.andW ∧ (resRegs a1 q v).2.2 = w.orW ∧
      bit64 (resRegs a1 q v).1 1 = w.bit ∧ bit64 (resRegs a1 q v).1 2 = w.missing := by
  have hstep : q.step % 2 ^ 32 < 2 ^ 32 := Nat.mod_lt _ (by decide)
  cases v with
  | none =>
    obtain ⟨hbits, hbit⟩ := stepWord_bits (low := (if a1 then 0 else 16) + 4 + 2 + 1) hstep (by cases a1 <;> decide)
    have hword : (resRegs a1 q none).1 = w64 (q.step % 2 ^ 32 * 2 ^ 32 + ((if a1 then 0 else 16) + 4 + 2 + 1)) :=
      congrArg w64 (by omega)
    rw [hword, hbits, hbit 0 (by decide), hbit 1 (by decide), hbit 2 (by decide), hbit 4 (by decide)]
    refine ⟨rfl, by cases a1 <;> rfl, fun _ => ⟨rfl, rfl, ?_⟩, fun w h => by cases h⟩
    cases a1 <;> exact ⟨rfl, rfl, rfl⟩
  | some w =>
    have hsmall (x : Bool) : b2n x ≤ 1 := by cases x <;> decide
    have hvoters := Nat.mod_lt w.voters (show 0 < 2 ^ 17 by decide)
    have ha := hsmall (agrees w)
    have hm := hsmall w.missing
    have hb := hsmall w.bit
    obtain ⟨hbits, hbit⟩ := stepWord_bits hstep
      (low := w.voters % 2 ^ 17 * 2 ^ 15 + 8 * b2n (agrees w) + 4 * b2n w.missing + 2 * b2n w.bit + 1) (by omega)
    have hword : (resRegs a1 q (some w)).1 = w64 (q.step % 2 ^ 32 * 2 ^ 32 +
        (w.voters % 2 ^ 17 * 2 ^ 15 + 8 * b2n (agrees w) + 4 * b2n w.missing + 2 * b2n w.bit + 1)) := congrArg w64 (by omega)
    have hlow (i : Nat) (hi : i < 3) : (w.voters % 2 ^ 17 * 2 ^ 15 + 8 * b2n (agrees w) + 4 * b2n w.missing + 2 * b2n w.bit + 1).testBit i =
        (4 * b2n w.missing + 2 * b2n w.bit + 1).testBit i := by
      rw [show w.voters % 2 ^ 17 * 2 ^ 15 + 8 * b2n (agrees w) + 4 * b2n w.missing + 2 * b2n w.bit + 1 =
        2 ^ 3 * (w.voters % 2 ^ 17 * 2 ^ 12 + b2n (agrees w)) + (4 * b2n w.missing + 2 * b2n w.bit + 1) by omega,
        Nat.testBit_two_pow_mul_add _ (by omega), if_pos hi]
    rw [hword, hbits, hbit 0 (by decide), hbit 1 (by decide), hbit 2 (by decide), hlow 0 (by decide), hlow 1 (by decide),
      hlow 2 (by decide)]
    refine ⟨rfl, ?_, fun h => by (cases h), fun u h => ?_⟩
    · cases w.missing <;> cases w.bit <;> rfl
    · obtain rfl := Option.some.inj h
      refine ⟨rfl, rfl, ?_⟩
      cases w.missing <;> cases w.bit <;> exact ⟨rfl, rfl⟩

theorem stepReturned (h : (getSteps s t).pend = [q]) (hframe : s.time.frame.isSome = true)
    (hroll : rollFrame s t q (depthOf q.devices + 1) ≤ frameOf s) :
    let v := if q.lost || !q.taken then none else q.result
    Effects (.rollcallReturn t) s [.sect, .rings, .cmds, .recs, .steps, .colls, .ward, .trace, .out] (fun u =>
      (getSteps u t).pend = [] ∧
      (getSteps u t).outcomes = (getSteps s t).outcomes ++ [(q.step, v)] ∧
      (isTrain s t = false → (getSect u t).rcRes = (getSect s t).rcRes ∧ (getSect u t).rcAnd = (getSect s t).rcAnd ∧
        (getSect u t).rcOr = (getSect s t).rcOr) ∧
      (isTrain s t = true → bits (getSect u t).rcRes 32 32 = q.step % 2 ^ 32 ∧ bit64 (getSect u t).rcRes 0 = true ∧
        (v = none → (getSect u t).rcAnd = 0 ∧ (getSect u t).rcOr = 0 ∧ bit64 (getSect u t).rcRes 1 = true ∧
          bit64 (getSect u t).rcRes 2 = true ∧ bit64 (getSect u t).rcRes 4 = !isA1 s) ∧
        (∀ w, v = some w → (getSect u t).rcAnd = w.andW ∧ (getSect u t).rcOr = w.orW ∧
          bit64 (getSect u t).rcRes 1 = w.bit ∧ bit64 (getSect u t).rcRes 2 = w.missing))) := by
  intro v
  have hexec : exec (.rollcallReturn t) s = .next (returnStep t (begin s) q) :=
    congrArg Host.Outcome.next (eachPend_one h (returnStep t))
  obtain ⟨hsteps, hregs⟩ := returnStep_returned (s := begin s) h hframe hroll
  refine effects_of_exec hexec rfl ⟨by rw [hsteps], by rw [hsteps]; rfl, fun htrain => ?_, fun htrain => ?_⟩
  · rw [if_neg (by rw [show isTrain (begin s) t = false from htrain]; simp)] at hregs
    obtain ⟨hres, hand, hor⟩ := by simpa using hregs
    exact ⟨hres, hand, hor⟩
  · rw [if_pos (show isTrain (begin s) t = true from htrain)] at hregs
    obtain ⟨h1, h2, h3, h4⟩ := resRegs_spec (isA1 s) q v
    have hres : (getSect (returnStep t (begin s) q) t).rcRes = (resRegs (isA1 s) q v).1 := congrArg (·.1) hregs
    have hand : (getSect (returnStep t (begin s) q) t).rcAnd = (resRegs (isA1 s) q v).2.1 := congrArg (·.2.1) hregs
    have hor : (getSect (returnStep t (begin s) q) t).rcOr = (resRegs (isA1 s) q v).2.2 := congrArg (·.2.2) hregs
    rw [hres, hand, hor]
    exact ⟨h1, h2, h3, h4⟩

end

/-- Settles O42. -/
theorem rollCallsContributeCombineAndReturn : Obligations.RollCallsContributeCombineAndReturn :=
  fun _ _ _ h => ⟨contributes h, fun _ => levelSent h, fun _ => levelCombined h, fun _ => resultSent h, resultTaken h,
    stepReturned h⟩

end Sys2Proof.Machine
end

section
/-!
PROOFS. LOAD_IMAGE and its unload form (R71, R400, Table 2.7).
-/
namespace Sys2Proof.Machine

/-- A command in flight that completes makes its one record, and changes what the frame of its state allows. -/
theorem records_of_recordOf {i : Instr} {s w : State} {t : Sec} {c : Cmd} {st dt : BitVec 8} {res : BitVec 128} {r : Rec}
    {L : List Piece} (hexec : exec i s = .next (complete w t c st dt res)) (hrun : isRunOp c = false) (hgrove : isGroveOp c = false)
    (hstop : c.stop ≠ some .lost) (hnet : ∀ e w f, c.job ≠ .netDrain e w f) (hrec : recordOf w c st dt res = r)
    (htick : r.tick = false) (ht : secOf r.pair = t) (hrecs : w.recs = s.recs) (hframe : Frame L s w)
    (hL : [.rings, .cmds, .recs, .steps, .colls, .trace] ⊆ L) : Records i s r L := by
  refine ⟨_, hexec, ?_, complete_only ((closedOn_frame L s).sub hL) _ _ _ _ _ _ hframe⟩
  rw [complete_eq_completeOne hrun hgrove, completeOne_recs hstop hnet, hrec, insertRec_of_not_tick htick, hrecs, ht,
    Four.get_set, if_pos rfl]

/-- The command of a LOAD_IMAGE. -/
def loadCmd (s : State) (p : Pair) (d : Desc) : Cmd := { readCmd s p 3 d none 0 with job := .load d }

/-- A LOAD_IMAGE that has been read, and holds its ring. -/
def loadRead (s v : State) (p : Pair) (d : Desc) : State := hold (takeIn v (secOf p) (loadCmd s p d)) p s.seq

theorem exec_load {s : State} {p : Pair} {d : Desc} {c : Instr} (hc : c ∈ [.loadImage p d, .unloadImage p d])
    (h : Reads c s p 3 d) : ∃ rings trace out seq, SameSetup s.trace trace ∧ exec c s = .next (
      let w := loadRead s (s.afterRead rings trace out seq) p d
      if earlierOnPair w (secOf p) (loadCmd s p d) then w else finishLoad w (secOf p) (loadCmd s p d) d) := by
  obtain ⟨hform, hread⟩ := h
  obtain ⟨hcan, hcard⟩ := (readsNow_iff s p d).1 hread
  have hboth : ringForm s c = some (p, 3, d, loadForm d) ∧ exec c s = .next (load p d s) := by
    rcases List.mem_cons.1 hc with rfl | hc
    · exact ⟨rfl, rfl⟩
    · obtain rfl := List.mem_singleton.1 hc
      exact ⟨rfl, rfl⟩
  have hload : loadForm d = true := by
    have heq := hboth.1.symm.trans hform
    simpa using heq
  obtain ⟨rings, trace, out, seq, hsetup, hexec⟩ := exec_of_read hboth.2 hcan (.inl hcard) (fun _ _ _ _ => hload)
  exact ⟨rings, trace, out, seq, hsetup, hexec.trans rfl⟩

section
variable (s : State) (p : Pair) (d : Desc) (rings : Sparse Ring) (trace : Four Trace) (out : List Out) (seq : Nat)

theorem getCmds_loadRead : getCmds (loadRead s (s.afterRead rings trace out seq) p d) (secOf p) = getCmds s (secOf p) ++ [loadCmd s p d] :=
  getCmds_takeIn ..

theorem earlierOnPair_loadRead : earlierOnPair (loadRead s (s.afterRead rings trace out seq) p d) (secOf p) (loadCmd s p d) =
    (getCmds s (secOf p)).any (fun x => x.pair == p && decide (x.ord < s.seq)) := by
  rw [earlierOnPair, getCmds_loadRead, List.any_append]
  simp [loadCmd, readCmd, cmdOf]

theorem busyWork_loadRead : busyWork (loadRead s (s.afterRead rings trace out seq) p d) (secOf p) = busyWork s (secOf p) := by
  rw [busyWork, getCmds_loadRead, List.any_append]
  simp [loadCmd, isRunOp, isGroveOp, busyWork]

theorem loadRead_frame : Frame [.rings, .cmds, .trace, .out, .seq] s (loadRead s (s.afterRead rings trace out seq) p d) :=
  hold_only ((closedOn_frame _ s).sub (by decide)) _ _ _ <| takeIn_only ((closedOn_frame _ s).sub (by decide)) _ _ _ <|
    (frame_of_read s rings trace out seq).mono (by decide)

theorem imageBytes_loadRead (a n : Nat) : imageBytes (loadRead s (s.afterRead rings trace out seq) p d) a n = imageBytes s a n := rfl

variable {s trace} (h : SameSetup s.trace trace)
include h

theorem reach_loadRead (t : Sec) (wr : Bool) (lo hi : Nat) :
    reach (loadRead s (s.afterRead rings trace out seq) p d) t wr lo hi = reach s t wr lo hi :=
  Eq.trans rfl (reach_read h rings out seq t wr lo hi)

theorem loadCheck0_loadRead : loadCheck0 (loadRead s (s.afterRead rings trace out seq) p d) (secOf p) d = loadCheck0 s (secOf p) d := by
  unfold loadCheck0
  dsimp only
  rw [reach_loadRead p d rings out seq h]

theorem loadCheck_loadRead (g : Image) :
    loadCheck (loadRead s (s.afterRead rings trace out seq) p d) (secOf p) d g = loadCheck s (secOf p) d g := by
  have hreach : reachInt (loadRead s (s.afterRead rings trace out seq) p d) (secOf p) = reachInt s (secOf p) := by
    funext wr lo hi
    rw [reachInt, reach_loadRead p d rings out seq h]
    rfl
  have hid : (loadRead s (s.afterRead rings trace out seq) p d).id = s.id := rfl
  have htime : (loadRead s (s.afterRead rings trace out seq) p d).time = s.time := rfl
  have hsect : getSect (loadRead s (s.afterRead rings trace out seq) p d) (secOf p) = getSect s (secOf p) := rfl
  have hslots : check8 (loadRead s (s.afterRead rings trace out seq) p d) (secOf p) g = check8 s (secOf p) g := rfl
  have hcommons : commonsOf (loadRead s (s.afterRead rings trace out seq) p d) (secOf p) = commonsOf s (secOf p) := rfl
  have hhole : holeInt (loadRead s (s.afterRead rings trace out seq) p d) = holeInt s := rfl
  unfold loadCheck
  rw [hreach, hid, htime, hsect, hslots, hcommons, hhole, isA1, hid]
  rfl

end

/-! ### The end of a load -/

section
variable {i : Instr} {s w : State} {p : Pair} {d : Desc} {L : List Piece}

/-- A LOAD_IMAGE that completes answers with its one record. -/
theorem records_of_load {st dt : BitVec 8} {res : BitVec 128} (hexec : exec i s = .next (complete w (secOf p) (loadCmd s p d) st dt res))
    (hframe : Frame L s w) (hrecs : w.recs = s.recs) (htime : w.time = s.time)
    (hL : [.rings, .cmds, .recs, .steps, .colls, .trace] ⊆ L) :
    Records i s (readRec s p 3 d st dt (shownResult st res)) L :=
  records_of_recordOf hexec rfl rfl (by simp [loadCmd, readCmd, cmdOf]) (by simp [loadCmd])
    (recordOf_readCmd (s := s) htime p 3 d none 0 [] st dt res) rfl rfl hrecs hframe hL

theorem records_of_load_zero {st dt : BitVec 8} (hexec : exec i s = .next (complete w (secOf p) (loadCmd s p d) st dt 0))
    (hframe : Frame L s w) (hrecs : w.recs = s.recs) (htime : w.time = s.time)
    (hL : [.rings, .cmds, .recs, .steps, .colls, .trace] ⊆ L) : Records i s (readRec s p 3 d st dt 0) L := by
  have hrec := records_of_load hexec hframe hrecs htime hL
  rwa [shownResult_zero] at hrec

/-- The image of a section after a load that ends. -/
theorem complete_images (w : State) (t : Sec) (c : Cmd) (st dt : BitVec 8) (res : BitVec 128) :
    (complete w t c st dt res).images = w.images :=
  (complete_only (closedOn_frame _ w) w t c st dt res (Frame.refl _ w)).2 .images (by decide)

theorem applyImage_images (w : State) (t : Sec) (g : Image) : (loadEntry (applyImage w t g) t g).images.get t = some g := by
  have hentry : Frame [.trace] (applyImage w t g) (loadEntry (applyImage w t g) t g) :=
    loadEntry_only (closedOn_frame _ _) _ _ _ (Frame.refl _ _)
  rw [show (loadEntry (applyImage w t g) t g).images = _ from hentry.2 .images (by decide)]
  unfold applyImage
  dsimp only
  generalize hv : ({ w with images := w.images.set t (some g), loadPages := _ } : State) = v
  have hframe : Frame [.slots, .nflag, .store, .power, .sect] v
      (requestWake (imageFlush (fillStore (setGroveBits v t (fun p k => (slotGrove g p >>> k) % 2 == 1)) g) t g) g.clusterMask) := by
    have hc := closedOn_frame [.slots, .nflag, .store, .power, .sect] v
    exact requestWake_only (hc.sub (by decide)) _ _ <| imageFlush_only (hc.sub (by decide)) _ _ _ <|
      fillStore_only (hc.sub (by decide)) _ _ <| setGroveBits_only (hc.sub (by decide)) _ _ _ (Frame.refl _ v)
  rw [show (requestWake _ g.clusterMask).images = v.images from hframe.2 .images (by decide), ← hv]
  simp

theorem dropImage_images (w : State) (t : Sec) : (dropImage w t).images.get t = none := by
  unfold dropImage
  generalize hv : ({ w with images := w.images.set t none, loadPages := w.loadPages.set t [] } : State) = v
  have hframe : Frame [.slots] v (setGroveBits v t (fun _ _ => false)) :=
    setGroveBits_only (closedOn_frame _ v) _ _ _ (Frame.refl _ v)
  rw [show (setGroveBits v t fun _ _ => false).images = v.images from hframe.2 .images (by decide), ← hv]
  simp

end

/-! ### The cases of R400 -/

/-- What finishLoad does. -/
theorem finishLoad_busy {w : State} {t : Sec} {c : Cmd} {d : Desc}
    (h : busyWork w t = true ∨ (loadAddr d = 0 ∧ loadBytes d = 0) ∧ stepOpen (getSteps w t) = true) :
    finishLoad w t c d = complete w t c stAborted 0 0 := by
  unfold finishLoad
  dsimp only
  rw [if_pos]
  rcases h with h | ⟨⟨ha, hb⟩, hopen⟩
  · simp [h]
  · simp [ha, hb, hopen]

theorem finishLoad_unload {w : State} {t : Sec} {c : Cmd} {d : Desc} (hbusy : busyWork w t = false) (ha : loadAddr d = 0)
    (hb : loadBytes d = 0) (hopen : stepOpen (getSteps w t) = false) :
    finishLoad w t c d = complete (dropImage w t) t c stOk 0 0 := by
  unfold finishLoad
  dsimp only
  rw [if_neg (by simp [hbusy, hopen]), if_pos (by simp [ha, hb])]

theorem finishLoad_load {w : State} {t : Sec} {c : Cmd} {d : Desc} (hbusy : busyWork w t = false)
    (hload : ¬ (loadAddr d = 0 ∧ loadBytes d = 0)) : finishLoad w t c d =
      match loadCheck0 w t d with
      | some st => complete w t c st 0 0
      | none =>
        match loadCheck w t d (imageOf (imageBytes w (loadAddr d) (loadBytes d)) (loadBytes d)) with
        | some (n, st) => complete w t c st (BitVec.ofNat 8 n) 0
        | none =>
          complete (loadEntry (applyImage w t (imageOf (imageBytes w (loadAddr d) (loadBytes d)) (loadBytes d))) t
            (imageOf (imageBytes w (loadAddr d) (loadBytes d)) (loadBytes d))) t c stOk 0
            (resultOf [(0, 8, (imageOf (imageBytes w (loadAddr d) (loadBytes d)) (loadBytes d)).jobId)]) := by
  have hun : (loadAddr d == 0 && loadBytes d == 0) = false := by simpa using hload
  unfold finishLoad
  dsimp only
  rw [hun, if_neg (by simp [hbusy]), if_neg (by simp)] <;> rfl

/-- Settles O23. -/
theorem imagesLoadAndUnload : Obligations.ImagesLoadAndUnload := by
  intro s p d c hc hreads
  obtain ⟨rings, trace, out, seq, hsetup, hexec⟩ := exec_load hc hreads
  have hframe := loadRead_frame s p d rings trace out seq
  have hbusy := busyWork_loadRead s p d rings trace out seq
  have hsteps : getSteps (loadRead s (s.afterRead rings trace out seq) p d) (secOf p) = getSteps s (secOf p) := rfl
  have hcheck0 := loadCheck0_loadRead p d rings out seq hsetup
  have hcheck := loadCheck_loadRead p d rings out seq hsetup
  have hbytes := imageBytes_loadRead s p d rings trace out seq
  have hrecs : (loadRead s (s.afterRead rings trace out seq) p d).recs = s.recs := rfl
  have htime : (loadRead s (s.afterRead rings trace out seq) p d).time = s.time := rfl
  have hheld : (getRing (loadRead s (s.afterRead rings trace out seq) p d) p).held = some s.seq := getRing_hold ..
  have hin : InFlight (loadRead s (s.afterRead rings trace out seq) p d) (secOf p) s.seq (.load d) :=
    inFlight_takeIn (s.afterRead rings trace out seq) (secOf p) (loadCmd s p d)
  dsimp only at hexec
  rw [earlierOnPair_loadRead] at hexec
  generalize loadRead s (s.afterRead rings trace out seq) p d = w at *
  refine ⟨fun hearlier => ?_, fun hfirst => ?_⟩
  · rw [if_pos] at hexec
    · exact ⟨w, hexec, ⟨hin, hheld⟩, hframe⟩
    · obtain ⟨x, hx, hp, hord⟩ := hearlier
      exact List.any_eq_true.2 ⟨x, hx, by simp [hp, hord]⟩
  rw [if_neg (fun h => by
    obtain ⟨x, hx, hxp⟩ := List.any_eq_true.1 h
    obtain ⟨hp, hord⟩ := Bool.and_eq_true_iff.1 hxp
    exact absurd (of_decide_eq_true hord) (Nat.not_lt.2 (hfirst x hx (eq_of_beq hp))))] at hexec
  refine ⟨fun hwork => ?_, fun hwork ha hb => ⟨fun hopen => ?_, fun hopen => ?_⟩, fun hwork hload => ?_⟩
  · rw [finishLoad_busy (.inl (hbusy.trans hwork))] at hexec
    exact records_of_load hexec (hframe.mono (by decide)) hrecs htime (by decide)
  · rw [finishLoad_busy (.inr ⟨⟨ha, hb⟩, by rw [hsteps, hopen]⟩)] at hexec
    exact records_of_load hexec (hframe.mono (by decide)) hrecs htime (by decide)
  · rw [finishLoad_unload (hbusy.trans hwork) ha hb (by rw [hsteps, hopen])] at hexec
    have hdrop : Frame [.slots, .images, .loadPages] w (dropImage w (secOf p)) :=
      dropImage_only (closedOn_frame _ w) _ _ (Frame.refl _ w)
    refine ⟨records_of_load hexec ((hframe.mono (by decide)).trans (hdrop.mono (by decide))) ((hdrop.2 .recs (by decide)).trans hrecs)
      ((hdrop.2 .time (by decide)).trans htime) (by decide), ?_⟩
    refine ⟨_, hexec, (congrArg (·.get (secOf p)) (complete_images ..)).trans (dropImage_images ..), ?_⟩
    exact complete_only ((closedOn_frame _ s).sub (by decide)) _ _ _ _ _ _ ((hframe.mono (by decide)).trans (hdrop.mono (by decide)))
  · rw [finishLoad_load (hbusy.trans hwork) hload, hcheck0, hbytes, hcheck] at hexec
    cases h0 : loadCheck0 s (secOf p) d with
    | some st =>
      rw [h0] at hexec
      dsimp only
      exact records_of_load_zero hexec (hframe.mono (by decide)) hrecs htime (by decide)
    | none =>
      rw [h0] at hexec
      dsimp only at hexec ⊢
      generalize imageOf (imageBytes s (loadAddr d) (loadBytes d)) (loadBytes d) = g at *
      cases h1 : loadCheck s (secOf p) d g with
      | some x =>
        rw [h1] at hexec
        dsimp only
        exact records_of_load_zero hexec (hframe.mono (by decide)) hrecs htime (by decide)
      | none =>
        rw [h1] at hexec
        dsimp only at hexec
        have happly : Frame [.sect, .slots, .nflag, .images, .loadPages, .store, .power, .trace] w
            (loadEntry (applyImage w (secOf p) g) (secOf p) g) :=
          loadEntry_only ((closedOn_frame _ w).sub (by decide)) _ _ _
            (applyImage_only ((closedOn_frame _ w).sub (by decide)) _ _ _ (Frame.refl _ w))
        have hall := (hframe.mono (by decide)).trans (happly.mono (by decide : _ ⊆ [Piece.sect, .slots, .nflag, .rings, .cmds, .recs,
          .steps, .images, .loadPages, .store, .colls, .power, .trace, .out, .seq]))
        refine ⟨records_of_load hexec hall ((happly.2 .recs (by decide)).trans hrecs) ((happly.2 .time (by decide)).trans htime)
          (by decide), _, hexec, (congrArg (·.get (secOf p)) (complete_images ..)).trans (applyImage_images ..), ?_⟩
        exact complete_only ((closedOn_frame _ s).sub (by decide)) _ _ _ _ _ _ hall

end Sys2Proof.Machine
end

section
/-!
PROOFS. RUN: what is admitted and what is refused (R72-R75, R208, R330, R420).
-/
namespace Sys2Proof.Machine

/-! ### A counting command whose step is in order (R327-R332) -/

/-- The state of a read whose command may have opened or joined a step. -/
abbrev State.afterStep (s : State) (rings : Sparse Ring) (trace : Four Trace) (out : List Out) (seq : Nat) (steps : Four Steps) : State :=
  { s with rings, trace, out, seq, steps }

theorem findPend_joinStep (v : State) (t : Sec) (d : Desc) : findPend (getSteps (joinStep v t d) t) (stIndex d) =
    (findPend (getSteps v t) (stIndex d)).map (·.joined d) := by
  rw [getSteps_joinStep, findPend, List.find?_map]
  have hp : ((fun q : Pend => q.step == stIndex d && !q.closed) ∘ onOpen (stIndex d) (·.joined d)) =
      fun q : Pend => q.step == stIndex d && !q.closed := by
    funext q
    by_cases h : (q.step == stIndex d && !q.closed) = true
    · simp [onOpen, h, Pend.joined]
    · simp [onOpen, h]
  rw [hp, findPend]
  cases h : (getSteps v t).pend.find? (fun q => q.step == stIndex d && !q.closed) with
  | none => rfl
  | some q =>
    have hq : (q.step == stIndex d && !q.closed) = true := List.find?_some (p := fun q : Pend => q.step == stIndex d && !q.closed) h
    simp [onOpen, hq]

/-- R329: a step that may be joined is open with the same roll-call frame; one that opens is not open. -/
theorem stepVerdict_joins {s : State} {t : Sec} {d : Desc} (h : stepVerdict s t d = .joins) :
    ∃ q, findPend (getSteps s t) (stIndex d) = some q ∧ q.roll = stRoll d := by
  unfold stepVerdict at h
  dsimp only at h
  split at h
  · cases h
  · split at h
    next q hq =>
      refine ⟨q, hq, ?_⟩
      split at h
      · cases h
      · split at h
        · cases h
        next hroll =>
          obtain ⟨hroll, -⟩ : q.roll = stRoll d ∧ wordOk s t d (some q) = true := by simpa using hroll
          exact hroll
    next => (repeat' split at h) <;> cases h

theorem stepVerdict_opens {s : State} {t : Sec} {d : Desc} (h : stepVerdict s t d = .opens) :
    findPend (getSteps s t) (stIndex d) = none := by
  unfold stepVerdict at h
  dsimp only at h
  split at h
  · cases h
  · split at h
    · split at h
      · cases h
      · split at h <;> cases h
    next hnone => exact hnone

theorem findPend_openStep {v : State} {t : Sec} {d : Desc} (h : findPend (getSteps v t) (stIndex d) = none) :
    ∃ q, findPend (getSteps (openStep v t d false) t) (stIndex d) = some q ∧ q.roll = stRoll d := by
  rw [openStep, getSteps_modSteps, if_pos rfl, findPend]
  dsimp only
  rw [List.find?_append, show (getSteps v t).pend.find? (fun q => q.step == stIndex d && !q.closed) = none from h]
  rw [Option.none_or, List.find?_singleton, if_pos (by simp [newPend])]
  exact ⟨_, rfl, rfl⟩

/-- R330: the roll-call frame of the command's step, where it counts for one. -/
def rollRead (s : State) (t : Sec) (d : Desc) : Option Nat := if stCarry d && isTrain s t then some (stRoll d) else none

theorem any_rollRead (s : State) (t : Sec) (d : Desc) (last : Nat) : (rollRead s t d).any (fun f => decide (f ≤ last)) = true ↔
    stCarry d = true ∧ isTrain s t = true ∧ stRoll d ≤ last := by
  by_cases h : (stCarry d && isTrain s t) = true
  · obtain ⟨hcarry, htrain⟩ : stCarry d = true ∧ isTrain s t = true := by simpa using h
    simp [rollRead, hcarry, htrain]
  · rw [rollRead, if_neg h]
    simp only [Bool.and_eq_true, not_and] at h
    simp only [Option.any_none, Bool.false_eq_true, false_iff]
    exact fun ⟨hcarry, htrain, _⟩ => h hcarry htrain

/-- A command that a step lets go on does so with its step opened or joined, its index, and its roll-call frame. -/
theorem withStep_goes {s : State} {trace : Four Trace} (hsetup : SameSetup s.trace trace) (rings : Sparse Ring) (out : List Out)
    (seq : Nat) (p : Pair) (op : BitVec 8) (d : Desc) (hstep : stCarry d = false ∨ isTrain s (secOf p) = false ∨
      stepVerdict s (secOf p) d = .joins ∨ stepVerdict s (secOf p) d = .opens) (k : State → Cmd → State) :
    ∃ steps carry, withStep (s.afterRead rings trace out seq) (secOf p) d (readCmd s p op d none 0) k =
        k (s.afterStep rings trace out seq steps) (readCmd s p op d carry (if stCarry d then stIndex d else 0)) ∧
      rollOf (s.afterStep rings trace out seq steps) (secOf p) (readCmd s p op d carry (if stCarry d then stIndex d else 0)) =
        rollRead s (secOf p) d := by
  by_cases hcarry : stCarry d = true
  · by_cases htrain : isTrain s (secOf p) = true
    · have htrain' : isTrain (s.afterRead rings trace out seq) (secOf p) = true := htrain
      have hverdict : stepVerdict (s.afterRead rings trace out seq) (secOf p) d = stepVerdict s (secOf p) d :=
        stepVerdict_read hsetup ..
      have hroll (u : State) {q : Pend} (hq : findPend (getSteps u (secOf p)) (stIndex d) = some q) (hf : q.roll = stRoll d) :
          rollOf (joinStep u (secOf p) d) (secOf p) (readCmd s p op d (some (stIndex d)) (stIndex d)) = rollRead s (secOf p) d := by
        have hcount : (readCmd s p op d (some (stIndex d)) (stIndex d)).carry = some (stIndex d) := rfl
        rw [rollOf, hcount, Option.bind_some, findPend_joinStep, hq, rollRead, hcarry, htrain]
        simp [Pend.joined, hf]
      rcases hstep with h | h | h | h
      · simp [hcarry] at h
      · simp [htrain] at h
      · obtain ⟨q, hq, hf⟩ := stepVerdict_joins (hverdict.trans h)
        refine ⟨(joinStep (s.afterRead rings trace out seq) (secOf p) d).steps, some (stIndex d), ?_, ?_⟩
        · simp only [withStep, hcarry, htrain', hverdict, h, Bool.not_true, Bool.false_eq_true, if_false, if_true]
          rfl
        · rw [if_pos hcarry]
          exact hroll _ hq hf
      · obtain ⟨q, hq, hf⟩ := findPend_openStep (stepVerdict_opens (hverdict.trans h))
        refine ⟨(joinStep (openStep (s.afterRead rings trace out seq) (secOf p) d false) (secOf p) d).steps, some (stIndex d), ?_, ?_⟩
        · simp only [withStep, hcarry, htrain', hverdict, h, Bool.not_true, Bool.false_eq_true, if_false, if_true]
          rfl
        · rw [if_pos hcarry]
          exact hroll _ hq hf
    · have hservice : isTrain s (secOf p) = false := by simpa using htrain
      have htrain' : isTrain (s.afterRead rings trace out seq) (secOf p) = false := hservice
      refine ⟨s.steps, none, ?_, ?_⟩
      · simp only [withStep, hcarry, htrain', Bool.not_true, Bool.not_false, Bool.false_eq_true, if_false, if_true]
        rfl
      · rw [rollRead, hservice, Bool.and_false]
        rfl
  · have hnone : stCarry d = false := by simpa using hcarry
    refine ⟨s.steps, none, ?_, ?_⟩
    · simp only [withStep, hnone, Bool.not_false, Bool.false_eq_true, if_false, if_true]
    · rw [rollRead, hnone]
      rfl

/-! ### RUN (R72-R75, R420) -/

theorem exec_runRead {s : State} {p : Pair} {d : Desc} {c : Instr} (hc : c ∈ [.run p d, .repeatRun p d]) (h : Reads c s p 4 d)
    (hstep : stCarry d = false ∨ isTrain s (secOf p) = false ∨ stepVerdict s (secOf p) d = .joins ∨
      stepVerdict s (secOf p) d = .opens) : ∃ rings trace out seq steps carry, SameSetup s.trace trace ∧
    exec c s = .next (runRead (s.afterStep rings trace out seq steps) (secOf p) d
      (readCmd s p 4 d carry (if stCarry d then stIndex d else 0))) ∧
    rollOf (s.afterStep rings trace out seq steps) (secOf p) (readCmd s p 4 d carry (if stCarry d then stIndex d else 0)) =
      rollRead s (secOf p) d := by
  obtain ⟨hform, hread⟩ := h
  obtain ⟨hcan, hcard⟩ := (readsNow_iff s p d).1 hread
  have hboth : ringForm s c = some (p, 4, d, runForm s (secOf p) d) ∧ exec c s = .next (readRun p d s) := by
    rcases List.mem_cons.1 hc with rfl | hc
    · exact ⟨rfl, rfl⟩
    · obtain rfl := List.mem_singleton.1 hc
      exact ⟨rfl, rfl⟩
  have hrun : runForm s (secOf p) d = true := by
    have heq := hboth.1.symm.trans hform
    simpa using heq
  obtain ⟨rings, trace, out, seq, hsetup, hexec⟩ := exec_of_read hboth.2 hcan (.inl hcard) (fun _ _ _ _ => hrun)
  obtain ⟨steps, carry, hgoes, hroll⟩ := withStep_goes hsetup rings out seq p 4 d hstep
    (fun s c => runRead s (secOf p) d c)
  exact ⟨rings, trace, out, seq, steps, carry, hsetup, hexec.trans (congrArg Host.Outcome.next hgoes), hroll⟩

section
variable {s : State} {trace : Four Trace} (h : SameSetup s.trace trace) (rings : Sparse Ring) (out : List Out) (seq : Nat)
  (steps : Four Steps)
include h

theorem reach_step (t : Sec) (wr : Bool) (lo hi : Nat) : reach (s.afterStep rings trace out seq steps) t wr lo hi = reach s t wr lo hi :=
  Eq.trans rfl (reach_read h rings out seq t wr lo hi)

theorem refCheck_step (t : Sec) (a : Nat) : refCheck (s.afterStep rings trace out seq steps) t a = refCheck s t a := by
  have hbytes : rdDevBytes (s.afterStep rings trace out seq steps) a 2 = rdDevBytes s a 2 := rfl
  have hid : isA1 (s.afterStep rings trace out seq steps) = isA1 s := rfl
  have hranges : refRanges (s.afterStep rings trace out seq steps) a = refRanges s a := rfl
  have hrec : refBytes (s.afterStep rings trace out seq steps) a = refBytes s a := rfl
  have hhole (lo hi : Nat) : touchesHole (s.afterStep rings trace out seq steps) lo hi = touchesHole s lo hi := rfl
  unfold refCheck
  simp only [reach_step h, hbytes, hid, hranges, hrec, hhole]

end

theorem frame_of_step (s : State) (rings : Sparse Ring) (trace : Four Trace) (out : List Out) (seq : Nat) (steps : Four Steps) :
    Frame [.rings, .steps, .trace, .out, .seq] s (s.afterStep rings trace out seq steps) :=
  ⟨rfl, fun p hp => by cases p <;> simp at hp <;> rfl⟩

/-- What a RUN may change. -/
abbrev runPieces : List Piece := [.sect, .rings, .cmds, .recs, .steps, .colls, .tiers, .hif, .ward, .power, .trace, .out, .seq]

/-- R58, R75, R330: the RUN of variants that fit, whose reference record breaks no rule. -/
theorem runRead_checked {v : State} {t : Sec} {d : Desc} {c : Cmd} {g : Image} {vs : List Nat} (himage : v.images.get t = some g)
    (hvs : (runLens d).mapM (variantFor g) = some vs) (href : (if runRepeat d then refCheck v t (runRef d) else none) = none) :
    runRead v t d c =
      if !timeGood v then completeRead v t c stAborted 0 0
      else if !startFits v t (startOf v t d) ||
          (rollOf v t c).any (fun f => decide (f ≤ startOf v t d + framesIn g vs - 1)) then
        completeRead (capLate v t (startOf v t d) (ringIx c.pair)) t c stOverrun 5 0
      else admitRun v t { c with draw := if runRepeat d then leNat (rdDevBytes v (runRef d + 8) 8) else c.draw } g
        ⟨runLens d, vs, startOf v t d, runStartFrame d == 0, false, 0, 0, 0, if runRepeat d then some (runRef d) else none,
          if runRepeat d then (refRanges v (runRef d)).map (rangeCrc v) else [],
          runStartFrame d == 0 && (runsOf v t).isEmpty⟩ := by
  unfold runRead
  rw [himage]
  dsimp only
  rw [hvs]
  dsimp only
  rw [href]
  cases rollOf v t c <;> cases runRepeat d <;> rfl

theorem inFlight_of_frame {s u : State} {L : List Piece} {t : Sec} {k : Nat} {j : Job} (h : InFlight s t k j) (hframe : Frame L s u)
    (hL : .cmds ∉ L) : InFlight u t k j := by
  rw [InFlight, getCmds, show u.cmds = s.cmds from hframe.2 .cmds hL]
  exact h

/-- R208: no page that is not bound to the canopy is made resident. -/
theorem makeResident_of_unbound {s : State} {pages : List Nat} (h : ∀ k ∈ pages, (getPage s k).bound = false) (t : Sec) (o : Nat) :
    makeResident s t o pages = some s := by
  have hnone : pages.filter (fun k => (getPage s k).bound) = [] :=
    List.filter_eq_nil_iff.2 fun k hk => by simp [h k hk]
  rw [makeResident, hnone]
  rfl

/-- R208, R377, R490: a RUN is admitted, unless a frame is lacking for a canopy-bound page. -/
theorem admitRun_cases (v : State) (t : Sec) (c : Cmd) (g : Image) (r : RunJob) :
    InFlight (admitRun v t c g r) t c.ord (.run r) ∨
      admitRun v t c g r = completeRead v t c stQuota 0 0 ∧ ∃ k ∈ runPages v t r.variants, (getPage v k).bound = true := by
  unfold admitRun
  dsimp only
  cases hres : makeResident v t c.ord (runPages v t r.variants) with
  | none =>
    refine .inr ⟨rfl, ?_⟩
    by_contra hnone
    rw [makeResident_of_unbound fun k hk => ?_] at hres
    · cases hres
    · by_contra hbound
      exact hnone ⟨k, hk, by simpa using hbound⟩
  | some u =>
    refine .inl ?_
    dsimp only
    have hclosed : ClosedOn (fun u => InFlight u t c.ord (.run r)) [.tiers, .hif, .sect, .power] :=
      closedOn_of_frame fun _ _ hin hsame => inFlight_of_frame hin hsame (by decide)
    exact requestWake_only (hclosed.sub (by decide)) _ _ <| addRecalls_only (hclosed.sub (by decide)) _ _ _ _ <|
      touchPages_only (hclosed.sub (by decide)) _ _ (inFlight_takeIn u t _)

/-- Settles O24. -/
theorem runsAreAdmittedOrRefused : Obligations.RunsAreAdmittedOrRefused := by
  intro s p d c hc hreads hstep t L
  obtain ⟨rings, trace, out, seq, steps, carry, hsetup, hexec, hroll⟩ := exec_runRead hc hreads hstep
  have hframe : Frame L s (s.afterStep rings trace out seq steps) := (frame_of_step s rings trace out seq steps).mono (by decide)
  have hrefuse {st : BitVec 8} {w : State} {draw : Nat} (hexec : exec c s = .next (completeRead w (secOf p)
      (readCmd s p 4 d carry draw) st 0 0)) (hw : Frame L s w) (hrecs : w.recs = s.recs)
      (htime : w.time = s.time) : Records c s (readRec s p 4 d st 0 0) L := by
    have hrec := records_of_completeRead hexec hw hrecs htime (by decide) (.inr (by decide))
    rwa [shownResult_zero] at hrec
  cases himage : s.images.get t with
  | none =>
    refine hrefuse (w := s.afterStep rings trace out seq steps) (draw := if stCarry d then stIndex d else 0) ?_ hframe rfl rfl
    rw [hexec, runRead, show (s.afterStep rings trace out seq steps).images.get (secOf p) = none from himage]
  | some g =>
    dsimp only
    cases hvs : (runLens d).mapM (variantFor g) with
    | none =>
      refine hrefuse (w := s.afterStep rings trace out seq steps) (draw := if stCarry d then stIndex d else 0) ?_ hframe rfl rfl
      rw [hexec, runRead, show (s.afterStep rings trace out seq steps).images.get (secOf p) = some g from himage]
      dsimp only
      rw [hvs]
    | some vs =>
      dsimp only
      cases href : (if runRepeat d then refCheck s t (runRef d) else none) with
      | some st =>
        refine hrefuse (w := s.afterStep rings trace out seq steps) (draw := if stCarry d then stIndex d else 0) ?_ hframe rfl rfl
        rw [hexec, runRead, show (s.afterStep rings trace out seq steps).images.get (secOf p) = some g from himage]
        dsimp only
        rw [hvs]
        dsimp only
        rw [refCheck_step hsetup, show (if runRepeat d then refCheck s (secOf p) (runRef d) else none) = some st from href]
      | none =>
        dsimp only
        rw [runRead_checked (v := s.afterStep rings trace out seq steps) himage hvs (by rw [refCheck_step hsetup]; exact href),
          hroll] at hexec
        refine ⟨fun hbad => hrefuse (hexec.trans (congrArg Host.Outcome.next (if_pos ?_))) hframe rfl rfl,
          fun hgood => ?_⟩
        · rw [show timeGood (s.afterStep rings trace out seq steps) = false from hbad]
          rfl
        rw [show timeGood (s.afterStep rings trace out seq steps) = true from hgood, Bool.not_true,
          if_neg Bool.false_ne_true] at hexec
        refine ⟨fun hlate => ?_, fun hfits hroom => ?_⟩
        · rw [if_pos (by
            rw [Bool.or_eq_true, any_rollRead, Bool.not_eq_true']
            exact hlate)] at hexec
          have hcap : Frame [.sect, .ward, .trace, .out] (s.afterStep rings trace out seq steps) (capLate (s.afterStep rings trace out seq steps) t (startOf s t d) (ringIx p)) :=
            capLate_only (closedOn_frame _ _) _ _ _ _ (Frame.refl _ _)
          have hrec := records_of_completeRead (L := L) hexec (hframe.trans (hcap.mono (by decide))) (hcap.2 .recs (by decide)) (hcap.2 .time (by decide)) (by decide) (.inr (by decide))
          rwa [shownResult_zero] at hrec
        · rw [if_neg (by
            rw [Bool.or_eq_true, any_rollRead, Bool.not_eq_true']
            rintro (hnot | ⟨hcarry, htrain, hle⟩)
            · exact Bool.noConfusion (hfits.symm.trans hnot)
            · exact absurd (hroom hcarry htrain) (Nat.not_lt.2 hle))] at hexec
          have hkeep (c : Cmd) (r : RunJob) : Frame L s (admitRun (s.afterStep rings trace out seq steps) t c g r) :=
            hframe.trans ((admitRun_only (closedOn_frame _ _) _ t c g r (Frame.refl _ _)).mono (by decide))
          rcases admitRun_cases _ _ _ _ _ with hin | ⟨hquota, k, hk, hbound⟩
          · have hadmit := (⟨_, hexec, hin, hkeep _ _⟩ : Admits c s t s.seq _ L)
            exact ⟨.inl hadmit, fun _ => hadmit⟩
          · refine ⟨.inr (hrefuse (hexec.trans (congrArg Host.Outcome.next hquota)) hframe rfl rfl), fun hfree => ?_⟩
            exact Bool.noConfusion ((hfree k hk).symm.trans hbound)

end Sys2Proof.Machine
end

section
/-!
PROOFS. RUN: its start at its tick, and its completion after its last frame (R58, R76, R103, R421).
-/
namespace Sys2Proof.Machine

theorem mem_runsOf {s : State} {t : Sec} {c : Cmd} {r : RunJob} : (c, r) ∈ runsOf s t ↔ c ∈ getCmds s t ∧ c.job = .run r := by
  rw [runsOf, List.mem_filterMap]
  constructor
  · rintro ⟨x, hx, hmatch⟩
    cases hjob : x.job with
    | run y =>
      rw [hjob] at hmatch
      obtain ⟨rfl, rfl⟩ : x = c ∧ y = r := by simpa using hmatch
      exact ⟨hx, hjob⟩
    | _ =>
      rw [hjob] at hmatch
      cases hmatch
  · rintro ⟨hc, hjob⟩
    exact ⟨c, hc, by rw [hjob]⟩

theorem runningRun_mem {s : State} {t : Sec} {c : Cmd} {r : RunJob} (h : runningRun s t = some (c, r)) :
    c ∈ getCmds s t ∧ c.job = .run r :=
  mem_runsOf.1 (List.mem_of_find?_eq_some h)

theorem dueRun_mem {s : State} {t : Sec} {c : Cmd} {r : RunJob} (h : dueRun s t = some (c, r)) :
    c ∈ getCmds s t ∧ c.job = .run r := by
  unfold dueRun at h
  split at h
  · cases h
  · exact mem_runsOf.1 (List.mem_of_find?_eq_some h)

theorem inFlight_modRun {s : State} {t : Sec} {c : Cmd} {r : RunJob} (hc : c ∈ getCmds s t) (hjob : c.job = .run r)
    (f : RunJob → RunJob) : InFlight (modRun s t c.ord f) t c.ord (.run (f r)) := by
  refine ⟨{ c with job := .run (f r) }, ?_, rfl, rfl⟩
  rw [modRun, modCmd, getCmds_setCmds, if_pos rfl]
  exact List.mem_map.2 ⟨c, hc, by rw [if_pos (beq_self_eq_true _), hjob]⟩

/-! ### Completion -/

/-- A completed command that has a descriptor and is not lost with the host link has its record, whatever it ends with it. -/
theorem recordOf_mem_complete {s : State} {t : Sec} {c : Cmd} (hstop : c.stop ≠ some .lost)
    (hnet : ∀ e w f, c.job ≠ .netDrain e w f) (st dt : BitVec 8) (res : BitVec 128) :
    recordOf s c st dt res ∈ (complete s t c st dt res).recs.get t := by
  have hone : recordOf s c st dt res ∈ (completeOne s t c st dt res).recs.get t := by
    rw [completeOne_recs hstop hnet, Four.get_set, if_pos rfl]
    exact mem_insertRec_self _ _
  have hfold (l : List Cmd) : ∀ u : State, recordOf s c st dt res ∈ u.recs.get t →
      recordOf s c st dt res ∈ (l.foldl (fun s d => completeOne s t d stAborted 0 0) u).recs.get t := by
    induction l with
    | nil => exact fun _ h => h
    | cons d l ih => exact fun u h => ih _ (recs_subset_completeOne _ _ _ _ _ _ t _ h)
  have hrelease : recordOf s c st dt res ∈ (releaseAfter (completeOne s t c st dt res) t c.ord).recs.get t := by
    rw [show (releaseAfter _ t c.ord).recs = _ from
      (releaseAfter_only (closedOn_frame [.cmds] _) _ t c.ord (Frame.refl _ _)).2 .recs (by decide)]
    exact hone
  unfold complete
  dsimp only
  cases c.job with
  | run _ =>
    dsimp only
    split
    · exact hfold _ _ hone
    · exact hone
  | grove _ =>
    dsimp only
    split
    · exact hfold _ _ hone
    · exact hrelease
  | _ => exact hone

/-- A RUN that ends leaves the record of its status and RESULT. -/
theorem runRecord_mem_complete {s w : State} {t : Sec} {c : Cmd} {r : RunJob} (hjob : c.job = .run r) (hstop : c.stop ≠ some .lost)
    (htime : w.time = s.time) (st dt : BitVec 8) (res : BitVec 128) :
    recordOf s c st dt res ∈ (complete w t c st dt res).recs.get t := by
  rw [← recordOf_congr htime]
  exact recordOf_mem_complete hstop (fun _ _ _ h => by rw [hjob] at h; cases h) st dt res

/-! ### Start -/

/-- The cores and accumulators right after the start of a RUN on the given cores (R98, R103). -/
def clearCores (s : State) (l : List Nat) : State :=
  l.foldl (fun s q => modCore (if isA1 s then s else clearAcc s q) q (fun _ => coreReset)) s

theorem clearCores_frame (s : State) (l : List Nat) : Frame [.cores, .acc] s (clearCores s l) := by
  have hc := closedOn_frame [.cores, .acc] s
  unfold clearCores
  refine p_foldl _ l (Frame.refl _ s) (fun u q hu => ?_)
  refine modCore_only (hc.sub (by decide)) _ _ _ ?_
  split
  · exact hu
  · exact hc .acc (by decide) u _ hu

theorem clearCores_clears {s : State} {l : List Nat} {q : Nat} (hq : q ∈ l) :
    getCore (clearCores s l) q = coreReset ∧ (isA1 s = false → ∀ e ∈ (clearCores s l).acc, e.1 / (2048 * 128) ≠ q) := by
  unfold clearCores
  refine foldl_establishes (I := fun u => isA1 u = isA1 s) (k := q)
    (Q := fun u => getCore u q = coreReset ∧ (isA1 s = false → ∀ e ∈ u.acc, e.1 / (2048 * 128) ≠ q)) hq rfl ?_ ?_ ?_
  · exact fun u p hu => (isA1_of_frame (clearCores_frame u [p]) (by decide)).trans hu
  · intro u hu
    refine ⟨by simp, fun hb e he => ?_⟩
    rw [hu, hb, if_neg Bool.false_ne_true, modCore_acc, clearAcc, List.mem_filter] at he
    simpa using he.2
  · rintro u p hu ⟨hcore, hacc⟩
    refine ⟨?_, fun hb e he => ?_⟩
    · rw [getCore_modCore]
      split
      · rfl
      · split
        · exact hcore
        · exact hcore
    · rw [hu, hb, if_neg Bool.false_ne_true, modCore_acc, clearAcc, List.mem_filter] at he
      exact hacc hb e he.1

theorem exec_runStart {s : State} {t : Sec} {c : Cmd} {r : RunJob} (hdue : dueRun s t = some (c, r))
    (hidle : runningRun s t = none) : exec (.runStart t) s = .next (
      if !timeGood s then complete (begin s) t c stAborted 0 0
      else traceRec (modRun (clearCores (begin s) (coresOf (match s.images.get t with | some g => g.clusterMask | none => 0))) t
        c.ord (fun r => { r with started := true, mbFirst := r.start })) t 1 0 0
          (w64 (c.id.toNat + ringIx c.pair * 2 ^ 16)) (w64 (frameOf (clearCores (begin s) (coresOf (match s.images.get t with
            | some g => g.clusterMask | none => 0)))))) := by
  have hexec : exec (.runStart t) s = execRunStart t s := rfl
  rw [hexec, execRunStart, show dueRun (begin s) t = some (c, r) from hdue, show runningRun (begin s) t = none from hidle]
  rfl

/-! ### The last frame -/

theorem quietCores_cores (s : State) (t : Sec) : ∃ cores, quietCores s t = { s with cores } := by
  have hc : ClosedOn (fun u => ∃ cores, u = { s with cores }) [.cores] := by
    intro p hp
    obtain rfl := List.mem_singleton.1 hp
    rintro u v ⟨cores, rfl⟩
    exact ⟨_, rfl⟩
  exact quietCores_only hc s t ⟨s.cores, rfl⟩

theorem execRunCompletion_eq {s : State} {t : Sec} {c : Cmd} {r : RunJob} (hrun : runningRun s t = some (c, r))
    (hstop : c.stop = none) (hframe : s.time.frame.isSome = true) (hlast : plannedLast s t r < frameOf s) :
    exec (.runCompletion t) s = .next (endRun (begin s) t c r (plannedLast s t r) stOk 0) := by
  have hexec : exec (.runCompletion t) s = execRunCompletion t s := rfl
  rw [hexec, execRunCompletion, show runningRun (begin s) t = some (c, r) from hrun]
  refine congrArg Host.Outcome.next (if_pos ?_)
  rw [hstop, show (begin s).time.frame.isSome = true from hframe, show decide (plannedLast (begin s) t r < frameOf (begin s)) = true from decide_eq_true hlast]
  rfl

/-- R421: a repeat RUN is confirmed where every range has its old digest and the numeric flags agree. -/
theorem repeatDone_status (s : State) (c : Cmd) (a : Nat) (crcs : List Nat) :
    (repeatDone s c a crcs).2 = if (∀ x ∈ crcs.zip (refRanges s a), rangeCrc s x.2 = x.1) ∧
      flagsum c.copies &&& 0xC = BitVec.ofNat 16 (leNat (rdDevBytes s (a + 2) 2)) &&& 0xC then stConfirmed else stDiverged := by
  have hrow (x : Nat × Nat × Nat) : (if rangeCrc s x.2 = x.1 then 1 else 2) = 1 ↔ rangeCrc s x.2 = x.1 := by
    split
    · simp [*]
    · simp [*]
  unfold repeatDone
  simp only [List.all_map, Function.comp_def, Bool.and_eq_true, List.all_eq_true, beq_iff_eq, hrow]

/-- R76, R421: a RUN that ends completes with its status, that of its comparison where it repeats one. -/
theorem endRun_completes (s : State) (t : Sec) (c : Cmd) (r : RunJob) (last : Nat) :
    ∃ w, w.time = s.time ∧ endRun s t c r last stOk 0 =
      complete w t c (match r.refRec with | none => stOk | some a => (repeatDone s c a r.crcs).2) 0 (runResult r last) := by
  obtain ⟨cores, hquiet⟩ := quietCores_cores s t
  unfold endRun
  rw [hquiet]
  cases r.refRec with
  | none => exact ⟨{ s with cores }, rfl, rfl⟩
  | some a =>
    dsimp only
    have hsame : (repeatDone { s with cores } c a r.crcs).2 = (repeatDone s c a r.crcs).2 :=
      (repeatDone_status { s with cores } c a r.crcs).trans (repeatDone_status s c a r.crcs).symm
    rw [if_pos (beq_self_eq_true stOk), ← hsame]
    have hrep : Frame [.tiers, .ward, .out] { s with cores } (repeatDone { s with cores } c a r.crcs).1 :=
      repeatDone_only ((closedOn_frame _ _).sub (by decide)) _ c a r.crcs (Frame.refl _ _)
    refine ⟨_, ?_, rfl⟩
    split
    · exact (logClass_only ((closedOn_frame _ _).sub (by decide)) _ _ _ _ _ _ hrep).2 .time (by decide)
    · exact hrep.2 .time (by decide)

/-- Settles O25. -/
theorem runsStartAndComplete : Obligations.RunsStartAndComplete := by
  refine ⟨fun s t c r hdue hidle => ⟨fun hgood => ?_, fun hbad hstop => ?_⟩, fun s t c r hrun hstop hframe hlast => ?_⟩
  · have hexec := exec_runStart hdue hidle
    obtain ⟨hmem, hjob⟩ := dueRun_mem hdue
    rw [hgood, Bool.not_true, if_neg Bool.false_ne_true] at hexec
    have hbegin : Frame [.out] s (begin s) := begin_frame (by decide) s
    generalize hl : coresOf (match s.images.get t with | some g => g.clusterMask | none => 0) = l at hexec
    have hclear := clearCores_frame (begin s) l
    have hstart : InFlight (modRun (clearCores (begin s) l) t c.ord (fun r => { r with started := true, mbFirst := r.start })) t
        c.ord (.run { r with started := true, mbFirst := r.start }) := by
      refine inFlight_modRun ?_ hjob _
      rw [getCmds, hclear.2 .cmds (by decide)]
      exact hmem
    refine ⟨_, hexec, ⟨?_, fun g himage q hq => ?_⟩, ?_⟩
    · exact inFlight_of_frame hstart (L := [.trace]) (traceRec_only (closedOn_frame _ _) _ _ _ _ _ _ _ (Frame.refl _ _)) (by decide)
    · rw [himage] at hl
      have hclears := clearCores_clears (s := begin s) (hl ▸ hq)
      have hafter (n : Nat) (x y : W64) (f : RunJob → RunJob) : Frame [.cmds, .trace] (clearCores (begin s) l)
          (traceRec (modRun (clearCores (begin s) l) t c.ord f) t n 0 0 x y) :=
        traceRec_only ((closedOn_frame _ _).sub (by decide)) _ _ _ _ _ _ _ <|
          modCmd_only ((closedOn_frame _ _).sub (by decide)) _ _ _ _ (Frame.refl _ _)
      rw [getCore, (hafter _ _ _ _).2 .cores (by decide), (hafter _ _ _ _).2 .acc (by decide)]
      exact hclears
    · exact traceRec_only ((closedOn_frame _ _).sub (by decide)) _ _ _ _ _ _ _ <|
        modCmd_only ((closedOn_frame _ _).sub (by decide)) _ _ _ _ <| (hbegin.mono (by decide)).trans (hclear.mono (by decide))
  · obtain ⟨-, hjob⟩ := dueRun_mem hdue
    have hexec := exec_runStart hdue hidle
    rw [hbad, Bool.not_false, if_pos rfl] at hexec
    refine ⟨_, hexec, runRecord_mem_complete hjob hstop rfl _ _ _, ?_⟩
    exact complete_only ((closedOn_frame _ _).sub (by decide)) _ _ _ _ _ _ (begin_frame (by decide) s)
  · obtain ⟨-, hjob⟩ := runningRun_mem hrun
    obtain ⟨w, htime, hend⟩ := endRun_completes (begin s) t c r (plannedLast s t r)
    have hexec := execRunCompletion_eq hrun hstop hframe hlast
    rw [hend] at hexec
    refine effects_of_exec hexec rfl ?_
    have hrec (st : BitVec 8) := runRecord_mem_complete (w := w) (s := s) (t := t) hjob (by simp [hstop])
      htime st 0 (runResult r (plannedLast s t r))
    cases r.refRec with
    | none => exact hrec stOk
    | some a =>
      dsimp only
      rw [show (repeatDone (begin s) c a r.crcs).2 = _ from repeatDone_status s c a r.crcs]
      split
      · exact hrec _
      · exact hrec _

end Sys2Proof.Machine
end

section
/-!
PROOFS. Micro-batches and stage programs (R101, R110, R114, R115).
-/
namespace Sys2Proof.Machine

/-! ### The start of a micro-batch (R110, R114) -/

/-- The running RUN stays the first started one when a RUN's job changes but for its start. -/
theorem runningRun_modRun {s : State} {t : Sec} {c : Cmd} {r : RunJob} (h : runningRun s t = some (c, r)) {f : RunJob → RunJob}
    (hf : ∀ r, (f r).started = r.started) :
    runningRun (modRun s t c.ord f) t = some ({ c with job := .run (f r) }, f r) := by
  have hruns : runsOf (modRun s t c.ord f) t = (runsOf s t).map (fun x =>
      if x.1.ord == c.ord then ({ x.1 with job := .run (f x.2) }, f x.2) else x) := by
    rw [runsOf, modRun, modCmd, getCmds_setCmds, if_pos rfl, runsOf, List.filterMap_map, List.map_filterMap]
    refine List.filterMap_congr fun x _ => ?_
    rw [Function.comp_apply]
    cases hjob : x.job with
    | run y =>
      by_cases hord : x.ord = c.ord
      · simp [hord, hjob]
      · simp [hord, hjob]
    | _ =>
      by_cases hord : x.ord = c.ord
      · simp [hord, hjob]
      · simp [hord, hjob]
  rw [runningRun, hruns, List.find?_map]
  have hp : (fun x : Cmd × RunJob => x.2.started) ∘ (fun x : Cmd × RunJob =>
      if x.1.ord == c.ord then ({ x.1 with job := .run (f x.2) }, f x.2) else x) = fun x => x.2.started := by
    funext x
    rw [Function.comp_apply]
    split
    · exact hf x.2
    · rfl
  rw [hp, show (runsOf s t).find? (fun x => x.2.started) = some (c, r) from h]
  simp

/-- R110, R114: a core at the entry of its stage, with nothing in flight. -/
def AtEntry (k : Core) (st : Stage) (len cursor : Nat) : Prop :=
  k.active = (st.length != 0) ∧ k.ended = false ∧ k.stopped = false ∧ k.pc = st.entry ∧ k.limit = st.entry + st.length ∧
    k.len = len ∧ k.cursor = cursor ∧ k.flight = []

theorem traceCore_cores (s : State) (t : Sec) (event core : Nat) (a b : W64) : (traceCore s t event core a b).cores = s.cores :=
  (traceCore_only (closedOn_frame [.trace] s) s t event core a b (Frame.refl _ s)).2 .cores (by decide)

theorem restartCore_cores (s : State) (x : CoreRun) (len q : Nat) : ∃ k, AtEntry k (stageAt x.g x.v q) len x.job.mbFirst ∧
    (restartCore s x len q).cores = sset coreReset s.cores q k := by
  unfold restartCore
  dsimp only
  split
  · exact ⟨_, ⟨rfl, rfl, rfl, rfl, rfl, rfl, rfl, rfl⟩, rfl⟩
  · rw [traceCore_cores]
    exact ⟨_, ⟨rfl, rfl, rfl, rfl, rfl, rfl, rfl, rfl⟩, rfl⟩

theorem restartCore_at {s : State} {x : CoreRun} {len q : Nat} :
    AtEntry (getCore (restartCore s x len q) q) (stageAt x.g x.v q) len x.job.mbFirst := by
  obtain ⟨k, hk, hcores⟩ := restartCore_cores s x len q
  rw [getCore, hcores, sget_sset, if_pos rfl]
  exact hk

theorem restartCore_ne {s : State} {x : CoreRun} {len p q : Nat} (h : q ≠ p) :
    getCore (restartCore s x len p) q = getCore s q := by
  obtain ⟨k, -, hcores⟩ := restartCore_cores s x len p
  rw [getCore, hcores, sget_sset, if_neg h]
  rfl

theorem restartCores_at {s : State} {x : CoreRun} {len q : Nat} {l : List Nat} (hq : q ∈ l) :
    AtEntry (getCore (l.foldl (fun s q => restartCore s x len q) s) q) (stageAt x.g x.v q) len x.job.mbFirst := by
  refine foldl_establishes (I := fun _ => True) (k := q)
    (Q := fun u => AtEntry (getCore u q) (stageAt x.g x.v q) len x.job.mbFirst) hq trivial (fun _ _ _ => trivial)
    (fun u _ => restartCore_at) (fun u p _ h => ?_)
  by_cases hp : q = p
  · subst hp
    exact restartCore_at
  · rw [restartCore_ne hp]
    exact h

/-! ### What keeps the bundles in flight (R111, R115, R217, R226) -/

/-- No core's list of bundles in flight changes. -/
def KeepsFlights (s u : State) : Prop := ∀ p, (getCore u p).flight = (getCore s p).flight

theorem KeepsFlights.modCore {s u : State} (h : KeepsFlights s u) (q : Nat) {f : Core → Core} (hf : ∀ k, (f k).flight = k.flight) :
    KeepsFlights s (modCore u q f) := by
  intro p
  rw [getCore_modCore]
  split
  next hp => rw [hf, h q, hp]
  next => exact h p

theorem KeepsFlights.of_frame {s u v : State} {L : List Piece} (h : KeepsFlights s u) (hframe : Frame L u v) (hL : .cores ∉ L) :
    KeepsFlights s v := by
  intro p
  rw [getCore, show v.cores = u.cores from hframe.2 .cores hL]
  exact h p

theorem KeepsFlights.foldl {α : Type} {s u : State} (h : KeepsFlights s u) {f : State → α → State}
    (hf : ∀ v a, KeepsFlights s v → KeepsFlights s (f v a)) (l : List α) : KeepsFlights s (l.foldl f u) := by
  induction l generalizing u with
  | nil => exact h
  | cons a l ih => exact ih (hf u a h)

section
variable {s u : State} (h : KeepsFlights s u)
include h

theorem keepsFlights_tokenOut (x : CoreRun) (q c : Nat) (d : ChanDef) (posts : Bool) : KeepsFlights s (tokenOut u x q c d posts) :=
  h.of_frame (tokenOut_only (closedOn_frame [.links] _) u x q c d posts (Frame.refl _ u)) (by decide)

theorem keepsFlights_consumeTile (x : CoreRun) (q c : Nat) : KeepsFlights s (consumeTile u x q c) := by
  unfold consumeTile
  dsimp only
  split
  · exact (h.modCore q (by exact fun _ => rfl)).modCore _ (by exact fun _ => rfl)
  · exact keepsFlights_tokenOut (h.modCore q (by exact fun _ => rfl)) x q c _ false

theorem keepsFlights_postTile (x : CoreRun) (q no c : Nat) : KeepsFlights s (postTile u x q no c) := by
  unfold postTile
  dsimp only
  split
  · refine KeepsFlights.modCore (KeepsFlights.of_frame (h.modCore q (by exact fun _ => rfl))
      (wrSpace_only (closedOn_frame [.slate, .commons, .tiers] _) _ _ _ _ _ _ (Frame.refl _ _)) (by decide)) _ (by exact fun _ => rfl)
  · refine keepsFlights_tokenOut (KeepsFlights.of_frame (h.modCore q (by exact fun _ => rfl))
      (tileOut_only (closedOn_frame [.links] _) _ x q c _ _ (Frame.refl _ _)) (by decide)) x q c _ true

theorem keepsFlights_modStream (q n : Nat) (f : StreamSt → StreamSt) : KeepsFlights s (modStream u q n f) :=
  h.modCore q (by exact fun _ => rfl)

theorem keepsFlights_endStreams (x : CoreRun) (q : Nat) : KeepsFlights s (endStreams u x q) := by
  refine h.foldl (fun v n hv => ?_) _
  split
  · exact hv
  · exact keepsFlights_modStream hv q n _

end

/-! ### Bundles (R101, R114, R115) -/

theorem loopStep_keeps (s : State) (x : CoreRun) (q : Nat) (b : BundleWord) (k : Core) :
    (loopStep s x q b k).flight = k.flight ∧ (loopStep s x q b k).ended = k.ended := by
  unfold loopStep
  dsimp only
  split
  · split
    · exact ⟨rfl, rfl⟩
    · exact ⟨rfl, rfl⟩
  · split
    · exact ⟨rfl, rfl⟩
    · exact ⟨rfl, rfl⟩
  · exact ⟨rfl, rfl⟩

/-- R72: the RUN as it goes on to its next micro-batch. -/
def RunJob.onward (first : Nat) (r : RunJob) : RunJob := { r with mb := r.mb + 1, mbFirst := first }

/-- What the cores of a section work on once its RUN has gone on. -/
theorem sectionRun_onward {s u : State} {t : Sec} {c : Cmd} {r : RunJob} {g : Image} (hrun : runningRun s t = some (c, r))
    (himage : s.images.get t = some g) (first : Nat) (hcmds : u.cmds = (modRun s t c.ord (·.onward first)).cmds)
    (himages : u.images = s.images) :
    sectionRun u t = some ⟨t, { c with job := .run (r.onward first) }, r.onward first, g, r.variants.getD r.mb 0⟩ := by
  have hruns : runningRun u t = runningRun (modRun s t c.ord (·.onward first)) t := by
    rw [runningRun, runsOf, getCmds, hcmds]
    rfl
  rw [sectionRun, hruns, runningRun_modRun hrun (by exact fun _ => rfl), himages, himage]
  rfl

theorem effects_of_microBatchStart {s : State} {t : Sec} {c : Cmd} {r : RunJob} {g : Image} (hrun : runningRun s t = some (c, r))
    (himage : s.images.get t = some g) (hmore : r.mb < r.variants.length)
    (hfirst : r.start + framesIn g (r.variants.take r.mb) ≤ frameOf s) (hguard : s.time.guard = false) :
    Effects (.microBatchStart t) s [.sect, .nflag, .cmds, .cores, .colls, .tiers, .links, .ward, .trace, .out] (fun u =>
      ∀ q ∈ imageCores g, AtEntry (getCore u q) (stageAt g (r.variants.getD r.mb 0) q) (r.lens.getD r.mb 0)
        (r.start + framesIn g (r.variants.take r.mb))) := by
  have hexec : exec (.microBatchStart t) s = execMicroBatchStart t s := rfl
  rw [execMicroBatchStart, show runningRun (begin s) t = some (c, r) from hrun,
    show (begin s).images.get t = some g from himage] at hexec
  dsimp only at hexec
  rw [if_neg (by
    rw [show frameOf (begin s) = frameOf s from rfl, show (begin s).time.guard = false from hguard, Bool.or_false,
      Bool.or_eq_true, decide_eq_true_eq, decide_eq_true_eq]
    omega)] at hexec
  generalize hu : traceRec { modRun (begin s) t c.ord _ with colls := _ } t 2 0 0 _ _ = u at hexec
  have hsect := sectionRun_onward hrun himage (r.start + framesIn g (r.variants.take r.mb)) (u := u) (by
    subst hu
    exact (traceRec_only (closedOn_frame [.trace] _) _ _ _ _ _ _ _ (Frame.refl _ _)).2 .cmds (by decide)) (by
    subst hu
    exact (traceRec_only (closedOn_frame [.trace] _) _ _ _ _ _ _ _ (Frame.refl _ _)).2 .images (by decide))
  rw [hsect] at hexec
  refine effects_of_exec hexec rfl fun q hq => ?_
  rw [getCore, (pumpSection_only (closedOn_frame [.sect, .nflag, .cmds, .colls, .tiers, .links, .ward, .out] _) _ t
    (Frame.refl _ _)).2 .cores (by decide)]
  exact restartCores_at hq

/-- R115, R120: what a bundle that issues leaves in its core. -/
theorem issueBundle_core (s : State) (x : CoreRun) (q : Nat) :
    (getCore (issueBundle s x q) q).ended = (bMarker (bundleAt s q (getCore s q).pc) == 2) ∧
    (getCore (issueBundle s x q) q).flight.getLast? = some ⟨(getCore s q).issued, (getCore s q).pc,
      maskBits (consumeBits (bundleAt s q (getCore s q).pc)), maskBits (produceBits (bundleAt s q (getCore s q).pc)),
      (streamActions (bundleAt s q (getCore s q).pc)).filterMap (fun sa => if 2 ≤ sa.2 then some sa.1 else none)⟩ := by
  unfold issueBundle
  dsimp only
  generalize (if hasLane (bundleAt s q (getCore s q).pc) = true then laneWork _ _ _ else _) = v
  have hlast (k : Core) (f : Flight) (e : Bool) (n m : Nat) : (loopStep v x q (bundleAt s q (getCore s q).pc)
        { k with flight := k.flight ++ [f], issued := n, marks := m, ended := e }).ended = e ∧
      (loopStep v x q (bundleAt s q (getCore s q).pc)
        { k with flight := k.flight ++ [f], issued := n, marks := m, ended := e }).flight.getLast? = some f := by
    obtain ⟨hflight, hended⟩ := loopStep_keeps v x q (bundleAt s q (getCore s q).pc)
      { k with flight := k.flight ++ [f], issued := n, marks := m, ended := e }
    exact ⟨hended, by rw [hflight]; simp⟩
  split
  · rw [getCore, traceCore_cores, ← getCore, getCore_modCore, if_pos rfl]
    exact hlast _ _ _ _ _
  · rw [getCore, traceCore_cores, ← getCore, getCore_modCore, if_pos rfl]
    exact hlast _ _ _ _ _
  · rw [getCore_modCore, if_pos rfl]
    exact hlast _ _ _ _ _

/-- Settles O26. -/
theorem microBatchesAndStagesRun : Obligations.MicroBatchesAndStagesRun := by
  refine ⟨fun s t c r g hrun himage _ hmore hfirst hguard => effects_of_microBatchStart hrun himage hmore hfirst hguard,
    fun s q x hrun => ⟨fun hhold => ?_, fun hhold => ?_, fun k f hf hguard hcan => ?_, fun hhold hpass => ?_⟩⟩
  · have hexec : exec (.bundleIssue q) s = execBundleIssue q s := rfl
    rw [execBundleIssue, show coreRun (begin s) q.val = some x from hrun] at hexec
    dsimp only at hexec
    rw [show holdOf (begin s) x q.val = .go from hhold] at hexec
    exact effects_of_exec hexec rfl (issueBundle_core (begin s) x q.val)
  · have hexec : exec (.bundleIssue q) s = execBundleIssue q s := rfl
    rw [execBundleIssue, show coreRun (begin s) q.val = some x from hrun] at hexec
    dsimp only at hexec
    rw [show holdOf (begin s) x q.val = .past from hhold] at hexec
    refine ⟨_, hexec, ?_, modCore_only ((closedOn_frame _ _).sub (by decide)) _ _ _ (begin_frame (by decide) s)⟩
    dsimp only
    rw [getCore_modCore, if_pos rfl]
    rfl
  · have hexec : exec (.bundleRetire q k) s = execBundleRetire q k s := rfl
    rw [execBundleRetire, show coreRun (begin s) q.val = some x from hrun,
      show (getCore (begin s) q.val).flight[k]? = some f from hf] at hexec
    dsimp only at hexec
    rw [show (begin s).time.guard = false from hguard, show canRetire (getCore (begin s) q.val) f = true from hcan,
      Bool.not_true, Bool.or_false, if_neg Bool.false_ne_true] at hexec
    refine effects_of_exec hexec rfl ?_
    have hone : (getCore (modCore (begin s) q.val fun c => { c with flight := c.flight.eraseIdx k }) q.val).flight =
        (getCore s q.val).flight.eraseIdx k := by
      rw [getCore_modCore, if_pos rfl]
      rfl
    generalize modCore (begin s) q.val (fun c => { c with flight := c.flight.eraseIdx k }) = u at hone
    have hkeep : KeepsFlights u (f.release.foldl (fun s n => releaseChunk s q.val n) (f.produce.foldl (fun s c =>
        postTile s x q.val f.no c) (f.consume.foldl (fun s c => consumeTile s x q.val c) u))) :=
      KeepsFlights.foldl (KeepsFlights.foldl (KeepsFlights.foldl (fun _ => rfl) (fun v c hv => keepsFlights_consumeTile hv x _ c) _)
        (fun v c hv => keepsFlights_postTile hv x _ _ c) _) (fun v n hv => keepsFlights_modStream hv _ n _) _
    rw [← hone]
    split
    · exact keepsFlights_endStreams hkeep x q.val q.val
    · exact hkeep q.val
  · have hexec : exec (.arrangementSwitch q) s = execArrangementSwitch q s := rfl
    rw [execArrangementSwitch, show coreRun (begin s) q.val = some x from hrun] at hexec
    dsimp only at hexec
    rw [if_pos (by
      rw [show holdOf (begin s) x q.val = .arrange from hhold, show (getCore (begin s) q.val).flight.any
        (passRuns (begin s) q.val) = false from List.any_eq_false.2 fun f hf => by rw [show passRuns (begin s) q.val f = false from hpass f hf]; decide]
      rfl)] at hexec
    refine effects_of_exec hexec rfl ?_
    dsimp only
    rw [getCore_modCore, if_pos rfl]
    rfl

end Sys2Proof.Machine
end

section
/-!
PROOFS. Streams: requests and filled chunks (R217, R220-R225).
-/
namespace Sys2Proof.Machine

theorem getStream_modStream (s : State) (q n p m : Nat) (f : StreamSt → StreamSt) :
    getStream (modStream s q n f) p m = if p = q ∧ m = n then f (getStream s q n) else getStream s p m := by
  rw [getStream, modStream, getCore_modCore]
  by_cases hp : p = q
  · subst hp
    by_cases hm : m = n
    · simp [hm, getStream]
    · simp [hm, getStream]
  · simp [hp, getStream]

theorem getStream_of_frame {s u : State} {L : List Piece} (h : Frame L s u) (hL : .cores ∉ L) (p n : Nat) :
    getStream u p n = getStream s p n := by
  rw [getStream, getCore, show u.cores = s.cores from h.2 .cores hL]
  rfl

/-- A change of stream n on each core of a list without repetition is made there once. -/
theorem getStream_foldl {n : Nat} {f : StreamSt → StreamSt} {l : List Nat} (hl : l.Nodup) (s : State) (p : Nat) :
    getStream (l.foldl (fun s q => modStream s q n f) s) p n = if p ∈ l then f (getStream s p n) else getStream s p n := by
  induction l generalizing s with
  | nil => rfl
  | cons q l ih =>
    obtain ⟨hq, hl⟩ := List.nodup_cons.1 hl
    rw [List.foldl_cons, ih hl, getStream_modStream]
    by_cases hp : p = q
    · subst hp
      simp [hq]
    · simp [hp]

theorem streamMembers_nodup (y : Stream) : (streamMembers y).Nodup := by
  unfold streamMembers
  split
  · exact List.nodup_range.filter _
  · exact List.nodup_singleton _

/-! ### What leaves the card decides no request -/

theorem rdSpace_begin (s : State) : rdSpace (begin s) = rdSpace s := by
  funext t q sp a
  have hdev : rdDev (begin s) = rdDev s := rfl
  have hkey : commonsKey (begin s) = commonsKey s := rfl
  unfold rdSpace
  rw [hkey, hdev, show (begin s).slate = s.slate from rfl, show (begin s).commons = s.commons from rfl]

theorem rdSpaceN_begin (s : State) : rdSpaceN (begin s) = rdSpaceN s := by
  funext t q sp a n
  unfold rdSpaceN
  rw [rdSpace_begin]

theorem packedChunk_begin (s : State) (t : Sec) (q : Nat) (a : Tensor) : packedChunk (begin s) t q a = packedChunk s t q a := by
  unfold packedChunk
  rw [rdSpaceN_begin]

theorem chunkGranules_begin (s : State) (x : CoreRun) (y : Stream) (k : Nat) :
    chunkGranules (begin s) x y k = chunkGranules s x y k := by
  unfold chunkGranules chunkWrites chunkReads
  simp only [rdSpaceN_begin, packedChunk_begin]

theorem chunkPaths_begin (s : State) (x : CoreRun) (y : Stream) (k : Nat) : chunkPaths (begin s) x y k = chunkPaths s x y k := by
  have hpath (a : Nat) : memPath (begin s) (place (begin s) a) = memPath s (place s a) := rfl
  simp only [chunkPaths, chunkGranules_begin, hpath]

theorem canRequest_begin (s : State) (x : CoreRun) (y : Stream) : canRequest (begin s) x y = canRequest s x y := by
  have hfreed : freedChunks (begin s) x y = freedChunks s x y := rfl
  have hslot : streamSlot (begin s) x.sec = streamSlot s x.sec := rfl
  have hstream (q n : Nat) : getStream (begin s) q n = getStream s q n := rfl
  have hcore (q : Nat) : getCore (begin s) q = getCore s q := rfl
  simp only [canRequest, chunkPaths_begin, hfreed, hslot, hstream, hcore]

theorem engineReqs_begin (s : State) (x : CoreRun) (q : Nat) : engineReqs (begin s) x q = engineReqs s x q := by
  have hreq : chunkReq (begin s) = chunkReq s := rfl
  simp only [engineReqs, canRequest_begin, hreq]

/-! ### Which request goes first (R220-R223) -/

/-- R220-R223: what another request goes before: one of a lower class, or one of its own class, not 0, with what decides. -/
theorem mayPick_of_before {waiting : List Req} {r z : Req} (hz : z ∈ waiting)
    (h : z.cls < r.cls ∨ (0 < z.cls ∧ z.cls = r.cls ∧ z.before r = true)) : mayPick waiting r = false := by
  rw [mayPick, Bool.and_eq_false_iff]
  rcases h with hlower | ⟨hpos, hsame, hbefore⟩
  · exact .inl (List.all_eq_false.2 ⟨z, hz, by simpa using hlower⟩)
  · refine .inr (Bool.or_eq_false_iff.2 ⟨?_, List.all_eq_false.2 ⟨z, hz, by simp [hsame, hbefore]⟩⟩)
    rw [beq_eq_false_iff_ne]
    omega

section
variable {s : State} {q : Fin 128} {n : Fin 256} {x : CoreRun} {y : Stream} (hx : coreRun s q.val = some x)
  (hy : streamOf x q.val n.val = some y)
include hx hy

theorem exec_chunkRequest : exec (.chunkRequest q n) s = .next
    (if y.core == q.val && !s.time.guard && s.time.frame.isSome && canRequest s x y && mayPick (engineReqs s x q.val) (chunkReq s y)
      then modStream (begin s) q.val n.val (fun z => { z with requested := z.requested + 1 }) else begin s) := by
  have hexec : exec (.chunkRequest q n) s = execChunkRequest q n s := rfl
  rw [hexec, execChunkRequest, show coreRun (begin s) q.val = some x from hx]
  dsimp only
  rw [hy]
  dsimp only
  rw [canRequest_begin, engineReqs_begin] <;> rfl

theorem exec_chunkFilled : exec (.chunkFilled q n) s = .next
    (if y.core == q.val && !s.time.guard && decide ((getStream s q.val n.val).filled < (getStream s q.val n.val).requested) then
      (streamMembers y).foldl (fun s p => modStream s p n.val (fun z => { z with filled := z.filled + 1 }))
        (copyChunk (begin s) x y (getStream s q.val n.val).filled) else begin s) := by
  have hexec : exec (.chunkFilled q n) s = execChunkFilled q n s := rfl
  rw [hexec, execChunkFilled, show coreRun (begin s) q.val = some x from hx]
  dsimp only
  rw [hy] <;> rfl

end

/-- Settles O27. -/
theorem streamsRequestAndFillChunks : Obligations.StreamsRequestAndFillChunks := by
  intro s q n x y hx hy hcore hguard
  have hhere : (y.core == q.val && !s.time.guard) = true := by simp [hcore, hguard]
  refine ⟨fun htick hcan hpick => ?_, fun ⟨z, hz, hbefore⟩ => ?_, rfl, rfl, fun hfilled => ?_⟩
  · have hexec := exec_chunkRequest hx hy
    rw [hhere, htick, hcan, hpick, Bool.true_and, Bool.true_and, Bool.true_and, if_pos rfl] at hexec
    refine effects_of_exec hexec rfl ?_
    rw [getStream_modStream, if_pos ⟨rfl, rfl⟩]
    rfl
  · rw [exec_chunkRequest hx hy, mayPick_of_before hz hbefore, Bool.and_false, if_neg Bool.false_ne_true]
  · have hexec := exec_chunkFilled hx hy
    rw [hhere, decide_eq_true hfilled, Bool.true_and, if_pos rfl] at hexec
    refine effects_of_exec hexec rfl fun p hp => ?_
    have hcopy : Frame [.sect, .nflag, .cmds, .slate, .commons, .tiers, .ward, .out] s
        (copyChunk (begin s) x y (getStream s q.val n.val).filled) :=
      copyChunk_only (closedOn_frame _ _) _ x y _ (begin_frame (by decide) s)
    rw [getStream_foldl (streamMembers_nodup y), if_pos hp, getStream_of_frame hcopy (by decide)]

end Sys2Proof.Machine
end

section
/-!
PROOFS. GROVE: a command that its gate refuses (R253-R255), where another command has its read order.
-/
namespace Sys2Proof.Machine

/-- GROVE, GATED on step 5: SGDM of 16 elements of bfloat16 in blocks 0, 1 and 2, its count word at 0x40000. -/
def gatedSgdm : Desc :=
  ⟨2, 7, 0, 0, 0, BitVec.ofNat 256 (1 + 5 * 2 ^ 64),
    [BitVec.ofNat 512 (0x22 + 4 * 2 ^ 8 + 2 ^ 16 + 2 ^ 24 + 16 * 2 ^ 64 + 0x4000000 * 2 ^ 384),
      BitVec.ofNat 512 (0x8000000 + 0x40000 * 2 ^ 64)]⟩

/-- A GROVE command that waits on step 5, whose record is lost with the host link. -/
def lostGated : Cmd :=
  { ord := 0, ringOrd := 0, pair := 0, op := 5, id := 3, irq := false, carry := none, draw := 5, pages := [], writes := [],
    reads := [], copies := [], stop := some .lost, job := .grove ⟨0, some 2, true, none, 0, 0, some 5, none, false⟩ }

/-- The command in flight has the read order that the next descriptor takes; step 5 has returned with its bit 1. -/
def sameOrder : State :=
  let slots := [36, 37, 38, 39, 40, 41, 42, 43].map (fun p => (p * 50 + 1, 0x48)) ++ [(48 * 50 + 1, 0x40)]
  { State.reset with
    ward := { State.reset.ward with stage := .links, running := true }
    hif := { State.reset.hif with mode := 2, memEn := true, cacheEn := true, speed := 6, width := 16, hdm0 := some 0x100000000000 }
    time := { State.reset.time with lock := .locked }
    sect := State.reset.sect.set 0 { getSect State.reset 0 with st := .assigned }
    slots := slots
    slotsNow := slots
    tiers := { State.reset.tiers with blk := [(0, 0), (1, 0), (2, 0), (8192, 0)] }
    rings := [(0, { ringReset with enable := true, st := .active, sqTail := 8, sqBase := 0x10000, cqBase := 0x20000 })]
    cmds := State.reset.cmds.set 0 [lostGated]
    steps := State.reset.steps.set 0 { getSteps State.reset 0 with outcomes := [(5, some ⟨true, false, 1, 0, 0, 1⟩)] } }

theorem sameOrder_reads : Reads (.grove 0 gatedSgdm) sameOrder 0 5 gatedSgdm ∧ (groveOf (groveBits gatedSgdm)).gated = true := by
  unfold Reads
  decide +kernel

/-- The refusal of the older command ends both, and leaves no record. -/
theorem sameOrder_ends : (match exec (.grove 0 gatedSgdm) sameOrder with
    | .next u => (getCmds u 0).isEmpty && (u.recs.get 0).isEmpty
    | _ => false) = true := by decide +kernel

/-- Refutes O28: where a command in flight has the read order of the one read, waits on the same step and is lost with the host
link, its refusal takes the command read with it, which then is not in flight and has no record. -/
theorem not_groveCommandsAreChecked : ¬ Obligations.GroveCommandsAreChecked := by
  intro h
  obtain ⟨hreads, hgated⟩ := sameOrder_reads
  obtain ⟨⟨u, hexec, hkept, -⟩, -⟩ := h sameOrder 0 gatedSgdm hreads (.inl hgated)
  have hends := sameOrder_ends
  rw [show exec (.grove 0 gatedSgdm) sameOrder = .next u from hexec] at hends
  obtain ⟨hcmds, hrecs⟩ : getCmds u 0 = [] ∧ u.recs.get 0 = [] := by simpa using hends
  rcases hkept with ⟨j, c, hc, -⟩ | ⟨x, hx, -⟩
  · rw [show secOf 0 = 0 from rfl, hcmds] at hc
    cases hc
  · rw [show secOf 0 = 0 from rfl, hrecs] at hx
    cases hx

end Sys2Proof.Machine
end

section
/-!
PROOFS. The pages of a MIGRATE or HINT, and MIGRATE (R207, R210, R402).
-/
namespace Sys2Proof.Machine

/-! ### Pages -/

theorem getPage_modPages {f : Page → Page} (hf : ∀ q, f (f q) = f q) (l : List Nat) (s : State) (k : Nat) :
    getPage (modPages s l f) k = if k ∈ l then f (getPage s k) else getPage s k := by
  induction l generalizing s with
  | nil => rfl
  | cons g l ih =>
    rw [modPages, List.foldl_cons, ← modPages, ih, getPage_modPage]
    by_cases hg : k = g
    · subst hg
      simp [hf]
    · simp [hg]

theorem touchPages_eq (s : State) (l : List Nat) : touchPages s l = modPages s l (fun q => { q with age := frameOf s }) := by
  have hfold (u : State) (hu : frameOf u = frameOf s) : touchPages u l = modPages u l (fun q => { q with age := frameOf s }) := by
    induction l generalizing u with
    | nil => rfl
    | cons g l ih =>
      rw [touchPages, modPages, List.foldl_cons, List.foldl_cons, hu]
      exact ih (modPage u g fun q => { q with age := frameOf s }) hu
  exact hfold s rfl

theorem getPage_touchPages (s : State) (l : List Nat) (k : Nat) :
    getPage (touchPages s l) k = if k ∈ l then { getPage s k with age := frameOf s } else getPage s k := by
  rw [touchPages_eq, getPage_modPages (by exact fun _ => rfl)]

theorem modPages_moves (s : State) (l : List Nat) (f : Page → Page) : (modPages s l f).tiers.moves = s.tiers.moves := by
  induction l generalizing s with
  | nil => rfl
  | cons g l ih => exact ih (modPage s g f)

theorem touchPages_moves (s : State) (l : List Nat) : (touchPages s l).tiers.moves = s.tiers.moves := by
  rw [touchPages_eq, modPages_moves]

@[simp] theorem touchPages_frame (s : State) (l : List Nat) (k : Nat) : (getPage (touchPages s l) k).frame = (getPage s k).frame := by
  rw [getPage_touchPages]
  split
  · rfl
  · rfl

theorem pageCheck_read {s : State} {trace : Four Trace} (h : SameSetup s.trace trace) (rings : Sparse Ring) (out : List Out) (seq : Nat)
    (t : Sec) (d : Desc) (moves : Bool) : pageCheck (s.afterRead rings trace out seq) t d moves = pageCheck s t d moves := by
  have hreach := reach_read (s := awake s) h rings out seq t false (pgFirst d) (pgFirst d + pageBytes * pgCount d)
  unfold pageCheck
  rw [show reach (awake (s.afterRead rings trace out seq)) t false (pgFirst d) (pgFirst d + pageBytes * pgCount d) =
    reach (awake s) t false (pgFirst d) (pgFirst d + pageBytes * pgCount d) from hreach] <;> rfl

/-! ### MIGRATE (R210) -/

/-- The command of a MIGRATE that is admitted. -/
abbrev migrating (s : State) (p : Pair) (d : Desc) : Cmd := migrateCmd d (readCmd s p 6 d none 0)

theorem exec_migrate {s : State} {p : Pair} {d : Desc} (h : Reads (.migrate p d) s p 6 d) :
    ∃ rings trace out seq, SameSetup s.trace trace ∧ exec (.migrate p d) s = .next (
      match pageCheck s (secOf p) d true with
      | some st => completeRead (s.afterRead rings trace out seq) (secOf p) (readCmd s p 6 d none 0) st 0 0
      | none => pumpMigrate (admitPaged (s.afterRead rings trace out seq) (secOf p) (migrating s p d)) (secOf p) (migrating s p d)
          (pgList d) (pgKind d == 1) 0) := by
  obtain ⟨hform, hread⟩ := h
  obtain ⟨hcan, hcard⟩ := (readsNow_iff s p d).1 hread
  have hok : (migrateForm d && decide (pgKind d ≤ 1)) = true := by
    have heq := (rfl : ringForm s (.migrate p d) = some (p, 6, d, migrateForm d && decide (pgKind d ≤ 1))).symm.trans hform
    injection heq with heq
    injection heq with _ heq
    injection heq with _ heq
    injection heq
  obtain ⟨rings, trace, out, seq, hsetup, hexec⟩ := exec_of_read (c := .migrate p d) rfl hcan (.inl hcard) (fun _ _ _ _ => hok)
  refine ⟨rings, trace, out, seq, hsetup, hexec.trans (congrArg Host.Outcome.next ?_)⟩
  rw [migrateRead, pageCheck_read hsetup] <;> rfl

/-- What a MIGRATE may change. -/
abbrev migratePieces : List Piece := [.rings, .cmds, .recs, .steps, .colls, .tiers, .hif, .trace, .out, .seq]

section
variable (s : State) (p : Pair) (d : Desc) (rings : Sparse Ring) (trace : Four Trace) (out : List Out) (seq : Nat)

/-- A MIGRATE that has been admitted. -/
abbrev migrated : State := admitPaged (s.afterRead rings trace out seq) (secOf p) (migrating s p d)

theorem migrated_frame : Frame [.rings, .cmds, .tiers, .hif, .trace, .out, .seq] s (migrated s p d rings trace out seq) := by
  refine Frame.trans (frame_of_read s rings trace out seq |>.mono (by decide)) ?_
  exact admitPaged_only ((closedOn_frame _ _).sub (by decide)) _ _ _ (Frame.refl _ _)

theorem migrated_moves : (migrated s p d rings trace out seq).tiers.moves = s.tiers.moves := touchPages_moves _ _

theorem migrated_inTier (up : Bool) (g : Nat) : inTier (migrated s p d rings trace out seq) up g = inTier s up g := by
  have hframe : (getPage (migrated s p d rings trace out seq) g).frame = (getPage s g).frame := touchPages_frame _ _ _
  rw [inTier, hframe]
  rfl

theorem inFlight_migrated : InFlight (migrated s p d rings trace out seq) (secOf p) s.seq
    (.migrate (pgList d) (pgKind d == 1) 0) := by
  have hclosed : ClosedOn (fun u => InFlight u (secOf p) s.seq (.migrate (pgList d) (pgKind d == 1) 0)) [.tiers, .hif] :=
    closedOn_of_frame fun _ _ hin hsame => inFlight_of_frame hin hsame (by decide)
  exact addRecalls_only (hclosed.sub (by decide)) _ _ _ _ <| touchPages_only (hclosed.sub (by decide)) _ _ <|
    inFlight_takeIn _ (secOf p) (migrating s p d)

variable {s p d rings trace out seq}

theorem records_of_migrating {i : Instr} {st : BitVec 8} (hexec : exec i s = .next (complete (migrated s p d rings trace out seq)
    (secOf p) (migrating s p d) st 0 0)) : Records i s (readRec s p 6 d st 0 0) migratePieces := by
  have hframe := migrated_frame s p d rings trace out seq
  refine records_of_recordOf hexec rfl rfl (by simp [migrateCmd, readCmd, cmdOf]) (by simp [migrateCmd]) ?_ rfl rfl
    (hframe.2 .recs (by decide)) (hframe.mono (by decide)) (by decide)
  have hrec := recordOf_readCmd (s := s) (hframe.2 .time (by decide)) p 6 d none 0 [] st 0 0
  rw [shownResult_zero] at hrec
  exact hrec

end

theorem addMove_mem (s : State) (m : PageMove) : m ∈ (addMove s m).tiers.moves := by
  simp [addMove]

/-- R210: a MIGRATE completes where every page is in place and still; else a page is on its way, or has no frame. -/
theorem pumpMigrate_cases (u : State) (t : Sec) (c : Cmd) (pages : List Nat) (up : Bool) :
    ((∀ g ∈ pages, inTier u up g = true ∧ ∀ m ∈ u.tiers.moves, m.page ≠ g) ∧ pumpMigrate u t c pages up 0 = complete u t c stOk 0 0) ∨
    (¬ (∀ g ∈ pages, inTier u up g = true ∧ ∀ m ∈ u.tiers.moves, m.page ≠ g) ∧
      ((Frame [.tiers, .hif] u (pumpMigrate u t c pages up 0) ∧
          (up = false → ∃ m ∈ (pumpMigrate u t c pages up 0).tiers.moves, m.page ∈ pages)) ∨
        (up = true ∧ pumpMigrate u t c pages up 0 = complete u t c stQuota 0 0))) := by
  have hmoving (g : Nat) : u.tiers.moves.any (fun m => m.page == g) = false ↔ ∀ m ∈ u.tiers.moves, m.page ≠ g := by simp
  cases hfind : pages.find? (fun g => !inTier u up g || u.tiers.moves.any (fun m => m.page == g)) with
  | none =>
    refine .inl ⟨fun g hg => ?_, ?_⟩
    · have hnot := List.find?_eq_none.1 hfind g hg
      rw [Bool.not_eq_true, Bool.or_eq_false_iff, Bool.not_eq_false', hmoving] at hnot
      exact hnot
    · rw [pumpMigrate, hfind]
      rfl
  | some g =>
    have hg : g ∈ pages := List.mem_of_find?_eq_some hfind
    have hbad := List.find?_some hfind
    refine .inr ⟨fun hall => ?_, ?_⟩
    · obtain ⟨hin, hstill⟩ := hall g hg
      rw [hin, (hmoving g).2 hstill] at hbad
      cases hbad
    · rw [pumpMigrate, hfind]
      dsimp only
      split
      next hmove =>
        obtain ⟨m, hm, hpage⟩ := List.any_eq_true.1 hmove
        exact .inl ⟨Frame.refl _ _, fun _ => ⟨m, hm, by rwa [beq_iff_eq.1 hpage]⟩⟩
      next =>
        cases up with
        | true =>
          rw [if_pos rfl]
          cases hstart : startResident u t (some c.ord) pages g with
          | none => exact .inr ⟨rfl, rfl⟩
          | some v => exact .inl ⟨startResident_only (closedOn_frame _ u) (Frame.refl _ u) hstart, fun h => Bool.noConfusion h⟩
        | false =>
          rw [if_neg Bool.false_ne_true]
          exact .inl ⟨addMove_only (closedOn_frame _ u) u _ (Frame.refl _ u), fun _ => ⟨_, addMove_mem u _, hg⟩⟩

/-- R207, R210, R402: what a MIGRATE answers, and what it leaves in flight. -/
theorem migrate_acts (s : State) (p : Pair) (d : Desc) (h : Reads (.migrate p d) s p 6 d) :
    match pageCheck s (secOf p) d true with
    | some st => Records (.migrate p d) s (readRec s p 6 d st 0 0) [.rings, .cmds, .recs, .colls, .trace, .out, .seq]
    | none =>
      ((∀ g ∈ pgList d, inTier s (pgKind d == 1) g = true ∧ ∀ m ∈ s.tiers.moves, m.page ≠ g) →
        Records (.migrate p d) s (readRec s p 6 d stOk 0 0) migratePieces) ∧
      (pgKind d = 0 → (∃ g ∈ pgList d, inTier s false g = false) →
        Effects (.migrate p d) s migratePieces (fun u =>
          InFlight u (secOf p) s.seq (.migrate (pgList d) false 0) ∧ ∃ m ∈ u.tiers.moves, m.page ∈ pgList d)) ∧
      Effects (.migrate p d) s migratePieces (fun u =>
        InFlight u (secOf p) s.seq (.migrate (pgList d) (pgKind d == 1) 0) ∨
        u.recs.get (secOf p) = s.recs.get (secOf p) ++ [readRec s p 6 d stOk 0 0] ∨
        u.recs.get (secOf p) = s.recs.get (secOf p) ++ [readRec s p 6 d stQuota 0 0]) := by
  obtain ⟨rings, trace, out, seq, -, hexec⟩ := exec_migrate h
  cases hcheck : pageCheck s (secOf p) d true with
  | some st =>
    rw [hcheck] at hexec
    have hrec := records_of_completeRead (L := [.rings, .cmds, .recs, .colls, .trace, .out, .seq]) hexec
      (frame_of_read s rings trace out seq |>.mono (by decide)) rfl rfl (by decide) (.inl rfl)
    rwa [shownResult_zero] at hrec
  | none =>
    rw [hcheck] at hexec
    dsimp only at hexec ⊢
    have hcases := pumpMigrate_cases (migrated s p d rings trace out seq) (secOf p) (migrating s p d) (pgList d) (pgKind d == 1)
    simp only [migrated_inTier, migrated_moves] at hcases
    have hin := inFlight_migrated s p d rings trace out seq
    rcases hcases with ⟨hplace, hdone⟩ | ⟨hnot, hgo⟩
    · rw [hdone] at hexec
      have hrec := records_of_migrating hexec
      refine ⟨fun _ => hrec, fun hkind ⟨g, hg, hres⟩ => ?_, ?_⟩
      · have hthere := (hplace g hg).1
        rw [hkind, show ((0 : Nat) == 1) = false from rfl, hres] at hthere
        cases hthere
      · obtain ⟨u, hgives, hrecs, hframe⟩ := hrec
        exact ⟨u, hgives, .inr (.inl hrecs), hframe⟩
    · refine ⟨fun hplace => absurd hplace hnot, fun hkind _ => ?_, ?_⟩
      · rw [show (pgKind d == 1) = false by rw [hkind]; rfl] at hgo hexec hin
        rcases hgo with ⟨hframe, hmove⟩ | ⟨hup, -⟩
        · exact ⟨_, hexec, ⟨inFlight_of_frame hin hframe (by decide), hmove rfl⟩,
            ((migrated_frame s p d rings trace out seq).mono (by decide)).trans (hframe.mono (by decide))⟩
        · cases hup
      · rcases hgo with ⟨hframe, -⟩ | ⟨-, hquota⟩
        · exact ⟨_, hexec, .inl (inFlight_of_frame hin hframe (by decide)),
            ((migrated_frame s p d rings trace out seq).mono (by decide)).trans (hframe.mono (by decide))⟩
        · rw [hquota] at hexec
          obtain ⟨u, hgives, hrecs, hframe⟩ := records_of_migrating hexec
          exact ⟨u, hgives, .inr (.inr hrecs), hframe⟩

end Sys2Proof.Machine
end

section
/-!
PROOFS. HINT: what each hint does with its pages (R207, R402, Table 6.11).
-/
namespace Sys2Proof.Machine

/-- What a HINT may change. -/
abbrev hintPieces : List Piece := [.rings, .cmds, .recs, .colls, .tiers, .hif, .trace, .out, .seq]

/-- A HINT that has passed its checks, its pages used in the present frame. -/
abbrev hinted (s : State) (d : Desc) (rings : Sparse Ring) (trace : Four Trace) (out : List Out) (seq : Nat) : State :=
  touchPages (s.afterRead rings trace out seq) (pgList d)

theorem exec_hint {s : State} {p : Pair} {d : Desc} {c : Instr} (hc : c ∈ [.preferCanopy p d, .preferUnder p d, .pin p d,
      .unpin p d, .willneed p d, .cold p d]) (h : Reads c s p 7 d) :
    ∃ rings trace out seq, exec c s = .next (
      match pageCheck s (secOf p) d (pgKind d == 5) with
      | some st => completeRead (s.afterRead rings trace out seq) (secOf p) (readCmd s p 7 d none 0) st 0 0
      | none => hintDo (hinted s d rings trace out seq) (secOf p) (readCmd s p 7 d none 0) (pgKind d) (pgList d)) := by
  obtain ⟨hform, hread⟩ := h
  obtain ⟨hcan, hcard⟩ := (readsNow_iff s p d).1 hread
  have hboth : ringForm s c = some (p, 7, d, hintForm s d) ∧ exec c s = .next (hint p d s) := by
    simp only [List.mem_cons, List.not_mem_nil, or_false] at hc
    rcases hc with rfl | rfl | rfl | rfl | rfl | rfl
    all_goals exact ⟨rfl, rfl⟩
  have hok : hintForm s d = true := by
    have heq := hboth.1.symm.trans hform
    simpa using heq
  obtain ⟨rings, trace, out, seq, hsetup, hexec⟩ := exec_of_read hboth.2 hcan (.inl hcard) (fun _ _ _ _ => hok)
  refine ⟨rings, trace, out, seq, hexec.trans (congrArg Host.Outcome.next ?_)⟩
  dsimp only
  rw [pageCheck_read hsetup] <;> rfl

section
variable {s : State} {p : Pair} {d : Desc} {c : Instr} {rings : Sparse Ring} {trace : Four Trace} {out : List Out} {seq : Nat}
  {w : State} {st : BitVec 8} (hw : Frame [.tiers, .hif] (hinted s d rings trace out seq) w)
  (hexec : exec c s = .next (completeRead w (secOf p) (readCmd s p 7 d none 0) st 0 0))
include hw

theorem hinted_frame : Frame [.rings, .tiers, .hif, .trace, .out, .seq] s w := by
  have htouch : Frame [.tiers] (s.afterRead rings trace out seq) (hinted s d rings trace out seq) :=
    touchPages_only (closedOn_frame _ _) _ _ (Frame.refl _ _)
  exact ((frame_of_read s rings trace out seq).mono (by decide)).trans ((htouch.mono (by decide)).trans (hw.mono (by decide)))

include hexec

theorem records_of_hinted : Records c s (readRec s p 7 d st 0 0) hintPieces := by
  have hframe := hinted_frame hw
  have hrec := records_of_completeRead (L := hintPieces) hexec (hframe.mono (by decide)) (hframe.2 .recs (by decide))
    (hframe.2 .time (by decide)) (by decide) (.inl rfl)
  rwa [shownResult_zero] at hrec

/-- A HINT that completes has done what its pages and moves show. -/
theorem effects_of_hinted {Q : State → Prop} (hq : ∀ u : State, u.tiers = w.tiers → Q u) : Effects c s hintPieces Q := by
  obtain ⟨u, hgives, -, hframe⟩ := records_of_hinted hw hexec
  have hu : u = completeRead w (secOf p) (readCmd s p 7 d none 0) st 0 0 := by injection hgives.symm.trans hexec
  refine ⟨u, hgives, hq u ?_, hframe⟩
  rw [hu]
  exact (completeRead_only (closedOn_frame [.rings, .cmds, .recs, .steps, .colls, .trace] w) w _ _ _ _ _ (Frame.refl _ w)).2
    .tiers (by decide)

end

theorem getPage_of_tiers {s u : State} (h : u.tiers = s.tiers) (g : Nat) : getPage u g = getPage s g := by
  rw [getPage, h]
  rfl

theorem modPages_blk (s : State) (l : List Nat) (f : Page → Page) : (modPages s l f).tiers.blk = s.tiers.blk := by
  induction l generalizing s with
  | nil => rfl
  | cons g l ih => exact ih (modPage s g f)

theorem inPool_touchPages (s : State) (l : List Nat) (g : Nat) : inPool (touchPages s l) g = inPool s g := by
  have hblk (b : Nat) : getBlk (touchPages s l) b = getBlk s b := by
    rw [getBlk, touchPages_eq, modPages_blk]
    rfl
  simp only [inPool, touchPages_frame, hblk]

/-! ### PREFER_UNDER, PIN and WILLNEED -/

theorem leaveAll_page (s : State) (t : Sec) (o : Nat) (l : List Nat) (g : Nat) : getPage (leaveAll s t o l) g = getPage s g := by
  induction l generalizing s with
  | nil => rfl
  | cons k l ih =>
    rw [leaveAll, List.foldl_cons, ← leaveAll, ih]
    split
    · rfl
    · rfl

theorem leaveAll_moves {s : State} {t : Sec} {o : Nat} {l : List Nat} {g : Nat} (hg : g ∈ l) (hres : (getPage s g).frame.isSome = true) :
    ∃ m ∈ (leaveAll s t o l).tiers.moves, m.page = g := by
  refine foldl_establishes (I := fun u => getPage u g = getPage s g) (k := g) (Q := fun u => ∃ m ∈ u.tiers.moves, m.page = g)
    hg rfl (fun u k hu => ?_) (fun u hu => ?_) (fun u k _ ⟨m, hm, hpage⟩ => ?_)
  · split
    · exact hu
    · exact hu
  · rw [hu, hres, Bool.true_and]
    split
    · exact ⟨_, addMove_mem u _, rfl⟩
    next hmoving =>
      obtain ⟨m, hm, hpage⟩ := List.any_eq_true.1 (by simpa using hmoving : u.tiers.moves.any (fun m => m.page == g) = true)
      exact ⟨m, hm, beq_iff_eq.1 hpage⟩
  · split
    · exact ⟨m, List.mem_append_left _ hm, hpage⟩
    · exact ⟨m, hm, hpage⟩

theorem ownFrames_of_own {s : State} {t : Sec} {o : Nat} {l : List Nat} (h : ∀ g ∈ l, inPool s g = false) :
    ownFrames s t o l = some s := by
  induction l with
  | nil => rfl
  | cons g l ih =>
    rw [ownFrames, h g List.mem_cons_self, Bool.not_false, if_pos rfl]
    exact ih fun k hk => h k (List.mem_cons_of_mem _ hk)

theorem startAll_of_resident {s : State} {t : Sec} {o : Option Nat} {keep l : List Nat} (h : ∀ g ∈ l, (getPage s g).frame.isSome = true) :
    startAll s t o keep l = some s := by
  induction l with
  | nil => rfl
  | cons g l ih =>
    have hres : startResident s t o keep g = some s := by
      rw [startResident, h g List.mem_cons_self, Bool.true_or]
      rfl
    rw [startAll, hres]
    exact ih fun k hk => h k (List.mem_cons_of_mem _ hk)

/-! ### What each hint does (Table 6.11) -/

/-- R207: the page as PREFER_CANOPY, PREFER_UNDER, UNPIN or COLD leaves it. -/
def Page.hintedBy (q : Page) (kind frame : Nat) (pool : Bool) : Page :=
  { q with
    bound := if kind = 1 then true else if kind = 2 then false else q.bound
    pinned := if kind = 4 then false else q.pinned
    age := if kind = 6 ∧ pool = true then 0 else frame }

/-- R207: PREFER_CANOPY, PREFER_UNDER, UNPIN and COLD complete at once, with their pages changed. -/
theorem hintDo_plain (s : State) (t : Sec) (c : Cmd) {kind : Nat} (hkind : kind = 1 ∨ kind = 2 ∨ kind = 4 ∨ kind = 6) (l : List Nat) :
    ∃ w, Frame [.tiers, .hif] (touchPages s l) w ∧ hintDo (touchPages s l) t c kind l = completeRead w t c stOk 0 0 ∧
      (∀ g, getPage w g = if g ∈ l then (getPage s g).hintedBy kind (frameOf s) (inPool s g) else getPage s g) ∧
      (kind = 2 → ∀ g ∈ l, (getPage s g).frame.isSome = true → ∃ m ∈ w.tiers.moves, m.page = g) := by
  have hmod (l' : List Nat) (f : Page → Page) : Frame [.tiers, .hif] (touchPages s l) (modPages (touchPages s l) l' f) :=
    modPages_only ((closedOn_frame _ _).sub (by decide)) _ _ _ (Frame.refl _ _)
  rcases hkind with rfl | rfl | rfl | rfl
  · refine ⟨_, hmod l _, rfl, fun g => ?_, fun h => absurd h (by decide)⟩
    rw [getPage_modPages (by exact fun _ => rfl), getPage_touchPages]
    split
    · rfl
    · rfl
  · refine ⟨_, leaveAll_only (closedOn_frame _ _) _ t c.ord l (hmod l _), rfl, fun g => ?_, fun _ g hg hres => leaveAll_moves hg ?_⟩
    · rw [leaveAll_page, getPage_modPages (by exact fun _ => rfl), getPage_touchPages]
      split
      · rfl
      · rfl
    · rw [getPage_modPages (by exact fun _ => rfl), if_pos hg]
      simpa using hres
  · refine ⟨_, hmod l _, rfl, fun g => ?_, fun h => absurd h (by decide)⟩
    rw [getPage_modPages (by exact fun _ => rfl), getPage_touchPages]
    split
    · rfl
    · rfl
  · refine ⟨_, hmod _ _, rfl, fun g => ?_, fun h => absurd h (by decide)⟩
    rw [getPage_modPages (by exact fun _ => rfl), getPage_touchPages]
    simp only [List.mem_filter, inPool_touchPages]
    by_cases hg : g ∈ l
    · cases hpool : inPool s g with
      | true => simp [hg, Page.hintedBy]
      | false => simp [hg, Page.hintedBy]
    · simp [hg]

/-- R207: PIN pins the resident pages at once where none moves or lies in the pool; else it waits for them, or finds no frames. -/
theorem hintDo_pin (s : State) (t : Sec) (c : Cmd) (l : List Nat) :
    (ownFrames s t c.ord l = none ∧ hintDo s t c 3 l = completeRead s t c stQuota 0 0) ∨
    (∃ u, Frame [.tiers, .hif] s u ∧ ownFrames s t c.ord l = some u ∧
      hintDo s t c 3 l = takeIn u t { c with pages := [], job := .pin (l.filter fun g => (getPage s g).frame.isSome) } ∧
      ∃ g ∈ l, ∃ m ∈ u.tiers.moves, m.page = g) ∨
    (∃ u, Frame [.tiers, .hif] s u ∧ ownFrames s t c.ord l = some u ∧
      hintDo s t c 3 l =
        completeRead (modPages u (l.filter fun g => (getPage s g).frame.isSome) (fun q => { q with pinned := true })) t c stOk 0 0) := by
  have heq : hintDo s t c 3 l = (match ownFrames s t c.ord l with
    | none => completeRead s t c stQuota 0 0
    | some u =>
      let here := l.filter (fun g => (getPage s g).frame.isSome)
      if here.any (fun g => u.tiers.moves.any (fun m => m.page == g)) then takeIn u t { c with pages := [], job := .pin here }
      else completeRead (modPages u here (fun q => { q with pinned := true })) t c stOk 0 0) := rfl
  rw [heq]
  cases hown : ownFrames s t c.ord l with
  | none => exact .inl ⟨rfl, rfl⟩
  | some u =>
    have hframe : Frame [.tiers, .hif] s u := ownFrames_only (closedOn_frame _ s) (Frame.refl _ s) hown
    dsimp only
    split
    next hmoving =>
      obtain ⟨g, hg, hm⟩ := List.any_eq_true.1 hmoving
      obtain ⟨m, hm, hpage⟩ := List.any_eq_true.1 hm
      exact .inr (.inl ⟨u, hframe, rfl, rfl, g, (List.mem_filter.1 hg).1, m, hm, beq_iff_eq.1 hpage⟩)
    next => exact .inr (.inr ⟨u, hframe, rfl, rfl⟩)

/-- R207: WILLNEED completes where every bound page is resident. -/
theorem hintDo_willneed {s : State} {l : List Nat} (h : ∀ g ∈ l, (getPage s g).bound = true → (getPage s g).frame.isSome = true)
    (t : Sec) (c : Cmd) : hintDo s t c 5 l = completeRead s t c stOk 0 0 := by
  have heq : hintDo s t c 5 l = (match startAll s t (some c.ord) l (l.filter (fun g => (getPage s g).bound)) with
    | none => completeRead s t c stQuota 0 0
    | some u => completeRead u t c stOk 0 0) := rfl
  rw [heq, startAll_of_resident fun g hg => h g (List.mem_filter.1 hg).1 (List.mem_filter.1 hg).2]

/-- Settles O30. -/
theorem migratesAndHintsActOnTheirPages : Obligations.MigratesAndHintsActOnTheirPages := by
  refine ⟨fun s p d h => migrate_acts s p d h, fun s p d c hc h => ?_⟩
  obtain ⟨rings, trace, out, seq, hexec⟩ := exec_hint hc h
  cases hcheck : pageCheck s (secOf p) d (pgKind d == 5) with
  | some st =>
    rw [hcheck] at hexec
    have hrec := records_of_completeRead (L := [.rings, .cmds, .recs, .colls, .trace, .out, .seq]) hexec
      (frame_of_read s rings trace out seq |>.mono (by decide)) rfl rfl (by decide) (.inl rfl)
    rwa [shownResult_zero] at hrec
  | none =>
    rw [hcheck] at hexec
    dsimp only at hexec ⊢
    have hsame : Frame [.tiers, .hif] (hinted s d rings trace out seq) (hinted s d rings trace out seq) := Frame.refl _ _
    have hframes (g : Nat) : (getPage (hinted s d rings trace out seq) g).frame = (getPage s g).frame := touchPages_frame _ _ g
    refine ⟨fun hkind => ?_, fun hkind hstill => ?_, fun hkind => ?_, fun hkind hres => ?_⟩
    · obtain ⟨w, hw, hdo, hpages, hmoves⟩ := hintDo_plain (s.afterRead rings trace out seq) (secOf p) (readCmd s p 7 d none 0) hkind (pgList d)
      rw [hdo] at hexec
      refine ⟨records_of_hinted hw hexec, effects_of_hinted hw hexec fun u hu => ⟨fun g hg => ?_, fun g hg => ⟨?_, fun htwo hfr => ?_⟩⟩⟩
      · rw [getPage_of_tiers hu, hpages, if_neg hg]
        rfl
      · rw [getPage_of_tiers hu, hpages, if_pos hg]
        rfl
      · rw [hu]
        exact hmoves htwo g hg hfr
    · rw [hkind] at hexec
      have hown : ownFrames (hinted s d rings trace out seq) (secOf p) s.seq (pgList d) = some (hinted s d rings trace out seq) :=
        ownFrames_of_own fun g hg => (inPool_touchPages _ _ g).trans (hstill g hg).1
      have hmoves : (hinted s d rings trace out seq).tiers.moves = s.tiers.moves := touchPages_moves _ _
      rcases hintDo_pin (hinted s d rings trace out seq) (secOf p) (readCmd s p 7 d none 0) (pgList d) with
        ⟨hnone, -⟩ | ⟨u, -, hu, -, g, hg, m, hm, hpage⟩ | ⟨u, -, hu, hdo⟩
      · cases hnone.symm.trans hown
      · obtain rfl : _ = u := Option.some.inj (hown.symm.trans hu)
        rw [hmoves] at hm
        exact absurd hpage ((hstill g hg).2 m hm)
      · obtain rfl : _ = u := Option.some.inj (hown.symm.trans hu)
        rw [hdo] at hexec
        have hpin : Frame [.tiers, .hif] (hinted s d rings trace out seq) (modPages (hinted s d rings trace out seq)
            ((pgList d).filter fun g => (getPage (hinted s d rings trace out seq) g).frame.isSome) (fun q => { q with pinned := true })) :=
          modPages_only ((closedOn_frame _ _).sub (by decide)) _ _ _ hsame
        refine ⟨records_of_hinted hpin hexec, effects_of_hinted hpin hexec fun u hu g hg => ?_⟩
        rw [getPage_of_tiers hu, getPage_modPages (by exact fun _ => rfl)]
        simp only [List.mem_filter, hframes, hg, true_and]
        have hpinned : (getPage (hinted s d rings trace out seq) g).pinned = (getPage s g).pinned := by
          rw [getPage_touchPages, if_pos hg]
          rfl
        split
        next hres => rw [hres, Bool.or_true]
        next hres => rw [hpinned, Bool.not_eq_true _ |>.mp hres, Bool.or_false]
    · rw [hkind] at hexec
      rcases hintDo_pin (hinted s d rings trace out seq) (secOf p) (readCmd s p 7 d none 0) (pgList d) with
        ⟨-, hdo⟩ | ⟨u, hu, -, hdo, -⟩ | ⟨u, hu, -, hdo⟩
      · rw [hdo] at hexec
        obtain ⟨v, hgives, hrecs, hframe⟩ := records_of_hinted hsame hexec
        exact ⟨v, hgives, .inr (.inr hrecs), hframe⟩
      · rw [hdo] at hexec
        refine ⟨_, hexec, .inl ?_, ?_⟩
        · simp only [hframes]
          exact inFlight_takeIn u (secOf p) _
        · exact takeIn_only ((closedOn_frame _ _).sub (by decide)) _ _ _ ((hinted_frame hu).mono (by decide))
      · rw [hdo] at hexec
        obtain ⟨v, hgives, hrecs, hframe⟩ := records_of_hinted
          (modPages_only ((closedOn_frame _ _).sub (by decide)) _ _ _ hu) hexec
        exact ⟨v, hgives, .inr (.inl hrecs), hframe⟩
    · rw [hkind, hintDo_willneed fun g hg => ?_] at hexec
      · exact records_of_hinted hsame hexec
      · rw [hframes, getPage_touchPages, if_pos hg]
        exact hres g hg

end Sys2Proof.Machine
end

section
/-!
PROOFS. RESHARD: admission and start (R305, R343, R407).
-/
namespace Sys2Proof.Machine

/-- What the read of a RESHARD may change. -/
abbrev reshardPieces : List Piece := [.sect, .rings, .cmds, .recs, .colls, .tiers, .hif, .ward, .trace, .out, .seq]

/-! ### The checks do not see the read -/

section
variable {s : State} {trace : Four Trace} (h : SameSetup s.trace trace) (rings : Sparse Ring) (out : List Out) (seq : Nat)

theorem rsMembers_read (x : Coll) : rsMembers (s.afterRead rings trace out seq) x = rsMembers s x := by
  unfold rsMembers
  rw [show rdDevBytes (s.afterRead rings trace out seq) = rdDevBytes s from rfl]

theorem rsMoveMem_read (x : Coll) : rsMoveMem (s.afterRead rings trace out seq) x = rsMoveMem s x := by
  unfold rsMoveMem
  rw [show rdDevBytes (s.afterRead rings trace out seq) = rdDevBytes s from rfl]

theorem rsMoves_read (x : Coll) : rsMoves (s.afterRead rings trace out seq) x = rsMoves s x := by
  unfold rsMoves
  rw [rsMoveMem_read]

include h

theorem rsCheck_read (t : Sec) (g : Image) (x : Coll) : rsCheck (s.afterRead rings trace out seq) t g x = rsCheck s t g x := by
  have hhole : touchesHole (s.afterRead rings trace out seq) = touchesHole s := rfl
  simp only [rsCheck, reach_read h, rsMembers_read, rsMoveMem_read, rsMoves_read, hhole]

end

theorem exec_reshard {s : State} {p : Pair} {d : Desc} (h : Reads (.reshard p d) s p 0x0C d) :
    ∃ rings trace out seq, SameSetup s.trace trace ∧ exec (.reshard p d) s = .next (
      match s.images.get (secOf p) with
      | none => completeRead (s.afterRead rings trace out seq) (secOf p) (readCmd s p 0x0C d none 0) stBad 0 0
      | some g =>
        if !rsAllowed s (secOf p) then
          completeRead (s.afterRead rings trace out seq) (secOf p) (readCmd s p 0x0C d none 0) stAborted 0 0
        else
          match rsCheck s (secOf p) g (rsColl d) with
          | some st => completeRead (s.afterRead rings trace out seq) (secOf p) (readCmd s p 0x0C d none 0) st 0 0
          | none =>
            if !startFits s (secOf p) (rsStart d) then
              completeRead (capLate (s.afterRead rings trace out seq) (secOf p) (rsStart d) (ringIx p)) (secOf p)
                (readCmd s p 0x0C d none 0) stOverrun 5 0
            else admitReshard (s.afterRead rings trace out seq) (secOf p) d (readCmd s p 0x0C d none 0) g (rsColl d)) := by
  obtain ⟨hform, hread⟩ := h
  obtain ⟨hcan, hcard⟩ := (readsNow_iff s p d).1 hread
  have hok : rsForm d = true := by
    have heq := (rfl : ringForm s (.reshard p d) = some (p, 0x0C, d, rsForm d)).symm.trans hform
    injection heq with heq
    injection heq with _ heq
    injection heq with _ heq
    injection heq
  obtain ⟨rings, trace, out, seq, hsetup, hexec⟩ := exec_of_read (c := .reshard p d) rfl hcan (.inl hcard) (fun _ _ _ _ => hok)
  refine ⟨rings, trace, out, seq, hsetup, hexec.trans (congrArg Host.Outcome.next ?_)⟩
  dsimp only
  cases s.images.get (secOf p) with
  | none => rfl
  | some g =>
    dsimp only
    rw [rsCheck_read hsetup] <;> rfl

/-! ### Admission -/

/-- R208, R377: a RESHARD that has passed its checks is admitted, unless a frame is lacking for a canopy-bound page. -/
theorem admitReshard_cases (v : State) (t : Sec) (d : Desc) (c : Cmd) (g : Image) (x : Coll) :
    (InFlight (admitReshard v t d c g x) t c.ord (.reshard ⟨x, rsMembers v x, rsMoves v x, rsStart d, false⟩) ∧
      Frame [.cmds, .tiers, .hif] v (admitReshard v t d c g x)) ∨
    (admitReshard v t d c g x = completeRead v t c stQuota 0 0 ∧
      ¬ ∀ r ∈ rsReads g x ++ rsWrites g x, ∀ k ∈ pagesIn v t r.1 (r.1 + r.2), (getPage v k).bound = false) := by
  unfold admitReshard
  dsimp only
  cases hres : makeResident v t c.ord _ with
  | none =>
    refine .inr ⟨rfl, fun hfree => ?_⟩
    rw [makeResident_of_unbound fun k hk => ?_] at hres
    · cases hres
    · obtain ⟨r, hr, hk⟩ := List.mem_flatMap.1 (List.mem_eraseDups.1 hk)
      exact hfree r hr k hk
  | some u =>
    have hu : Frame [.tiers, .hif] v u := makeResident_only (closedOn_frame _ v) (Frame.refl _ v) hres
    have hclosed : ClosedOn (fun u => InFlight u t c.ord (.reshard ⟨x, rsMembers v x, rsMoves v x, rsStart d, false⟩)) [.tiers, .hif] :=
      closedOn_of_frame fun _ _ hin hsame => inFlight_of_frame hin hsame (by decide)
    refine .inl ⟨?_, ?_⟩
    · exact addRecalls_only (hclosed.sub (by decide)) _ _ _ _ <| touchPages_only (hclosed.sub (by decide)) _ _ <|
        inFlight_takeIn u t _
    · have hc := closedOn_frame [.cmds, .tiers, .hif] v
      exact addRecalls_only (hc.sub (by decide)) _ _ _ _ <| touchPages_only (hc.sub (by decide)) _ _ <|
        takeIn_only (hc.sub (by decide)) _ _ _ (hu.mono (by decide))

/-! ### Start -/

theorem dueReshard_mem {s : State} {t : Sec} {c : Cmd} {r : ReshardJob} (h : dueReshard s t = some (c, r)) :
    c ∈ getCmds s t ∧ c.job = .reshard r := by
  unfold dueReshard at h
  split at h
  · cases h
  · obtain ⟨x, hx, hmatch⟩ := List.exists_of_findSome?_eq_some h
    cases hjob : x.job with
    | reshard y =>
      rw [hjob] at hmatch
      dsimp only at hmatch
      split at hmatch
      · obtain ⟨rfl, rfl⟩ : x = c ∧ y = r := by simpa using hmatch
        exact ⟨hx, hjob⟩
      · cases hmatch
    | _ =>
      rw [hjob] at hmatch
      cases hmatch

theorem reshard_starts {s : State} {t : Sec} {c : Cmd} {r : ReshardJob} (hdue : dueReshard s t = some (c, r))
    (hpages : residencyDone s c = true) (hrecalls : recallsDone s t c = true) :
    ∃ v, InFlight v t c.ord (.reshard { r with started := true }) ∧ Frame [.cmds, .out] s v ∧
      Gives (.reshardStart t) s (pumpSection v t) := by
  refine ⟨modCmd (begin s) t c.ord (fun c => { c with job := .reshard { r with started := true } }), ?_, ?_, ?_⟩
  · obtain ⟨hmem, -⟩ := dueReshard_mem hdue
    refine ⟨{ c with job := .reshard { r with started := true } }, ?_, rfl, rfl⟩
    rw [modCmd, getCmds_setCmds, if_pos rfl]
    exact List.mem_map.2 ⟨c, hmem, if_pos (beq_self_eq_true _)⟩
  · exact modCmd_only ((closedOn_frame _ _).sub (by decide)) _ _ _ _ (begin_frame (by decide) s)
  · have hexec : exec (.reshardStart t) s = execReshardStart t s := rfl
    rw [Gives, hexec, execReshardStart, show dueReshard (begin s) t = some (c, r) from hdue]
    refine congrArg Host.Outcome.next (if_neg ?_)
    rw [show residencyDone (begin s) c = true from hpages, show recallsDone (begin s) t c = true from hrecalls]
    decide

/-- Settles O33. -/
theorem reshardsAreAdmittedAndStart : Obligations.ReshardsAreAdmittedAndStart := by
  refine ⟨fun s p d h => ?_, fun s t c r hdue hpages hrecalls => reshard_starts hdue hpages hrecalls⟩
  intro t L
  obtain ⟨rings, trace, out, seq, hsetup, hexec⟩ := exec_reshard h
  have hframe : Frame L s (s.afterRead rings trace out seq) := (frame_of_read s rings trace out seq).mono (by decide)
  have hrefuse {st : BitVec 8} (hexec : exec (.reshard p d) s = .next (completeRead (s.afterRead rings trace out seq) (secOf p)
      (readCmd s p 0x0C d none 0) st 0 0)) : Records (.reshard p d) s (readRec s p 0x0C d st 0 0) L := by
    have hrec := records_of_completeRead hexec hframe rfl rfl (by decide) (.inl rfl)
    rwa [shownResult_zero] at hrec
  cases himage : s.images.get t with
  | none =>
    rw [show s.images.get (secOf p) = none from himage] at hexec
    exact hrefuse hexec
  | some g =>
    rw [show s.images.get (secOf p) = some g from himage] at hexec
    dsimp only at hexec ⊢
    refine ⟨fun hnot => hrefuse (hexec.trans (congrArg Host.Outcome.next (if_pos ?_))), fun hallowed => ?_⟩
    · rw [hnot]
      rfl
    rw [show rsAllowed s (secOf p) = true from hallowed, Bool.not_true, if_neg Bool.false_ne_true] at hexec
    cases hcheck : rsCheck s t g (rsColl d) with
    | some st =>
      rw [show rsCheck s (secOf p) g (rsColl d) = some st from hcheck] at hexec
      exact hrefuse hexec
    | none =>
      rw [show rsCheck s (secOf p) g (rsColl d) = none from hcheck] at hexec
      dsimp only at hexec ⊢
      refine ⟨fun hlate => ?_, fun hfits => ?_⟩
      · rw [show startFits s (secOf p) (rsStart d) = false from hlate, Bool.not_false, if_pos rfl] at hexec
        have hcap : Frame [.sect, .ward, .trace, .out] (s.afterRead rings trace out seq)
            (capLate (s.afterRead rings trace out seq) (secOf p) (rsStart d) (ringIx p)) :=
          capLate_only (closedOn_frame _ _) _ _ _ _ (Frame.refl _ _)
        have hrec := records_of_completeRead (L := L) hexec (hframe.trans (hcap.mono (by decide))) (hcap.2 .recs (by decide))
          (hcap.2 .time (by decide)) (by decide) (.inl rfl)
        rwa [shownResult_zero] at hrec
      · rw [show startFits s (secOf p) (rsStart d) = true from hfits, Bool.not_true, if_neg Bool.false_ne_true] at hexec
        rcases admitReshard_cases (s.afterRead rings trace out seq) (secOf p) d (readCmd s p 0x0C d none 0) g (rsColl d) with
          ⟨hin, hkept⟩ | ⟨hquota, hbound⟩
        · rw [rsMembers_read, rsMoves_read] at hin
          have hadmit : Admits (.reshard p d) s t s.seq
              (.reshard ⟨rsColl d, rsMembers s (rsColl d), rsMoves s (rsColl d), rsStart d, false⟩) L :=
            ⟨_, hexec, hin, hframe.trans (hkept.mono (by decide))⟩
          exact ⟨.inl hadmit, fun _ => hadmit⟩
        · exact ⟨.inr (hrefuse (hexec.trans (congrArg Host.Outcome.next hquota))), fun hfree => absurd hfree hbound⟩

end Sys2Proof.Machine
end
